-- ==== Sys2Proof/Word.lean ====
section
/-! DEFINITION. Words of the N9 and vectors of 32 lanes. -/

namespace Sys2Proof

abbrev Word := BitVec 32
abbrev Byte := BitVec 8
abbrev Dword := BitVec 64
/-- One bit per lane. -/
abbrev Mask := BitVec 32
/-- A register image: 32 lanes of 32 bits, 128 bytes (R46). -/
abbrev Lanes := Vector Word 32

/-- Lane L of a register image; a lane number above 31 reads zero. -/
def lane (v : Lanes) (L : Nat) : Word := v.toArray.toList.getD L 0

/-- The image whose lane L is f L. -/
def lanesOf (f : Nat → Word) : Lanes := ⟨((List.range 32).map f).toArray, by simp⟩

@[simp] theorem lane_lanesOf (f : Nat → Word) (L : Nat) (h : L < 32) : lane (lanesOf f) L = f L := by
  simp [lane, lanesOf, h]

/-- The same word in every lane. -/
def splat (w : Word) : Lanes := lanesOf fun _ => w

@[simp] theorem lane_splat (w : Word) (L : Nat) (h : L < 32) : lane (splat w) L = w := by simp [splat, h]

/-- Lane numbers in ascending order. -/
def laneNos : List Nat := List.range 32

/-- The lanes of a mask, ascending. -/
def maskLanes (m : Mask) : List Nat := laneNos.filter fun L => m.getLsbD L

/-- The mask that holds lane L where p holds. -/
def maskOf (p : Nat → Bool) : Mask :=
  laneNos.foldl (fun m L => if p L then m ||| (1#32 <<< L) else m) 0

/-- New lanes where the mask is set, old lanes elsewhere (R58). -/
def mergeLanes (m : Mask) (new old : Lanes) : Lanes := lanesOf fun L => if m.getLsbD L then lane new L else lane old L

/-- Bits [lo + n - 1 : lo] of a value, as a number. -/
def bits {w : Nat} (x : BitVec w) (lo n : Nat) : Nat := x.toNat / 2 ^ lo % 2 ^ n

/-- The unsigned value of a list of bytes, least significant first. -/
def leNat : List Byte → Nat
  | [] => 0
  | b :: bs => b.toNat + 256 * leNat bs

/-- The n low bytes of a number, least significant first. -/
def leBytes (x : Nat) : Nat → List Byte
  | 0 => []
  | n + 1 => BitVec.ofNat 8 x :: leBytes (x / 256) n

/-- The bit of a single-bit field. -/
def on (b : BitVec 1) : Bool := b == 1#1

/-- Element i of a vector, or d outside it. -/
def look {α : Type} {n : Nat} (v : Vector α n) (d : α) (i : Nat) : α := v.toList.getD i d

/-- The vector with element i replaced; unchanged outside its bounds. -/
def put {α : Type} {n : Nat} (v : Vector α n) (i : Nat) (a : α) : Vector α n := ⟨(v.toList.set i a).toArray, by simp⟩

@[simp] theorem look_put_self {α : Type} {n : Nat} (v : Vector α n) (d a : α) (i : Nat) (h : i < n) :
    look (put v i a) d i = a := by
  simp [look, put, Vector.toList, List.getD, h]

@[simp] theorem look_put_of_ne {α : Type} {n : Nat} (v : Vector α n) (d a : α) (i j : Nat) (h : i ≠ j) :
    look (put v i a) d j = look v d j := by
  simp [look, put, Vector.toList, List.getD, h]

/-- The list with its element i replaced by f of it. -/
def modifyAt {α : Type} (f : α → α) : Nat → List α → List α
  | _, [] => []
  | 0, a :: l => f a :: l
  | n + 1, a :: l => a :: modifyAt f n l

/-- The list with f applied to its first element that satisfies p. -/
def modifyFirst {α : Type} (p : α → Bool) (f : α → α) : List α → List α
  | [] => []
  | a :: l => if p a then f a :: l else a :: modifyFirst p f l

/-- The number of bits of a mask that are set. -/
def popcount {w : Nat} (m : BitVec w) : Nat := ((List.range w).filter fun i => m.getLsbD i).length

/-- The mask of lane L alone. -/
def bitMask (L : Nat) : Mask := 1#32 <<< L

/-- The least lane of a mask. -/
def lowest (m : Mask) : Option Nat := (maskLanes m).head?

/-- An element put before the first one that it does not follow. -/
def insertBy {α : Type} (le : α → α → Bool) (a : α) : List α → List α
  | [] => [a]
  | b :: l => if le a b then a :: b :: l else b :: insertBy le a l

/-- A list sorted stably by an order. -/
def sortBy {α : Type} (le : α → α → Bool) (l : List α) : List α := l.foldr (insertBy le) []

end Sys2Proof
end

