-- ==== Sys2Proof/Syntax.lean ====
section
/-! DEFINITION. The syntax of Shoviop: format tags, register operands, and one constructor of Instr per row of
spec/opcode_table.json (164 instruction words, ILLEGAL_WORD and 75 happenings of the machine). -/

namespace Sys2Proof

/-- The 32 format tags of Table 5-1 (R72), in code order. -/
inductive Tag where
  | raw | fp32 | fp64 | fp16 | bf16 | fp19 | fp8a | fp8b | fp6a | fp6b | fp4
  | i32 | n32 | i16 | n16 | i8 | n8 | i4 | n4 | i2 | n1
  | rs6 | rp6 | rs8 | rp8 | rs12 | rp12 | rs16 | rp16 | ix4 | ix8 | rw
deriving DecidableEq, Repr, Inhabited

/-- A vector-class register field (R48, left column of Table 4-2). -/
inductive VOp where
  | v (n : BitVec 6) | oc (n : BitVec 4) | latch (n : BitVec 3) | s (n : BitVec 5)
  | zero | lane | lit | tid | wid | cc | time | void
deriving DecidableEq, Repr, Inhabited

/-- A scalar-class register field (R48, right column of Table 4-2). -/
inductive SOp where
  | s (n : Fin 120)
  | zero | lane | lit | tid | wid | cc | time | void
deriving DecidableEq, Repr, Inhabited

/-- What the host asks of a BAR4 or CXL.mem access (R351, R352). -/
inductive HostOp where
  | read | write | fetchAdd | swap | cas (compare : BitVec 64)
deriving DecidableEq, Repr, Inhabited

/-- One constructor per row of spec/opcode_table.json. An instruction's arguments are its word's fields; an event's
arguments name the unit it happens in: h is a team handle, w a warp index, id an operation in flight. -/
inductive Instr where
  /-- NOP (R103). Does nothing; enters the result window as an invalid entry. -/
  | nop
  /-- YIELD (R33). Ends the warp's run, drains the window and invalidates latches and operand cache. -/
  | yield
  /-- LIT (R104). Loads the literal register with a sign-extended 24-bit value. -/
  | lit (v : BitVec 24)
  /-- LIT_HI (R104). Sets bits 31:24 of the literal register and keeps the rest. -/
  | litHi (b : BitVec 8)
  /-- BLK (R106). Marks a block with a priority and an optional function register budget. -/
  | blk (r : BitVec 8) (p : BitVec 8)
  /-- IADD (R113). Adds per element, wrapping, saturating or with carry as f selects. -/
  | iadd (d : VOp) (a : VOp) (b : VOp) (da : BitVec 1) (db : BitVec 1) (f : BitVec 2)
  /-- ISUB (R113). Subtracts per element, wrapping, saturating or with borrow as f selects. -/
  | isub (d : VOp) (a : VOp) (b : VOp) (da : BitVec 1) (db : BitVec 1) (f : BitVec 2)
  /-- IMUL (R113). Multiplies per element, giving the low half, high half or a saturated product. -/
  | imul (d : VOp) (a : VOp) (b : VOp) (da : BitVec 1) (db : BitVec 1) (f : BitVec 2)
  /-- IMAD (R113). Multiplies and adds the accumulator D per element. -/
  | imad (d : VOp) (a : VOp) (b : VOp) (da : BitVec 1) (db : BitVec 1) (f : BitVec 2)
  /-- IMIN (R113). Takes the signed or unsigned minimum per element. -/
  | imin (d : VOp) (a : VOp) (b : VOp) (da : BitVec 1) (db : BitVec 1) (f : BitVec 2)
  /-- IMAX (R113). Takes the signed or unsigned maximum per element. -/
  | imax (d : VOp) (a : VOp) (b : VOp) (da : BitVec 1) (db : BitVec 1) (f : BitVec 2)
  /-- IABS (R113). Takes the signed absolute value per element, wrapping or saturating. -/
  | iabs (d : VOp) (a : VOp) (da : BitVec 1) (f : BitVec 2)
  /-- AND_FAMILY (R114). Performs AND, ANDN or NAND on the lane values. -/
  | andFam (d : VOp) (a : VOp) (b : VOp) (da : BitVec 1) (db : BitVec 1) (f : BitVec 2)
  /-- OR_FAMILY (R114). Performs OR, ORN or NOR on the lane values. -/
  | orFam (d : VOp) (a : VOp) (b : VOp) (da : BitVec 1) (db : BitVec 1) (f : BitVec 2)
  /-- XOR_FAMILY (R114). Performs XOR or XNOR on the lane values. -/
  | xorFam (d : VOp) (a : VOp) (b : VOp) (da : BitVec 1) (db : BitVec 1) (f : BitVec 2)
  /-- SHIFT_FAMILY (R114). Shifts left, right logical or right arithmetic, or rotates, by B[4:0]. -/
  | shiftFam (d : VOp) (a : VOp) (b : VOp) (da : BitVec 1) (db : BitVec 1) (f : BitVec 2)
  /-- BFX (R114). Extracts a bit field, zero- or sign-extended. -/
  | bfx (d : VOp) (a : VOp) (b : VOp) (da : BitVec 1) (db : BitVec 1) (f : BitVec 2)
  /-- BFI (R114). Inserts a field of A into base D. -/
  | bfi (d : VOp) (a : VOp) (b : VOp) (da : BitVec 1) (db : BitVec 1) (f : BitVec 2)
  /-- BIT_FAMILY (R114). Computes POPC, CLZ, BREV or CTZ of each lane. -/
  | bitFam (d : VOp) (a : VOp) (da : BitVec 1) (f : BitVec 2)
  /-- ICMP (R115). Compares signed and writes all-ones or zero and the lane cc. -/
  | icmp (d : VOp) (a : VOp) (b : VOp) (da : BitVec 1) (db : BitVec 1) (f : BitVec 2)
  /-- ICMPN (R115). Compares unsigned, LT or LE, and writes the result and the lane cc. -/
  | icmpn (d : VOp) (a : VOp) (b : VOp) (da : BitVec 1) (db : BitVec 1) (f : BitVec 2)
  /-- SEL (R116). Selects A or B per lane by the lane cc. -/
  | sel (d : VOp) (a : VOp) (b : VOp) (da : BitVec 1) (db : BitVec 1)
  /-- LEA (R113). Computes a + (b << s), wrapping to 32 bits. -/
  | lea (d : VOp) (a : VOp) (b : VOp) (da : BitVec 1) (db : BitVec 1) (f : BitVec 2)
  /-- IADDW_ISUBW (R117). Adds or subtracts 64-bit register pairs and sets cc to the carry or borrow. -/
  | addsubw (d : VOp) (a : VOp) (b : VOp) (da : BitVec 1) (db : BitVec 1) (f : BitVec 2)
  /-- MULW (R117). Writes the full 64-bit product of two 32-bit sources, signed or unsigned. -/
  | mulw (d : VOp) (a : VOp) (b : VOp) (da : BitVec 1) (db : BitVec 1) (f : BitVec 2)
  /-- IDIV (R118). Divides I32 values, truncating, with a lookahead; faults INTDIV0 on zero. -/
  | idiv (d : VOp) (a : VOp) (b : VOp) (k : BitVec 4)
  /-- NDIV (R118). Divides N32 values with a lookahead; faults INTDIV0 on zero. -/
  | ndiv (d : VOp) (a : VOp) (b : VOp) (k : BitVec 4)
  /-- SHFL (R119). Moves values between the active lanes of the issuing entry. -/
  | shfl (d : VOp) (a : VOp) (b : VOp) (da : BitVec 1) (db : BitVec 1) (f : BitVec 2)
  /-- VOTE (R120). Evaluates ALL, ANY, BALLOT or MATCH over the active lanes. -/
  | vote (d : VOp) (a : VOp) (da : BitVec 1) (f : BitVec 2)
  /-- VRED (R121). Reduces A across the active lanes by add, min, max or or. -/
  | vred (d : VOp) (a : VOp) (da : BitVec 1) (f : BitVec 2)
  /-- IADDI (R123). Adds a signed 10-bit immediate. -/
  | iaddi (d : VOp) (a : VOp) (imm : BitVec 10) (da : BitVec 1)
  /-- IMULI (R123). Multiplies by an immediate and keeps the low 32 bits. -/
  | imuli (d : VOp) (a : VOp) (imm : BitVec 10) (da : BitVec 1)
  /-- ANDI (R123). ANDs with an immediate. -/
  | andi (d : VOp) (a : VOp) (imm : BitVec 10) (da : BitVec 1)
  /-- ORI (R123). ORs with an immediate. -/
  | ori (d : VOp) (a : VOp) (imm : BitVec 10) (da : BitVec 1)
  /-- XORI (R123). XORs with an immediate. -/
  | xori (d : VOp) (a : VOp) (imm : BitVec 10) (da : BitVec 1)
  /-- SHLI (R123). Shifts left by an immediate amount. -/
  | shli (d : VOp) (a : VOp) (m : BitVec 5) (da : BitVec 1)
  /-- SHRI (R123). Shifts right logically by an immediate amount. -/
  | shri (d : VOp) (a : VOp) (m : BitVec 5) (da : BitVec 1)
  /-- SARI (R123). Shifts right arithmetically by an immediate amount. -/
  | sari (d : VOp) (a : VOp) (m : BitVec 5) (da : BitVec 1)
  /-- ICMPIEQ (R123). Compares for equality with an immediate. -/
  | icmpieq (d : VOp) (a : VOp) (imm : BitVec 10) (da : BitVec 1)
  /-- ICMPILT (R123). Compares signed less-than with an immediate. -/
  | icmpilt (d : VOp) (a : VOp) (imm : BitVec 10) (da : BitVec 1)
  /-- ICMPINE (R123). Compares for inequality with an immediate. -/
  | icmpine (d : VOp) (a : VOp) (imm : BitVec 10) (da : BitVec 1)
  /-- MOVI (R123). Writes a sign-extended immediate with tag I32. -/
  | movi (d : VOp) (imm : BitVec 10)
  /-- SADD (R125). Scalar add, wrapping, saturating or with the scalar carry. -/
  | sadd (d : SOp) (a : SOp) (b : SOp) (f : BitVec 2)
  /-- SSUB (R125). Scalar subtract, wrapping, saturating or with the scalar borrow. -/
  | ssub (d : SOp) (a : SOp) (b : SOp) (f : BitVec 2)
  /-- SMUL (R125). Scalar multiply, giving the low or high half. -/
  | smul (d : SOp) (a : SOp) (b : SOp) (f : BitVec 2)
  /-- SLOG (R125). Scalar AND, OR, XOR or ANDN. -/
  | slog (d : SOp) (a : SOp) (b : SOp) (f : BitVec 2)
  /-- SSHF (R125). Scalar shift or rotate by B[4:0]. -/
  | sshf (d : SOp) (a : SOp) (b : SOp) (f : BitVec 2)
  /-- SCMP (R125). Scalar signed compare that sets D and the scalar cc. -/
  | scmp (d : SOp) (a : SOp) (b : SOp) (f : BitVec 2)
  /-- SSEL (R125). Selects A or B by the scalar cc. -/
  | ssel (d : SOp) (a : SOp) (b : SOp)
  /-- SADDI (R125). Scalar add of a signed immediate. -/
  | saddi (d : SOp) (a : SOp) (imm : BitVec 10)
  /-- SMOVI (R125). Writes a signed immediate to a scalar register. -/
  | smovi (d : SOp) (imm : BitVec 10)
  /-- SMINMAX (R125). Scalar signed or unsigned minimum or maximum. -/
  | sminmax (d : SOp) (a : SOp) (b : SOp) (f : BitVec 2)
  /-- SLDC (R126). Reads 32 bits from the launch constant bank into a scalar register. -/
  | sldc (d : SOp) (a : SOp) (b : SOp) (k : BitVec 4)
  /-- SLD (R127). Forks a decoupled 32-bit scalar load into a landing slot. -/
  | sld (d : SOp) (a : SOp) (b : SOp) (k : BitVec 4)
  /-- SST (R128). Stores a 32-bit or 64-bit scalar as one lane of STG. -/
  | sst (d : SOp) (a : SOp) (b : SOp) (w : BitVec 2)
  /-- SGET (R129). Copies one lane of a vector register into a scalar register. -/
  | sget (d : SOp) (a : VOp) (b : VOp)
  /-- FADD (R136). Float add, rounded as f selects. -/
  | fadd (d : VOp) (a : VOp) (b : VOp) (da : BitVec 1) (db : BitVec 1) (f : BitVec 2)
  /-- FSUB (R136). Float subtract, rounded as f selects. -/
  | fsub (d : VOp) (a : VOp) (b : VOp) (da : BitVec 1) (db : BitVec 1) (f : BitVec 2)
  /-- FMUL (R136). Float multiply, rounded as f selects. -/
  | fmul (d : VOp) (a : VOp) (b : VOp) (da : BitVec 1) (db : BitVec 1) (f : BitVec 2)
  /-- FFMA (R136). Fused multiply-add with addend D, rounded once. -/
  | ffma (d : VOp) (a : VOp) (b : VOp) (da : BitVec 1) (db : BitVec 1) (f : BitVec 2)
  /-- FMIN_FMAX (R138). Float minimum or maximum, with a NaN-quiet or NaN-propagating rule. -/
  | fminmax (d : VOp) (a : VOp) (b : VOp) (da : BitVec 1) (db : BitVec 1) (f : BitVec 2)
  /-- FCMP (R139). Float compare EQ, LT, LE or UN that writes all-ones or zero and cc. -/
  | fcmp (d : VOp) (a : VOp) (b : VOp) (da : BitVec 1) (db : BitVec 1) (f : BitVec 2)
  /-- FNEG_FABS_FSGN (R140). Moves sign bits only: negate, clear or copy the sign. -/
  | fsign (d : VOp) (a : VOp) (b : VOp) (da : BitVec 1) (db : BitVec 1) (f : BitVec 2)
  /-- FRCP (R141). Correctly rounded reciprocal with a lookahead. -/
  | frcp (d : VOp) (a : VOp) (k : BitVec 4)
  /-- FRSQ (R141). Correctly rounded reciprocal square root. -/
  | frsq (d : VOp) (a : VOp) (k : BitVec 4)
  /-- FSQRT (R141). Correctly rounded square root. -/
  | fsqrt (d : VOp) (a : VOp) (k : BitVec 4)
  /-- FEXP2 (R141). Correctly rounded 2^a. -/
  | fexp2 (d : VOp) (a : VOp) (k : BitVec 4)
  /-- FLOG2 (R141). Correctly rounded log2 a. -/
  | flog2 (d : VOp) (a : VOp) (k : BitVec 4)
  /-- FSIN (R141). Correctly rounded sine with exact argument reduction. -/
  | fsin (d : VOp) (a : VOp) (k : BitVec 4)
  /-- FCOS (R141). Correctly rounded cosine with exact argument reduction. -/
  | fcos (d : VOp) (a : VOp) (k : BitVec 4)
  /-- FDIV (R141). Correctly rounded division with a lookahead. -/
  | fdiv (d : VOp) (a : VOp) (b : VOp) (k : BitVec 4)
  /-- FDOT2 (R144). Two-element FP16 or BF16 dot product added to FP32 D, rounded once. -/
  | fdot2 (d : VOp) (a : VOp) (b : VOp) (da : BitVec 1) (db : BitVec 1)
  /-- IDOT4 (R145). Four-element 8-bit integer dot product added to I32 D, wrapping or saturating. -/
  | idot4 (d : VOp) (a : VOp) (b : VOp) (da : BitVec 1) (db : BitVec 1) (f : BitVec 2)
  /-- FROUND (R146). Rounds each element to an integral value in its own format. -/
  | fround (d : VOp) (a : VOp) (da : BitVec 1) (f : BitVec 2)
  /-- RADD (R149). Residue add, channel by channel, modulo M. -/
  | radd (d : VOp) (a : VOp) (b : VOp) (da : BitVec 1) (db : BitVec 1)
  /-- RMUL (R149). Residue multiply, channel by channel, modulo M. -/
  | rmul (d : VOp) (a : VOp) (b : VOp) (da : BitVec 1) (db : BitVec 1)
  /-- RMAC (R149). Residue multiply-accumulate of all elements into an RW pair. -/
  | rmac (d : VOp) (a : VOp) (b : VOp) (da : BitVec 1) (db : BitVec 1)
  /-- RNEG (R149). Residue negation modulo M. -/
  | rneg (d : VOp) (a : VOp) (da : BitVec 1)
  /-- RCRT (R150). Decodes a residue element or an RW pair to I32. -/
  | rcrt (d : VOp) (a : VOp) (b : VOp) (da : BitVec 1) (db : BitVec 1) (f : BitVec 2)
  /-- RENC (R151). Encodes a saturated I32 value into a residue format. -/
  | renc (d : VOp) (a : VOp) (g : Tag) (da : BitVec 1)
  /-- CVT (R152). Converts each element to the target tag with the selected rounding. -/
  | cvt (d : VOp) (a : VOp) (r : BitVec 2) (g : Tag) (da : BitVec 1)
  /-- TAG (R153). Retags bits unchanged. -/
  | tag (d : VOp) (a : VOp) (g : Tag) (da : BitVec 1)
  /-- MOV (R154). Moves one register with its tag. -/
  | mov (d : VOp) (a : VOp) (da : BitVec 1)
  /-- MOV_D (R154). Moves a register pair, each register with its own tag. -/
  | movD (d : VOp) (a : VOp) (da : BitVec 1)
  /-- WINB (R155). Sets the vector window base WB to 8q. -/
  | winb (q : BitVec 5)
  /-- SWINB (R155). Sets the scalar window base SWB to 8q. -/
  | swinb (q : BitVec 6)
  /-- GROW (R156). Requests VV granules, blocking or not, and writes a status. -/
  | grow (d : SOp) (blocking : BitVec 1) (g : BitVec 8)
  /-- SHRINK (R66). Releases VV granules from the top of the allocation. -/
  | shrink (d : SOp) (g : BitVec 8)
  /-- OCMOV_RD (R157). Reads an operand-cache slot into a register on all lanes. -/
  | ocmovRd (d : VOp) (b : VOp)
  /-- OCMOV_WR (R157). Writes a register into an operand-cache slot on all lanes. -/
  | ocmovWr (a : VOp) (b : VOp) (da : BitVec 1)
  /-- BRA (R159). Branches unconditionally to PC + 4 + 4·disp. -/
  | bra (u : BitVec 1) (disp : BitVec 17)
  /-- BNZ (R159). Branches the lanes whose condition is non-zero, splitting the entry if they disagree. -/
  | bnz (c : VOp) (u : BitVec 1) (disp : BitVec 17)
  /-- BZ (R159). Branches the lanes whose condition is zero. -/
  | bz (c : VOp) (u : BitVec 1) (disp : BitVec 17)
  /-- CALL (R160). Writes the link pair and jumps to the target. -/
  | call (c : VOp) (disp : BitVec 17)
  /-- CALLR (R162). Calls per-lane targets after checking alignment, target BLKs and budget, optionally growing. -/
  | callr (d : VOp) (a : VOp) (da : BitVec 1) (f : BitVec 2)
  /-- JMPR (R161). Jumps to per-lane 64-bit targets. -/
  | jmpr (a : VOp) (da : BitVec 1)
  /-- RET (R161). Returns to per-lane 64-bit targets. -/
  | ret (a : VOp) (da : BitVec 1)
  /-- EXIT (R163). Removes the issuing lanes from the frontier; the warp departs when no live lane remains. -/
  | exit
  /-- TRY (R164). Opens or joins a warp, team or grid try region. -/
  | tryRegion (f : BitVec 1) (l : BitVec 2) (disp : BitVec 17)
  /-- ENDTRY (R166). Closes a try region, waiting for all members at team or grid level. -/
  | endtry (l : BitVec 2)
  /-- THROW (R167). Throws a software code per active lane to the innermost region. -/
  | throwCode (a : VOp) (da : BitVec 1)
  /-- RETHROW (R183). Rethrows the current record at the level above its own. -/
  | rethrow
  /-- XGET (R168). Reads a word of the current record, a stop PC or the thrower flag. -/
  | xget (d : VOp) (sel : BitVec 10)
  /-- BAR_ARRIVE (R170). Counts the warp as arrived in the barrier's current generation. -/
  | barArrive (b : BitVec 4)
  /-- BAR_WAIT (R170). Waits for the generation of the warp's last arrival to complete. -/
  | barWait (b : BitVec 4)
  /-- BAR_SYNC (R170). Arrives and then waits on a named barrier. -/
  | barSync (b : BitVec 4)
  /-- BAR_COUNT (R170). Reads arrivals, expected count and generation of a barrier. -/
  | barCount (d : VOp) (b : BitVec 4)
  /-- BAR_GRID_SYNC (R41). Arrives and waits on the grid barrier of a cooperative launch. -/
  | barGridSync
  /-- ATTACH (R35). Requests new warps of a role and writes the granted count. -/
  | attach (c : SOp) (disp : BitVec 17)
  /-- DETACH (R173). Removes the warp from its team in one event. -/
  | detach
  /-- LDG_W (R220). Forks a 4-byte-per-lane decoupled global load into a landing slot. -/
  | ldgW (d : VOp) (a : VOp) (b : VOp) (k : BitVec 4)
  /-- LDG_D (R220). Forks an 8-byte-per-lane decoupled global load into a pair. -/
  | ldgD (d : VOp) (a : VOp) (b : VOp) (k : BitVec 4)
  /-- LDG_Q (R220). Forks a 16-byte-per-lane decoupled global load into four registers. -/
  | ldgQ (d : VOp) (a : VOp) (b : VOp) (k : BitVec 4)
  /-- STG (R226). Stores 1, 4, 8 or 16 bytes per lane to global memory. -/
  | stg (d : VOp) (a : VOp) (b : VOp) (w : BitVec 2)
  /-- LDS (R130). Loads a scratchpad word per lane with a lookahead. -/
  | lds (d : VOp) (a : VOp) (b : VOp) (k : BitVec 4)
  /-- STS (R130). Stores a word per lane to scratchpad. -/
  | sts (d : VOp) (a : VOp) (b : VOp)
  /-- ATOM (R229). Executes an atomic operation per lane and returns the old value. -/
  | atom (d : VOp) (a : VOp) (b : VOp) (k : BitVec 4)
  /-- RED (R231). Sends one reduction update per lane to the home. -/
  | red (a : VOp) (b : VOp) (k : BitVec 4)
  /-- COMMIT (R223). Waits for one landing slot, writes its destinations and tags them. -/
  | commit (g : Tag) (slot : BitVec 4)
  /-- COMMIT_ALL (R223). Commits every landing slot in ascending order. -/
  | commitAll (g : Tag)
  /-- FENCE (R234). Performs a release, acquire or full fence at the given scope. -/
  | fence (k : BitVec 2) (scope : BitVec 2)
  /-- MONW (R236). Reads a word at its home and parks the entry until the condition holds or MONTO expires. -/
  | monw (d : VOp) (a : VOp) (b : VOp) (k : BitVec 4)
  /-- CPSTAGE (R272). Forks the schedule entries of the current stage and advances the stage counter. -/
  | cpstage
  /-- CPGO (R273). Forks a copy described in eight scalar registers. -/
  | cpgo (a : SOp)
  /-- CPRED (R274). Forks a reduction copy from scratchpad to global memory. -/
  | cpred (a : SOp) (any : BitVec 1)
  /-- CPCANCEL (R277). Cancels in-flight copies with an id, or all of them. -/
  | cpcancel (id : BitVec 6)
  /-- CPQ (R278). Reports copies in flight, free ranges and the stage counter; joins when none remain. -/
  | cpq (d : SOp) (id : BitVec 6)
  /-- MCONV (R306). Declares an operation in a convergence register with a member mask and tiles. -/
  | mconv (a : SOp) (b : SOp) (k : BitVec 4)
  /-- MMA (R292). Signs a convergence register; the last signature issues the matrix operation. -/
  | mma (a : SOp) (b : SOp) (k : BitVec 4)
  /-- MSET (R308). Writes matrix formats, strides, a tile tag, scales or codebooks. -/
  | mset (a : SOp) (b : SOp) (n : BitVec 6)
  /-- MMASK (R309). Writes the row, column or depth masks. -/
  | mmask (a : SOp) (n : BitVec 6)
  /-- MLD (R311). Loads a tile from memory as a matrix operation. -/
  | mld (a : SOp) (b : SOp) (t : BitVec 5)
  /-- MST (R312). Reads out a tile to memory under the masks. -/
  | mst (a : SOp) (b : SOp) (t : BitVec 5)
  /-- MCVT (R313). Reads out one tile row into a vector register. -/
  | mcvt (a : VOp) (b : SOp)
  /-- MZERO (R314). Clears a tile and its depth count and bound. -/
  | mzero (t : BitVec 5)
  /-- MWAIT (R315). Waits for covered matrix operations, joins them and writes a status. -/
  | mwait (a : SOp) (b : SOp) (all : BitVec 1)
  /-- MPROG (R316). Reads word MCV0 of a convergence register. -/
  | mprog (a : SOp) (k : BitVec 4)
  /-- MALLOC (R317). Requests accumulator tiles from the pool, blocking or not. -/
  | malloc (a : SOp) (blocking : BitVec 1) (c : BitVec 5)
  /-- MFREE (R317). Releases the top tiles after their operations complete. -/
  | mfree (c : BitVec 5)
  /-- TRACE (R329). Forks a BVH walk per lane whose hit record lands in a slot. -/
  | trace (a : VOp) (b : VOp) (any : BitVec 1) (root : BitVec 1) (k : BitVec 4)
  /-- REGROUP (R331). Issues a team collective that permutes carried registers by key. -/
  | regroup (a : VOp) (b : VOp) (n : BitVec 6)
  /-- ENQ (R343). Releases and enqueues one record per active lane to a node queue. -/
  | enq (a : VOp) (b : SOp) (blocking : BitVec 1) (e : BitVec 4)
  /-- ENQC (R343). Releases and enqueues one record from scalar registers. -/
  | enqc (a : SOp) (b : SOp) (blocking : BitVec 1) (e : BitVec 4)
  /-- SVC (R346). Posts a service-call batch and waits for its results. -/
  | svc (a : VOp) (fn : BitVec 6)
  /-- QSTAT (R345). Reads queue depth, live teams or free node-store granules. -/
  | qstat (a : SOp) (sel : BitVec 2) (e : BitVec 4)
  /-- TRAP (R189). Takes a synchronous trap entry, or parks with DOUBLE at depth 1. -/
  | trap (n : BitVec 6)
  /-- TRET (R189). Restores latches and frontier from the shadow and leaves the trap routine. -/
  | tret
  /-- CSRR (R371). Reads a CSR into a scalar register after earlier results are produced. -/
  | csrr (a : SOp) (b : BitVec 7) (n : BitVec 6)
  /-- CSRW (R371). Writes a CSR that has no behaviour of its own. -/
  | csrw (a : SOp) (b : BitVec 7) (n : BitVec 6)
  /-- CFLUSH (R239). Writes back dirty SC and CP lines of a range in the core's L1. -/
  | cflush (a : SOp) (b : SOp)
  /-- CINV (R239). Writes back and drops the lines of a range in the core's L1. -/
  | cinv (a : SOp) (b : SOp)
  /-- CINV_DISCARD (R239). Drops lines of a range without writing them back, pinned lines included. -/
  | cinvDiscard (a : SOp) (b : SOp)
  /-- PREF (R239). Prefetches the lines of a range into the L1 or the home slices. -/
  | pref (a : SOp) (b : SOp) (l2 : BitVec 1)
  /-- TLBINV (R248). Drops cached translations and RAT copies of a range on every core. -/
  | tlbinv (a : SOp) (b : SOp)
  /-- TLBINV_ALL (R248). Drops every cached translation and RAT copy of the target context. -/
  | tlbinvAll
  /-- RGNE (R373). Pushes a region id onto the warp's region stack. -/
  | rgne (a : SOp)
  /-- RGNL (R373). Pops the warp's region stack. -/
  | rgnl
  /-- OCRD (R71). Reads an operand-cache slot on all lanes for saving. -/
  | ocrd (a : VOp) (n : BitVec 4)
  /-- OCWR (R71). Writes an operand-cache slot on all lanes for restoring. -/
  | ocwr (a : VOp) (n : BitVec 4)
  /-- LTRD (R71). Reads a latch shadow entry. -/
  | ltrd (a : VOp) (n : BitVec 3)
  /-- LTWR (R71). Writes a latch shadow entry (privileged). -/
  | ltwr (a : VOp) (n : BitVec 3)
  /-- LBRD (R71). Reads landing slot data or metadata. -/
  | lbrd (a : VOp) (w : BitVec 2) (m : BitVec 1) (slot : BitVec 4)
  /-- LBWR (R71). Writes landing slot data or metadata and adjusts slot state and PENDING (privileged). -/
  | lbwr (a : VOp) (w : BitVec 2) (m : BitVec 1) (slot : BitVec 4)
  /-- HALT (R375). Performs a device-scope release and ends a preemption save routine. -/
  | halt
  /-- ILLEGAL_WORD (R101). A word that is not an instruction faults with ILLEGAL at issue. -/
  | illegalWord (w : BitVec 32)
  /-- PARKCMD_RESUME (R185). Resumes the parked warp by reissuing its faulting instruction. -/
  | parkcmdResume (h w : Nat)
  /-- PARKCMD_KILL (R185). Kills the team of the parked warp with the park's code. -/
  | parkcmdKill (h w : Nat)
  /-- PARKCMD_INJECT (R185). Makes every faulting lane of the park throw CODE. -/
  | parkcmdInject (h w : Nat) (code : BitVec 16)
  /-- RGNSTAT_DEPTH_WRITE (R373). Sets the region stack depth, keeping the bottom entries. -/
  | rgnstatDepthWrite (h w : Nat) (depth : BitVec 5)
  /-- FSHN_WRITE (R188). Sets the frontier shadow count and discards higher entries. -/
  | fshnWrite (h w : Nat) (count : BitVec 6)
  /-- DBGCTL_STOP (R374). Makes every warp of the selected team stop at its next region edge. -/
  | dbgctlStop
  /-- HOSTCTL_REARM (R355). Clears LOST while the link is up, so host accesses proceed. -/
  | hostctlRearm
  /-- NLCTL_RETRAIN (R359). Retrains a Norozlink port at its allowed RATE. -/
  | nlctlRetrain (port : BitVec 4)
  /-- SVCDONE (R348). Completes an SVC ring entry so the waiting entry receives its results. -/
  | svcdone (die : BitVec 2) (index : BitVec 16)
  /-- BAR0_CSR_ACCESS (R378). A host access through BAR0 reaches a CSR instance selected by DBGSEL. -/
  | bar0CsrAccess (write : Bool) (off : BitVec 25) (v : BitVec 32)
  /-- DOORBELL (R353). A host doorbell write sets a queue's TAIL or is discarded with DBERR. -/
  | doorbell (write : Bool) (off : BitVec 20) (len : Nat) (v : BitVec 32)
  /-- BAR4_ACCESS (R352). A host access through BAR4 is performed at the home slice as a system-scope agent. -/
  | bar4Access (op : HostOp) (off : BitVec 40) (len v : Nat)
  /-- CXL_MEM_ACCESS (R352). A host CXL.mem access is performed at the home slice as a device-scope agent. -/
  | cxlMemAccess (op : HostOp) (off : BitVec 40) (len v : Nat)
  /-- HOST_SNOOP (R211). A host CXL.cache snoop waits at the home until GTC reaches Lmax. -/
  | hostSnoop (line : Nat)
  /-- HOST_LINK_LOSS (R354). Hot reset or link down sets LOST and discards or marks host traffic. -/
  | hostLinkLoss
  /-- FUNCTION_LEVEL_RESET (R356). Kills every context, disables queues, zeroes HBM and resets CSRs. -/
  | functionLevelReset
  /-- POWER_ON_BRING_UP (R368). Brings the package up in order from firmware start to Norozlink training. -/
  | powerOnBringUp
  /-- HOST_PORT_TRAIN (R351). The host port trains as PCIe 6.0 or CXL 3.1 by straps. -/
  | hostPortTrain (width : BitVec 5)
  /-- D3HOT_ENTRY (R369). Preempts every team and stops admission. -/
  | d3hotEntry
  /-- D0_RETURN (R369). Resumes the preempted teams and admission. -/
  | d0Return
  /-- POWER_REMOVAL (R369). Loses every context. -/
  | powerRemoval
  /-- CLOCK_STEP (R369). Lowers or raises the core clock by 50 MHz to hold the power limit. -/
  | clockStep (up : Bool)
  /-- FLIT_RECEIVE (R358). A Norozlink flit is FEC-corrected, CRC-checked and accepted or NAKed. -/
  | flitReceive (port : BitVec 4) (flit : BitVec 2048)
  /-- NAK_REPLAY (R358). The sender resends every flit from ACK + 1 on a NAK. -/
  | nakReplay (port : BitVec 4) (ack : BitVec 8)
  /-- PORT_RETRAIN_ON_REPLAYS (R359). Eight replays in 1 ms retrain a port at a lower rate or take it down. -/
  | portRetrainOnReplays (port : BitVec 4)
  /-- NOROZLINK_RECEIVE_WRITE (R214). A received payload is written through the copy engine, completion word last. -/
  | norozlinkReceiveWrite (port : BitVec 4)
  /-- PEER_WINDOW_ACCESS (R360). An access in the peer window is performed at the peer package. -/
  | peerWindowAccess (id : Nat) (v : BitVec 1024)
  /-- PEER_ACK (R360). A peer acknowledgement fixes the tw of a store or RED. -/
  | peerAck (id : Nat)
  /-- LAUNCH_ADMISSION (R336). The WGU copies a posted launch record and admits or rejects it. -/
  | launchAdmission (queue : BitVec 12)
  /-- TEAM_PLACEMENT (R338). The WGU places the first fitting team of the ready pool on a core. -/
  | teamPlacement (die : BitVec 2)
  /-- PREEMPT_FOR_HEAD (R339). The WGU preempts lower-priority victims to make room for the pool head. -/
  | preemptForHead (die : BitVec 2)
  /-- PREEMPT (R190). PREEMPT is raised in every warp of a team, which saves and halts. -/
  | preempt (h : Nat)
  /-- TEAM_STATE_SAVE (R190). After every warp halts and engines finish, the WGU saves the team state. -/
  | teamStateSave (h : Nat)
  /-- TEAM_RESUME (R190). The WGU restores a preempted team and starts each warp at TVB with RESUME. -/
  | teamResume (h : Nat)
  /-- TRAP_ENTRY (R187). An asynchronous request enters the trap routine at the next boundary. -/
  | trapEntry (h w : Nat)
  /-- SWAP_OUT (R38). The WGU swaps out a team whose warps all wait on monitors. -/
  | swapOut (h : Nat)
  /-- SWAP_RESTORE (R39). A fired or timed-out monitor of a swapped team restores the team. -/
  | swapRestore (h : Nat)
  /-- HANG_DETECT (R43). The hang count reaching HANGTH preempts the context and posts HANG with the wait-for graph. -/
  | hangDetect (ctx : BitVec 16)
  /-- POOL_VICTIM (R68). After 64 cc of pool deadlock the arbiter ends one request with GROWDENIED. -/
  | poolVictim (core : Nat)
  /-- POOL_GRANT (R67). The arbiter grants the head of the blocking queue once it fits. -/
  | poolGrant (core : Nat)
  /-- TEAM_END (R11). The last departure waits for the team's engines and then frees its place. -/
  | teamEnd (h : Nat)
  /-- CATCH_ENTRY (R178). After delivery waits end, every member enters the catch PC with the record. -/
  | catchEntry (delivery : Nat)
  /-- TEAM_KILL (R177). An unhandled throw kills the team and posts the completion code. -/
  | teamKill (h : Nat)
  /-- WARP_PARK (R184). A synchronous fault that does not convert parks the warp and posts a park record. -/
  | warpPark (h w : Nat)
  /-- PARK_RECORD_POST (R348). A record waiting for room in a full service queue is posted once a slot frees. -/
  | parkRecordPost (die : BitVec 2)
  /-- LOAD_LANDING (R62). All data of a decoupled load arrives and its slot becomes LANDED. -/
  | loadLanding (h w : Nat) (slot : BitVec 4)
  /-- HOME_LOAD_SERVE (R198). A home slice answers a line request with data and a lease. -/
  | homeLoadServe (core line : Nat)
  /-- HOME_UPDATE_PERFORM (R200). An update is performed at its home slice at its write completion time. -/
  | homeUpdatePerform (line : Nat)
  /-- MONTO_EXPIRY (R237). The MONW timeout completes the instruction unsatisfied. -/
  | montoExpiry (h w id : Nat)
  /-- MONITOR_POLL (R237). A lane without a free monitor re-reads its word every 256 ns. -/
  | monitorPoll (h w id : Nat) (lane : BitVec 5)
  /-- ATOM_LEASE_GRANT (R206). The home grants an exclusive write lease for ATOM. -/
  | atomLeaseGrant (core line : Nat)
  /-- ATOM_LEASE_RETURN (R206). The L1 returns the line and the home performs the ATOM results. -/
  | atomLeaseReturn (core line : Nat)
  /-- L2_EVICT (R199). A slice evicts a line and folds its Lmax into the evicted maximum. -/
  | l2Evict (line : Nat)
  /-- L1_EVICT (R207). An L1 eviction writes back a dirty SC or CP line. -/
  | l1Evict (core line : Nat)
  /-- ATOMICOP_COMPLETION (R232). A PCIe AtomicOp lane completes and the next lane is sent. -/
  | atomicopCompletion (core id : Nat)
  /-- ATOMICOP_UR (R233). An Unsupported Request posts ATOMUNSUP and falls back or parks. -/
  | atomicopUr (core id : Nat)
  /-- EMULATION_RETURN (R232). The service team returns emulated atomic results and the instruction completes. -/
  | emulationReturn (core id : Nat)
  /-- COPY_ARRIVE (R270). A tied copy arrives on its barrier generation once its last write is done. -/
  | copyArrive (h id : Nat)
  /-- COPY_COMPLETE (R263). A copy finishes its rows and frees its scoreboard range. -/
  | copyComplete (h id : Nat)
  /-- COPYFAULT (R280). A failed global access ends a copy and throws COPYFAULT. -/
  | copyfault (h id : Nat)
  /-- COMBINE_CONTRIBUTION (R275). A reduction contribution reaches a combining switch and combines, allocates or bypasses. -/
  | combineContribution (id : Nat)
  /-- COMBINE_DELIVER (R275). A switch entry is delivered to the home CMBWIN after opening. -/
  | combineDeliver (id : Nat)
  /-- MATRIX_START (R302). The engine starts the chosen startable operation by charge. -/
  | matrixStart (core : Nat)
  /-- MATRIX_COMPLETE (R291). The last element is written and the register becomes DONE. -/
  | matrixComplete (h id : Nat)
  /-- MATRIX_FETCH_FAULT (R296). An operand fetch fault makes the register FAULTED and is attributed to a member. -/
  | matrixFetchFault (h id : Nat)
  /-- MPB_WINDOW_EXPIRY (R302). A 1,024 cc power-budget window ends and starting may resume. -/
  | mpbWindowExpiry (core : Nat)
  /-- TRACE_LANDING (R326). The walks of a TRACE finish and the hit records land in the slot. -/
  | traceLanding (h w : Nat) (slot : BitVec 4)
  /-- SAMPLE_RECORD (R376). A sampled request's return writes a sample record. -/
  | sampleRecord (core : Nat)
  /-- RESULT_PRODUCED (R60). A long-latency result is produced after its latency. This covers IDIV, NDIV, FRCP to FDIV, LDS, SLDC, CSRR and the GROW, ATTACH and CPQ statuses. Its window entry becomes valid, and its flags are ORed into FRM. -/
  | resultProduced (h w : Nat) (index : Nat)
  /-- SPARE_CORE_TAKEOVER (R4). A spare core takes over a failed user core's number and cluster while no team is resident on it. -/
  | spareCoreTakeover (core : Nat)
  /-- SVC_BATCH_POST (R348). An SVC waiting because the SVC ring is full or disabled posts its batch once the ring is enabled and a slot frees. -/
  | svcBatchPost (die : BitVec 2)
  /-- ROUND_TRIP_COMPLETION (R211). The zero-length read of a system-scope round trip, or the outstanding CXL writes, complete at the host port. -/
  | roundTripCompletion (h w : Nat)
  /-- RETRAINING_COMPLETE (R359). A Norozlink port finishes retraining within 2 ms, possibly with the spare lane, and resumes sending the flits held in the replay buffer. -/
  | retrainingComplete (port : BitVec 4)
  /-- CONFIGURATION_REQUEST (R356). A host configuration request is answered, with Configuration Request Retry Status during Function Level Reset and not at all before bring-up step 5. -/
  | configurationRequest
  /-- COPY_SOURCE_RANGE_READ (R268). A DIR = 1 copy finishes reading its scratchpad hull, so the range no longer holds STS although the copy stays in flight. -/
  | copySourceRangeRead (h id : Nat)
deriving DecidableEq, Repr, Inhabited

end Sys2Proof
end

