-- ==== Sys2Proof/Decode.lean ====
section
/-! DEFINITION. Decoding of one 32-bit word (R97 to R101), total, with every word that no row of the table gives answered
by ILLEGAL_WORD, and the encoder written from the same tables. -/

namespace Sys2Proof

/-- Table 4-2, vector column. -/
def VOp.ofCode (c : BitVec 7) : VOp :=
  if c < 0x40#7 then .v (c.extractLsb' 0 6)
  else if c < 0x50#7 then .oc (c.extractLsb' 0 4)
  else if c < 0x58#7 then .latch (c.extractLsb' 0 3)
  else if c < 0x78#7 then .s ((c - 0x58#7).extractLsb' 0 5)
  else match c.toNat with
    | 0x78 => .zero | 0x79 => .lane | 0x7A => .lit | 0x7B => .tid | 0x7C => .wid | 0x7D => .cc | 0x7E => .time | _ => .void

def VOp.code : VOp → BitVec 7
  | .v n => n.setWidth 7
  | .oc n => 0x40#7 + n.setWidth 7
  | .latch n => 0x50#7 + n.setWidth 7
  | .s n => 0x58#7 + n.setWidth 7
  | .zero => 0x78#7 | .lane => 0x79#7 | .lit => 0x7A#7 | .tid => 0x7B#7
  | .wid => 0x7C#7 | .cc => 0x7D#7 | .time => 0x7E#7 | .void => 0x7F#7

/-- Table 4-2, scalar column. -/
def SOp.ofCode (c : BitVec 7) : SOp :=
  if h : c.toNat < 120 then .s ⟨c.toNat, h⟩
  else match c.toNat with
    | 0x78 => .zero | 0x79 => .lane | 0x7A => .lit | 0x7B => .tid | 0x7C => .wid | 0x7D => .cc | 0x7E => .time | _ => .void

def SOp.code : SOp → BitVec 7
  | .s n => BitVec.ofNat 7 n.val
  | .zero => 0x78#7 | .lane => 0x79#7 | .lit => 0x7A#7 | .tid => 0x7B#7
  | .wid => 0x7C#7 | .cc => 0x7D#7 | .time => 0x7E#7 | .void => 0x7F#7

/-- Table 5-1, the codes in order. -/
def Tag.all : List Tag :=
  [.raw, .fp32, .fp64, .fp16, .bf16, .fp19, .fp8a, .fp8b, .fp6a, .fp6b, .fp4, .i32, .n32, .i16, .n16, .i8, .n8, .i4, .n4,
   .i2, .n1, .rs6, .rp6, .rs8, .rp8, .rs12, .rp12, .rs16, .rp16, .ix4, .ix8, .rw]

def Tag.ofCode (c : BitVec 5) : Tag := Tag.all.getD c.toNat .raw

def Tag.code (t : Tag) : BitVec 5 := BitVec.ofNat 5 (Tag.all.idxOf t)

theorem VOp.ofCode_code (x : VOp) : VOp.ofCode x.code = x := by
  cases x with
  | v n => revert n; decide
  | oc n => revert n; decide
  | latch n => revert n; decide
  | s n => revert n; decide
  | _ => decide

theorem SOp.ofCode_code (x : SOp) : SOp.ofCode x.code = x := by
  cases x with
  | s n => revert n; decide
  | _ => decide

theorem Tag.ofCode_code (t : Tag) : Tag.ofCode t.code = t := by cases t <;> decide

/-- Opcode 0x00: NOP. -/
def decodeOp00 (w : BitVec 32) : Instr :=
  if w.extractLsb' 0 25 = 0#25 then .nop
  else .illegalWord w

/-- Opcode 0x01: LIT, LIT_HI. -/
def decodeOp01 (w : BitVec 32) : Instr :=
  if w.extractLsb' 24 1 = 0#1 then .lit (w.extractLsb' 0 24)
  else if w.extractLsb' 24 1 = 1#1 ∧ w.extractLsb' 8 16 = 0#16 then .litHi (w.extractLsb' 0 8)
  else .illegalWord w

/-- Opcode 0x02: BLK. -/
def decodeOp02 (w : BitVec 32) : Instr :=
  if w.extractLsb' 16 9 = 0#9 then .blk (w.extractLsb' 8 8) (w.extractLsb' 0 8)
  else .illegalWord w

/-- Opcode 0x03: YIELD. -/
def decodeOp03 (w : BitVec 32) : Instr :=
  if w.extractLsb' 0 25 = 0#25 then .yield
  else .illegalWord w

/-- Opcode 0x04: IADD. -/
def decodeOp04 (w : BitVec 32) : Instr :=
  .iadd (VOp.ofCode (w.extractLsb' 18 7)) (VOp.ofCode (w.extractLsb' 11 7)) (VOp.ofCode (w.extractLsb' 4 7)) (w.extractLsb' 3 1) (w.extractLsb' 2 1) (w.extractLsb' 0 2)

/-- Opcode 0x05: ISUB. -/
def decodeOp05 (w : BitVec 32) : Instr :=
  .isub (VOp.ofCode (w.extractLsb' 18 7)) (VOp.ofCode (w.extractLsb' 11 7)) (VOp.ofCode (w.extractLsb' 4 7)) (w.extractLsb' 3 1) (w.extractLsb' 2 1) (w.extractLsb' 0 2)

/-- Opcode 0x06: IMUL. -/
def decodeOp06 (w : BitVec 32) : Instr :=
  .imul (VOp.ofCode (w.extractLsb' 18 7)) (VOp.ofCode (w.extractLsb' 11 7)) (VOp.ofCode (w.extractLsb' 4 7)) (w.extractLsb' 3 1) (w.extractLsb' 2 1) (w.extractLsb' 0 2)

/-- Opcode 0x07: IMAD. -/
def decodeOp07 (w : BitVec 32) : Instr :=
  .imad (VOp.ofCode (w.extractLsb' 18 7)) (VOp.ofCode (w.extractLsb' 11 7)) (VOp.ofCode (w.extractLsb' 4 7)) (w.extractLsb' 3 1) (w.extractLsb' 2 1) (w.extractLsb' 0 2)

/-- Opcode 0x08: IMIN. -/
def decodeOp08 (w : BitVec 32) : Instr :=
  .imin (VOp.ofCode (w.extractLsb' 18 7)) (VOp.ofCode (w.extractLsb' 11 7)) (VOp.ofCode (w.extractLsb' 4 7)) (w.extractLsb' 3 1) (w.extractLsb' 2 1) (w.extractLsb' 0 2)

/-- Opcode 0x09: IMAX. -/
def decodeOp09 (w : BitVec 32) : Instr :=
  .imax (VOp.ofCode (w.extractLsb' 18 7)) (VOp.ofCode (w.extractLsb' 11 7)) (VOp.ofCode (w.extractLsb' 4 7)) (w.extractLsb' 3 1) (w.extractLsb' 2 1) (w.extractLsb' 0 2)

/-- Opcode 0x0A: IABS. -/
def decodeOp0A (w : BitVec 32) : Instr :=
  if w.extractLsb' 4 7 = 0#7 ∧ w.extractLsb' 2 1 = 0#1 then .iabs (VOp.ofCode (w.extractLsb' 18 7)) (VOp.ofCode (w.extractLsb' 11 7)) (w.extractLsb' 3 1) (w.extractLsb' 0 2)
  else .illegalWord w

/-- Opcode 0x0B: AND_FAMILY. -/
def decodeOp0B (w : BitVec 32) : Instr :=
  .andFam (VOp.ofCode (w.extractLsb' 18 7)) (VOp.ofCode (w.extractLsb' 11 7)) (VOp.ofCode (w.extractLsb' 4 7)) (w.extractLsb' 3 1) (w.extractLsb' 2 1) (w.extractLsb' 0 2)

/-- Opcode 0x0C: OR_FAMILY. -/
def decodeOp0C (w : BitVec 32) : Instr :=
  .orFam (VOp.ofCode (w.extractLsb' 18 7)) (VOp.ofCode (w.extractLsb' 11 7)) (VOp.ofCode (w.extractLsb' 4 7)) (w.extractLsb' 3 1) (w.extractLsb' 2 1) (w.extractLsb' 0 2)

/-- Opcode 0x0D: XOR_FAMILY. -/
def decodeOp0D (w : BitVec 32) : Instr :=
  .xorFam (VOp.ofCode (w.extractLsb' 18 7)) (VOp.ofCode (w.extractLsb' 11 7)) (VOp.ofCode (w.extractLsb' 4 7)) (w.extractLsb' 3 1) (w.extractLsb' 2 1) (w.extractLsb' 0 2)

/-- Opcode 0x0E: SHIFT_FAMILY. -/
def decodeOp0E (w : BitVec 32) : Instr :=
  .shiftFam (VOp.ofCode (w.extractLsb' 18 7)) (VOp.ofCode (w.extractLsb' 11 7)) (VOp.ofCode (w.extractLsb' 4 7)) (w.extractLsb' 3 1) (w.extractLsb' 2 1) (w.extractLsb' 0 2)

/-- Opcode 0x0F: BFX. -/
def decodeOp0F (w : BitVec 32) : Instr :=
  .bfx (VOp.ofCode (w.extractLsb' 18 7)) (VOp.ofCode (w.extractLsb' 11 7)) (VOp.ofCode (w.extractLsb' 4 7)) (w.extractLsb' 3 1) (w.extractLsb' 2 1) (w.extractLsb' 0 2)

/-- Opcode 0x10: BFI. -/
def decodeOp10 (w : BitVec 32) : Instr :=
  .bfi (VOp.ofCode (w.extractLsb' 18 7)) (VOp.ofCode (w.extractLsb' 11 7)) (VOp.ofCode (w.extractLsb' 4 7)) (w.extractLsb' 3 1) (w.extractLsb' 2 1) (w.extractLsb' 0 2)

/-- Opcode 0x11: BIT_FAMILY. -/
def decodeOp11 (w : BitVec 32) : Instr :=
  if w.extractLsb' 4 7 = 0#7 ∧ w.extractLsb' 2 1 = 0#1 then .bitFam (VOp.ofCode (w.extractLsb' 18 7)) (VOp.ofCode (w.extractLsb' 11 7)) (w.extractLsb' 3 1) (w.extractLsb' 0 2)
  else .illegalWord w

/-- Opcode 0x12: ICMP. -/
def decodeOp12 (w : BitVec 32) : Instr :=
  .icmp (VOp.ofCode (w.extractLsb' 18 7)) (VOp.ofCode (w.extractLsb' 11 7)) (VOp.ofCode (w.extractLsb' 4 7)) (w.extractLsb' 3 1) (w.extractLsb' 2 1) (w.extractLsb' 0 2)

/-- Opcode 0x13: ICMPN. -/
def decodeOp13 (w : BitVec 32) : Instr :=
  .icmpn (VOp.ofCode (w.extractLsb' 18 7)) (VOp.ofCode (w.extractLsb' 11 7)) (VOp.ofCode (w.extractLsb' 4 7)) (w.extractLsb' 3 1) (w.extractLsb' 2 1) (w.extractLsb' 0 2)

/-- Opcode 0x14: SEL. -/
def decodeOp14 (w : BitVec 32) : Instr :=
  if w.extractLsb' 0 2 = 0#2 then .sel (VOp.ofCode (w.extractLsb' 18 7)) (VOp.ofCode (w.extractLsb' 11 7)) (VOp.ofCode (w.extractLsb' 4 7)) (w.extractLsb' 3 1) (w.extractLsb' 2 1)
  else .illegalWord w

/-- Opcode 0x15: LEA. -/
def decodeOp15 (w : BitVec 32) : Instr :=
  .lea (VOp.ofCode (w.extractLsb' 18 7)) (VOp.ofCode (w.extractLsb' 11 7)) (VOp.ofCode (w.extractLsb' 4 7)) (w.extractLsb' 3 1) (w.extractLsb' 2 1) (w.extractLsb' 0 2)

/-- Opcode 0x16: IADDW_ISUBW. -/
def decodeOp16 (w : BitVec 32) : Instr :=
  .addsubw (VOp.ofCode (w.extractLsb' 18 7)) (VOp.ofCode (w.extractLsb' 11 7)) (VOp.ofCode (w.extractLsb' 4 7)) (w.extractLsb' 3 1) (w.extractLsb' 2 1) (w.extractLsb' 0 2)

/-- Opcode 0x17: MULW. -/
def decodeOp17 (w : BitVec 32) : Instr :=
  .mulw (VOp.ofCode (w.extractLsb' 18 7)) (VOp.ofCode (w.extractLsb' 11 7)) (VOp.ofCode (w.extractLsb' 4 7)) (w.extractLsb' 3 1) (w.extractLsb' 2 1) (w.extractLsb' 0 2)

/-- Opcode 0x18: IDIV. -/
def decodeOp18 (w : BitVec 32) : Instr :=
  .idiv (VOp.ofCode (w.extractLsb' 18 7)) (VOp.ofCode (w.extractLsb' 11 7)) (VOp.ofCode (w.extractLsb' 4 7)) (w.extractLsb' 0 4)

/-- Opcode 0x19: NDIV. -/
def decodeOp19 (w : BitVec 32) : Instr :=
  .ndiv (VOp.ofCode (w.extractLsb' 18 7)) (VOp.ofCode (w.extractLsb' 11 7)) (VOp.ofCode (w.extractLsb' 4 7)) (w.extractLsb' 0 4)

/-- Opcode 0x1A: SHFL. -/
def decodeOp1A (w : BitVec 32) : Instr :=
  .shfl (VOp.ofCode (w.extractLsb' 18 7)) (VOp.ofCode (w.extractLsb' 11 7)) (VOp.ofCode (w.extractLsb' 4 7)) (w.extractLsb' 3 1) (w.extractLsb' 2 1) (w.extractLsb' 0 2)

/-- Opcode 0x1B: VOTE. -/
def decodeOp1B (w : BitVec 32) : Instr :=
  if w.extractLsb' 4 7 = 0#7 ∧ w.extractLsb' 2 1 = 0#1 then .vote (VOp.ofCode (w.extractLsb' 18 7)) (VOp.ofCode (w.extractLsb' 11 7)) (w.extractLsb' 3 1) (w.extractLsb' 0 2)
  else .illegalWord w

/-- Opcode 0x1C: VRED. -/
def decodeOp1C (w : BitVec 32) : Instr :=
  if w.extractLsb' 4 7 = 0#7 ∧ w.extractLsb' 2 1 = 0#1 then .vred (VOp.ofCode (w.extractLsb' 18 7)) (VOp.ofCode (w.extractLsb' 11 7)) (w.extractLsb' 3 1) (w.extractLsb' 0 2)
  else .illegalWord w

/-- Opcode 0x20: IADDI. -/
def decodeOp20 (w : BitVec 32) : Instr :=
  .iaddi (VOp.ofCode (w.extractLsb' 18 7)) (VOp.ofCode (w.extractLsb' 11 7)) (w.extractLsb' 1 10) (w.extractLsb' 0 1)

/-- Opcode 0x21: IMULI. -/
def decodeOp21 (w : BitVec 32) : Instr :=
  .imuli (VOp.ofCode (w.extractLsb' 18 7)) (VOp.ofCode (w.extractLsb' 11 7)) (w.extractLsb' 1 10) (w.extractLsb' 0 1)

/-- Opcode 0x22: ANDI. -/
def decodeOp22 (w : BitVec 32) : Instr :=
  .andi (VOp.ofCode (w.extractLsb' 18 7)) (VOp.ofCode (w.extractLsb' 11 7)) (w.extractLsb' 1 10) (w.extractLsb' 0 1)

/-- Opcode 0x23: ORI. -/
def decodeOp23 (w : BitVec 32) : Instr :=
  .ori (VOp.ofCode (w.extractLsb' 18 7)) (VOp.ofCode (w.extractLsb' 11 7)) (w.extractLsb' 1 10) (w.extractLsb' 0 1)

/-- Opcode 0x24: XORI. -/
def decodeOp24 (w : BitVec 32) : Instr :=
  .xori (VOp.ofCode (w.extractLsb' 18 7)) (VOp.ofCode (w.extractLsb' 11 7)) (w.extractLsb' 1 10) (w.extractLsb' 0 1)

/-- Opcode 0x25: SHLI. -/
def decodeOp25 (w : BitVec 32) : Instr :=
  if w.extractLsb' 6 5 = 0#5 then .shli (VOp.ofCode (w.extractLsb' 18 7)) (VOp.ofCode (w.extractLsb' 11 7)) (w.extractLsb' 1 5) (w.extractLsb' 0 1)
  else .illegalWord w

/-- Opcode 0x26: SHRI. -/
def decodeOp26 (w : BitVec 32) : Instr :=
  if w.extractLsb' 6 5 = 0#5 then .shri (VOp.ofCode (w.extractLsb' 18 7)) (VOp.ofCode (w.extractLsb' 11 7)) (w.extractLsb' 1 5) (w.extractLsb' 0 1)
  else .illegalWord w

/-- Opcode 0x27: SARI. -/
def decodeOp27 (w : BitVec 32) : Instr :=
  if w.extractLsb' 6 5 = 0#5 then .sari (VOp.ofCode (w.extractLsb' 18 7)) (VOp.ofCode (w.extractLsb' 11 7)) (w.extractLsb' 1 5) (w.extractLsb' 0 1)
  else .illegalWord w

/-- Opcode 0x28: ICMPIEQ. -/
def decodeOp28 (w : BitVec 32) : Instr :=
  .icmpieq (VOp.ofCode (w.extractLsb' 18 7)) (VOp.ofCode (w.extractLsb' 11 7)) (w.extractLsb' 1 10) (w.extractLsb' 0 1)

/-- Opcode 0x29: ICMPILT. -/
def decodeOp29 (w : BitVec 32) : Instr :=
  .icmpilt (VOp.ofCode (w.extractLsb' 18 7)) (VOp.ofCode (w.extractLsb' 11 7)) (w.extractLsb' 1 10) (w.extractLsb' 0 1)

/-- Opcode 0x2A: ICMPINE. -/
def decodeOp2A (w : BitVec 32) : Instr :=
  .icmpine (VOp.ofCode (w.extractLsb' 18 7)) (VOp.ofCode (w.extractLsb' 11 7)) (w.extractLsb' 1 10) (w.extractLsb' 0 1)

/-- Opcode 0x2B: MOVI. -/
def decodeOp2B (w : BitVec 32) : Instr :=
  if w.extractLsb' 11 7 = 0#7 ∧ w.extractLsb' 0 1 = 0#1 then .movi (VOp.ofCode (w.extractLsb' 18 7)) (w.extractLsb' 1 10)
  else .illegalWord w

/-- Opcode 0x2C: SADD. -/
def decodeOp2C (w : BitVec 32) : Instr :=
  if w.extractLsb' 3 1 = 0#1 ∧ w.extractLsb' 2 1 = 0#1 then .sadd (SOp.ofCode (w.extractLsb' 18 7)) (SOp.ofCode (w.extractLsb' 11 7)) (SOp.ofCode (w.extractLsb' 4 7)) (w.extractLsb' 0 2)
  else .illegalWord w

/-- Opcode 0x2D: SSUB. -/
def decodeOp2D (w : BitVec 32) : Instr :=
  if w.extractLsb' 3 1 = 0#1 ∧ w.extractLsb' 2 1 = 0#1 then .ssub (SOp.ofCode (w.extractLsb' 18 7)) (SOp.ofCode (w.extractLsb' 11 7)) (SOp.ofCode (w.extractLsb' 4 7)) (w.extractLsb' 0 2)
  else .illegalWord w

/-- Opcode 0x2E: SMUL. -/
def decodeOp2E (w : BitVec 32) : Instr :=
  if w.extractLsb' 3 1 = 0#1 ∧ w.extractLsb' 2 1 = 0#1 then .smul (SOp.ofCode (w.extractLsb' 18 7)) (SOp.ofCode (w.extractLsb' 11 7)) (SOp.ofCode (w.extractLsb' 4 7)) (w.extractLsb' 0 2)
  else .illegalWord w

/-- Opcode 0x2F: SLOG. -/
def decodeOp2F (w : BitVec 32) : Instr :=
  if w.extractLsb' 3 1 = 0#1 ∧ w.extractLsb' 2 1 = 0#1 then .slog (SOp.ofCode (w.extractLsb' 18 7)) (SOp.ofCode (w.extractLsb' 11 7)) (SOp.ofCode (w.extractLsb' 4 7)) (w.extractLsb' 0 2)
  else .illegalWord w

/-- Opcode 0x30: SSHF. -/
def decodeOp30 (w : BitVec 32) : Instr :=
  if w.extractLsb' 3 1 = 0#1 ∧ w.extractLsb' 2 1 = 0#1 then .sshf (SOp.ofCode (w.extractLsb' 18 7)) (SOp.ofCode (w.extractLsb' 11 7)) (SOp.ofCode (w.extractLsb' 4 7)) (w.extractLsb' 0 2)
  else .illegalWord w

/-- Opcode 0x31: SCMP. -/
def decodeOp31 (w : BitVec 32) : Instr :=
  if w.extractLsb' 3 1 = 0#1 ∧ w.extractLsb' 2 1 = 0#1 then .scmp (SOp.ofCode (w.extractLsb' 18 7)) (SOp.ofCode (w.extractLsb' 11 7)) (SOp.ofCode (w.extractLsb' 4 7)) (w.extractLsb' 0 2)
  else .illegalWord w

/-- Opcode 0x32: SSEL. -/
def decodeOp32 (w : BitVec 32) : Instr :=
  if w.extractLsb' 3 1 = 0#1 ∧ w.extractLsb' 2 1 = 0#1 ∧ w.extractLsb' 0 2 = 0#2 then .ssel (SOp.ofCode (w.extractLsb' 18 7)) (SOp.ofCode (w.extractLsb' 11 7)) (SOp.ofCode (w.extractLsb' 4 7))
  else .illegalWord w

/-- Opcode 0x33: SADDI. -/
def decodeOp33 (w : BitVec 32) : Instr :=
  if w.extractLsb' 0 1 = 0#1 then .saddi (SOp.ofCode (w.extractLsb' 18 7)) (SOp.ofCode (w.extractLsb' 11 7)) (w.extractLsb' 1 10)
  else .illegalWord w

/-- Opcode 0x34: SMOVI. -/
def decodeOp34 (w : BitVec 32) : Instr :=
  if w.extractLsb' 11 7 = 0#7 ∧ w.extractLsb' 0 1 = 0#1 then .smovi (SOp.ofCode (w.extractLsb' 18 7)) (w.extractLsb' 1 10)
  else .illegalWord w

/-- Opcode 0x35: SMINMAX. -/
def decodeOp35 (w : BitVec 32) : Instr :=
  if w.extractLsb' 3 1 = 0#1 ∧ w.extractLsb' 2 1 = 0#1 then .sminmax (SOp.ofCode (w.extractLsb' 18 7)) (SOp.ofCode (w.extractLsb' 11 7)) (SOp.ofCode (w.extractLsb' 4 7)) (w.extractLsb' 0 2)
  else .illegalWord w

/-- Opcode 0x36: SLDC. -/
def decodeOp36 (w : BitVec 32) : Instr :=
  .sldc (SOp.ofCode (w.extractLsb' 18 7)) (SOp.ofCode (w.extractLsb' 11 7)) (SOp.ofCode (w.extractLsb' 4 7)) (w.extractLsb' 0 4)

/-- Opcode 0x37: SLD. -/
def decodeOp37 (w : BitVec 32) : Instr :=
  .sld (SOp.ofCode (w.extractLsb' 18 7)) (SOp.ofCode (w.extractLsb' 11 7)) (SOp.ofCode (w.extractLsb' 4 7)) (w.extractLsb' 0 4)

/-- Opcode 0x38: SST. -/
def decodeOp38 (w : BitVec 32) : Instr :=
  if w.extractLsb' 2 2 = 0#2 then .sst (SOp.ofCode (w.extractLsb' 18 7)) (SOp.ofCode (w.extractLsb' 11 7)) (SOp.ofCode (w.extractLsb' 4 7)) (w.extractLsb' 0 2)
  else .illegalWord w

/-- Opcode 0x39: SGET. -/
def decodeOp39 (w : BitVec 32) : Instr :=
  if w.extractLsb' 3 1 = 0#1 ∧ w.extractLsb' 2 1 = 0#1 ∧ w.extractLsb' 0 2 = 0#2 then .sget (SOp.ofCode (w.extractLsb' 18 7)) (VOp.ofCode (w.extractLsb' 11 7)) (VOp.ofCode (w.extractLsb' 4 7))
  else .illegalWord w

/-- Opcode 0x3C: FADD. -/
def decodeOp3C (w : BitVec 32) : Instr :=
  .fadd (VOp.ofCode (w.extractLsb' 18 7)) (VOp.ofCode (w.extractLsb' 11 7)) (VOp.ofCode (w.extractLsb' 4 7)) (w.extractLsb' 3 1) (w.extractLsb' 2 1) (w.extractLsb' 0 2)

/-- Opcode 0x3D: FSUB. -/
def decodeOp3D (w : BitVec 32) : Instr :=
  .fsub (VOp.ofCode (w.extractLsb' 18 7)) (VOp.ofCode (w.extractLsb' 11 7)) (VOp.ofCode (w.extractLsb' 4 7)) (w.extractLsb' 3 1) (w.extractLsb' 2 1) (w.extractLsb' 0 2)

/-- Opcode 0x3E: FMUL. -/
def decodeOp3E (w : BitVec 32) : Instr :=
  .fmul (VOp.ofCode (w.extractLsb' 18 7)) (VOp.ofCode (w.extractLsb' 11 7)) (VOp.ofCode (w.extractLsb' 4 7)) (w.extractLsb' 3 1) (w.extractLsb' 2 1) (w.extractLsb' 0 2)

/-- Opcode 0x3F: FFMA. -/
def decodeOp3F (w : BitVec 32) : Instr :=
  .ffma (VOp.ofCode (w.extractLsb' 18 7)) (VOp.ofCode (w.extractLsb' 11 7)) (VOp.ofCode (w.extractLsb' 4 7)) (w.extractLsb' 3 1) (w.extractLsb' 2 1) (w.extractLsb' 0 2)

/-- Opcode 0x40: FMIN_FMAX. -/
def decodeOp40 (w : BitVec 32) : Instr :=
  .fminmax (VOp.ofCode (w.extractLsb' 18 7)) (VOp.ofCode (w.extractLsb' 11 7)) (VOp.ofCode (w.extractLsb' 4 7)) (w.extractLsb' 3 1) (w.extractLsb' 2 1) (w.extractLsb' 0 2)

/-- Opcode 0x41: FCMP. -/
def decodeOp41 (w : BitVec 32) : Instr :=
  .fcmp (VOp.ofCode (w.extractLsb' 18 7)) (VOp.ofCode (w.extractLsb' 11 7)) (VOp.ofCode (w.extractLsb' 4 7)) (w.extractLsb' 3 1) (w.extractLsb' 2 1) (w.extractLsb' 0 2)

/-- Opcode 0x42: FNEG_FABS_FSGN. -/
def decodeOp42 (w : BitVec 32) : Instr :=
  .fsign (VOp.ofCode (w.extractLsb' 18 7)) (VOp.ofCode (w.extractLsb' 11 7)) (VOp.ofCode (w.extractLsb' 4 7)) (w.extractLsb' 3 1) (w.extractLsb' 2 1) (w.extractLsb' 0 2)

/-- Opcode 0x43: FRCP. -/
def decodeOp43 (w : BitVec 32) : Instr :=
  if w.extractLsb' 4 7 = 0#7 then .frcp (VOp.ofCode (w.extractLsb' 18 7)) (VOp.ofCode (w.extractLsb' 11 7)) (w.extractLsb' 0 4)
  else .illegalWord w

/-- Opcode 0x44: FRSQ. -/
def decodeOp44 (w : BitVec 32) : Instr :=
  if w.extractLsb' 4 7 = 0#7 then .frsq (VOp.ofCode (w.extractLsb' 18 7)) (VOp.ofCode (w.extractLsb' 11 7)) (w.extractLsb' 0 4)
  else .illegalWord w

/-- Opcode 0x45: FSQRT. -/
def decodeOp45 (w : BitVec 32) : Instr :=
  if w.extractLsb' 4 7 = 0#7 then .fsqrt (VOp.ofCode (w.extractLsb' 18 7)) (VOp.ofCode (w.extractLsb' 11 7)) (w.extractLsb' 0 4)
  else .illegalWord w

/-- Opcode 0x46: FEXP2. -/
def decodeOp46 (w : BitVec 32) : Instr :=
  if w.extractLsb' 4 7 = 0#7 then .fexp2 (VOp.ofCode (w.extractLsb' 18 7)) (VOp.ofCode (w.extractLsb' 11 7)) (w.extractLsb' 0 4)
  else .illegalWord w

/-- Opcode 0x47: FLOG2. -/
def decodeOp47 (w : BitVec 32) : Instr :=
  if w.extractLsb' 4 7 = 0#7 then .flog2 (VOp.ofCode (w.extractLsb' 18 7)) (VOp.ofCode (w.extractLsb' 11 7)) (w.extractLsb' 0 4)
  else .illegalWord w

/-- Opcode 0x48: FSIN. -/
def decodeOp48 (w : BitVec 32) : Instr :=
  if w.extractLsb' 4 7 = 0#7 then .fsin (VOp.ofCode (w.extractLsb' 18 7)) (VOp.ofCode (w.extractLsb' 11 7)) (w.extractLsb' 0 4)
  else .illegalWord w

/-- Opcode 0x49: FCOS. -/
def decodeOp49 (w : BitVec 32) : Instr :=
  if w.extractLsb' 4 7 = 0#7 then .fcos (VOp.ofCode (w.extractLsb' 18 7)) (VOp.ofCode (w.extractLsb' 11 7)) (w.extractLsb' 0 4)
  else .illegalWord w

/-- Opcode 0x4A: FDIV. -/
def decodeOp4A (w : BitVec 32) : Instr :=
  .fdiv (VOp.ofCode (w.extractLsb' 18 7)) (VOp.ofCode (w.extractLsb' 11 7)) (VOp.ofCode (w.extractLsb' 4 7)) (w.extractLsb' 0 4)

/-- Opcode 0x4B: FDOT2. -/
def decodeOp4B (w : BitVec 32) : Instr :=
  if w.extractLsb' 0 2 = 0#2 then .fdot2 (VOp.ofCode (w.extractLsb' 18 7)) (VOp.ofCode (w.extractLsb' 11 7)) (VOp.ofCode (w.extractLsb' 4 7)) (w.extractLsb' 3 1) (w.extractLsb' 2 1)
  else .illegalWord w

/-- Opcode 0x4C: IDOT4. -/
def decodeOp4C (w : BitVec 32) : Instr :=
  .idot4 (VOp.ofCode (w.extractLsb' 18 7)) (VOp.ofCode (w.extractLsb' 11 7)) (VOp.ofCode (w.extractLsb' 4 7)) (w.extractLsb' 3 1) (w.extractLsb' 2 1) (w.extractLsb' 0 2)

/-- Opcode 0x4D: FROUND. -/
def decodeOp4D (w : BitVec 32) : Instr :=
  if w.extractLsb' 4 7 = 0#7 ∧ w.extractLsb' 2 1 = 0#1 then .fround (VOp.ofCode (w.extractLsb' 18 7)) (VOp.ofCode (w.extractLsb' 11 7)) (w.extractLsb' 3 1) (w.extractLsb' 0 2)
  else .illegalWord w

/-- Opcode 0x50: RADD. -/
def decodeOp50 (w : BitVec 32) : Instr :=
  if w.extractLsb' 0 2 = 0#2 then .radd (VOp.ofCode (w.extractLsb' 18 7)) (VOp.ofCode (w.extractLsb' 11 7)) (VOp.ofCode (w.extractLsb' 4 7)) (w.extractLsb' 3 1) (w.extractLsb' 2 1)
  else .illegalWord w

/-- Opcode 0x51: RMUL. -/
def decodeOp51 (w : BitVec 32) : Instr :=
  if w.extractLsb' 0 2 = 0#2 then .rmul (VOp.ofCode (w.extractLsb' 18 7)) (VOp.ofCode (w.extractLsb' 11 7)) (VOp.ofCode (w.extractLsb' 4 7)) (w.extractLsb' 3 1) (w.extractLsb' 2 1)
  else .illegalWord w

/-- Opcode 0x52: RMAC. -/
def decodeOp52 (w : BitVec 32) : Instr :=
  if w.extractLsb' 0 2 = 0#2 then .rmac (VOp.ofCode (w.extractLsb' 18 7)) (VOp.ofCode (w.extractLsb' 11 7)) (VOp.ofCode (w.extractLsb' 4 7)) (w.extractLsb' 3 1) (w.extractLsb' 2 1)
  else .illegalWord w

/-- Opcode 0x53: RNEG. -/
def decodeOp53 (w : BitVec 32) : Instr :=
  if w.extractLsb' 4 7 = 0#7 ∧ w.extractLsb' 2 1 = 0#1 ∧ w.extractLsb' 0 2 = 0#2 then .rneg (VOp.ofCode (w.extractLsb' 18 7)) (VOp.ofCode (w.extractLsb' 11 7)) (w.extractLsb' 3 1)
  else .illegalWord w

/-- Opcode 0x54: RCRT. -/
def decodeOp54 (w : BitVec 32) : Instr :=
  .rcrt (VOp.ofCode (w.extractLsb' 18 7)) (VOp.ofCode (w.extractLsb' 11 7)) (VOp.ofCode (w.extractLsb' 4 7)) (w.extractLsb' 3 1) (w.extractLsb' 2 1) (w.extractLsb' 0 2)

/-- Opcode 0x55: RENC. -/
def decodeOp55 (w : BitVec 32) : Instr :=
  if w.extractLsb' 9 2 = 0#2 ∧ w.extractLsb' 2 1 = 0#1 ∧ w.extractLsb' 0 2 = 0#2 then .renc (VOp.ofCode (w.extractLsb' 18 7)) (VOp.ofCode (w.extractLsb' 11 7)) (Tag.ofCode (w.extractLsb' 4 5)) (w.extractLsb' 3 1)
  else .illegalWord w

/-- Opcode 0x58: CVT. -/
def decodeOp58 (w : BitVec 32) : Instr :=
  if w.extractLsb' 8 3 = 0#3 then .cvt (VOp.ofCode (w.extractLsb' 18 7)) (VOp.ofCode (w.extractLsb' 11 7)) (w.extractLsb' 6 2) (Tag.ofCode (w.extractLsb' 1 5)) (w.extractLsb' 0 1)
  else .illegalWord w

/-- Opcode 0x59: TAG. -/
def decodeOp59 (w : BitVec 32) : Instr :=
  if w.extractLsb' 6 5 = 0#5 then .tag (VOp.ofCode (w.extractLsb' 18 7)) (VOp.ofCode (w.extractLsb' 11 7)) (Tag.ofCode (w.extractLsb' 1 5)) (w.extractLsb' 0 1)
  else .illegalWord w

/-- Opcode 0x5A: MOV, MOV_D. -/
def decodeOp5A (w : BitVec 32) : Instr :=
  if w.extractLsb' 4 7 = 0#7 ∧ w.extractLsb' 2 1 = 0#1 ∧ w.extractLsb' 0 2 = 0#2 then .mov (VOp.ofCode (w.extractLsb' 18 7)) (VOp.ofCode (w.extractLsb' 11 7)) (w.extractLsb' 3 1)
  else if w.extractLsb' 4 7 = 0#7 ∧ w.extractLsb' 2 1 = 0#1 ∧ w.extractLsb' 0 2 = 1#2 then .movD (VOp.ofCode (w.extractLsb' 18 7)) (VOp.ofCode (w.extractLsb' 11 7)) (w.extractLsb' 3 1)
  else .illegalWord w

/-- Opcode 0x5B: WINB. -/
def decodeOp5B (w : BitVec 32) : Instr :=
  if w.extractLsb' 18 7 = 0#7 ∧ w.extractLsb' 11 7 = 0#7 ∧ w.extractLsb' 6 5 = 0#5 ∧ w.extractLsb' 0 1 = 0#1 then .winb (w.extractLsb' 1 5)
  else .illegalWord w

/-- Opcode 0x5C: SWINB. -/
def decodeOp5C (w : BitVec 32) : Instr :=
  if w.extractLsb' 18 7 = 0#7 ∧ w.extractLsb' 11 7 = 0#7 ∧ w.extractLsb' 7 4 = 0#4 ∧ w.extractLsb' 0 1 = 0#1 then .swinb (w.extractLsb' 1 6)
  else .illegalWord w

/-- Opcode 0x5D: GROW. -/
def decodeOp5D (w : BitVec 32) : Instr :=
  if w.extractLsb' 11 7 = 0#7 ∧ w.extractLsb' 10 1 = 0#1 ∧ w.extractLsb' 0 1 = 0#1 then .grow (SOp.ofCode (w.extractLsb' 18 7)) (w.extractLsb' 9 1) (w.extractLsb' 1 8)
  else .illegalWord w

/-- Opcode 0x5E: SHRINK. -/
def decodeOp5E (w : BitVec 32) : Instr :=
  if w.extractLsb' 11 7 = 0#7 ∧ w.extractLsb' 9 2 = 0#2 ∧ w.extractLsb' 0 1 = 0#1 then .shrink (SOp.ofCode (w.extractLsb' 18 7)) (w.extractLsb' 1 8)
  else .illegalWord w

/-- Opcode 0x5F: OCMOV_RD, OCMOV_WR. -/
def decodeOp5F (w : BitVec 32) : Instr :=
  if w.extractLsb' 11 7 = 0#7 ∧ w.extractLsb' 3 1 = 0#1 ∧ w.extractLsb' 2 1 = 0#1 ∧ w.extractLsb' 0 2 = 0#2 then .ocmovRd (VOp.ofCode (w.extractLsb' 18 7)) (VOp.ofCode (w.extractLsb' 4 7))
  else if w.extractLsb' 18 7 = 0#7 ∧ w.extractLsb' 2 1 = 0#1 ∧ w.extractLsb' 0 2 = 1#2 then .ocmovWr (VOp.ofCode (w.extractLsb' 11 7)) (VOp.ofCode (w.extractLsb' 4 7)) (w.extractLsb' 3 1)
  else .illegalWord w

/-- Opcode 0x60: BRA. -/
def decodeOp60 (w : BitVec 32) : Instr :=
  if w.extractLsb' 18 7 = 0#7 then .bra (w.extractLsb' 17 1) (w.extractLsb' 0 17)
  else .illegalWord w

/-- Opcode 0x61: BNZ. -/
def decodeOp61 (w : BitVec 32) : Instr :=
  .bnz (VOp.ofCode (w.extractLsb' 18 7)) (w.extractLsb' 17 1) (w.extractLsb' 0 17)

/-- Opcode 0x62: BZ. -/
def decodeOp62 (w : BitVec 32) : Instr :=
  .bz (VOp.ofCode (w.extractLsb' 18 7)) (w.extractLsb' 17 1) (w.extractLsb' 0 17)

/-- Opcode 0x63: CALL. -/
def decodeOp63 (w : BitVec 32) : Instr :=
  if w.extractLsb' 17 1 = 0#1 then .call (VOp.ofCode (w.extractLsb' 18 7)) (w.extractLsb' 0 17)
  else .illegalWord w

/-- Opcode 0x64: CALLR. -/
def decodeOp64 (w : BitVec 32) : Instr :=
  if w.extractLsb' 4 7 = 0#7 ∧ w.extractLsb' 2 1 = 0#1 then .callr (VOp.ofCode (w.extractLsb' 18 7)) (VOp.ofCode (w.extractLsb' 11 7)) (w.extractLsb' 3 1) (w.extractLsb' 0 2)
  else .illegalWord w

/-- Opcode 0x65: JMPR. -/
def decodeOp65 (w : BitVec 32) : Instr :=
  if w.extractLsb' 18 7 = 0#7 ∧ w.extractLsb' 4 7 = 0#7 ∧ w.extractLsb' 2 1 = 0#1 ∧ w.extractLsb' 0 2 = 0#2 then .jmpr (VOp.ofCode (w.extractLsb' 11 7)) (w.extractLsb' 3 1)
  else .illegalWord w

/-- Opcode 0x66: RET. -/
def decodeOp66 (w : BitVec 32) : Instr :=
  if w.extractLsb' 18 7 = 0#7 ∧ w.extractLsb' 4 7 = 0#7 ∧ w.extractLsb' 2 1 = 0#1 ∧ w.extractLsb' 0 2 = 0#2 then .ret (VOp.ofCode (w.extractLsb' 11 7)) (w.extractLsb' 3 1)
  else .illegalWord w

/-- Opcode 0x67: EXIT. -/
def decodeOp67 (w : BitVec 32) : Instr :=
  if w.extractLsb' 0 25 = 0#25 then .exit
  else .illegalWord w

/-- Opcode 0x68: TRY. -/
def decodeOp68 (w : BitVec 32) : Instr :=
  if w.extractLsb' 21 4 = 0#4 ∧ w.extractLsb' 17 1 = 0#1 then .tryRegion (w.extractLsb' 20 1) (w.extractLsb' 18 2) (w.extractLsb' 0 17)
  else .illegalWord w

/-- Opcode 0x69: ENDTRY. -/
def decodeOp69 (w : BitVec 32) : Instr :=
  if w.extractLsb' 2 23 = 0#23 then .endtry (w.extractLsb' 0 2)
  else .illegalWord w

/-- Opcode 0x6A: THROW, RETHROW. -/
def decodeOp6A (w : BitVec 32) : Instr :=
  if w.extractLsb' 18 7 = 0#7 ∧ w.extractLsb' 4 7 = 0#7 ∧ w.extractLsb' 2 1 = 0#1 ∧ w.extractLsb' 0 2 = 0#2 then .throwCode (VOp.ofCode (w.extractLsb' 11 7)) (w.extractLsb' 3 1)
  else if w.extractLsb' 2 23 = 0#23 ∧ w.extractLsb' 0 2 = 1#2 then .rethrow
  else .illegalWord w

/-- Opcode 0x6B: XGET. -/
def decodeOp6B (w : BitVec 32) : Instr :=
  if w.extractLsb' 11 7 = 0#7 ∧ w.extractLsb' 0 1 = 0#1 then .xget (VOp.ofCode (w.extractLsb' 18 7)) (w.extractLsb' 1 10)
  else .illegalWord w

/-- Opcode 0x6C: BAR_ARRIVE, BAR_WAIT, BAR_SYNC, BAR_COUNT, BAR_GRID_SYNC. -/
def decodeOp6C (w : BitVec 32) : Instr :=
  if w.extractLsb' 18 7 = 0#7 ∧ w.extractLsb' 11 7 = 0#7 ∧ w.extractLsb' 7 4 = 0#4 ∧ w.extractLsb' 5 2 = 0#2 ∧ w.extractLsb' 0 1 = 0#1 then .barArrive (w.extractLsb' 1 4)
  else if w.extractLsb' 18 7 = 0#7 ∧ w.extractLsb' 11 7 = 0#7 ∧ w.extractLsb' 7 4 = 0#4 ∧ w.extractLsb' 5 2 = 1#2 ∧ w.extractLsb' 0 1 = 0#1 then .barWait (w.extractLsb' 1 4)
  else if w.extractLsb' 18 7 = 0#7 ∧ w.extractLsb' 11 7 = 0#7 ∧ w.extractLsb' 7 4 = 0#4 ∧ w.extractLsb' 5 2 = 2#2 ∧ w.extractLsb' 0 1 = 0#1 then .barSync (w.extractLsb' 1 4)
  else if w.extractLsb' 11 7 = 0#7 ∧ w.extractLsb' 7 4 = 0#4 ∧ w.extractLsb' 5 2 = 3#2 ∧ w.extractLsb' 0 1 = 0#1 then .barCount (VOp.ofCode (w.extractLsb' 18 7)) (w.extractLsb' 1 4)
  else if w.extractLsb' 18 7 = 0#7 ∧ w.extractLsb' 11 7 = 0#7 ∧ w.extractLsb' 8 3 = 0#3 ∧ w.extractLsb' 7 1 = 1#1 ∧ w.extractLsb' 5 2 = 2#2 ∧ w.extractLsb' 1 4 = 0#4 ∧ w.extractLsb' 0 1 = 0#1 then .barGridSync
  else .illegalWord w

/-- Opcode 0x6D: ATTACH. -/
def decodeOp6D (w : BitVec 32) : Instr :=
  if w.extractLsb' 17 1 = 0#1 then .attach (SOp.ofCode (w.extractLsb' 18 7)) (w.extractLsb' 0 17)
  else .illegalWord w

/-- Opcode 0x6E: DETACH. -/
def decodeOp6E (w : BitVec 32) : Instr :=
  if w.extractLsb' 0 25 = 0#25 then .detach
  else .illegalWord w

/-- Opcode 0x70: LDG_W. -/
def decodeOp70 (w : BitVec 32) : Instr :=
  .ldgW (VOp.ofCode (w.extractLsb' 18 7)) (VOp.ofCode (w.extractLsb' 11 7)) (VOp.ofCode (w.extractLsb' 4 7)) (w.extractLsb' 0 4)

/-- Opcode 0x71: LDG_D. -/
def decodeOp71 (w : BitVec 32) : Instr :=
  .ldgD (VOp.ofCode (w.extractLsb' 18 7)) (VOp.ofCode (w.extractLsb' 11 7)) (VOp.ofCode (w.extractLsb' 4 7)) (w.extractLsb' 0 4)

/-- Opcode 0x72: LDG_Q. -/
def decodeOp72 (w : BitVec 32) : Instr :=
  .ldgQ (VOp.ofCode (w.extractLsb' 18 7)) (VOp.ofCode (w.extractLsb' 11 7)) (VOp.ofCode (w.extractLsb' 4 7)) (w.extractLsb' 0 4)

/-- Opcode 0x73: STG. -/
def decodeOp73 (w : BitVec 32) : Instr :=
  if w.extractLsb' 2 2 = 0#2 then .stg (VOp.ofCode (w.extractLsb' 18 7)) (VOp.ofCode (w.extractLsb' 11 7)) (VOp.ofCode (w.extractLsb' 4 7)) (w.extractLsb' 0 2)
  else .illegalWord w

/-- Opcode 0x74: LDS. -/
def decodeOp74 (w : BitVec 32) : Instr :=
  .lds (VOp.ofCode (w.extractLsb' 18 7)) (VOp.ofCode (w.extractLsb' 11 7)) (VOp.ofCode (w.extractLsb' 4 7)) (w.extractLsb' 0 4)

/-- Opcode 0x75: STS. -/
def decodeOp75 (w : BitVec 32) : Instr :=
  if w.extractLsb' 0 4 = 0#4 then .sts (VOp.ofCode (w.extractLsb' 18 7)) (VOp.ofCode (w.extractLsb' 11 7)) (VOp.ofCode (w.extractLsb' 4 7))
  else .illegalWord w

/-- Opcode 0x76: ATOM. -/
def decodeOp76 (w : BitVec 32) : Instr :=
  .atom (VOp.ofCode (w.extractLsb' 18 7)) (VOp.ofCode (w.extractLsb' 11 7)) (VOp.ofCode (w.extractLsb' 4 7)) (w.extractLsb' 0 4)

/-- Opcode 0x77: RED. -/
def decodeOp77 (w : BitVec 32) : Instr :=
  if w.extractLsb' 18 7 = 0#7 then .red (VOp.ofCode (w.extractLsb' 11 7)) (VOp.ofCode (w.extractLsb' 4 7)) (w.extractLsb' 0 4)
  else .illegalWord w

/-- Opcode 0x78: COMMIT, COMMIT_ALL. -/
def decodeOp78 (w : BitVec 32) : Instr :=
  if w.extractLsb' 18 7 = 0#7 ∧ w.extractLsb' 11 7 = 0#7 ∧ w.extractLsb' 10 1 = 0#1 ∧ w.extractLsb' 0 1 = 0#1 then .commit (Tag.ofCode (w.extractLsb' 5 5)) (w.extractLsb' 1 4)
  else if w.extractLsb' 18 7 = 0#7 ∧ w.extractLsb' 11 7 = 0#7 ∧ w.extractLsb' 10 1 = 1#1 ∧ w.extractLsb' 1 4 = 0#4 ∧ w.extractLsb' 0 1 = 0#1 then .commitAll (Tag.ofCode (w.extractLsb' 5 5))
  else .illegalWord w

/-- Opcode 0x79: FENCE. -/
def decodeOp79 (w : BitVec 32) : Instr :=
  if w.extractLsb' 18 7 = 0#7 ∧ w.extractLsb' 11 7 = 0#7 ∧ w.extractLsb' 5 6 = 0#6 ∧ w.extractLsb' 0 1 = 0#1 then .fence (w.extractLsb' 3 2) (w.extractLsb' 1 2)
  else .illegalWord w

/-- Opcode 0x7A: MONW. -/
def decodeOp7A (w : BitVec 32) : Instr :=
  .monw (VOp.ofCode (w.extractLsb' 18 7)) (VOp.ofCode (w.extractLsb' 11 7)) (VOp.ofCode (w.extractLsb' 4 7)) (w.extractLsb' 0 4)

/-- Opcode 0x7B: CPSTAGE, CPGO, CPRED, CPCANCEL, CPQ. -/
def decodeOp7B (w : BitVec 32) : Instr :=
  if w.extractLsb' 20 5 = 0#5 ∧ w.extractLsb' 13 7 = 0#7 ∧ w.extractLsb' 6 7 = 0#7 ∧ w.extractLsb' 0 6 = 0#6 then .cpstage
  else if w.extractLsb' 20 5 = 1#5 ∧ w.extractLsb' 6 7 = 0#7 ∧ w.extractLsb' 0 6 = 0#6 then .cpgo (SOp.ofCode (w.extractLsb' 13 7))
  else if w.extractLsb' 20 5 = 2#5 ∧ w.extractLsb' 6 7 = 0#7 ∧ w.extractLsb' 1 5 = 0#5 then .cpred (SOp.ofCode (w.extractLsb' 13 7)) (w.extractLsb' 0 1)
  else if w.extractLsb' 20 5 = 3#5 ∧ w.extractLsb' 13 7 = 0#7 ∧ w.extractLsb' 6 7 = 0#7 then .cpcancel (w.extractLsb' 0 6)
  else if w.extractLsb' 20 5 = 4#5 ∧ w.extractLsb' 6 7 = 0#7 then .cpq (SOp.ofCode (w.extractLsb' 13 7)) (w.extractLsb' 0 6)
  else .illegalWord w

/-- Opcode 0x7C: MCONV, MMA, MSET, MMASK, MLD, MST, MCVT, MZERO, MWAIT, MPROG, MALLOC, MFREE. -/
def decodeOp7C (w : BitVec 32) : Instr :=
  if w.extractLsb' 20 5 = 0#5 ∧ w.extractLsb' 4 2 = 0#2 then .mconv (SOp.ofCode (w.extractLsb' 13 7)) (SOp.ofCode (w.extractLsb' 6 7)) (w.extractLsb' 0 4)
  else if w.extractLsb' 20 5 = 1#5 ∧ w.extractLsb' 4 2 = 0#2 then .mma (SOp.ofCode (w.extractLsb' 13 7)) (SOp.ofCode (w.extractLsb' 6 7)) (w.extractLsb' 0 4)
  else if w.extractLsb' 20 5 = 2#5 then .mset (SOp.ofCode (w.extractLsb' 13 7)) (SOp.ofCode (w.extractLsb' 6 7)) (w.extractLsb' 0 6)
  else if w.extractLsb' 20 5 = 3#5 ∧ w.extractLsb' 6 7 = 0#7 then .mmask (SOp.ofCode (w.extractLsb' 13 7)) (w.extractLsb' 0 6)
  else if w.extractLsb' 20 5 = 4#5 ∧ w.extractLsb' 5 1 = 0#1 then .mld (SOp.ofCode (w.extractLsb' 13 7)) (SOp.ofCode (w.extractLsb' 6 7)) (w.extractLsb' 0 5)
  else if w.extractLsb' 20 5 = 5#5 ∧ w.extractLsb' 5 1 = 0#1 then .mst (SOp.ofCode (w.extractLsb' 13 7)) (SOp.ofCode (w.extractLsb' 6 7)) (w.extractLsb' 0 5)
  else if w.extractLsb' 20 5 = 5#5 ∧ w.extractLsb' 0 6 = 32#6 then .mcvt (VOp.ofCode (w.extractLsb' 13 7)) (SOp.ofCode (w.extractLsb' 6 7))
  else if w.extractLsb' 20 5 = 6#5 ∧ w.extractLsb' 13 7 = 0#7 ∧ w.extractLsb' 6 7 = 0#7 ∧ w.extractLsb' 5 1 = 0#1 then .mzero (w.extractLsb' 0 5)
  else if w.extractLsb' 20 5 = 7#5 ∧ w.extractLsb' 0 5 = 0#5 then .mwait (SOp.ofCode (w.extractLsb' 13 7)) (SOp.ofCode (w.extractLsb' 6 7)) (w.extractLsb' 5 1)
  else if w.extractLsb' 20 5 = 8#5 ∧ w.extractLsb' 6 7 = 0#7 ∧ w.extractLsb' 4 2 = 0#2 then .mprog (SOp.ofCode (w.extractLsb' 13 7)) (w.extractLsb' 0 4)
  else if w.extractLsb' 20 5 = 9#5 ∧ w.extractLsb' 6 7 = 0#7 then .malloc (SOp.ofCode (w.extractLsb' 13 7)) (w.extractLsb' 5 1) (w.extractLsb' 0 5)
  else if w.extractLsb' 20 5 = 10#5 ∧ w.extractLsb' 13 7 = 0#7 ∧ w.extractLsb' 6 7 = 0#7 ∧ w.extractLsb' 5 1 = 0#1 then .mfree (w.extractLsb' 0 5)
  else .illegalWord w

/-- Opcode 0x7D: TRACE, REGROUP, ENQ, ENQC, SVC, QSTAT. -/
def decodeOp7D (w : BitVec 32) : Instr :=
  if w.extractLsb' 20 5 = 0#5 then .trace (VOp.ofCode (w.extractLsb' 13 7)) (VOp.ofCode (w.extractLsb' 6 7)) (w.extractLsb' 5 1) (w.extractLsb' 4 1) (w.extractLsb' 0 4)
  else if w.extractLsb' 20 5 = 1#5 then .regroup (VOp.ofCode (w.extractLsb' 13 7)) (VOp.ofCode (w.extractLsb' 6 7)) (w.extractLsb' 0 6)
  else if w.extractLsb' 20 5 = 2#5 ∧ w.extractLsb' 5 1 = 0#1 then .enq (VOp.ofCode (w.extractLsb' 13 7)) (SOp.ofCode (w.extractLsb' 6 7)) (w.extractLsb' 4 1) (w.extractLsb' 0 4)
  else if w.extractLsb' 20 5 = 3#5 ∧ w.extractLsb' 5 1 = 0#1 then .enqc (SOp.ofCode (w.extractLsb' 13 7)) (SOp.ofCode (w.extractLsb' 6 7)) (w.extractLsb' 4 1) (w.extractLsb' 0 4)
  else if w.extractLsb' 20 5 = 4#5 ∧ w.extractLsb' 6 7 = 0#7 then .svc (VOp.ofCode (w.extractLsb' 13 7)) (w.extractLsb' 0 6)
  else if w.extractLsb' 20 5 = 5#5 ∧ w.extractLsb' 6 7 = 0#7 then .qstat (SOp.ofCode (w.extractLsb' 13 7)) (w.extractLsb' 4 2) (w.extractLsb' 0 4)
  else .illegalWord w

/-- Opcode 0x7E: TRAP, TRET, CSRR, CSRW, CFLUSH, CINV, CINV_DISCARD, PREF, TLBINV, TLBINV_ALL, RGNE, RGNL, OCRD, OCWR, LTRD, LTWR, LBRD, LBWR, HALT. -/
def decodeOp7E (w : BitVec 32) : Instr :=
  if w.extractLsb' 20 5 = 0#5 ∧ w.extractLsb' 13 7 = 0#7 ∧ w.extractLsb' 6 7 = 0#7 then .trap (w.extractLsb' 0 6)
  else if w.extractLsb' 20 5 = 1#5 ∧ w.extractLsb' 13 7 = 0#7 ∧ w.extractLsb' 6 7 = 0#7 ∧ w.extractLsb' 0 6 = 0#6 then .tret
  else if w.extractLsb' 20 5 = 2#5 then .csrr (SOp.ofCode (w.extractLsb' 13 7)) (w.extractLsb' 6 7) (w.extractLsb' 0 6)
  else if w.extractLsb' 20 5 = 3#5 then .csrw (SOp.ofCode (w.extractLsb' 13 7)) (w.extractLsb' 6 7) (w.extractLsb' 0 6)
  else if w.extractLsb' 20 5 = 4#5 ∧ w.extractLsb' 0 6 = 0#6 then .cflush (SOp.ofCode (w.extractLsb' 13 7)) (SOp.ofCode (w.extractLsb' 6 7))
  else if w.extractLsb' 20 5 = 5#5 ∧ w.extractLsb' 0 6 = 0#6 then .cinv (SOp.ofCode (w.extractLsb' 13 7)) (SOp.ofCode (w.extractLsb' 6 7))
  else if w.extractLsb' 20 5 = 5#5 ∧ w.extractLsb' 0 6 = 1#6 then .cinvDiscard (SOp.ofCode (w.extractLsb' 13 7)) (SOp.ofCode (w.extractLsb' 6 7))
  else if w.extractLsb' 20 5 = 6#5 ∧ w.extractLsb' 1 5 = 0#5 then .pref (SOp.ofCode (w.extractLsb' 13 7)) (SOp.ofCode (w.extractLsb' 6 7)) (w.extractLsb' 0 1)
  else if w.extractLsb' 20 5 = 7#5 ∧ w.extractLsb' 0 6 = 0#6 then .tlbinv (SOp.ofCode (w.extractLsb' 13 7)) (SOp.ofCode (w.extractLsb' 6 7))
  else if w.extractLsb' 20 5 = 7#5 ∧ w.extractLsb' 13 7 = 0#7 ∧ w.extractLsb' 6 7 = 0#7 ∧ w.extractLsb' 0 6 = 1#6 then .tlbinvAll
  else if w.extractLsb' 20 5 = 8#5 ∧ w.extractLsb' 6 7 = 0#7 ∧ w.extractLsb' 0 6 = 0#6 then .rgne (SOp.ofCode (w.extractLsb' 13 7))
  else if w.extractLsb' 20 5 = 9#5 ∧ w.extractLsb' 13 7 = 0#7 ∧ w.extractLsb' 6 7 = 0#7 ∧ w.extractLsb' 0 6 = 0#6 then .rgnl
  else if w.extractLsb' 20 5 = 10#5 ∧ w.extractLsb' 6 7 = 0#7 ∧ w.extractLsb' 4 2 = 0#2 then .ocrd (VOp.ofCode (w.extractLsb' 13 7)) (w.extractLsb' 0 4)
  else if w.extractLsb' 20 5 = 11#5 ∧ w.extractLsb' 6 7 = 0#7 ∧ w.extractLsb' 4 2 = 0#2 then .ocwr (VOp.ofCode (w.extractLsb' 13 7)) (w.extractLsb' 0 4)
  else if w.extractLsb' 20 5 = 12#5 ∧ w.extractLsb' 6 7 = 0#7 ∧ w.extractLsb' 3 3 = 0#3 then .ltrd (VOp.ofCode (w.extractLsb' 13 7)) (w.extractLsb' 0 3)
  else if w.extractLsb' 20 5 = 13#5 ∧ w.extractLsb' 6 7 = 0#7 ∧ w.extractLsb' 3 3 = 0#3 then .ltwr (VOp.ofCode (w.extractLsb' 13 7)) (w.extractLsb' 0 3)
  else if w.extractLsb' 20 5 = 14#5 ∧ w.extractLsb' 8 5 = 0#5 ∧ w.extractLsb' 5 1 = 0#1 then .lbrd (VOp.ofCode (w.extractLsb' 13 7)) (w.extractLsb' 6 2) (w.extractLsb' 4 1) (w.extractLsb' 0 4)
  else if w.extractLsb' 20 5 = 15#5 ∧ w.extractLsb' 8 5 = 0#5 ∧ w.extractLsb' 5 1 = 0#1 then .lbwr (VOp.ofCode (w.extractLsb' 13 7)) (w.extractLsb' 6 2) (w.extractLsb' 4 1) (w.extractLsb' 0 4)
  else if w.extractLsb' 20 5 = 16#5 ∧ w.extractLsb' 13 7 = 0#7 ∧ w.extractLsb' 6 7 = 0#7 ∧ w.extractLsb' 0 6 = 0#6 then .halt
  else .illegalWord w

/-- The instruction a word stands for. The word's operand codes and selectors are read as they stand; those that R101
excludes are found by Instr.wellFormed at check row 2 of Table 6-6. -/
def decode (w : BitVec 32) : Instr :=
  match (w.extractLsb' 25 7).toNat with
  | 0x00 => decodeOp00 w
  | 0x01 => decodeOp01 w
  | 0x02 => decodeOp02 w
  | 0x03 => decodeOp03 w
  | 0x04 => decodeOp04 w
  | 0x05 => decodeOp05 w
  | 0x06 => decodeOp06 w
  | 0x07 => decodeOp07 w
  | 0x08 => decodeOp08 w
  | 0x09 => decodeOp09 w
  | 0x0A => decodeOp0A w
  | 0x0B => decodeOp0B w
  | 0x0C => decodeOp0C w
  | 0x0D => decodeOp0D w
  | 0x0E => decodeOp0E w
  | 0x0F => decodeOp0F w
  | 0x10 => decodeOp10 w
  | 0x11 => decodeOp11 w
  | 0x12 => decodeOp12 w
  | 0x13 => decodeOp13 w
  | 0x14 => decodeOp14 w
  | 0x15 => decodeOp15 w
  | 0x16 => decodeOp16 w
  | 0x17 => decodeOp17 w
  | 0x18 => decodeOp18 w
  | 0x19 => decodeOp19 w
  | 0x1A => decodeOp1A w
  | 0x1B => decodeOp1B w
  | 0x1C => decodeOp1C w
  | 0x20 => decodeOp20 w
  | 0x21 => decodeOp21 w
  | 0x22 => decodeOp22 w
  | 0x23 => decodeOp23 w
  | 0x24 => decodeOp24 w
  | 0x25 => decodeOp25 w
  | 0x26 => decodeOp26 w
  | 0x27 => decodeOp27 w
  | 0x28 => decodeOp28 w
  | 0x29 => decodeOp29 w
  | 0x2A => decodeOp2A w
  | 0x2B => decodeOp2B w
  | 0x2C => decodeOp2C w
  | 0x2D => decodeOp2D w
  | 0x2E => decodeOp2E w
  | 0x2F => decodeOp2F w
  | 0x30 => decodeOp30 w
  | 0x31 => decodeOp31 w
  | 0x32 => decodeOp32 w
  | 0x33 => decodeOp33 w
  | 0x34 => decodeOp34 w
  | 0x35 => decodeOp35 w
  | 0x36 => decodeOp36 w
  | 0x37 => decodeOp37 w
  | 0x38 => decodeOp38 w
  | 0x39 => decodeOp39 w
  | 0x3C => decodeOp3C w
  | 0x3D => decodeOp3D w
  | 0x3E => decodeOp3E w
  | 0x3F => decodeOp3F w
  | 0x40 => decodeOp40 w
  | 0x41 => decodeOp41 w
  | 0x42 => decodeOp42 w
  | 0x43 => decodeOp43 w
  | 0x44 => decodeOp44 w
  | 0x45 => decodeOp45 w
  | 0x46 => decodeOp46 w
  | 0x47 => decodeOp47 w
  | 0x48 => decodeOp48 w
  | 0x49 => decodeOp49 w
  | 0x4A => decodeOp4A w
  | 0x4B => decodeOp4B w
  | 0x4C => decodeOp4C w
  | 0x4D => decodeOp4D w
  | 0x50 => decodeOp50 w
  | 0x51 => decodeOp51 w
  | 0x52 => decodeOp52 w
  | 0x53 => decodeOp53 w
  | 0x54 => decodeOp54 w
  | 0x55 => decodeOp55 w
  | 0x58 => decodeOp58 w
  | 0x59 => decodeOp59 w
  | 0x5A => decodeOp5A w
  | 0x5B => decodeOp5B w
  | 0x5C => decodeOp5C w
  | 0x5D => decodeOp5D w
  | 0x5E => decodeOp5E w
  | 0x5F => decodeOp5F w
  | 0x60 => decodeOp60 w
  | 0x61 => decodeOp61 w
  | 0x62 => decodeOp62 w
  | 0x63 => decodeOp63 w
  | 0x64 => decodeOp64 w
  | 0x65 => decodeOp65 w
  | 0x66 => decodeOp66 w
  | 0x67 => decodeOp67 w
  | 0x68 => decodeOp68 w
  | 0x69 => decodeOp69 w
  | 0x6A => decodeOp6A w
  | 0x6B => decodeOp6B w
  | 0x6C => decodeOp6C w
  | 0x6D => decodeOp6D w
  | 0x6E => decodeOp6E w
  | 0x70 => decodeOp70 w
  | 0x71 => decodeOp71 w
  | 0x72 => decodeOp72 w
  | 0x73 => decodeOp73 w
  | 0x74 => decodeOp74 w
  | 0x75 => decodeOp75 w
  | 0x76 => decodeOp76 w
  | 0x77 => decodeOp77 w
  | 0x78 => decodeOp78 w
  | 0x79 => decodeOp79 w
  | 0x7A => decodeOp7A w
  | 0x7B => decodeOp7B w
  | 0x7C => decodeOp7C w
  | 0x7D => decodeOp7D w
  | 0x7E => decodeOp7E w
  | _ => .illegalWord w

/-- The word of an instruction, laid out from the encoding tables of spec/06, 07, 08, 09, 12, 13, 17, 20, 22, 23 and 25.
An event of the machine has no word. -/
def encode : Instr → Option (BitVec 32)
  | .nop => some (0#7 ++ 0#25 : BitVec 32)
  | .yield => some (3#7 ++ 0#25 : BitVec 32)
  | .lit v => some (1#7 ++ 0#1 ++ v : BitVec 32)
  | .litHi b => some (1#7 ++ 1#1 ++ 0#16 ++ b : BitVec 32)
  | .blk r p => some (2#7 ++ 0#9 ++ r ++ p : BitVec 32)
  | .iadd d a b da db f => some (4#7 ++ d.code ++ a.code ++ b.code ++ da ++ db ++ f : BitVec 32)
  | .isub d a b da db f => some (5#7 ++ d.code ++ a.code ++ b.code ++ da ++ db ++ f : BitVec 32)
  | .imul d a b da db f => some (6#7 ++ d.code ++ a.code ++ b.code ++ da ++ db ++ f : BitVec 32)
  | .imad d a b da db f => some (7#7 ++ d.code ++ a.code ++ b.code ++ da ++ db ++ f : BitVec 32)
  | .imin d a b da db f => some (8#7 ++ d.code ++ a.code ++ b.code ++ da ++ db ++ f : BitVec 32)
  | .imax d a b da db f => some (9#7 ++ d.code ++ a.code ++ b.code ++ da ++ db ++ f : BitVec 32)
  | .iabs d a da f => some (10#7 ++ d.code ++ a.code ++ 0#7 ++ da ++ 0#1 ++ f : BitVec 32)
  | .andFam d a b da db f => some (11#7 ++ d.code ++ a.code ++ b.code ++ da ++ db ++ f : BitVec 32)
  | .orFam d a b da db f => some (12#7 ++ d.code ++ a.code ++ b.code ++ da ++ db ++ f : BitVec 32)
  | .xorFam d a b da db f => some (13#7 ++ d.code ++ a.code ++ b.code ++ da ++ db ++ f : BitVec 32)
  | .shiftFam d a b da db f => some (14#7 ++ d.code ++ a.code ++ b.code ++ da ++ db ++ f : BitVec 32)
  | .bfx d a b da db f => some (15#7 ++ d.code ++ a.code ++ b.code ++ da ++ db ++ f : BitVec 32)
  | .bfi d a b da db f => some (16#7 ++ d.code ++ a.code ++ b.code ++ da ++ db ++ f : BitVec 32)
  | .bitFam d a da f => some (17#7 ++ d.code ++ a.code ++ 0#7 ++ da ++ 0#1 ++ f : BitVec 32)
  | .icmp d a b da db f => some (18#7 ++ d.code ++ a.code ++ b.code ++ da ++ db ++ f : BitVec 32)
  | .icmpn d a b da db f => some (19#7 ++ d.code ++ a.code ++ b.code ++ da ++ db ++ f : BitVec 32)
  | .sel d a b da db => some (20#7 ++ d.code ++ a.code ++ b.code ++ da ++ db ++ 0#2 : BitVec 32)
  | .lea d a b da db f => some (21#7 ++ d.code ++ a.code ++ b.code ++ da ++ db ++ f : BitVec 32)
  | .addsubw d a b da db f => some (22#7 ++ d.code ++ a.code ++ b.code ++ da ++ db ++ f : BitVec 32)
  | .mulw d a b da db f => some (23#7 ++ d.code ++ a.code ++ b.code ++ da ++ db ++ f : BitVec 32)
  | .idiv d a b k => some (24#7 ++ d.code ++ a.code ++ b.code ++ k : BitVec 32)
  | .ndiv d a b k => some (25#7 ++ d.code ++ a.code ++ b.code ++ k : BitVec 32)
  | .shfl d a b da db f => some (26#7 ++ d.code ++ a.code ++ b.code ++ da ++ db ++ f : BitVec 32)
  | .vote d a da f => some (27#7 ++ d.code ++ a.code ++ 0#7 ++ da ++ 0#1 ++ f : BitVec 32)
  | .vred d a da f => some (28#7 ++ d.code ++ a.code ++ 0#7 ++ da ++ 0#1 ++ f : BitVec 32)
  | .iaddi d a imm da => some (32#7 ++ d.code ++ a.code ++ imm ++ da : BitVec 32)
  | .imuli d a imm da => some (33#7 ++ d.code ++ a.code ++ imm ++ da : BitVec 32)
  | .andi d a imm da => some (34#7 ++ d.code ++ a.code ++ imm ++ da : BitVec 32)
  | .ori d a imm da => some (35#7 ++ d.code ++ a.code ++ imm ++ da : BitVec 32)
  | .xori d a imm da => some (36#7 ++ d.code ++ a.code ++ imm ++ da : BitVec 32)
  | .shli d a m da => some (37#7 ++ d.code ++ a.code ++ 0#5 ++ m ++ da : BitVec 32)
  | .shri d a m da => some (38#7 ++ d.code ++ a.code ++ 0#5 ++ m ++ da : BitVec 32)
  | .sari d a m da => some (39#7 ++ d.code ++ a.code ++ 0#5 ++ m ++ da : BitVec 32)
  | .icmpieq d a imm da => some (40#7 ++ d.code ++ a.code ++ imm ++ da : BitVec 32)
  | .icmpilt d a imm da => some (41#7 ++ d.code ++ a.code ++ imm ++ da : BitVec 32)
  | .icmpine d a imm da => some (42#7 ++ d.code ++ a.code ++ imm ++ da : BitVec 32)
  | .movi d imm => some (43#7 ++ d.code ++ 0#7 ++ imm ++ 0#1 : BitVec 32)
  | .sadd d a b f => some (44#7 ++ d.code ++ a.code ++ b.code ++ 0#1 ++ 0#1 ++ f : BitVec 32)
  | .ssub d a b f => some (45#7 ++ d.code ++ a.code ++ b.code ++ 0#1 ++ 0#1 ++ f : BitVec 32)
  | .smul d a b f => some (46#7 ++ d.code ++ a.code ++ b.code ++ 0#1 ++ 0#1 ++ f : BitVec 32)
  | .slog d a b f => some (47#7 ++ d.code ++ a.code ++ b.code ++ 0#1 ++ 0#1 ++ f : BitVec 32)
  | .sshf d a b f => some (48#7 ++ d.code ++ a.code ++ b.code ++ 0#1 ++ 0#1 ++ f : BitVec 32)
  | .scmp d a b f => some (49#7 ++ d.code ++ a.code ++ b.code ++ 0#1 ++ 0#1 ++ f : BitVec 32)
  | .ssel d a b => some (50#7 ++ d.code ++ a.code ++ b.code ++ 0#1 ++ 0#1 ++ 0#2 : BitVec 32)
  | .saddi d a imm => some (51#7 ++ d.code ++ a.code ++ imm ++ 0#1 : BitVec 32)
  | .smovi d imm => some (52#7 ++ d.code ++ 0#7 ++ imm ++ 0#1 : BitVec 32)
  | .sminmax d a b f => some (53#7 ++ d.code ++ a.code ++ b.code ++ 0#1 ++ 0#1 ++ f : BitVec 32)
  | .sldc d a b k => some (54#7 ++ d.code ++ a.code ++ b.code ++ k : BitVec 32)
  | .sld d a b k => some (55#7 ++ d.code ++ a.code ++ b.code ++ k : BitVec 32)
  | .sst d a b w => some (56#7 ++ d.code ++ a.code ++ b.code ++ 0#2 ++ w : BitVec 32)
  | .sget d a b => some (57#7 ++ d.code ++ a.code ++ b.code ++ 0#1 ++ 0#1 ++ 0#2 : BitVec 32)
  | .fadd d a b da db f => some (60#7 ++ d.code ++ a.code ++ b.code ++ da ++ db ++ f : BitVec 32)
  | .fsub d a b da db f => some (61#7 ++ d.code ++ a.code ++ b.code ++ da ++ db ++ f : BitVec 32)
  | .fmul d a b da db f => some (62#7 ++ d.code ++ a.code ++ b.code ++ da ++ db ++ f : BitVec 32)
  | .ffma d a b da db f => some (63#7 ++ d.code ++ a.code ++ b.code ++ da ++ db ++ f : BitVec 32)
  | .fminmax d a b da db f => some (64#7 ++ d.code ++ a.code ++ b.code ++ da ++ db ++ f : BitVec 32)
  | .fcmp d a b da db f => some (65#7 ++ d.code ++ a.code ++ b.code ++ da ++ db ++ f : BitVec 32)
  | .fsign d a b da db f => some (66#7 ++ d.code ++ a.code ++ b.code ++ da ++ db ++ f : BitVec 32)
  | .frcp d a k => some (67#7 ++ d.code ++ a.code ++ 0#7 ++ k : BitVec 32)
  | .frsq d a k => some (68#7 ++ d.code ++ a.code ++ 0#7 ++ k : BitVec 32)
  | .fsqrt d a k => some (69#7 ++ d.code ++ a.code ++ 0#7 ++ k : BitVec 32)
  | .fexp2 d a k => some (70#7 ++ d.code ++ a.code ++ 0#7 ++ k : BitVec 32)
  | .flog2 d a k => some (71#7 ++ d.code ++ a.code ++ 0#7 ++ k : BitVec 32)
  | .fsin d a k => some (72#7 ++ d.code ++ a.code ++ 0#7 ++ k : BitVec 32)
  | .fcos d a k => some (73#7 ++ d.code ++ a.code ++ 0#7 ++ k : BitVec 32)
  | .fdiv d a b k => some (74#7 ++ d.code ++ a.code ++ b.code ++ k : BitVec 32)
  | .fdot2 d a b da db => some (75#7 ++ d.code ++ a.code ++ b.code ++ da ++ db ++ 0#2 : BitVec 32)
  | .idot4 d a b da db f => some (76#7 ++ d.code ++ a.code ++ b.code ++ da ++ db ++ f : BitVec 32)
  | .fround d a da f => some (77#7 ++ d.code ++ a.code ++ 0#7 ++ da ++ 0#1 ++ f : BitVec 32)
  | .radd d a b da db => some (80#7 ++ d.code ++ a.code ++ b.code ++ da ++ db ++ 0#2 : BitVec 32)
  | .rmul d a b da db => some (81#7 ++ d.code ++ a.code ++ b.code ++ da ++ db ++ 0#2 : BitVec 32)
  | .rmac d a b da db => some (82#7 ++ d.code ++ a.code ++ b.code ++ da ++ db ++ 0#2 : BitVec 32)
  | .rneg d a da => some (83#7 ++ d.code ++ a.code ++ 0#7 ++ da ++ 0#1 ++ 0#2 : BitVec 32)
  | .rcrt d a b da db f => some (84#7 ++ d.code ++ a.code ++ b.code ++ da ++ db ++ f : BitVec 32)
  | .renc d a g da => some (85#7 ++ d.code ++ a.code ++ 0#2 ++ g.code ++ da ++ 0#1 ++ 0#2 : BitVec 32)
  | .cvt d a r g da => some (88#7 ++ d.code ++ a.code ++ 0#3 ++ r ++ g.code ++ da : BitVec 32)
  | .tag d a g da => some (89#7 ++ d.code ++ a.code ++ 0#5 ++ g.code ++ da : BitVec 32)
  | .mov d a da => some (90#7 ++ d.code ++ a.code ++ 0#7 ++ da ++ 0#1 ++ 0#2 : BitVec 32)
  | .movD d a da => some (90#7 ++ d.code ++ a.code ++ 0#7 ++ da ++ 0#1 ++ 1#2 : BitVec 32)
  | .winb q => some (91#7 ++ 0#7 ++ 0#7 ++ 0#5 ++ q ++ 0#1 : BitVec 32)
  | .swinb q => some (92#7 ++ 0#7 ++ 0#7 ++ 0#4 ++ q ++ 0#1 : BitVec 32)
  | .grow d blocking g => some (93#7 ++ d.code ++ 0#7 ++ 0#1 ++ blocking ++ g ++ 0#1 : BitVec 32)
  | .shrink d g => some (94#7 ++ d.code ++ 0#7 ++ 0#2 ++ g ++ 0#1 : BitVec 32)
  | .ocmovRd d b => some (95#7 ++ d.code ++ 0#7 ++ b.code ++ 0#1 ++ 0#1 ++ 0#2 : BitVec 32)
  | .ocmovWr a b da => some (95#7 ++ 0#7 ++ a.code ++ b.code ++ da ++ 0#1 ++ 1#2 : BitVec 32)
  | .bra u disp => some (96#7 ++ 0#7 ++ u ++ disp : BitVec 32)
  | .bnz c u disp => some (97#7 ++ c.code ++ u ++ disp : BitVec 32)
  | .bz c u disp => some (98#7 ++ c.code ++ u ++ disp : BitVec 32)
  | .call c disp => some (99#7 ++ c.code ++ 0#1 ++ disp : BitVec 32)
  | .callr d a da f => some (100#7 ++ d.code ++ a.code ++ 0#7 ++ da ++ 0#1 ++ f : BitVec 32)
  | .jmpr a da => some (101#7 ++ 0#7 ++ a.code ++ 0#7 ++ da ++ 0#1 ++ 0#2 : BitVec 32)
  | .ret a da => some (102#7 ++ 0#7 ++ a.code ++ 0#7 ++ da ++ 0#1 ++ 0#2 : BitVec 32)
  | .exit => some (103#7 ++ 0#25 : BitVec 32)
  | .tryRegion f l disp => some (104#7 ++ 0#4 ++ f ++ l ++ 0#1 ++ disp : BitVec 32)
  | .endtry l => some (105#7 ++ 0#23 ++ l : BitVec 32)
  | .throwCode a da => some (106#7 ++ 0#7 ++ a.code ++ 0#7 ++ da ++ 0#1 ++ 0#2 : BitVec 32)
  | .rethrow => some (106#7 ++ 0#23 ++ 1#2 : BitVec 32)
  | .xget d sel => some (107#7 ++ d.code ++ 0#7 ++ sel ++ 0#1 : BitVec 32)
  | .barArrive b => some (108#7 ++ 0#7 ++ 0#7 ++ 0#4 ++ 0#2 ++ b ++ 0#1 : BitVec 32)
  | .barWait b => some (108#7 ++ 0#7 ++ 0#7 ++ 0#4 ++ 1#2 ++ b ++ 0#1 : BitVec 32)
  | .barSync b => some (108#7 ++ 0#7 ++ 0#7 ++ 0#4 ++ 2#2 ++ b ++ 0#1 : BitVec 32)
  | .barCount d b => some (108#7 ++ d.code ++ 0#7 ++ 0#4 ++ 3#2 ++ b ++ 0#1 : BitVec 32)
  | .barGridSync => some (108#7 ++ 0#7 ++ 0#7 ++ 0#3 ++ 1#1 ++ 2#2 ++ 0#4 ++ 0#1 : BitVec 32)
  | .attach c disp => some (109#7 ++ c.code ++ 0#1 ++ disp : BitVec 32)
  | .detach => some (110#7 ++ 0#25 : BitVec 32)
  | .ldgW d a b k => some (112#7 ++ d.code ++ a.code ++ b.code ++ k : BitVec 32)
  | .ldgD d a b k => some (113#7 ++ d.code ++ a.code ++ b.code ++ k : BitVec 32)
  | .ldgQ d a b k => some (114#7 ++ d.code ++ a.code ++ b.code ++ k : BitVec 32)
  | .stg d a b w => some (115#7 ++ d.code ++ a.code ++ b.code ++ 0#2 ++ w : BitVec 32)
  | .lds d a b k => some (116#7 ++ d.code ++ a.code ++ b.code ++ k : BitVec 32)
  | .sts d a b => some (117#7 ++ d.code ++ a.code ++ b.code ++ 0#4 : BitVec 32)
  | .atom d a b k => some (118#7 ++ d.code ++ a.code ++ b.code ++ k : BitVec 32)
  | .red a b k => some (119#7 ++ 0#7 ++ a.code ++ b.code ++ k : BitVec 32)
  | .commit g slot => some (120#7 ++ 0#7 ++ 0#7 ++ 0#1 ++ g.code ++ slot ++ 0#1 : BitVec 32)
  | .commitAll g => some (120#7 ++ 0#7 ++ 0#7 ++ 1#1 ++ g.code ++ 0#4 ++ 0#1 : BitVec 32)
  | .fence k scope => some (121#7 ++ 0#7 ++ 0#7 ++ 0#6 ++ k ++ scope ++ 0#1 : BitVec 32)
  | .monw d a b k => some (122#7 ++ d.code ++ a.code ++ b.code ++ k : BitVec 32)
  | .cpstage => some (123#7 ++ 0#5 ++ 0#7 ++ 0#7 ++ 0#6 : BitVec 32)
  | .cpgo a => some (123#7 ++ 1#5 ++ a.code ++ 0#7 ++ 0#6 : BitVec 32)
  | .cpred a any => some (123#7 ++ 2#5 ++ a.code ++ 0#7 ++ 0#5 ++ any : BitVec 32)
  | .cpcancel id => some (123#7 ++ 3#5 ++ 0#7 ++ 0#7 ++ id : BitVec 32)
  | .cpq d id => some (123#7 ++ 4#5 ++ d.code ++ 0#7 ++ id : BitVec 32)
  | .mconv a b k => some (124#7 ++ 0#5 ++ a.code ++ b.code ++ 0#2 ++ k : BitVec 32)
  | .mma a b k => some (124#7 ++ 1#5 ++ a.code ++ b.code ++ 0#2 ++ k : BitVec 32)
  | .mset a b n => some (124#7 ++ 2#5 ++ a.code ++ b.code ++ n : BitVec 32)
  | .mmask a n => some (124#7 ++ 3#5 ++ a.code ++ 0#7 ++ n : BitVec 32)
  | .mld a b t => some (124#7 ++ 4#5 ++ a.code ++ b.code ++ 0#1 ++ t : BitVec 32)
  | .mst a b t => some (124#7 ++ 5#5 ++ a.code ++ b.code ++ 0#1 ++ t : BitVec 32)
  | .mcvt a b => some (124#7 ++ 5#5 ++ a.code ++ b.code ++ 32#6 : BitVec 32)
  | .mzero t => some (124#7 ++ 6#5 ++ 0#7 ++ 0#7 ++ 0#1 ++ t : BitVec 32)
  | .mwait a b all => some (124#7 ++ 7#5 ++ a.code ++ b.code ++ all ++ 0#5 : BitVec 32)
  | .mprog a k => some (124#7 ++ 8#5 ++ a.code ++ 0#7 ++ 0#2 ++ k : BitVec 32)
  | .malloc a blocking c => some (124#7 ++ 9#5 ++ a.code ++ 0#7 ++ blocking ++ c : BitVec 32)
  | .mfree c => some (124#7 ++ 10#5 ++ 0#7 ++ 0#7 ++ 0#1 ++ c : BitVec 32)
  | .trace a b any root k => some (125#7 ++ 0#5 ++ a.code ++ b.code ++ any ++ root ++ k : BitVec 32)
  | .regroup a b n => some (125#7 ++ 1#5 ++ a.code ++ b.code ++ n : BitVec 32)
  | .enq a b blocking e => some (125#7 ++ 2#5 ++ a.code ++ b.code ++ 0#1 ++ blocking ++ e : BitVec 32)
  | .enqc a b blocking e => some (125#7 ++ 3#5 ++ a.code ++ b.code ++ 0#1 ++ blocking ++ e : BitVec 32)
  | .svc a fn => some (125#7 ++ 4#5 ++ a.code ++ 0#7 ++ fn : BitVec 32)
  | .qstat a sel e => some (125#7 ++ 5#5 ++ a.code ++ 0#7 ++ sel ++ e : BitVec 32)
  | .trap n => some (126#7 ++ 0#5 ++ 0#7 ++ 0#7 ++ n : BitVec 32)
  | .tret => some (126#7 ++ 1#5 ++ 0#7 ++ 0#7 ++ 0#6 : BitVec 32)
  | .csrr a b n => some (126#7 ++ 2#5 ++ a.code ++ b ++ n : BitVec 32)
  | .csrw a b n => some (126#7 ++ 3#5 ++ a.code ++ b ++ n : BitVec 32)
  | .cflush a b => some (126#7 ++ 4#5 ++ a.code ++ b.code ++ 0#6 : BitVec 32)
  | .cinv a b => some (126#7 ++ 5#5 ++ a.code ++ b.code ++ 0#6 : BitVec 32)
  | .cinvDiscard a b => some (126#7 ++ 5#5 ++ a.code ++ b.code ++ 1#6 : BitVec 32)
  | .pref a b l2 => some (126#7 ++ 6#5 ++ a.code ++ b.code ++ 0#5 ++ l2 : BitVec 32)
  | .tlbinv a b => some (126#7 ++ 7#5 ++ a.code ++ b.code ++ 0#6 : BitVec 32)
  | .tlbinvAll => some (126#7 ++ 7#5 ++ 0#7 ++ 0#7 ++ 1#6 : BitVec 32)
  | .rgne a => some (126#7 ++ 8#5 ++ a.code ++ 0#7 ++ 0#6 : BitVec 32)
  | .rgnl => some (126#7 ++ 9#5 ++ 0#7 ++ 0#7 ++ 0#6 : BitVec 32)
  | .ocrd a n => some (126#7 ++ 10#5 ++ a.code ++ 0#7 ++ 0#2 ++ n : BitVec 32)
  | .ocwr a n => some (126#7 ++ 11#5 ++ a.code ++ 0#7 ++ 0#2 ++ n : BitVec 32)
  | .ltrd a n => some (126#7 ++ 12#5 ++ a.code ++ 0#7 ++ 0#3 ++ n : BitVec 32)
  | .ltwr a n => some (126#7 ++ 13#5 ++ a.code ++ 0#7 ++ 0#3 ++ n : BitVec 32)
  | .lbrd a w m slot => some (126#7 ++ 14#5 ++ a.code ++ 0#5 ++ w ++ 0#1 ++ m ++ slot : BitVec 32)
  | .lbwr a w m slot => some (126#7 ++ 15#5 ++ a.code ++ 0#5 ++ w ++ 0#1 ++ m ++ slot : BitVec 32)
  | .halt => some (126#7 ++ 16#5 ++ 0#7 ++ 0#7 ++ 0#6 : BitVec 32)
  | .illegalWord _ => none
  | .parkcmdResume _ _ => none
  | .parkcmdKill _ _ => none
  | .parkcmdInject _ _ _ => none
  | .rgnstatDepthWrite _ _ _ => none
  | .fshnWrite _ _ _ => none
  | .dbgctlStop => none
  | .hostctlRearm => none
  | .nlctlRetrain _ => none
  | .svcdone _ _ => none
  | .bar0CsrAccess _ _ _ => none
  | .doorbell _ _ _ _ => none
  | .bar4Access _ _ _ _ => none
  | .cxlMemAccess _ _ _ _ => none
  | .hostSnoop _ => none
  | .hostLinkLoss => none
  | .functionLevelReset => none
  | .powerOnBringUp => none
  | .hostPortTrain _ => none
  | .d3hotEntry => none
  | .d0Return => none
  | .powerRemoval => none
  | .clockStep _ => none
  | .flitReceive _ _ => none
  | .nakReplay _ _ => none
  | .portRetrainOnReplays _ => none
  | .norozlinkReceiveWrite _ => none
  | .peerWindowAccess _ _ => none
  | .peerAck _ => none
  | .launchAdmission _ => none
  | .teamPlacement _ => none
  | .preemptForHead _ => none
  | .preempt _ => none
  | .teamStateSave _ => none
  | .teamResume _ => none
  | .trapEntry _ _ => none
  | .swapOut _ => none
  | .swapRestore _ => none
  | .hangDetect _ => none
  | .poolVictim _ => none
  | .poolGrant _ => none
  | .teamEnd _ => none
  | .catchEntry _ => none
  | .teamKill _ => none
  | .warpPark _ _ => none
  | .parkRecordPost _ => none
  | .loadLanding _ _ _ => none
  | .homeLoadServe _ _ => none
  | .homeUpdatePerform _ => none
  | .montoExpiry _ _ _ => none
  | .monitorPoll _ _ _ _ => none
  | .atomLeaseGrant _ _ => none
  | .atomLeaseReturn _ _ => none
  | .l2Evict _ => none
  | .l1Evict _ _ => none
  | .atomicopCompletion _ _ => none
  | .atomicopUr _ _ => none
  | .emulationReturn _ _ => none
  | .copyArrive _ _ => none
  | .copyComplete _ _ => none
  | .copyfault _ _ => none
  | .combineContribution _ => none
  | .combineDeliver _ => none
  | .matrixStart _ => none
  | .matrixComplete _ _ => none
  | .matrixFetchFault _ _ => none
  | .mpbWindowExpiry _ => none
  | .traceLanding _ _ _ => none
  | .sampleRecord _ => none
  | .resultProduced _ _ _ => none
  | .spareCoreTakeover _ => none
  | .svcBatchPost _ => none
  | .roundTripCompletion _ _ => none
  | .retrainingComplete _ => none
  | .configurationRequest => none
  | .copySourceRangeRead _ _ => none

/-- The number of an instruction's bits: one word (R97). -/
def wordBits : Nat := 32

/-- The instruction that the decoder reads from the bits w, numbered as spec/opcode_table.json numbers them. -/
def decodeTableWord (nbits w : Nat) : Option Instr :=
  if nbits ≤ wordBits then some (decode (BitVec.ofNat 32 w)) else none

end Sys2Proof
end

