-- ==== Sys2Proof/Config.lean ====
section
/-! DEFINITION. What an implementation fixes and the free values (log 6): opaque constants that no proof can see into.
A free value is one of these applied to State.free, a counter that the step which uses it advances. -/

namespace Sys2Proof.Config

/-- A bit the manual leaves open, one for each use (R96: the old or the new code word; R277: whether a byte was written). -/
opaque freeBit : Nat → Bool

/-- A 64-bit value the manual leaves open, one for each use. -/
opaque freeDword : Nat → Dword

/-- The strap that selects the CXL.mem and CXL.cache mode of the host link (R351, Table 24-3, HOSTCTL.CXL). -/
opaque strapCxl : Bool

/-- What the payload of a Norozlink write flit writes, bytes at addresses of this package's HBM (R214). The manual does not lay it out. -/
opaque norozlinkBytes : BitVec 1792 → List (Nat × Byte)

/-- The RED that a Norozlink write flit carries in place of bytes, if it does (R360 sends a RED as it does a store): operation of Table 12-7, address,
operand. -/
opaque norozlinkRed : BitVec 1792 → Option (Nat × Nat × Dword)

/-- The completion word of a Norozlink write flit, if it carries one (R214). -/
opaque norozlinkLast : BitVec 1792 → List (Nat × Byte)

/-- The bytes of this package's HBM for which the payload of a Norozlink read request asks: an address and a length (R360). -/
opaque norozlinkRead : BitVec 1792 → Nat × Nat

/-- The ATOM that the payload of a Norozlink atomic flit asks for (R360): operation of Table 12-6, address, operands. -/
opaque norozlinkAtomic : BitVec 1792 → Nat × Nat × Dword × Dword

/-- Where the service teams' warps start (R14, R368). The manual gives neither their program nor its place (log 88). -/
opaque firmwarePc : BitVec 64

/-- The word of the service teams' program at an address (log 88). -/
opaque firmwareWord : BitVec 64 → Word

/-- The bytes of a saved image, an offset into it given: the manual says what an image holds and not how it is laid out (log 109). -/
opaque imageByte : List Nat → Nat → Byte

/-- Where the state of a team goes in its context's save area, by context and handle: an address and a length (log 109). -/
opaque saveArea : Nat → Nat → Nat × Nat

/-- The part of a guard area of a size that a team with a handle uses: an offset and a length (log 109). -/
opaque guardPart : Nat → Nat → Nat × Nat

/-- The L2 home slices, by die and slice, that have failed since the reset before, and the HBM pseudo-channels, by stack and channel; one use
each (R367, log 110). -/
opaque failedSlices : Nat → List (Nat × Nat)

opaque failedChannels : Nat → List (Nat × Nat)

end Sys2Proof.Config
end

