-- ==== Sys2Proof/Machine/State.lean ====
section
/-! DEFINITION. The state of the VZ-N9440 as plain data, the reasons a step can stop, and the machine after reset.
State holds one warp with its team, core, context and launch in focus, and lists of all the others; Ops.focusOn moves
the focus. INVENTORY.md, heading State, lists every field with the rule of spec/ that names it. -/

namespace Sys2Proof.Machine

/-- Why a step stops without a next state. -/
inductive Fault where
  /-- Raised by an instruction of a warp when the warp in focus has no entry that can issue (R6, R27): the hardware never
  hands an instruction to such a warp. Safe. -/
  | noIssuer
  /-- Raised by a happening whose condition the state does not meet, such as the landing of a slot that is not INFLIGHT:
  the hardware never performs it there. Safe. -/
  | cannotHappen
deriving DecidableEq, Repr

/-- Why an instruction has no meaning. -/
inductive Refusal where
  /-- Raised by an arm of exec whose instruction has no meaning yet. Safe. -/
  | notModelled (mnemonic : String)
deriving DecidableEq, Repr

/-! ## Warps -/

/-- A main-file register: 32 lanes, its tag, and its stale and PENDING marks (R46, R55, R63, R80). -/
structure VReg where
  data : Lanes
  tag : Tag
  stale : Bool
  pending : Bool
deriving DecidableEq, Repr, Inhabited

/-- Where a register result of the window stands: live in the window, already in its bank, or no longer live (R53). -/
inductive Life where
  | live | reached | gone
deriving DecidableEq, Repr, Inhabited

/-- One register that an instruction of the window wrote. -/
structure WinReg where
  reg : Nat
  image : Lanes
  tag : Tag
  life : Life
deriving DecidableEq, Repr, Inhabited

/-- A destination outside the banks that a long operation writes when its result is produced (R52, R57). -/
inductive LateWrite where
  | cache (n : Nat) (data : Lanes) (mask : Mask) (tag : Tag)
  | lit (w : Word)
  | laneCc (mask bits : Mask)
  | scalar (r : Nat) (w : Word)
  | scalarCc (b : Bool)
  | vtRow (tile row : Nat) (data : Lanes) (mask : Mask)
deriving DecidableEq, Repr, Inhabited

/-- One entry of the result window (R52). latch is what ^n reads, zero in inactive lanes (R58); flags are the FRM flags
that the result sets when it is produced (R79); limit is the number of issued instructions of the warp, of Warp.pushed, from which the next one
waits for the result (R61). -/
structure WinEntry where
  seq : Nat
  valid : Bool
  produced : Bool
  latch : Lanes
  tag : Tag
  regs : List WinReg
  late : List LateWrite
  flags : Word
  limit : Option Nat := none
deriving DecidableEq, Repr, Inhabited

/-- An operand-cache slot (R57) or one entry of the latch shadow (R69). regs names the registers that a restored latch's
result reached. -/
structure Copy where
  data : Lanes
  tag : Tag
  valid : Bool
  regs : List Nat
deriving DecidableEq, Repr, Inhabited

inductive SlotState where
  | empty | inflight | landed
deriving DecidableEq, Repr, Inhabited

/-- Metadata width of a landing slot (R71); the width TRACE records is Q (R329). -/
inductive SlotKind where
  | w | d | q | scalar | trace
deriving DecidableEq, Repr, Inhabited

/-- What a decoupled load still has to do for one lane: the bytes at pa, virtual address va (R220). -/
structure LaneLoad where
  lane : Nat
  va : BitVec 64
  pa : Nat
deriving DecidableEq, Repr, Inhabited

/-- Where an instruction issued, which the samples of the requests of what it forks hold (R376): its PC, the top of its warp's region stack,
its warp and opcode, and the GTC. -/
structure Origin where
  pc : BitVec 64 := 0
  rgn : List Word := []
  warp : Nat := 0
  opcode : Nat := 0
  gtc : Nat := 0
deriving DecidableEq, Repr, Inhabited

/-- The walks of a TRACE that has issued (R329): the root's address, .any, and the eight ray registers of Table 22-4. -/
structure TraceJob where
  root : BitVec 64
  any : Bool
  rays : List Lanes
  origin : Origin := {}
deriving DecidableEq, Repr, Inhabited

/-- A landing slot (R62, R71): data holds up to 16 bytes a lane as four word images; order is the stamp of its fork, by which the
loads of one warp are performed on a line (R203); tile is the tile of a destination row of the VT view (R47). -/
structure Slot where
  state : SlotState
  kind : SlotKind
  dest : Nat
  mask : Mask
  data : Vector Lanes 4
  todo : List LaneLoad
  addrs : List LaneLoad
  poisoned : Mask
  lost : Mask
  trace : Option TraceJob := none
  order : Nat := 0
  tile : Nat := 0
deriving DecidableEq, Repr, Inhabited

/-- What keeps a frontier entry from issuing (R26, R188, R346). pooled is an entry restored with WAIT 3, which issues its request again and merges
with no other before (R26). -/
inductive EWait where
  | ready | monw (id : Nat) | parked | bar | pooled
  /-- In SVC fn with argument registers from reg on (R346); index is its ring entry once the batch is posted. -/
  | svc (fn reg : Nat) (index : Option Nat)
deriving DecidableEq, Repr, Inhabited

/-- A frontier entry (R26). id tells whether the entry issued last (R29). -/
structure Entry where
  id : Nat
  prio : BitVec 8
  pc : BitVec 64
  mask : Mask
  wait : EWait
deriving DecidableEq, Repr, Inhabited

/-- An entry of the frontier shadow (Table 9-14): st holds PRIO and WAIT. -/
structure ShadowEntry where
  pc : BitVec 64
  mask : Mask
  prio : BitVec 8
  wait : BitVec 3
deriving DecidableEq, Repr, Inhabited

/-- An open try region (Table 9-1). mask is the member lane mask of a warp region; ended holds the warps that wait in
ENDTRY, as pairs of team handle and warp index; stamp orders regions by time of opening (R174). -/
structure Region where
  catchPc : BitVec 64
  f : Bool
  mask : Mask
  stamp : Nat
  ended : List (Nat × Nat)
deriving DecidableEq, Repr, Inhabited

/-- A parked fault (R184, Table 9-7). seq is the park sequence number once the record has been posted (R393); next is
true for a STOP, whose PC is the word after the region instruction (R374); op is the matrix operation whose fault it is, 0 for none (R296). In a
pending one, second tells what it is: 0 an attributed fault, 1 an injected throw, 2 a fault of lanes of the program and 3 one of lanes of the trap
routine that came while the warp was parked. -/
structure Park where
  code : BitVec 16
  second : BitVec 16
  lanes : Mask
  pc : BitVec 64
  addr : BitVec 64
  seq : Option Nat
  since : Nat
  op : Nat := 0
deriving DecidableEq, Repr, Inhabited

/-- One lane of a MONW (R236, R237): value is some once the lane is satisfied, armed tells whether its slice had a free
monitor. -/
structure MonLane where
  lane : Nat
  va : BitVec 64
  pa : Nat
  cmp : Word
  armed : Bool
  nextPoll : Nat
  value : Option Word
deriving DecidableEq, Repr, Inhabited

/-- A MONW in progress. deadline is the GTC at which MONTO expires; since is the GTC at its issue; held holds the values
of a completion that waits for a swapped team (R39). -/
structure Monw where
  id : Nat
  cond : Nat
  dest : Nat
  mask : Mask
  lanes : List MonLane
  deadline : Option Nat
  since : Nat
  held : Option (Lanes × Mask)
deriving DecidableEq, Repr, Inhabited

/-- A blocking request of the pool queue (R67): GROW, MALLOC and CALLR.GROW with what they need to complete. -/
inductive PoolReq where
  | grow (d : SOp) (granules : Nat)
  | malloc (d : SOp) (tiles : Nat)
  | callr (d : VOp) (dead : Option VOp) (targets : List (Mask × BitVec 64)) (granules : Nat)
deriving DecidableEq, Repr, Inhabited

/-- What the whole warp waits for (Table 3-2). -/
inductive Hold where
  | none
  /-- In BAR WAIT or BAR SYNC, or in a second BAR ARRIVE, for generation gen of barrier b; again is true when the arrival
  is counted after that generation (R170). -/
  | bar (b gen : Nat) (again wait : Bool)
  | grid (gen : Nat)
  | endtry (level : Nat)
  | regroup
  | pool (req : PoolReq)
  | att
  /-- The wait that a trap routine interrupted has ended meanwhile (R188). -/
  | released
  /-- The REGROUP that a trap routine interrupted has ended in MISMATCH meanwhile (R331). -/
  | mismatch
deriving DecidableEq, Repr, Inhabited

/-- One group of a signature (R362): a write of data at va, by the warp with number owner or by an operation that it has forked. stamp is the
place of the instruction in program order, key that of the group within it. -/
structure SigGroup where
  owner : Nat
  stamp : Nat
  key : Nat
  va : BitVec 64
  data : List Byte
deriving DecidableEq, Repr, Inhabited

/-- The results of an SVC batch that is done, waiting until its warp can take them (R346): the ring index, the first register, the lanes, and
four words a lane. -/
structure SvcEnd where
  index : Nat
  reg : Nat
  mask : Mask
  words : List Lanes
deriving DecidableEq, Repr, Inhabited

/-- A warp. uid is the model's own number for it, by which what outlives it tells it from a later warp with its index. hold, holdSince and
savedHold say what all of it waits for; stalled that its last attempt to issue waited; issued and runCount serve R31; outs are results that
have left the window before they were produced; pendFault holds the faults that wait for their moment, oldest first (R184, R296); pushed
counts the instructions that have entered its window; rest tells that its YIELD keeps it from the next turn of its partition (R33); fshLast
is the entry of the frontier shadow that issued last before the trap, 32 where it is in none; rgn is the region stack, top first; lostLines
are host lines of discarded stores (R227); hostWritten tells that it has written to the host since its last system release; sig holds the
groups of its signature (R362); barGen the generation of its last arrival at each barrier; reissue, after ATOMUNSUP, the PC, the lanes on
which the instruction there acts again, and the lanes of the instruction that parked (R233); seen is the greatest tw, and seenPeer the
latest peer access, of the kept stores of other warps that its loads have returned, and seenHeld the numbers of those of them that another
team still held (R205, R363); mowed the tiles whose Team.mflags its next MWAIT takes (R294, R315); svcEnds the results of SVC batches that
are done (R346). -/
structure Warp where
  uid : Nat
  team : Nat
  idx : Nat
  role : Nat
  slot : Nat
  gone : Bool
  live : Mask
  frontier : List Entry
  lastEntry : Option Nat
  hold : Hold
  holdSince : Nat
  savedHold : Hold
  stalled : Bool
  runCount : Nat
  issued : Nat
  resident : Nat
  vvg : Nat
  wb : Nat
  swb : Nat
  vton : Bool
  vtsel : Nat
  bank : Vector VReg 256
  sregs : Vector Word 384
  spend : List Nat
  window : List WinEntry
  outs : List WinEntry
  shadow : Vector Copy 8
  oc : Vector Copy 16
  slots : Vector Slot 16
  trslot : BitVec 16
  lit : Word
  ccl : Mask
  ccs : Bool
  frm : Word
  monto : Word
  wct : Nat
  tcause : Word
  tepc : BitVec 64
  tdepth : Bool
  fshn : Nat
  fshsel : BitVec 5
  fsh : Vector ShadowEntry 32
  preempt : Bool
  halted : Bool
  tries : List Region
  jt : Nat
  jg : Nat
  record : Vector Word 16
  caught : Bool
  stopPc : Vector (BitVec 64) 32
  threw : Mask
  park : Option Park
  double : Option Park
  pendFault : List Park
  pushed : Nat
  rest : Bool
  fshLast : Nat
  monws : List Monw
  rgn : List Word
  rgnOvf : Bool
  rgnUnd : Bool
  stopReq : Bool
  lostLines : List (BitVec 64)
  hostWritten : Bool
  tgtctx : BitVec 16
  parktgt : Word
  parkcmd : Word
  sig : List SigGroup
  barGen : Vector (Option Nat) 16
  reissue : Option (BitVec 64 × Mask × Mask)
  seen : Nat
  seenPeer : Nat
  svcEnds : List SvcEnd
  seenHeld : List Nat
  mowed : Mask
deriving DecidableEq, Repr, Inhabited

/-! ## Updates -/

/-- What an update does to memory when its home performs it (R200): bytes at consecutive addresses, a reduction, an
atomic on an SC range with its result (R206), masked bytes of a written-back line (R208), or a merge of the bits of one byte
(R298). -/
inductive UpdateKind where
  | bytes (data : List Byte)
  | red (op : Nat) (b : Dword)
  | atomic (op : Nat) (b d : Dword) (id lane : Nat)
  | masked (data : List (Option Byte))
  | merge (data mask : Byte)
  /-- The elements of a reduction entry or contribution, each at its offset from the address: one update (R275). -/
  | reds (op : Nat) (elems : List (Nat × Dword))
deriving DecidableEq, Repr, Inhabited

/-- An update that has arrived at its home and is not yet performed, or that a paired or guarded team holds (R363). core, team and warp say
whose it is; kept marks a store that the storing core's L1 keeps (R201); asker is its requester (Table 25-4); alloc tells that the slice may
keep the data of the line (R211, R245); who is the copy or matrix operation that makes it, 0 for a warp's own; va is its virtual address; tw
its write completion time; copies are the copies of the switch entry that it delivers, by team and number, to which its tw returns (R275);
counted tells that a miss of it counts (R249); writers are the warps whose stores a write-back carries, as pairs of team and index (R227).
-/
structure Update where
  uid : Nat
  core : Nat
  team : Nat
  warp : Nat
  ctx : Nat
  pa : Nat
  va : BitVec 64
  kind : UpdateKind
  kept : Bool
  tw : Nat
  alloc : Bool := true
  who : Nat := 0
  asker : Nat := 0
  copies : List (Nat × Nat) := []
  counted : Bool := false
  writers : List (Nat × Nat) := []
deriving DecidableEq, Repr, Inhabited

/-! ## Teams -/

/-- A named barrier's current generation (R170): the warps that have arrived in it and the copies that have, with their tw
(R270); next and nextTw are those of copies that were tied to the next generation and are already done (R269); past is the
greatest tw of the generations that have completed. The copies still to arrive are those of Team.copies. -/
structure Barrier where
  gen : Nat
  arrived : Mask
  copies : Nat
  tw : Nat
  next : Nat
  nextTw : Nat
  past : Nat
deriving DecidableEq, Repr, Inhabited

/-- An accumulator tile (R89, R90): 16 rows of 16 slots of 64 bits, in row order. -/
structure Tile where
  slots : Vector Dword 256
  tag : Tag
  depth : Nat
  bound : Nat
deriving DecidableEq, Repr, Inhabited

/-- Where a team stands in the work-graph unit's care (R38, R39, R190, R338). -/
inductive TeamLife where
  | pooled | resident | preempting | saved | swapped | ending | gone
deriving DecidableEq, Repr, Inhabited

/-- States of a convergence register (Table 19-4). -/
inductive ConvState where
  | free | open | queued | running | faulted | done
deriving DecidableEq, Repr, Inhabited

/-- A convergence register (Table 19-4) with the snapshot of R289, the PC of each signer's MMA (R296) and the operation
that it has issued; owners holds each signer's number, origin where its last signer's MMA issued. -/
structure Conv where
  state : ConvState
  c : Nat
  d : Nat
  rp : Nat
  status : Nat
  members : Mask
  signed : Mask
  aaddr : BitVec 64
  baddr : BitVec 64
  charge : Nat
  afmt : Tag
  bfmt : Tag
  btrans : Bool
  astride : Word
  bstride : Word
  rowm : BitVec 16
  colm : BitVec 16
  depm : BitVec 16
  pcs : Vector (BitVec 64) 32
  owners : Vector Nat 32
  origin : Origin := {}
deriving DecidableEq, Repr, Inhabited

/-- A matrix operation (R305, R307): mma k runs register k. -/
inductive MatKind where
  | mma (k : Nat) | mld | mst | mzero
deriving DecidableEq, Repr, Inhabited

inductive MatPhase where
  | queued | running | faulted | done
deriving DecidableEq, Repr, Inhabited

/-- A matrix operation that has issued, or a register that was cleared, and that some signer has not yet joined (R294, R315). owner is the
number of its warp, owners those of an MMA's signers. base, stride, tag, the masks and the scales are those of an MLD or MST at its issue
(R289); rows counts the rows that are complete; avals and bvals are the operands that it has fetched, A by row and B by element (R296,
R305); status is that of Table 19-4; counted marks the warps whose MWAIT has counted it; joined tells that some warp has joined it. -/
structure MatOp where
  id : Nat
  kind : MatKind
  c : Nat
  d : Nat
  warp : Nat
  signers : Mask
  owner : Nat
  pc : BitVec 64
  base : BitVec 64
  stride : Word
  tag : Tag
  rowm : BitVec 16
  colm : BitVec 16
  rs : Vector Dword 16
  cs : Vector Dword 16
  phase : MatPhase
  rows : Nat
  charge : Nat
  passed : Nat
  flags : Word
  tw : Nat
  status : Nat
  counted : Mask
  holder : Option Nat
  joined : Bool := false
  avals : List (Nat × List Nat) := []
  bvals : Option (List Nat) := none
  owners : Vector Nat 32 := Vector.replicate 32 0
  origin : Origin := {}
deriving DecidableEq, Repr, Inhabited

/-- A copy descriptor (Table 17-2). mbz tells that a must-be-zero field is not zero. -/
structure CopyDesc where
  gaddr : BitVec 64
  gstride : Word
  soff : Nat
  len : Nat
  rows : Nat
  sstride : Nat
  dir : Bool
  bar : Nat
  barOn : Bool
  cid : Nat
  stag : Tag
  dtag : Tag
  op : Nat
  stage : Nat
  gstep : BitVec 24
  mbz : Bool
deriving DecidableEq, Repr, Inhabited

/-- A copy in flight (R266, R268 to R270). g0 is the address of global row 0; owner is the number of the forking warp; begun tells that the
engine has begun it (R263), done which of its parts have moved; srcRead tells that its scratchpad hull has been read, and source holds what was
read ahead; moved tells that it has no byte left to move; pending counts its contributions without a tw (R275); stamp is its place in fork order;
cb4 and cb8 are the codebooks at the fork; nth is, for a CPRED of a paired team, its place among those of its warp, by which the secondary's
takes what the primary's comes to (R364). -/
structure CopyOp where
  uid : Nat
  desc : CopyDesc
  g0 : BitVec 64
  red : Bool
  anyorder : Bool
  warp : Nat
  owner : Nat
  pc : BitVec 64
  tie : Option (Nat × Nat)
  range : Bool
  begun : Bool
  done : List Nat
  source : Option (List Byte)
  srcRead : Bool
  moved : Bool
  pending : Nat
  tw : Nat
  stamp : Nat
  cb4 : List (BitVec 16)
  cb8 : List (BitVec 16)
  origin : Origin := {}
  nth : Option Nat := none
deriving DecidableEq, Repr, Inhabited

/-- What a primary twin's CPRED has come to, for its secondary (R364): the index of its warp, its place among that warp's, and its tw, or the
address at which it has failed. -/
structure PredEnd where
  warp : Nat
  nth : Nat
  tw : Nat
  failed : Option (BitVec 64)
deriving DecidableEq, Repr, Inhabited

/-- A REGROUP issue (R331): the key register and the carried registers by absolute number. -/
structure RegroupIssue where
  warp : Nat
  key : Nat
  first : Nat
  n : Nat
deriving DecidableEq, Repr, Inhabited

/-- What a checkpoint of a guarded team holds (R365; DESIGN CHOICE of what it holds besides: log 94), and the barrier whose generation it
belongs to. -/
structure Checkpoint where
  warps : List Warp
  scratch : List Host.Cell
  tiles : List Tile
  bars : Vector Barrier 16
  tries : List Region
  convs : Vector Conv 16
  mops : List MatOp
  regroups : List RegroupIssue
  mflags : Vector Word 32
  barrier : Nat
deriving DecidableEq, Repr, Inhabited

/-- A team. sig holds the groups of the signatures of warps that have left (R362); fed the nodes that it has enqueued to (R341); inbox what
its primary twin has executed for it (R364), by warp; doomed the kill that awaits it (R177); preds counts the CPREDs that each warp index
has forked, and predEnds holds what the primary's have come to (R364); copyTw the tw of copies by id (R278); out holds the held updates that
are to be performed and have not been sent yet, oldest first (R205, R363); mflags the FRM flags of MMAs that every warp then present has
joined, by tile D (R315). -/
structure Team where
  handle : Nat
  index : Nat
  ctx : Nat
  launch : Nat
  node : Option Nat
  serial : Nat
  prio : Nat
  die : Nat
  core : Nat
  place : Nat
  p0 : Nat
  life : TeamLife
  service : Bool
  lanefill : Nat
  threads : Nat
  budget0 : Nat
  budget1 : Nat
  nprod : Nat
  admitted : Nat
  placedAt : Nat
  scratchSize : Nat
  scratch : List Host.Cell
  consts : List Byte
  bars : Vector Barrier 16
  tries : List Region
  tiles : List Tile
  mfmt : BitVec 11
  mastr : Word
  mbstr : Word
  rowm : BitVec 16
  colm : BitVec 16
  depm : BitVec 16
  mrs : Vector Dword 16
  mcs : Vector Dword 16
  mcb4 : List (BitVec 16)
  mcb8 : List (BitVec 16)
  convs : Vector Conv 16
  mops : List MatOp
  mtw : Nat
  mflags : Vector Word 32
  mpbteam : Word
  copies : List CopyOp
  copyTw : List (Nat × Nat)
  sched : List CopyDesc
  period : Nat
  stage : BitVec 16
  trroot0 : Dword
  trroot1 : Dword
  regroups : List RegroupIssue
  fed : List Nat
  paired : Bool
  guarded : Bool
  twin : Option Nat
  primary : Bool
  inbox : List (Nat × List Dword)
  checkpoint : Option Checkpoint
  rollbacks : Nat
  sig : List SigGroup
  held : List Update
  out : List Update
  sideEffects : Bool
  doomed : Option (BitVec 16 × BitVec 64 × BitVec 64)
  preds : Vector Nat 32
  predEnds : List PredEnd
deriving DecidableEq, Repr, Inhabited

/-! ## Home slices and cores -/

/-- What a home slice keeps for one line (R199, R200, R206): excl is the core that holds the exclusive write lease and
the GTC by which it returns the line; cached tells whether the slice holds the line's data. -/
structure HomeLine where
  line : Nat
  lmax : Nat
  lastTw : Nat
  pend : List Update
  excl : Option (Nat × Nat)
  cached : Bool
deriving DecidableEq, Repr, Inhabited

/-- An L1 line (R198, R207): expiry is some on HC lines; present and dirty mark bytes; cls is the class it was filled
under; pinned marks a line held dirty by R212; writers are the warps, as pairs of team and index, whose stores its dirty bytes are (R227). -/
structure L1Line where
  line : Nat
  ctx : Nat
  va : BitVec 64
  data : Vector Byte 128
  present : BitVec 128
  dirty : BitVec 128
  expiry : Option Nat
  cls : Nat
  pinned : Bool
  writers : List (Nat × Nat) := []
deriving DecidableEq, Repr, Inhabited

/-- A cached translation (R243, R244): the page that starts at va has size bytes and stands at pa; pte is its leaf, at
physical address ptePa; pipe tells which load pipe of the core holds it: 0 the core itself, 1 the matrix engine, 2 the copy engine, 3 the
traversal engine. -/
structure Tlb where
  ctx : Nat
  va : Nat
  size : Nat
  pa : Nat
  pte : Dword
  ptePa : Nat
  pipe : Nat := 0
deriving DecidableEq, Repr, Inhabited

/-- The attributes of a RAT entry (Table 13-2). -/
structure Rat where
  base : Nat
  limit : Nat
  cls : Nat
  lease : Nat
  route : Nat
  fallback : Bool
  noalloc : Bool
  count : Bool
  transit : Bool
  wblock : Bool
  owner : Nat
deriving DecidableEq, Repr, Inhabited

/-- The way a lane of an ATOM or RED is carried out (R206, R232, R360, Table 12-8). -/
inductive AtomRoute where
  | lease | home | peer | host | emulate
deriving DecidableEq, Repr, Inhabited

/-- One lane of an ATOM or RED that is still to be performed; fallback is that of its range (R233); begun tells that it is on its way. -/
structure AtomLane where
  lane : Nat
  va : BitVec 64
  pa : Nat
  b : Dword
  d : Dword
  route : AtomRoute
  fallback : Bool
  begun : Bool := false
deriving DecidableEq, Repr, Inhabited

/-- An ATOM in flight, or a RED with lanes on a host route (R206, R232, R233). seq names the ATOM's window entry; held tells
that its warp stays STALLED at it; results are the old values of the lanes that are done; mask holds the lanes it acts on
and entry those of the entry that issued it; dest and tag are an ATOM's D and its tag. who is the reduction copy whose elements the lanes are
(R275), 0 for a warp's own. lost holds, after link loss, the lanes that fault with HOSTLOST once the others are done, and the address (R176, R354). -/
structure AtomOp where
  id : Nat
  team : Nat
  warp : Nat
  seq : Nat
  red : Bool
  op : Nat
  held : Bool
  lanes : List AtomLane
  results : List (Nat × Dword)
  mask : Mask
  pc : BitVec 64
  dest : VOp
  tag : Tag
  entry : Mask := 0
  who : Nat := 0
  lost : Option (Mask × BitVec 64) := none
deriving DecidableEq, Repr, Inhabited

/-- A marked line request (R376): what its sample record holds. pa is the line by physical number; switch, link, slice and memory tell which
hops besides the L1 it passes through; sent is the stamp after its issue, by which its return is known. -/
structure Mark where
  origin : Origin
  line : BitVec 64
  ctx : Nat
  team : Nat
  pa : Option Nat
  switch : Bool
  link : Bool
  slice : Bool
  memory : Bool
  sent : Nat
deriving DecidableEq, Repr, Inhabited

/-- A line that a PREF fetches and whose request waits (R206, R239): at the home of a line under an exclusive lease, for a walk, or for TRANSIT.
priv tells that its warp was privileged, so that a miss of it does not count (R249). -/
structure PrefReq where
  team : Nat
  va : BitVec 64
  l2 : Bool
  priv : Bool
  origin : Origin := {}
deriving DecidableEq, Repr, Inhabited

/-- A core. prefs holds the requests of PREFs that wait. charged counts the units started in the current power-budget window (R302); counts
holds the line requests counted for each context (R376); lastIssue the stamp of each partition's last issue (R31). -/
structure Core where
  num : Nat
  lastIssue : Vector Nat 4
  takenOver : Bool
  lines : List L1Line
  tlb : List Tlb
  rats : List (Nat × List Rat)
  atoms : List AtomOp
  mpblim : BitVec 16
  mpbcore : Word
  mpbstall : Word
  charged : Nat
  counts : List (Nat × Nat)
  marks : List Mark
  prefs : List PrefReq := []
deriving DecidableEq, Repr, Inhabited

/-- A 32-byte-record ring (Table 23-6). -/
structure Ring where
  base : Dword
  size : BitVec 16
  head : BitVec 16
  tail : BitVec 16
deriving DecidableEq, Repr, Inhabited

structure Ctx where
  id : Nat
  tvb : BitVec 64
  root : BitVec 44
  ratb : Dword
  ratn : BitVec 11
  hangth : Word
  sampn : Word
  evq : Ring
  evqdrop : Word
  guardb : Dword
  guardsz : Word
  rgnbrk : Word
  hangg : Dword
  hanggsz : Word
  lastBusy : Nat
  stopped : Bool
deriving DecidableEq, Repr, Inhabited

/-- What one node of a graph, or a grid, launches (Tables 23-2 and 23-4), with its constant data as admitted. -/
structure NodeDef where
  entry : BitVec 64
  recw : Nat
  batch : Nat
  threads : Nat
  nprod : Nat
  bud0 : Nat
  bud1 : Nat
  lfill : Nat
  scratch : Nat
  tiles : Nat
  consts : List Byte
  edges : List (BitVec 8)
deriving DecidableEq, Repr, Inhabited

/-- The first kill of a launch (Table 23-7). -/
structure Kill where
  code : BitVec 16
  pc : BitVec 64
  addr : BitVec 64
deriving DecidableEq, Repr, Inhabited

/-- A launch: the fields of its record that the machine uses after admission (Table 23-2), its code as admitted (R96)
with the translation root of that moment, its node queues (R341), and what its teams have come to (Table 23-7). id is the model's
own number; name is the launch id of R334; schedBase is where its schedule stands (R271); firmware tells that it stands for the program of the service
teams, which no queue launches (R14). -/
structure Launch where
  id : Nat
  name : Nat
  ctx : Nat
  prio : Nat
  coop : Bool
  paired : Bool
  guarded : Bool
  graph : Bool
  dies : BitVec 4
  teams : Nat
  args : List Byte
  nodes : List NodeDef
  schedBase : BitVec 64
  sched : List CopyDesc
  period : Nat
  compl : BitVec 64
  admitted : Nat
  image : List Host.Cell
  imageRoot : Nat
  gridGen : Nat
  gridArrived : List (Nat × Nat)
  gtries : List Region
  queues : List (List (List Word))
  serials : List Nat
  ended : Nat
  killed : Nat
  firstKill : Option Kill
  finished : Bool
  firmware : Bool := false
deriving DecidableEq, Repr, Inhabited

/-- A team that waits in a ready pool (R338): a new one, or the one with handle saved that was preempted or swapped out. -/
structure Pooled where
  prio : Nat
  admitted : Nat
  index : Nat
  launch : Nat
  node : Option Nat
  serial : Nat
  records : List (List Word)
  saved : Option Nat
deriving DecidableEq, Repr, Inhabited

/-- An access counter of a 64 KiB page (R249): its place in the table, and the virtual address of the page at its first counted miss. -/
structure AccessCounter where
  ctx : Nat
  page : Nat
  count : Nat
  notified : Bool
  index : Nat
  va : BitVec 64
deriving DecidableEq, Repr, Inhabited

/-- An outstanding SVC batch (R346 to R348). mask is its active mask, reg its first argument register. -/
structure Batch where
  index : Nat
  team : Nat
  warp : Nat
  mask : Mask
  reg : Nat
  cancel : Bool
deriving DecidableEq, Repr, Inhabited

/-- A 32-byte record that does not park and waits for room in the service queue (R232, R233, R348). op is the operation, or the
contribution, that it sends to emulation. -/
structure Notice where
  code : BitVec 16
  ctx : Nat
  core : Nat
  warp : Nat
  team : Nat
  lanes : Mask
  pc : BitVec 64
  addr : BitVec 64
  op : Nat
deriving DecidableEq, Repr, Inhabited

/-- The log of one slice (R377): the next entry it writes, and its entries as four words. -/
structure SliceLog where
  slice : Nat
  next : Nat
  entries : List (Nat × Vector Word 4)
deriving DecidableEq, Repr, Inhabited

/-- The registers and tables of a die. emul holds, for each emulation record of the service queue, in queue order,
the operation and the lanes that it names (R232). -/
structure Die where
  svq : Ring
  svcq : Ring
  smpq : Ring
  acnq : Ring
  smpdrop : Word
  acndrop : Word
  pacthr : BitVec 16
  counters : List AccessCounter
  noteSeq : BitVec 16
  parkSeq : Nat
  svcSeq : BitVec 16
  svcDone : BitVec 16
  notices : List Notice
  batches : List Batch
  cmbwin : BitVec 12
  cmbhit : Word
  cmbovf : Word
  slEn : Bool
  slOps : BitVec 7
  slflo : Dword
  slfhi : Dword
  slsel : BitVec 20
  logs : List SliceLog
  pool : List Pooled
  nodeUsed : Nat
  emul : List (Nat × Mask)
deriving DecidableEq, Repr, Inhabited

/-- A flit that a port has accepted (R358), with its type, context and payload (Table 24-5). -/
structure Accepted where
  kind : Nat
  ctx : Nat
  stream : Nat
  payload : BitVec 1792
deriving DecidableEq, Repr, Inhabited

/-- A Norozlink port (R357 to R361, Table 24-6). seq is the SEQ of the next flit to send, acked that of the last one acknowledged, buffer
the replay buffer; nak is the NAK that it has to answer with; times holds the GTC of recent replays, laneErrs the lane and the GTC of recent
corrected errors; bad marks the lanes whose count has passed LANETHR; spared is the part of the sparing map that says which lanes are used
(R367); streams holds the greatest tw of each stream's updates, by which they are
performed in the order sent (R361); owed holds the answers to flits that are carried out: GTC from which each may be sent, type, context and
stream. -/
structure Port where
  rate : BitVec 2
  lanethr : BitVec 8
  cur : BitVec 2
  lanes : BitVec 9
  replay : Word
  seq : BitVec 8
  acked : BitVec 8
  buffer : List (BitVec 8 × BitVec 2048)
  expected : BitVec 8
  nak : Bool
  accepted : List Accepted
  times : List Nat
  laneErrs : List (Nat × Nat)
  bad : BitVec 9
  spared : BitVec 9
  retraining : Bool
  streams : List (Nat × Nat)
  owed : List (Nat × Nat × Nat × Nat)
deriving DecidableEq, Repr, Inhabited

/-- What an access to the peer window does (R360): a line is read for a landing slot or for an engine; an update is performed; one lane
of an ATOM executes; a completion record is written, whose event, by context, code, launch name and address, follows its acknowledgement
(R215, R349). -/
inductive PeerWhat where
  | load (slot : Nat)
  | update (u : Update)
  | atomic (op lane : Nat) (wide : Bool)
  | report (u : Update) (ctx code name : Nat) (compl : BitVec 64)
deriving DecidableEq, Repr, Inhabited

/-- An access to the peer window that the peer has not yet answered (R360). pa is the address of the access. -/
structure PeerOp where
  id : Nat
  port : Nat
  core : Nat
  team : Nat
  warp : Nat
  va : BitVec 64
  pa : Nat
  what : PeerWhat
  sent : Bool
deriving DecidableEq, Repr, Inhabited

/-- How the last host request was answered (R351 to R356, Table 24-2): retry is Configuration Request Retry Status. -/
inductive Reply where
  | none | data | unsupported | retry
deriving DecidableEq, Repr, Inhabited

/-- Package registers and ports. lost, linkUp and width are HOSTCTL's; answer is what the last host read returned and
reply how it was answered; stage is the bring-up step reached (Table 24-8); clock is in MHz; queues counts
the records that each host queue has admitted since its EN was set; served is the queue of each PRIO served last (R334); steps holds
the GTC of each clock step and the clock before it, newest first (R369); vanished holds the contexts that a Function Level Reset has ended
(R356); slices and channels are the part of the sparing map that the Illite die keeps for L2 home slices, by die and slice, and for HBM
pseudo-channels, by stack and channel (R367). -/
structure Pkg where
  qtbl : Dword
  linkLost : Bool
  linkUp : Bool
  width : BitVec 5
  dberr : Word
  pwrcap : BitVec 12
  dbgsel : BitVec 29
  dbgwarp : BitVec 5
  clock : Nat
  stage : Nat
  d3hot : Bool
  flr : Bool
  answer : List Byte
  reply : Reply
  ports : Vector Port 16
  peers : List PeerOp
  queues : List (Nat × Nat)
  served : Vector Nat 24
  steps : List (Nat × Nat)
  vanished : List Nat
  slices : List (Nat × Nat)
  channels : List (Nat × Nat)
deriving DecidableEq, Repr, Inhabited

/-- A contribution of a reduction copy on its way to a switch (R274, R275): bytes of one line. -/
structure Contribution where
  id : Nat
  team : Nat
  copy : Nat
  core : Nat
  ctx : Nat
  line : Nat
  va : BitVec 64
  op : Nat
  anyorder : Bool
  host : Bool
  route : Nat
  fallback : Bool
  data : List (Option Byte)
deriving DecidableEq, Repr, Inhabited

/-- An entry of a combining switch (R275): which copies contributed, and the bytes of its line that it covers. -/
structure SwitchEntry where
  id : Nat
  die : Nat
  cluster : Nat
  ctx : Nat
  line : Nat
  va : BitVec 64
  op : Nat
  opened : Nat
  data : List (Option Byte)
  copies : List (Nat × Nat)
deriving DecidableEq, Repr, Inhabited

/-! ## Throws -/

/-- A throwing lane (R180, R181). own tells that an instruction of the lane throws; an engine or the comparison of twins throws from lanes that may
be at anything (R192, R280). stopAt is the stop PC of a lane that has thrown in its warp's trap routine, which goes on to its TRET (R179). -/
structure Thrower where
  team : Nat
  teamIndex : Nat
  warp : Nat
  lane : Nat
  tid : Word
  code : BitVec 16
  f : Bool
  pc : BitVec 64
  addr : BitVec 64
  own : Bool := true
  stopAt : Option (BitVec 64) := none
deriving DecidableEq, Repr, Inhabited

/-- The lanes of one warp that a delivery has stopped, with their stop PCs (R179). -/
structure Stopped where
  team : Nat
  warp : Nat
  lanes : Mask
  pcs : Vector (BitVec 64) 32
deriving DecidableEq, Repr, Inhabited

/-- An open record (R178, R180): the catching region by level and stamp, its team or launch, and what steps 2 to 6 found.
swept is true once steps 2 to 7 have acted on every member. -/
structure Delivery where
  id : Nat
  level : Nat
  team : Nat
  warp : Nat
  launch : Nat
  stamp : Nat
  region : Region
  gtc : Nat
  throwers : List Thrower
  stopped : List Stopped
  swept : Bool
  ncopy : Nat
  barmask : BitVec 16
deriving DecidableEq, Repr, Inhabited

/-- What the rest of the world, or the order in which agents act, makes happen next (log 1): an event row of the opcode table, the turn of a
partition of a core to issue, the movement of one part of a copy (R263), the fetch of a matrix operation's operands (R301), the sending of
the next update that a team has ceased to hold (R205, R363), the request of a PREF that waits (R239), or the passing of time. -/
inductive Happening where
  | event (i : Instr)
  | turn (core partition : Nat)
  | move (team copy part : Nat)
  | fetch (team op : Nat)
  | send (team : Nat)
  | pref (core place : Nat)
  | wait (ns : Nat)
deriving DecidableEq, Repr, Inhabited

/-- The machine. warp, team, core, ctx and launch are in focus; the lists hold all others. -/
structure State where
  agenda : List Happening
  warp : Warp
  team : Team
  core : Core
  ctx : Ctx
  launch : Launch
  warps : List Warp
  teams : List Team
  cores : List Core
  ctxs : List Ctx
  launches : List Launch
  dies : Vector Die 4
  pkg : Pkg
  mem : List Host.Cell
  home : List HomeLine
  evicted : List (Nat × Nat)
  poison : List Nat
  contributions : List Contribution
  switchEntries : List SwitchEntry
  deliveries : List Delivery
  gtc : Nat
  free : Nat
  nextId : Nat
  turns : Nat
deriving DecidableEq, Repr, Inhabited

/-! ## Reset

The package has just been powered (Table 24-8, before step 1): every register holds the value of the Reset column of its
table; no warp, team or launch exists. A register without a reset value in spec/ holds 0 (log 3). -/

/-- A register of a new warp: stale (R23); its bits and tag are those of log 3. -/
def VReg.blank : VReg := { data := splat 0, tag := .raw, stale := true, pending := false }

def Copy.blank : Copy := { data := splat 0, tag := .raw, valid := false, regs := [] }

def Slot.blank : Slot :=
  { state := .empty, kind := .w, dest := 0, mask := 0, data := Vector.replicate 4 (splat 0), todo := [], addrs := [],
    poisoned := 0, lost := 0 }

/-- A warp in the state of R23, with no lane yet. -/
def Warp.blank : Warp :=
  { uid := 0, team := 0, idx := 0, role := 0, slot := 0, gone := false, live := 0, frontier := [], lastEntry := none, hold := .none,
    holdSince := 0, savedHold := .none, stalled := false, runCount := 0, issued := 0, resident := 0, vvg := 1, wb := 0,
    swb := 0, vton := false, vtsel := 0, bank := Vector.replicate 256 VReg.blank, sregs := Vector.replicate 384 0,
    spend := [], window := [], outs := [], shadow := Vector.replicate 8 Copy.blank, oc := Vector.replicate 16 Copy.blank,
    slots := Vector.replicate 16 Slot.blank, trslot := 0, lit := 0, ccl := 0, ccs := false, frm := 0, monto := 0, wct := 0,
    tcause := 0, tepc := 0, tdepth := false, fshn := 0, fshsel := 0,
    fsh := Vector.replicate 32 { pc := 0, mask := 0, prio := 0, wait := 0 }, preempt := false, halted := false, tries := [],
    jt := 0, jg := 0, record := Vector.replicate 16 0, caught := false, stopPc := Vector.replicate 32 0, threw := 0,
    park := none, double := none, pendFault := [], pushed := 0, rest := false, fshLast := 32, monws := [], rgn := [], rgnOvf := false, rgnUnd := false,
    stopReq := false, lostLines := [], hostWritten := false, tgtctx := 0, parktgt := 0, parkcmd := 0, sig := [],
    barGen := Vector.replicate 16 none, reissue := none, seen := 0, seenPeer := 0, svcEnds := [], seenHeld := [], mowed := 0 }

def Barrier.blank : Barrier := { gen := 0, arrived := 0, copies := 0, tw := 0, next := 0, nextTw := 0, past := 0 }

def Conv.blank : Conv :=
  { state := .free, c := 0, d := 0, rp := 0, status := 0, members := 0, signed := 0, aaddr := 0, baddr := 0, charge := 0,
    afmt := .raw, bfmt := .raw, btrans := false, astride := 0, bstride := 0, rowm := 0, colm := 0, depm := 0,
    pcs := Vector.replicate 32 0, owners := Vector.replicate 32 0 }

/-- The FP64 value 1, at which every scale stands (Table 19-3). -/
def one64 : Dword := 0x3FF0000000000000

/-- A team with no warp, no scratchpad and no tile; its matrix state is that of Table 19-3. -/
def Team.blank : Team :=
  { handle := 0, index := 0, ctx := 0, launch := 0, node := none, serial := 0, prio := 0, die := 0, core := 0, place := 0,
    p0 := 0, life := .gone, service := false, lanefill := 32, threads := 0, budget0 := 0, budget1 := 0, nprod := 0,
    admitted := 0, placedAt := 0, scratchSize := 0, scratch := [], consts := [], bars := Vector.replicate 16 Barrier.blank,
    tries := [], tiles := [], mfmt := 0, mastr := 0, mbstr := 0, rowm := 0xFFFF, colm := 0xFFFF, depm := 0xFFFF,
    mrs := Vector.replicate 16 one64, mcs := Vector.replicate 16 one64, mcb4 := List.replicate 16 0,
    mcb8 := List.replicate 256 0, convs := Vector.replicate 16 Conv.blank, mops := [], mtw := 0, mflags := Vector.replicate 32 0, mpbteam := 0, copies := [],
    copyTw := [], sched := [], period := 0, stage := 0, trroot0 := 0, trroot1 := 0, regroups := [], fed := [],
    paired := false, guarded := false, twin := none, primary := false, inbox := [], checkpoint := none, rollbacks := 0,
    sig := [], held := [], out := [], sideEffects := false, doomed := none, preds := Vector.replicate 32 0, predEnds := [] }

def Core.blank (n : Nat) : Core :=
  { num := n, lastIssue := Vector.replicate 4 0, takenOver := false, lines := [], tlb := [], rats := [], atoms := [], mpblim := 0, mpbcore := 0, mpbstall := 0,
    charged := 0, counts := [], marks := [] }

def Ring.blank : Ring := { base := 0, size := 0, head := 0, tail := 0 }

/-- A context that nothing has written (Tables 9-9, 13-1, 23-6, 25-2). -/
def Ctx.blank (n : Nat) : Ctx :=
  { id := n, tvb := 0, root := 0, ratb := 0, ratn := 0, hangth := 0x1000000, sampn := 0, evq := Ring.blank, evqdrop := 0,
    guardb := 0, guardsz := 0, rgnbrk := 0, hangg := 0, hanggsz := 0, lastBusy := 0, stopped := false }

/-- No launch. -/
def Launch.blank : Launch :=
  { id := 0, name := 0, ctx := 0, prio := 0, coop := false, paired := false, guarded := false, graph := false, dies := 0,
    teams := 0, args := [], nodes := [], schedBase := 0, sched := [], period := 0, compl := 0, admitted := 0, image := [], imageRoot := 0,
    gridGen := 0, gridArrived := [], gtries := [], queues := [], serials := [], ended := 0, killed := 0, firstKill := none,
    finished := true }

def Die.blank : Die :=
  { svq := Ring.blank, svcq := Ring.blank, smpq := Ring.blank, acnq := Ring.blank, smpdrop := 0, acndrop := 0, pacthr := 256,
    counters := [], noteSeq := 0, parkSeq := 0, svcSeq := 0, svcDone := 0, notices := [], batches := [], cmbwin := 64, cmbhit := 0,
    cmbovf := 0, slEn := false, slOps := 0x7F, slflo := 0, slfhi := 0, slsel := 0, logs := [], pool := [], nodeUsed := 0, emul := [] }

def Port.blank : Port :=
  { rate := 0, lanethr := 64, cur := 3, lanes := 0, replay := 0, seq := 0, acked := 0, buffer := [], expected := 0,
    nak := false, accepted := [], times := [], laneErrs := [], bad := 0, spared := 0xFF, retraining := false, streams := [], owed := [] }

def Pkg.blank : Pkg :=
  { qtbl := 0, linkLost := false, linkUp := false, width := 0, dberr := 0, pwrcap := 3400, dbgsel := 0, dbgwarp := 0,
    clock := 1050, stage := 0, d3hot := false, flr := false, answer := [], reply := .none,
    ports := Vector.replicate 16 Port.blank, peers := [], queues := [], served := Vector.replicate 24 4095, steps := [], vanished := [], slices := [], channels := [] }

/-- The machine right after reset. No warp is in focus: the warp field holds one that has left. -/
def State.reset : State :=
  { agenda := [], warp := { Warp.blank with gone := true }, team := Team.blank, core := Core.blank 0, ctx := Ctx.blank 0,
    launch := Launch.blank, warps := [], teams := [], cores := [], ctxs := [], launches := [],
    dies := Vector.replicate 4 Die.blank, pkg := Pkg.blank, mem := [], home := [], evicted := [], poison := [],
    contributions := [], switchEntries := [], deliveries := [], gtc := 0, free := 0, nextId := 1, turns := 0 }

end Sys2Proof.Machine
end

