-- ==== Sys2Proof/Machine/Codes.lean ====
section
/-! DEFINITION. The codes of Table 9-6 (R192) and fixed addresses of the package. -/

namespace Sys2Proof.Machine.Code

def stop : BitVec 16 := 0x0000
def illegal : BitVec 16 := 0x0001
def privilege : BitVec 16 := 0x0002
def tag : BitVec 16 := 0x0003
def stale : BitVec 16 := 0x0004
def latch : BitVec 16 := 0x0005
def ocempty : BitVec 16 := 0x0006
def pending : BitVec 16 := 0x0007
def window : BitVec 16 := 0x0008
def budget : BitVec 16 := 0x0009
def uniform : BitVec 16 := 0x000A
def badtarget : BitVec 16 := 0x000B
def throwcode : BitVec 16 := 0x000C
def intdiv0 : BitVec 16 := 0x0010
def voidelem : BitVec 16 := 0x0011
def range : BitVec 16 := 0x0012
def mismatch : BitVec 16 := 0x0013
def page : BitVec 16 := 0x0020
def access : BitVec 16 := 0x0021
def align : BitVec 16 := 0x0022
def poison : BitVec 16 := 0x0023
def hostlost : BitVec 16 := 0x0024
def atomunsup : BitVec 16 := 0x0025
def coherence : BitVec 16 := 0x0026
def growdenied : BitVec 16 := 0x0030
def gridsync : BitVec 16 := 0x0031
def hang : BitVec 16 := 0x0032
def preempt : BitVec 16 := 0x0033
def double : BitVec 16 := 0x0034
def copyfault : BitVec 16 := 0x0035
def sigmismatch : BitVec 16 := 0x0036
def rollback : BitVec 16 := 0x0037

/-- The lowest software code (R167). -/
def software : Nat := 0x0400

/-- Codes whose fault condition is per lane (R176); every other synchronous fault is every active lane's. -/
def perLane (c : BitVec 16) : Bool :=
  [align, access, page, poison, hostlost, intdiv0, voidelem].contains c

end Sys2Proof.Machine.Code
end

