-- ==== Sys2Proof/Machine/Flags.lean ====
section
/-! DEFINITION. The FRM register and its sticky flags (R78, R79), and carries and borrows of 32-bit arithmetic. -/

namespace Sys2Proof.Machine

namespace Flag

def nv : Word := 0x100
def dz : Word := 0x200
def of : Word := 0x400
def uf : Word := 0x800
def nx : Word := 0x1000
def void : Word := 0x2000
def sat : Word := 0x4000

/-- The sticky fields of Table 5-3. -/
def all : Word := 0x7F00

end Flag

/-- FRM.RM, which a rounding field of 0 selects. -/
def frmRm (frm : Word) : Nat := bits frm 0 2

def frmFtz (frm : Word) : Bool := frm.getLsbD 2

def frmVt (frm : Word) : Bool := frm.getLsbD 3

/-- The helper Mode of R107. -/
def mode (frm : Word) (f : Nat) : Nat := if f = 0 then frmRm frm else f

/-- What a write of x leaves in FRM: RM, FTZ and VT as written, sticky flags cleared where x has a one (RW1C). -/
def frmWrite (old x : Word) : Word := (x &&& 0xF) ||| (old &&& Flag.all &&& ~~~x)

/-- Carry out of a sum of 32-bit values. -/
def carryOut (a b : Word) (c : Bool) : Bool := decide (2 ^ 32 ≤ a.toNat + b.toNat + c.toNat)

/-- Borrow out of a difference of 32-bit values. -/
def borrowOut (a b : Word) (c : Bool) : Bool := decide (a.toNat < b.toNat + c.toNat)

end Sys2Proof.Machine
end

