-- ==== Sys2Proof/Machine/Memory.lean ====
section
/-! DEFINITION. Memory by physical address, the homes of lines, translation and the RAT (spec/06, 11, 13).
Memory is a list of cells with strictly rising addresses and no cell that holds what an unlisted address reads as, 0
(R368 step 2 zeroes HBM; for host memory see log 4). -/

namespace Sys2Proof.Machine

/-! ## Cells -/

/-- What an address that no cell lists reads as. -/
def Memory.blank : Byte := 0

def Memory.read : List Host.Cell → Nat → Byte
  | [], _ => Memory.blank
  | (b, v) :: m, a => if a = b then v else if a < b then Memory.blank else Memory.read m a

def Memory.write : List Host.Cell → Nat → Byte → List Host.Cell
  | [], a, x => if x = Memory.blank then [] else [(a, x)]
  | (b, v) :: m, a, x =>
    if a = b then (if x = Memory.blank then m else (a, x) :: m)
    else if a < b then (if x = Memory.blank then (b, v) :: m else (a, x) :: (b, v) :: m)
    else (b, v) :: Memory.write m a x

/-- The canonical form: addresses strictly rising, every cell different from the blank. -/
def Memory.wf : List Host.Cell → Bool
  | [] => true
  | [(_, v)] => v != Memory.blank
  | (a, v) :: (b, w) :: m => v != Memory.blank && decide (a < b) && Memory.wf ((b, w) :: m)

def Memory.readBytes (m : List Host.Cell) (a : Nat) : Nat → List Byte
  | 0 => []
  | n + 1 => Memory.read m a :: Memory.readBytes m (a + 1) n

def Memory.writeBytes (m : List Host.Cell) (a : Nat) : List Byte → List Host.Cell
  | [] => m
  | x :: xs => Memory.writeBytes (Memory.write m a x) (a + 1) xs

/-- Bytes written only where given. -/
def Memory.writeMasked (m : List Host.Cell) (a : Nat) : List (Option Byte) → List Host.Cell
  | [] => m
  | none :: xs => Memory.writeMasked m (a + 1) xs
  | some x :: xs => Memory.writeMasked (Memory.write m a x) (a + 1) xs

/-- The little-endian value of n bytes at a. -/
def Memory.readNat (m : List Host.Cell) (a n : Nat) : Nat := leNat (Memory.readBytes m a n)

def Memory.writeNat (m : List Host.Cell) (a n x : Nat) : List Host.Cell := Memory.writeBytes m a (leBytes x n)

/-! ## Physical addresses (R240) and homes (R195) -/

inductive Target where
  | hbm | host | peer | absent
deriving DecidableEq, Repr

/-- 768 GiB of HBM from PA 0. -/
def hbmSize : Nat := 768 * 2 ^ 30

def target (pa : Nat) : Target :=
  if pa / 2 ^ 52 = 0 then (if pa < hbmSize then .hbm else .absent)
  else if pa / 2 ^ 52 = 1 then .host
  else if pa / 2 ^ 52 = 2 then .peer
  else .absent

def lineOf (pa : Nat) : Nat := pa / 128

/-- The die that homes a line: PA[13:12]. -/
def homeDie (line : Nat) : Nat := line / 32 % 4

/-- The home slice within its die: PA[11:7] + 32 × (PA[31:14] mod 6). -/
def homeSlice (line : Nat) : Nat := line % 32 + 32 * (line / 128 % 2 ^ 18 % 6)

/-- The home slice of a line, by number in the package. -/
def sliceNo (line : Nat) : Nat := homeDie line * 192 + homeSlice line

/-- Lines that a slice holds at most: 1 MiB (R199). -/
def sliceLines : Nat := 8192

/-- What a home holds for a line that it has not been asked for: Lmax starts at the slice's evicted maximum (R199). -/
def State.homeLine (s : State) (line : Nat) : HomeLine :=
  match s.home.find? (fun h => h.line == line) with
  | some h => h
  | none =>
    { line := line, lastTw := 0, pend := [], excl := none, cached := false,
      lmax := match s.evicted.find? (fun e => e.1 == sliceNo line) with
        | some e => e.2
        | none => 0 }

def State.setHomeLine (s : State) (h : HomeLine) : State :=
  { s with home := h :: s.home.filter (fun x => x.line != h.line) }

/-- A slice gives up a line: its Lmax enters the slice's evicted maximum. A line with an update pending, or held exclusively, loses its
data alone (R199). -/
def State.forgetLine (s : State) (h : HomeLine) : State :=
  if !h.pend.isEmpty || h.excl.isSome then s.setHomeLine { h with cached := false }
  else
    let old := ((s.evicted.find? fun e => e.1 == sliceNo h.line).map (·.2)).getD 0
    { s with
      home := s.home.filter fun x => x.line != h.line
      evicted := (sliceNo h.line, max old h.lmax) :: s.evicted.filter fun e => e.1 != sliceNo h.line }

/-- A slice keeps the data of a line. A slice that is full gives up the line that it has asked for least recently
(DESIGN CHOICE: log 75; R199 allows any policy). -/
def State.cacheLine (s : State) (line : Nat) : State :=
  let h := s.homeLine line
  if h.cached then s
  else
    let mine := s.home.filter fun x => x.cached && sliceNo x.line == sliceNo line
    let t := if mine.length < sliceLines then s else (mine.getLast?.map s.forgetLine).getD s
    t.setHomeLine { t.homeLine line with cached := true }

/-- Host memory cannot be reached: the link is lost or was never trained (R254, R354). -/
def State.hostGone (s : State) : Bool := s.pkg.linkLost

/-! ## Page walks (R241 to R244) -/

inductive Walk where
  | leaf (pte : Dword) (ptePa level : Nat)
  | page | access
  | lost (ptePa : Nat)
deriving DecidableEq, Repr

def pteBit (pte : Dword) (n : Nat) : Bool := pte.getLsbD n

/-- The physical page number of a PTE. -/
def ptePpn (pte : Dword) : Nat := pte.toNat / 2 ^ 10 % 2 ^ 44

/-- The walk from a table at level n - 1, with rd reading a PTE. -/
def walkFrom (rd : Nat → Walk ⊕ Dword) (va : Nat) : Nat → Nat → Walk
  | 0, _ => .page
  | n + 1, table =>
    let ptePa := table + 8 * (va / 2 ^ (12 + 9 * n) % 512)
    match rd ptePa with
    | .inl e => e
    | .inr pte =>
      let napot := pteBit pte 63
      if !pteBit pte 0 || (pteBit pte 2 && !pteBit pte 1) || pte.toNat / 2 ^ 54 % 2 ^ 9 ≠ 0 then .page
      else if !pteBit pte 1 && !pteBit pte 3 then
        if pteBit pte 4 || pteBit pte 6 || pteBit pte 7 || napot then .page
        else walkFrom rd va n (ptePpn pte * 4096)
      else if napot then (if n = 0 ∧ ptePpn pte % 16 = 8 then .leaf pte ptePa 0 else .page)
      else if ptePpn pte % 512 ^ n ≠ 0 then .page
      else .leaf pte ptePa n

/-- The bytes a leaf at a level maps. -/
def leafSize (pte : Dword) (level : Nat) : Nat := if pteBit pte 63 then 65536 else 4096 * 512 ^ level

/-- The physical address of the page that a leaf maps. -/
def leafBase (pte : Dword) : Nat := if pteBit pte 63 then ptePpn pte / 16 * 65536 else ptePpn pte * 4096

/-- A virtual address is valid only if bits [63:57] equal bit 56. -/
def canonical (va : BitVec 64) : Bool := va == (va.setWidth 57).signExtend 64

/-- A PTE in memory. One that lies in a peer window cannot be read, and its walk ends in ACCESS; R244 does not say what it does (DESIGN
CHOICE: log 102). -/
def State.readPte (s : State) (pa : Nat) : Walk ⊕ Dword :=
  match target pa with
  | .absent => .inl .access
  | .peer => .inl .access
  | .host => if s.hostGone then .inl (.lost pa) else .inr (BitVec.ofNat 64 (Memory.readNat s.mem pa 8))
  | .hbm => .inr (BitVec.ofNat 64 (Memory.readNat s.mem pa 8))

def State.walk (s : State) (c : Ctx) (va : BitVec 64) : Walk :=
  if canonical va then walkFrom s.readPte va.toNat 5 (c.root.toNat * 4096) else .page

/-- What an access does with its page (R242): both is an ATOM or a RED (Table 12-2, row 3). -/
inductive Access where
  | fetch | load | store | both | monw
deriving DecidableEq, Repr

/-- The permission of a leaf for an access (R242). A privileged warp needs U = 0, or U = 1 for loads and stores only. -/
def permits (pte : Dword) (k : Access) (priv : Bool) : Bool :=
  (if priv then !pteBit pte 4 || k == .load || k == .store else pteBit pte 4) &&
  match k with
  | .fetch => pteBit pte 3
  | .load | .monw => pteBit pte 1
  | .store => pteBit pte 2
  | .both => pteBit pte 1 && pteBit pte 2

/-- Accesses that write, so that D is needed (R243). -/
def Access.writes : Access → Bool
  | .store | .both => true
  | _ => false

/-! ## The RAT (R245, R246) -/

/-- The attributes of an address that no used entry covers: the Reset column of Table 13-2. -/
def Rat.default : Rat :=
  { base := 0, limit := 0, cls := 0, lease := 256, route := 2, fallback := false, noalloc := false, count := false,
    transit := false, wblock := false, owner := 0 }

/-- An entry of a RAT in memory. Nonzero reserved bits act as CLASS = 3, those of +0x14 to +0x1F like those of +0x10, and the low bits of
BASE and LIMIT that must be zero are used as they stand (DESIGN CHOICE for both: log 102). -/
def Rat.ofMem (m : List Host.Cell) (a : Nat) : Rat :=
  let x := Memory.readNat m (a + 16) 4
  { base := Memory.readNat m a 8, limit := Memory.readNat m (a + 8) 8,
    cls := if x / 2 ^ 30 ≠ 0 ∨ Memory.readNat m (a + 20) 12 ≠ 0 then 3 else x % 4,
    lease := x / 4 % 4096, route := x / 2 ^ 14 % 4, fallback := x.testBit 16, noalloc := x.testBit 17,
    count := x.testBit 18, transit := x.testBit 19, wblock := x.testBit 20, owner := x / 2 ^ 21 % 512 }

def Rat.covers (r : Rat) (va : Nat) : Bool := decide (r.base ≤ va) && decide (va < r.limit)

/-- The entries of a context's RAT as memory holds them now. -/
def State.ratTable (s : State) (c : Ctx) : List Rat :=
  (List.range (min c.ratn.toNat 1024)).map fun i => Rat.ofMem s.mem (c.ratb.toNat + 32 * i)

/-- The core's copy of a context's RAT, taken from memory at its first use. -/
def State.ratCopy (s : State) (c : Ctx) : List Rat :=
  match s.core.rats.find? fun r => r.1 == c.id with
  | some r => r.2
  | none => s.ratTable c

/-- The attributes of an address: the covering entry of lowest index. -/
def State.rat (s : State) (c : Ctx) (va : BitVec 64) : Rat :=
  match (s.ratCopy c).find? fun r => r.covers va.toNat with
  | some r => r
  | none => Rat.default

/-! ## Code (R95, R96) -/

/-- The word a launch had at a virtual address when it was admitted, if its page was mapped then; the service teams' program is a constant
of the implementation (log 88). -/
def Launch.imageWord (l : Launch) (va : BitVec 64) : Option Word :=
  if l.firmware then some (Config.firmwareWord va)
  else if canonical va then
    match walkFrom (fun pa => .inr (BitVec.ofNat 64 (Memory.readNat l.image pa 8))) va.toNat 5 (l.imageRoot * 4096) with
    | .leaf pte _ level =>
      some (BitVec.ofNat 32 (Memory.readNat l.image (leafBase pte + va.toNat % leafSize pte level) 4))
    | _ => none
  else none

/-- The word at a virtual address, read without a fault and without any effect: what the core looks at to take the
priority of a BLK (R17, R106). Where the word has been stored to since the launch was admitted, R96 lets either word be seen; the priority
is always that of the admitted word (DESIGN CHOICE: log 95). -/
def State.peek (s : State) (c : Ctx) (l : Launch) (pc : BitVec 64) : Option Word :=
  match l.imageWord pc with
  | some w => some w
  | none =>
    match s.walk c pc with
    | .leaf pte _ level =>
      some (BitVec.ofNat 32 (Memory.readNat s.mem (leafBase pte + pc.toNat % leafSize pte level) 4))
    | _ => none

/-- The word with opcode 0x02, whatever its other fields (R106): its priority and its budget field. -/
def blkOf (w : Word) : Option (BitVec 8 × Nat) :=
  if bits w 25 7 = 2 then some (w.setWidth 8, bits w 8 8) else none

end Sys2Proof.Machine
end

