-- ==== Sys2Proof/Machine/Frontier.lean ====
section
/-! DEFINITION. The frontier of a warp (R26 to R29, R17). -/

namespace Sys2Proof.Machine

/-- The priority a BLK at an address gives (R17), for code of a context and a launch. -/
def State.blkPrio (s : State) (c : Ctx) (l : Launch) (pc : BitVec 64) : Option (BitVec 8) :=
  ((s.peek c l pc).bind blkOf).map (·.1)

/-- The order of the frontier: ascending priority, then ascending PC. -/
def Entry.before (a b : Entry) : Bool := a.prio < b.prio || (a.prio == b.prio && a.pc < b.pc)

def insertEntry (e : Entry) : List Entry → List Entry
  | [] => [e]
  | x :: l => if e.before x then e :: x :: l else x :: insertEntry e l

def EWait.isSvc : EWait → Bool
  | .svc _ _ _ => true
  | _ => false

/-- The entry may issue, as far as its own wait goes (R27). -/
def EWait.eligible (w : EWait) : Bool := w == .ready || w == .pooled

/-- An entry whose lanes have just reached its PC joins the frontier: it takes the priority of a BLK there, and merges with
an eligible entry at that PC, taking the lower priority unless a BLK gives one (R26). The merged entry keeps the identity
of the entry that issued last. Lanes that reach an entry waiting in SVC wait with it and issue their own SVC when its batch is done (DEDUCED:
log 79). -/
def placeEntry (pr : BitVec 64 → Option (BitVec 8)) (last : Option Nat) (e : Entry) (fr : List Entry) : List Entry :=
  let e := { e with prio := (pr e.pc).getD e.prio }
  match fr.find? fun x => x.pc == e.pc && (x.wait == .ready || x.wait.isSvc) && e.wait == .ready with
  | none => insertEntry e fr
  | some x =>
    insertEntry
      { e with
        mask := x.mask ||| e.mask
        wait := x.wait
        prio := (pr e.pc).getD (if x.prio < e.prio then x.prio else e.prio)
        id := if last = some x.id then x.id else e.id }
      (fr.filter fun y => y.id != x.id)

def removeEntry (id : Nat) (fr : List Entry) : List Entry := fr.filter fun x => x.id != id

/-- A park of the level at which the warp runs holds every entry (R184, R186, R188). -/
def Warp.parked (w : Warp) : Bool := if w.tdepth then w.double.isSome else w.park.isSome

/-- The first eligible entry (R27), unless it waits in an SVC (R346). -/
def Warp.firstEntry (w : Warp) : Option Entry :=
  (w.frontier.find? fun e => e.wait.eligible || e.wait.isSvc).filter fun e => e.wait.eligible

/-- The entry the warp in focus issues from: none while the whole warp waits, is parked, has halted or has left, or its
team is being killed or does not run. -/
def State.issuing (s : State) : Option Entry :=
  if s.warp.gone || s.warp.halted || s.warp.hold != .none || s.warp.parked || s.team.doomed.isSome
    || !(s.team.life == .resident || s.team.life == .preempting) then none
  else s.warp.firstEntry

def State.entry (s : State) : Entry := s.issuing.getD default

/-- The lanes active at issue. -/
def State.mask (s : State) : Mask := s.entry.mask

/-- The active lanes in ascending order. -/
def State.active (s : State) : List Nat := maskLanes s.mask

/-- The lowest active lane. -/
def State.firstLane (s : State) : Nat := (lowest s.mask).getD 0

def State.pr (s : State) : BitVec 64 → Option (BitVec 8) := s.blkPrio s.ctx s.launch

def State.withWarp (s : State) (w : Warp) : State := { s with warp := w }

/-- The lanes of the issuing entry continue at pc. -/
def State.moveTo (s : State) (pc : BitVec 64) : State :=
  let e := s.entry
  { s with warp := { s.warp with
      frontier := placeEntry s.pr s.warp.lastEntry { e with pc := pc, wait := .ready } (removeEntry e.id s.warp.frontier) } }

/-- The issuing entry takes a priority, and its place when it next moves. -/
def State.setPrio (s : State) (p : BitVec 8) : State :=
  { s with warp := { s.warp with frontier := s.warp.frontier.map fun e => if e.id = s.entry.id then { e with prio := p } else e } }

/-- The lanes of the issuing entry continue at the next word. -/
def State.advance (s : State) : State := s.moveTo (s.entry.pc + 4)

/-- The issuing entry splits: each pair of a mask and a PC becomes an entry of its own. The part that goes on at the next
word keeps the entry's identity, so that its issue is no switch (R29, DEDUCED: log 12); so does a single part. -/
def State.split (s : State) (parts : List (Mask × BitVec 64)) : State :=
  let e := s.entry
  let parts := parts.filter fun p => p.1 != 0
  let keep (pc : BitVec 64) : Bool := parts.length == 1 || pc == e.pc + 4
  let step (acc : List Entry × Nat) (p : Mask × BitVec 64) : List Entry × Nat :=
    (placeEntry s.pr s.warp.lastEntry { e with pc := p.2, mask := p.1, wait := .ready, id := if keep p.2 then e.id else acc.2 } acc.1, acc.2 + 1)
  let r := parts.foldl step (removeEntry e.id s.warp.frontier, s.nextId)
  { s with warp := { s.warp with frontier := r.1 }, nextId := r.2 }

/-- Every entry takes its place again, after a park that has held them (R17, R26). -/
def Warp.replace (pr : BitVec 64 → Option (BitVec 8)) (w : Warp) : Warp :=
  { w with
    frontier := w.frontier.foldl
      (fun fr e => placeEntry pr w.lastEntry { e with wait := if e.wait == .parked then .ready else e.wait } fr) [] }

/-- The wait of an entry restored with WAIT 4 has ended otherwise than by going on at the next word (R26). -/
def Warp.unwait (w : Warp) : Warp :=
  { w with frontier := w.frontier.map fun e => if e.wait = .bar then { e with wait := .ready } else e }

/-- The lanes of a mask leave the frontier. -/
def dropLanes (m : Mask) (fr : List Entry) : List Entry :=
  (fr.map fun e => { e with mask := e.mask &&& ~~~m }).filter fun e => e.mask != 0

/-- The PC of each lane of the frontier. -/
def pcsOf (fr : List Entry) : Vector (BitVec 64) 32 :=
  ⟨((List.range 32).map fun L =>
    match fr.find? fun e => e.mask.getLsbD L with
    | some e => e.pc
    | none => 0).toArray, by simp⟩

/-- The entry holds every live lane of the warp (R28). -/
def State.wholeWarp (s : State) : Bool := s.mask == s.warp.live

end Sys2Proof.Machine
end

