-- ==== Sys2Proof/Machine/Window.lean ====
section
/-! DEFINITION. The result window, the latches and the banks of a warp (R52 to R58). -/

namespace Sys2Proof.Machine

def WinEntry.blank : WinEntry :=
  { seq := 0, valid := false, produced := true, latch := splat 0, tag := .raw, regs := [], late := [], flags := 0 }

/-- The bank's register. -/
def Warp.bankReg (w : Warp) (r : Nat) : VReg := look w.bank VReg.blank r

def Warp.setBank (w : Warp) (r : Nat) (x : VReg) : Warp := { w with bank := put w.bank r x }

def WinEntry.reg? (e : WinEntry) (r : Nat) : Option WinReg := e.regs.find? fun x => x.reg == r && x.life == .live

/-- The newest live value for a register among results not yet in the bank (R54). -/
def Warp.live? (w : Warp) (r : Nat) : Option WinReg := (w.window ++ w.outs).findSome? fun e => e.reg? r

/-- What a v source of an absolute register reads: forwarded, or from the bank (R54). -/
def Warp.regData (w : Warp) (r : Nat) : Lanes :=
  match w.live? r with
  | some x => x.image
  | none => (w.bankReg r).data

/-- The tag a read of an absolute register sees (R80). -/
def Warp.regTag (w : Warp) (r : Nat) : Tag :=
  match w.live? r with
  | some x => x.tag
  | none => (w.bankReg r).tag

/-- Latch ^(n+1). -/
def Warp.latchEntry (w : Warp) (n : Nat) : WinEntry := w.window.getD n WinEntry.blank

/-- Results that are not yet produced. -/
def Warp.unproduced (w : Warp) : List WinEntry := (w.window ++ w.outs).filter fun e => !e.produced

/-- The warp has issued as many instructions after one with a lookahead k as k allows, and its result is not yet usable (R61). -/
def Warp.lookahead (w : Warp) : Bool := w.unproduced.any fun e => e.limit.any fun n => decide (n ≤ w.pushed)

/-- The register awaits a long operation's result (R60). -/
def Warp.awaitsReg (w : Warp) (r : Nat) : Bool := w.unproduced.any fun e => (e.reg? r).isSome

def Warp.awaitsScalar (w : Warp) (r : Nat) : Bool :=
  w.unproduced.any fun e => e.late.any fun l => match l with | .scalar q _ => q == r | _ => false

def Warp.awaitsCache (w : Warp) (n : Nat) : Bool :=
  w.unproduced.any fun e => e.late.any fun l => match l with | .cache q _ _ _ => q == n | _ => false

def Warp.awaitsLit (w : Warp) : Bool :=
  w.unproduced.any fun e => e.late.any fun l => match l with | .lit _ => true | _ => false

def Warp.awaitsCc (w : Warp) : Bool :=
  w.unproduced.any fun e => e.late.any fun l => match l with | .laneCc _ _ => true | _ => false

def Warp.awaitsScalarCc (w : Warp) : Bool :=
  w.unproduced.any fun e => e.late.any fun l => match l with | .scalarCc _ => true | _ => false

def Warp.awaitsRows (w : Warp) : Bool :=
  w.unproduced.any fun e => e.late.any fun l => match l with | .vtRow _ _ _ _ => true | _ => false

/-- Results for register r in older entries stop being live (R53). -/
def killReg (r : Nat) (e : WinEntry) : WinEntry :=
  { e with regs := e.regs.map fun x => if x.reg = r then { x with life := .gone } else x }

/-- A live result reaches its bank (R53); no result that is older than it stays live. -/
def Warp.writeBack (w : Warp) (x : WinReg) : Warp :=
  if x.life = .live then
    { w.setBank x.reg { w.bankReg x.reg with data := x.image, tag := x.tag } with outs := w.outs.map (Machine.killReg x.reg) }
  else w

def Warp.writeBackAll (w : Warp) (e : WinEntry) : Warp := e.regs.foldr (fun x w => w.writeBack x) w

def Warp.killReg (w : Warp) (r : Nat) : Warp :=
  { w with window := w.window.map (Machine.killReg r), outs := w.outs.map (Machine.killReg r) }

def Warp.setStale (w : Warp) (r : Nat) (b : Bool) : Warp := w.setBank r { w.bankReg r with stale := b }

def Warp.setPending (w : Warp) (r : Nat) (b : Bool) : Warp := w.setBank r { w.bankReg r with pending := b }

/-- An entry leaves the window: its live results reach their banks, at once or, where they are not yet produced, when they are. -/
def Warp.leave (w : Warp) (old : WinEntry) : Warp := if old.produced then w.writeBackAll old else { w with outs := old :: w.outs }

/-- An issued instruction enters the window, and the ninth entry leaves it. -/
def Warp.push (w : Warp) (e : WinEntry) : Warp :=
  let w := e.regs.foldl (fun w x => (w.killReg x.reg).setStale x.reg false) w
  (w.window.drop 7).reverse.foldl Warp.leave { w with window := e :: w.window.take 7, pushed := w.pushed + 1 }

/-- The drain of Table 4-3: every live result reaches its bank, oldest first, and the window is emptied. -/
def Warp.drain (w : Warp) : Warp :=
  { (w.window.reverse.foldl Warp.writeBackAll w) with window := [] }

/-- The operand cache emptied by a yield point (R33, Table 4-3). -/
def Warp.emptyCache (w : Warp) : Warp := { w with oc := Vector.replicate 16 Copy.blank }

def Warp.yieldPoint (w : Warp) : Warp := w.drain.emptyCache

/-- A dead read of a register (R55): a live result stops being live, and the register becomes stale. -/
def Warp.deadReg (w : Warp) (r : Nat) : Warp := (w.killReg r).setStale r true

/-- A dead read of latch ^(n+1): it acts on the registers of the latched result that still hold that result, in the window
or, after TRET, in their banks (R55, R69). -/
def Warp.deadLatch (w : Warp) (n : Nat) : Warp :=
  (w.latchEntry n).regs.foldl
    (fun w x => match x.life with
      | .live => w.deadReg x.reg
      | .reached => { (w.setStale x.reg true) with
          window := modifyAt (Machine.killReg x.reg) n w.window }
      | .gone => w) w

def Warp.orFlags (w : Warp) (f : Word) : Warp := { w with frm := w.frm ||| (f &&& Flag.all) }

def Warp.setScalar (w : Warp) (r : Nat) (x : Word) : Warp := { w with sregs := put w.sregs r x }

def Warp.scalar (w : Warp) (r : Nat) : Word := look w.sregs 0 r

/-- A write of an operand-cache slot: an empty slot's inactive lanes become zero, a valid slot's stay (R57). -/
def Warp.writeCache (w : Warp) (n : Nat) (y : Lanes) (m : Mask) (t : Tag) : Warp :=
  let old := look w.oc Copy.blank n
  { w with oc := put w.oc n { data := mergeLanes m y (if old.valid then old.data else splat 0), tag := t, valid := true, regs := [] } }

/-- The slots of a tile row written through the VT view (R47): lane L carries half of element L div 2. -/
def Tile.writeRow (t : Tile) (row : Nat) (y : Lanes) (m : Mask) : Tile :=
  let word (k : Nat) (old : Dword) : Dword :=
    let lo : Word := if m.getLsbD (2 * k) then lane y (2 * k) else old.setWidth 32
    let hi : Word := if m.getLsbD (2 * k + 1) then lane y (2 * k + 1) else (old >>> 32).setWidth 32
    hi ++ lo;
  let step (v : Vector Dword 256) (k : Nat) : Vector Dword 256 :=
    put v (16 * row + k) (word k (look t.slots 0 (16 * row + k)));
  { t with slots := (List.range 16).foldl step t.slots }

/-- The VT row of a tile as 32 lanes (R47). -/
def Tile.row (t : Tile) (row : Nat) : Lanes :=
  lanesOf fun L =>
    let e := look t.slots 0 (16 * row + L / 2)
    if L % 2 = 0 then e.setWidth 32 else (e >>> 32).setWidth 32

/-- A destination that is written when a result is produced, in the warp in focus. -/
def State.lateWrite (s : State) (l : LateWrite) : State :=
  match l with
  | .cache n y m t => { s with warp := s.warp.writeCache n y m t }
  | .lit x => { s with warp := { s.warp with lit := x } }
  | .laneCc m b => { s with warp := { s.warp with ccl := (s.warp.ccl &&& ~~~m) ||| (b &&& m) } }
  | .scalar r x => { s with warp := s.warp.setScalar r x }
  | .scalarCc b => { s with warp := { s.warp with ccs := b } }
  | .vtRow tile row y m => { s with team := { s.team with tiles := modifyAt (fun t => t.writeRow row y m) tile s.team.tiles } }

/-- An entry of the window whose result is produced at once. -/
def State.enter (s : State) (e : WinEntry) : State :=
  let s := if e.produced then e.late.foldl State.lateWrite { s with warp := s.warp.orFlags e.flags } else s
  { s with
    warp := s.warp.push { e with seq := s.nextId, late := if e.produced then [] else e.late }
    nextId := s.nextId + 1 }

/-- The instruction enters the window as an invalid entry (R52). -/
def State.enterInvalid (s : State) : State := s.enter WinEntry.blank

end Sys2Proof.Machine
end

