-- ==== Sys2Proof/WellFormed.lean ====
section
/-! DEFINITION. The words that are instructions (R101, Table 6-5): the conditions on operand codes, selectors and dead bits
that check row 2 of Table 6-6 enforces. Reserved fields and opcodes never reach a constructor: Decode answers illegalWord. -/

namespace Sys2Proof

/-! ## Encoding rules on fields (R49, R50, R73) -/

def VOp.isV : VOp → Bool
  | .v _ => true
  | _ => false

/-- An even v code, naming a pair. -/
def VOp.evenV : VOp → Bool
  | .v n => n.toNat % 2 == 0
  | _ => false

def VOp.quadV : VOp → Bool
  | .v n => n.toNat % 4 == 0
  | _ => false

def VOp.evenS : VOp → Bool
  | .s n => n.toNat % 2 == 0
  | _ => false

def SOp.evenS : SOp → Bool
  | .s n => n.val % 2 == 0
  | _ => false

/-- A scalar code that is a multiple of 8, naming a copy descriptor (Table 17-4). -/
def SOp.octS : SOp → Bool
  | .s n => n.val % 8 == 0
  | _ => false

/-- A v code that is a multiple of 8, naming a ray (Table 22-6). -/
def VOp.octV : VOp → Bool
  | .v n => n.toNat % 8 == 0
  | _ => false

def SOp.isS : SOp → Bool
  | .s _ => true
  | _ => false

/-- A scalar code. -/
def VOp.isS : VOp → Bool
  | .s _ => true
  | _ => false

def VOp.isOc : VOp → Bool
  | .oc _ => true
  | _ => false

/-- A code whose source carries a tag: an untagged source is ILLEGAL as a residue operand (R81). -/
def VOp.tagged : VOp → Bool
  | .v _ | .oc _ | .latch _ => true
  | _ => false

/-- void as a source is ILLEGAL (R49). -/
def VOp.source (x : VOp) : Bool := x != .void

def SOp.source (x : SOp) : Bool := x != .void

/-- A latch code, zero, lane, tid, wid or time as a destination is ILLEGAL (R49). -/
def VOp.dest : VOp → Bool
  | .v _ | .oc _ | .s _ | .lit | .cc | .void => true
  | _ => false

def SOp.dest : SOp → Bool
  | .s _ | .lit | .cc | .void => true
  | _ => false

/-- A dead bit on anything other than a v code or a latch code is ILLEGAL (R50). -/
def deadOk (x : VOp) (dead : BitVec 1) : Bool :=
  dead == 0 || match x with | .v _ | .latch _ => true | _ => false

/-- The scalar registers that a field reads, a pair as one (R50). -/
def scalarKey : VOp → Option (BitVec 5)
  | .s n => some n
  | _ => none

/-- At most one distinct scalar register among the sources (R50). -/
def oneScalar (xs : List VOp) : Bool :=
  match xs.filterMap scalarKey with
  | [] => true
  | k :: rest => rest.all (· == k)

/-- A source of a vector-class instruction with its dead bit. -/
def srcOk (x : VOp) (dead : BitVec 1) : Bool := x.source && deadOk x dead

/-- Two sources of a vector-class instruction (format A). -/
def abOk (a b : VOp) (da db : BitVec 1) : Bool := srcOk a da && srcOk b db && oneScalar [a, b]

/-- A destination that is also read as a source (IMAD, BFI, FFMA, FDOT2, IDOT4, ATOM CAS). -/
def VOp.both (x : VOp) : Bool := x.dest && x.source

/-- The base of LDS and STS: a scalar code, zero or lit (R130). -/
def VOp.scratchBase : VOp → Bool
  | .s _ | .zero | .lit => true
  | _ => false

/-- The base of a based memory operand: an even scalar code or zero (R216). -/
def VOp.memBase : VOp → Bool
  | .zero => true
  | x => x.evenS

def SOp.memBase : SOp → Bool
  | .zero => true
  | x => x.evenS

/-- The address of a direct memory operand: an even v code or an even scalar code (R216). -/
def VOp.address (x : VOp) : Bool := x.evenV || x.evenS

/-- Beside a scalar pair that names an address, any scalar in another source field is a second one (R216). -/
def directScalar (a : VOp) (xs : List VOp) : Bool := oneScalar xs && (!a.isS || xs.all fun x => !x.isS)

/-- A pair operand of IADDW and ISUBW: an even v code, an even scalar code, or zero (R117). -/
def VOp.wide : VOp → Bool
  | .zero => true
  | x => x.evenV || x.evenS

/-- Residue targets of RENC: 0x15 to 0x1C and RW (R151). -/
def Tag.renc (g : Tag) : Bool :=
  [Tag.rs6, .rp6, .rs8, .rp8, .rs12, .rp12, .rs16, .rp16, .rw].contains g

/-- The CSR numbers of Table 25-1 (R372). -/
def csrNumber (c : Nat) : Bool :=
  c ≤ 0x00B || (0x010 ≤ c && c ≤ 0x026) || (0x030 ≤ c && c ≤ 0x03F) || (0x040 ≤ c && c ≤ 0x042) ||
  (0x100 ≤ c && c ≤ 0x108) || (0x110 ≤ c && c ≤ 0x157) || (0x160 ≤ c && c ≤ 0x264) || (0x300 ≤ c && c ≤ 0x315) || (0x400 ≤ c && c ≤ 0x402) ||
  (0x500 ≤ c && c ≤ 0x509) || (0x510 ≤ c && c ≤ 0x514) || (0x518 ≤ c && c ≤ 0x51D) || (0x520 ≤ c && c ≤ 0x525) ||
  (0x530 ≤ c && c ≤ 0x539) || (0x600 ≤ c && c ≤ 0x606) || c == 0x608 || c == 0x609 ||
  (0x610 ≤ c && c < 0x650 && c % 4 != 3)

/-- The CSR number of CSRR and CSRW: B | n << 7 (R370). -/
def csrOf (b : BitVec 7) (n : BitVec 6) : Nat := b.toNat + 128 * n.toNat

/-- The word is an instruction (R101). A word that decodes to no row is not well formed, and an event of the machine is no
word at all. Where a table of spec/ asks for a scalar destination, any code that R49 lets a scalar-class result go to is
legal, and zero is legal where an address pair is (DEDUCED: log 16). D of a 32-bit ATOM is any code to which R49 lets a result go, and for CAS one
that can be read as well: Table 12-1 speaks of one v register (DESIGN CHOICE: log 128). -/
def Instr.wellFormed : Instr → Bool
  | .nop | .yield | .lit _ | .litHi _ => true
  | .blk r _ => r.toNat ≤ 32
  | .iadd d a b da db _ | .isub d a b da db _ | .imul d a b da db _ | .lea d a b da db _ => d.dest && abOk a b da db
  | .imad d a b da db f => d.both && abOk a b da db && oneScalar [a, b, d] && f.toNat < 3
  | .imin d a b da db f | .imax d a b da db f => d.dest && abOk a b da db && f.toNat < 2
  | .iabs d a da f => d.dest && srcOk a da && f.toNat < 2
  | .andFam d a b da db f | .orFam d a b da db f => d.dest && abOk a b da db && f.toNat < 3
  | .xorFam d a b da db f => d.dest && abOk a b da db && f.toNat < 2
  | .shiftFam d a b da db _ => d.dest && abOk a b da db
  | .bfx d a b da db f => d.dest && abOk a b da db && f.toNat < 2
  | .bfi d a b da db f => d.both && abOk a b da db && oneScalar [a, b, d] && f == 0
  | .bitFam d a da _ => d.dest && srcOk a da
  | .icmp d a b da db _ => d.dest && abOk a b da db
  | .icmpn d a b da db f => d.dest && abOk a b da db && 2 ≤ f.toNat
  | .sel d a b da db => d.dest && abOk a b da db
  | .addsubw d a b da db f => d.evenV && a.wide && b.wide && abOk a b da db && f.toNat < 2
  | .mulw d a b da db f => d.evenV && abOk a b da db && f.toNat < 2
  | .idiv d a b _ | .ndiv d a b _ => d.dest && abOk a b 0 0
  | .shfl d a b da db _ => d.dest && abOk a b da db
  | .vote d a da _ | .vred d a da _ => d.dest && srcOk a da
  | .iaddi d a _ da | .imuli d a _ da | .andi d a _ da | .ori d a _ da | .xori d a _ da | .shli d a _ da | .shri d a _ da
  | .sari d a _ da | .icmpieq d a _ da | .icmpilt d a _ da | .icmpine d a _ da => d.dest && srcOk a da
  | .movi d _ => d.dest
  | .sadd d a b _ | .ssub d a b _ | .slog d a b _ | .sshf d a b _ | .scmp d a b _ | .sminmax d a b _ =>
    d.dest && a.source && b.source
  | .smul d a b f => d.dest && a.source && b.source && f.toNat < 3
  | .ssel d a b => d.dest && a.source && b.source
  | .saddi d a _ => d.dest && a.source
  | .smovi d _ => d.dest
  | .sldc d a b _ => d.dest && a.source && b.source
  | .sld d a b _ => d.dest && a.memBase && b.source
  | .sst d a b w => (if w = 0 then d.source else w == 1 && d.evenS) && a.memBase && b.source
  | .sget d a b => d.dest && abOk a b 0 0
  | .fadd d a b da db _ | .fsub d a b da db _ | .fmul d a b da db _ | .fminmax d a b da db _ | .fcmp d a b da db _ =>
    d.dest && abOk a b da db
  | .ffma d a b da db _ => d.both && abOk a b da db && oneScalar [a, b, d]
  | .fsign d a b da db f =>
    d.dest && f.toNat < 3 && (if f.toNat < 2 then srcOk a da && b == .v 0 && db == 0 else abOk a b da db)
  | .frcp d a _ | .frsq d a _ | .fsqrt d a _ | .fexp2 d a _ | .flog2 d a _ | .fsin d a _ | .fcos d a _ => d.dest && a.source
  | .fdiv d a b _ => d.dest && abOk a b 0 0
  | .fdot2 d a b da db => d.both && abOk a b da db && oneScalar [a, b, d]
  | .idot4 d a b da db f => d.both && abOk a b da db && oneScalar [a, b, d] && f.toNat < 2
  | .fround d a da _ => d.dest && srcOk a da
  | .radd d a b da db | .rmul d a b da db => d.dest && abOk a b da db && a.tagged && b.tagged
  | .rmac d a b da db => d.evenV && abOk a b da db && a.tagged && b.tagged
  | .rneg d a da => d.dest && srcOk a da && a.tagged
  | .rcrt d a b da db f =>
    d.dest && f.toNat < 2 && abOk a b da db && (if f = 0 then a.tagged else a.evenV && b == .zero)
  | .renc d a g da => srcOk a da && g.renc && (if g = .rw then d.evenV else d.dest)
  | .cvt d a _ g da =>
    srcOk a da && !([Tag.raw, .ix4, .ix8, .rw].contains g) && (if g = .fp64 then d.evenV else d.dest)
  | .tag d a g da => if g = .fp64 ∨ g = .rw then d.evenV && a.evenV else d.dest && srcOk a da
  | .mov d a da => d.dest && srcOk a da
  | .movD d a _ => d.evenV && a.evenV
  | .winb _ | .swinb _ => true
  | .grow d _ _ | .shrink d _ => d.dest
  | .ocmovRd d b => d.dest && b.isOc
  | .ocmovWr a b da => a.isV && b.isOc && deadOk a da
  | .bra _ _ => true
  | .bnz c _ _ | .bz c _ _ => c.source
  | .call c _ => c.evenV
  | .callr d a _ f => d.evenV && a.evenV && f.toNat < 2
  | .jmpr a _ | .ret a _ => a.evenV
  | .exit => true
  | .tryRegion _ l _ => l.toNat < 3
  | .endtry l => l.toNat < 3
  | .throwCode a da => srcOk a da
  | .rethrow => true
  | .xget d s => d.dest && s.toNat ≤ 0x12
  | .barArrive _ | .barWait _ | .barSync _ | .barGridSync => true
  | .barCount d _ => d.dest
  | .attach c _ => c.isS
  | .detach => true
  | .ldgW d a b _ => d.isV && a.memBase && b.source && directScalar a [b]
  | .ldgD d a b _ => d.evenV && a.memBase && b.source && directScalar a [b]
  | .ldgQ d a b _ => d.quadV && a.memBase && b.source && directScalar a [b]
  | .stg d a b w =>
    (match w.toNat with | 1 => d.evenV | 2 => d.quadV | _ => d.source) && a.memBase && b.source && directScalar a [b, d]
  | .lds d a b _ => d.dest && a.scratchBase && b.source && oneScalar [a, b]
  | .sts d a b => d.source && a.scratchBase && b.source && oneScalar [a, b, d]
  | .atom d a b k =>
    (if k.toNat ≥ 13 then d.evenV && b.evenV
      else (if k.toNat = 9 then d.both else d.dest) && b.source) && a.address && directScalar a (if k = 9 then [b, d] else [b])
  | .red a b k => k.toNat < 12 && a.address && (if k.toNat ≥ 10 then b.evenV else b.source) && directScalar a [b]
  | .commit _ _ | .commitAll _ => true
  | .fence k _ => k.toNat < 3
  | .monw d a b k => d.isV && a.address && b.source && k.toNat < 8 && directScalar a [b]
  | .cpstage | .cpcancel _ => true
  | .cpgo a | .cpred a _ => a.octS
  | .cpq d _ => d.dest
  | .mconv a b _ => a.source && b.source
  | .mma a b _ => a.evenS && b.evenS
  | .mset a b n =>
    if n = 0x00 then a.source && b == .s 0
    else if n = 0x01 ∨ n = 0x02 then a.source && b.source
    else if n = 0x03 then a == .s 0 && b == .s 0
    else if n = 0x04 ∨ n = 0x05 then a.evenS && b == .s 0
    else 0x10 ≤ n.toNat && n.toNat ≤ 0x2F && a.evenS && b == .s 0
  | .mmask a n => if n = 0 ∨ n = 1 then a.source else n == 2 && a == .s 0
  | .mld a b _ => a.evenS && b.source
  | .mst a b _ => a.evenS && b.evenS
  | .mcvt a b => a.isV && b.source
  | .mzero _ | .mfree _ => true
  | .mwait a b all => (if all = 1 then a == .s 0 else a.source) && b.dest
  | .mprog a _ => a.dest && a != .void
  | .malloc a _ _ => a.dest
  | .trace a b _ _ _ => a.octV && b.quadV
  | .regroup a b n => a.isV && 1 ≤ n.toNat && n.toNat ≤ 16 && match b with
    | .v r => r.toNat + n.toNat ≤ 64
    | _ => false
  | .enq a b _ _ => a.isV && (b.isS || b == .void)
  | .enqc a b _ _ => a.isS && (b.isS || b == .void)
  | .svc a _ => a.quadV
  | .qstat a f e => a.dest && f.toNat < 3 && (f == 0 || e == 0)
  | .trap _ | .tret => true
  | .csrr a b n => a.dest && csrNumber (csrOf b n)
  | .csrw a b n => a.source && csrNumber (csrOf b n)
  | .cflush a b | .cinv a b | .cinvDiscard a b | .pref a b _ | .tlbinv a b => a.memBase && b.source
  | .tlbinvAll => true
  | .rgne a => a.source
  | .rgnl | .halt => true
  | .ocrd a _ | .ocwr a _ | .ltrd a _ | .ltwr a _ => a.isV
  | .lbrd a w m _ | .lbwr a w m _ => a.isV && (m == 0 || w.toNat ≤ 1)
  | _ => false

end Sys2Proof
end

