-- ==== Sys2Proof/Machine/Operands.lean ====
section
/-! DEFINITION. Operand forms: what a register field names (R47 to R50), its value and tag (R54, R81), and the checks of
rows 4 to 9 of Table 6-6 on it. -/

namespace Sys2Proof.Machine

/-- What a field of the vector class names once WB, SWB and the VT view are applied (Table 4-2, R47). outside is a VT code
that names no row. -/
inductive Place where
  | reg (r : Nat) | row (r : Nat) | outside
  | cache (n : Nat) | latch (n : Nat) | scalar (r : Nat)
  | zero | lane | lit | tid | wid | cc | scc | time | void
deriving DecidableEq, Repr

/-- The VT view is in effect (R47). -/
def Warp.vtView (w : Warp) : Bool := w.vton && w.tdepth

/-- The place of a vector-class field, k registers after the one it names. -/
def State.place (s : State) (x : VOp) (k : Nat := 0) : Place :=
  match x with
  | .v n =>
    if s.warp.vtView then (if n.toNat + k < 16 ∧ s.warp.vtsel < s.team.tiles.length then .row (n.toNat + k) else .outside)
    else .reg (s.warp.wb + n.toNat + k)
  | .oc n => .cache n.toNat
  | .latch n => .latch n.toNat
  | .s n => .scalar (s.warp.swb + n.toNat + k)
  | .zero => .zero | .lane => .lane | .lit => .lit | .tid => .tid | .wid => .wid | .cc => .cc | .time => .time | .void => .void

/-- The place of a scalar-class field. -/
def State.splace (s : State) (x : SOp) (k : Nat := 0) : Place :=
  match x with
  | .s n => .scalar (s.warp.swb + n.val + k)
  | .zero => .zero | .lane => .lane | .lit => .lit | .tid => .tid | .wid => .wid | .cc => .scc | .time => .time | .void => .void

/-- n·wid + lane (R20). -/
def State.tid (s : State) (L : Nat) : Word := BitVec.ofNat 32 (s.team.lanefill * s.warp.idx + L)

/-- GTC[31:0] at issue. -/
def State.time (s : State) : Word := BitVec.ofNat 32 s.gtc

def State.tile (s : State) (i : Nat) : Tile := s.team.tiles.getD i default

/-- The 32 lanes a place reads (R54, R58). -/
def State.read (s : State) (p : Place) : Lanes :=
  match p with
  | .reg r => s.warp.regData r
  | .row r => (s.tile s.warp.vtsel).row r
  | .cache n => (look s.warp.oc Copy.blank n).data
  | .latch n => (s.warp.latchEntry n).latch
  | .scalar r => splat (s.warp.scalar r)
  | .lane => lanesOf fun L => BitVec.ofNat 32 L
  | .lit => splat s.warp.lit
  | .tid => lanesOf s.tid
  | .wid => splat (BitVec.ofNat 32 s.warp.idx)
  | .cc => lanesOf fun L => if s.warp.ccl.getLsbD L then 1 else 0
  | .scc => splat (if s.warp.ccs then 1 else 0)
  | .time => splat s.time
  | .zero | .void | .outside => splat 0

/-- The helper V(x) of R107. -/
def State.vec (s : State) (x : VOp) (k : Nat := 0) : Lanes := s.read (s.place x k)

/-- The value of a scalar-class field: lane reads zero, tid is that of lane 0, cc is the scalar cc (Table 4-2). -/
def State.sc (s : State) (x : SOp) (k : Nat := 0) : Word :=
  match s.splace x k with
  | .scalar r => s.warp.scalar r
  | .lit => s.warp.lit
  | .tid => s.tid 0
  | .wid => BitVec.ofNat 32 s.warp.idx
  | .scc => if s.warp.ccs then 1 else 0
  | .time => s.time
  | _ => 0

/-- The 64-bit value of a scalar pair, or 0 for zero (R16, R127). -/
def State.scPair (s : State) (x : SOp) : Dword := s.sc x 1 ++ s.sc x

/-- Lane L of a vector pair, low word in the even register (R73). -/
def State.pair (s : State) (x : VOp) (L : Nat) : Dword := lane (s.vec x 1) L ++ lane (s.vec x) L

/-- The tag of a source, none where it carries no tag (R81). -/
def State.placeTag (s : State) (p : Place) : Option Tag :=
  match p with
  | .reg r => some (s.warp.regTag r)
  | .row _ => some (s.tile s.warp.vtsel).tag
  | .cache n => some (look s.warp.oc Copy.blank n).tag
  | .latch n => some (s.warp.latchEntry n).tag
  | _ => none

/-- The number of a main-file register or of a row of the VT view: its absolute number, and from 256 on 16 for each tile (R47). -/
def State.fileNo (s : State) : Place → Nat
  | .reg r => r
  | .row r => 256 + 16 * s.warp.vtsel + r
  | _ => 0

def State.srcTag (s : State) (x : VOp) (k : Nat := 0) : Option Tag := s.placeTag (s.place x k)

/-- The tag that the sources of one instruction of the integer or bit class have in common (R81, R82): none where a tagged
source is outside the accepted tags or two differ. RAW counts as untagged; untagged sources take the tag of the others, or
I32. keepRaw gives RAW where every tagged source is RAW (Table 5-4, bit class; DEDUCED for RAW beside an untagged source: log 13). -/
def commonTag (accepted : List Tag) (keepRaw : Bool) (ts : List (Option Tag)) : Option Tag :=
  let tagged := (ts.filterMap id).filter (· != Tag.raw)
  match tagged with
  | [] => some (if keepRaw && ts.contains (some .raw) then .raw else .i32)
  | t :: rest => if accepted.contains t && rest.all (· == t) then some t else none

/-- A source field: the registers it names from its code on, and its dead bit. -/
structure Src where
  op : VOp
  count : Nat := 1
  dead : Bool := false

structure SSrc where
  op : SOp
  count : Nat := 1

/-! ## Checks of rows 4 to 8 -/

/-- Row 4: the register is within the allocation (R51), or the VT code names a row (R47). -/
def State.inWindow (s : State) : Place → Bool
  | .reg r => r < 8 * s.warp.vvg
  | .outside => false
  | _ => true

/-- The numbers by which a landing slot and a warp's list of PENDING scalars name the literal register, the scalar cc and void (R49, R127;
DESIGN CHOICE: log 112). -/
def litNo : Nat := 509

def sccNo : Nat := 510

def voidNo : Nat := 511

/-- Row 5: the register is PENDING (R63). -/
def State.isPending (s : State) : Place → Bool
  | .reg r => (s.warp.bankReg r).pending
  | .scalar r => s.warp.spend.contains r
  | .lit => s.warp.spend.contains litNo
  | .scc => s.warp.spend.contains sccNo
  | _ => false

/-- Row 6: the register is stale (R55). -/
def State.isStale (s : State) : Place → Bool
  | .reg r => (s.warp.bankReg r).stale
  | _ => false

/-- Row 7: the latch is invalid (R52). -/
def State.badLatch (s : State) : Place → Bool
  | .latch n => !(s.warp.latchEntry n).valid
  | _ => false

/-- Row 8: the slot is empty (R57). -/
def State.emptySlot (s : State) : Place → Bool
  | .cache n => !(look s.warp.oc Copy.blank n).valid
  | _ => false

/-- The place awaits a result that is not yet produced (R52, R60), or a row of a tile whose PEND is not 0 (R303). -/
def State.awaits (s : State) : Place → Bool
  | .reg r => s.warp.awaitsReg r
  | .row _ => s.warp.awaitsRows || s.team.mops.any fun o => o.d == s.warp.vtsel && o.phase != .done
  | .cache n => s.warp.awaitsCache n
  | .latch n => (s.warp.latchEntry n).valid && !(s.warp.latchEntry n).produced
  | .scalar r => s.warp.awaitsScalar r
  | .lit => s.warp.awaitsLit
  | .cc => s.warp.awaitsCc
  | .scc => s.warp.awaitsScalarCc
  | _ => false

def State.srcPlaces (s : State) (x : Src) : List Place := (List.range x.count).map fun k => s.place x.op k

def State.ssrcPlaces (s : State) (x : SSrc) : List Place := (List.range x.count).map fun k => s.splace x.op k

/-- A fault at issue: its code, the faulting lanes and the fault address. -/
structure Raise where
  code : BitVec 16
  lanes : Mask
  addr : BitVec 64
deriving DecidableEq, Repr

/-- What an instruction asks of the checks at issue, in the order of Table 6-6. sccAwait tells that it reads or writes the
scalar cc, ccAwait a lane cc; drains that it drains the window; retry is a wait of its own after all checks. -/
structure Uses where
  legal : Bool := true
  privileged : Bool := false
  window : Bool := true
  srcs : List Src := []
  ssrcs : List SSrc := []
  dsts : List Src := []
  sdsts : List SSrc := []
  slot : Option Nat := none
  readsEmpty : Bool := false
  tagsOk : Bool := true
  voids : Mask := 0
  uniform : Bool := true
  specific : Option Raise := none
  ccAwait : Bool := false
  sccAwait : Bool := false
  drains : Bool := false
  retry : Bool := false

/-- The warp belongs to a kernel-mode service team or runs its trap routine (Table 6-4 notes). -/
def State.privileged (s : State) : Bool := s.team.service || s.warp.tdepth

inductive Gate where
  | go | wait
  | raise (r : Raise)
deriving DecidableEq, Repr

def State.raiseAll (s : State) (c : BitVec 16) : Gate := .raise { code := c, lanes := s.mask, addr := 0 }

/-- The checks of rows 2 to 12 of Table 6-6, with the interlock before the checks that read registers (R52, R60, R102); a lookahead that
is used up holds every instruction (R61). -/
def State.gate (s : State) (u : Uses) : Gate :=
  let rd := u.srcs.flatMap s.srcPlaces ++ u.ssrcs.flatMap s.ssrcPlaces
  let wr := u.dsts.flatMap s.srcPlaces ++ u.sdsts.flatMap s.ssrcPlaces
  let fresh := (u.srcs.filter fun x => !x.dead).flatMap s.srcPlaces
  if !u.legal then s.raiseAll Code.illegal
  else if u.privileged && !s.privileged then s.raiseAll Code.privilege
  else if (rd ++ wr).any s.awaits || (u.ccAwait && s.warp.awaitsCc) || (u.sccAwait && s.warp.awaitsScalarCc)
      || (u.drains && !s.warp.unproduced.isEmpty) || s.warp.lookahead then .wait
  else if !u.window || !(rd ++ wr).all s.inWindow then s.raiseAll Code.window
  else if (rd ++ wr).any s.isPending || (u.sccAwait && s.isPending .scc)
      || (match u.slot with | some k => (look s.warp.slots default k).state != .empty | none => false) then s.raiseAll Code.pending
  else if fresh.any s.isStale then s.raiseAll Code.stale
  else if rd.any s.badLatch then s.raiseAll Code.latch
  else if !u.readsEmpty && rd.any s.emptySlot then s.raiseAll Code.ocempty
  else if !u.tagsOk then s.raiseAll Code.tag
  else if frmVt s.warp.frm && u.voids != 0 then .raise { code := Code.voidelem, lanes := u.voids, addr := 0 }
  else if !u.uniform then s.raiseAll Code.uniform
  else match u.specific with
    | some r => .raise r
    | none => if u.retry then .wait else .go

/-- Dead reads take effect after every source has been read (R55). -/
def State.deadRead (s : State) (x : Src) : State :=
  if x.dead then
    (s.srcPlaces x).foldl
      (fun s p => match p with
        | .reg r => { s with warp := s.warp.deadReg r }
        | .latch n => { s with warp := s.warp.deadLatch n }
        | _ => s) s
  else s

/-! ## Results -/

/-- A vector result: hi is some for the high words of a pair, with its own tag; cc is some where the instruction sets lane
cc bits of its own; long marks a result that is produced later (R60), and look is its lookahead k (R61). -/
structure Result where
  dst : VOp
  tag : Tag
  lo : Lanes
  hi : Option (Lanes × Tag) := none
  flags : Word := 0
  cc : Option Mask := none
  long : Bool := false
  look : Option (BitVec 4) := none

/-- The lowest active lane's value, which lit and a scalar destination take (R105; for a scalar register DEDUCED: log 14). -/
def State.firstOf (s : State) (y : Lanes) : Word := lane y s.firstLane

/-- The register results and late writes of one destination word. -/
def State.destWrites (s : State) (p : Place) (y : Lanes) (t : Tag) : List WinReg × List LateWrite :=
  match p with
  | .reg r => ([{ reg := r, image := mergeLanes s.mask y (s.warp.regData r), tag := t, life := .live }], [])
  | .row r => ([], [.vtRow s.warp.vtsel r y s.mask])
  | .cache n => ([], [.cache n y s.mask t])
  | .lit => ([], [.lit (s.firstOf y)])
  | .scalar r => ([], [.scalar r (s.firstOf y)])
  | .cc => ([], [.laneCc s.mask (maskOf fun L => lane y L != 0)])
  | _ => ([], [])

/-- The window entry of a vector result (the helper Write of R107); lanes that are not active keep their old values (R58). A cc of the
instruction's own is written after D (R113). -/
def State.resultEntry (s : State) (r : Result) : WinEntry :=
  let a := s.destWrites (s.place r.dst) r.lo r.tag
  let b := match r.hi with
    | some (y, t) => s.destWrites (s.place r.dst 1) y t
    | none => ([], [])
  let c : List LateWrite := match r.cc with
    | some m => [.laneCc s.mask m]
    | none => []
  { seq := 0, valid := true, produced := !r.long, latch := mergeLanes s.mask r.lo (splat 0), tag := r.tag,
    regs := a.1 ++ b.1, late := a.2 ++ b.2 ++ c, flags := r.flags
    limit := r.look.map fun k => s.warp.pushed + 1 + k.toNat }

/-- A scalar destination's write (R49). -/
def State.sdestWrite (s : State) (x : SOp) (k : Nat) (v : Word) : List LateWrite :=
  match s.splace x k with
  | .scalar r => [.scalar r v]
  | .lit => [.lit v]
  | .scc => [.scalarCc (v != 0)]
  | _ => []

/-- The window entry of a scalar-class result: an invalid entry (R124). -/
def State.scalarEntry (s : State) (x : SOp) (v : Word) (flags : Word := 0) (cc : Option Bool := none)
    (long : Bool := false) (look : Option (BitVec 4) := none) : WinEntry :=
  { WinEntry.blank with
    produced := !long, flags := flags
    late := s.sdestWrite x 0 v ++ (match cc with | some b => [.scalarCc b] | none => [])
    limit := look.map fun k => s.warp.pushed + 1 + k.toNat }

end Sys2Proof.Machine
end

