-- ==== Sys2Proof/Machine/Ops.lean ====
section
/-! DEFINITION. The shared operations of all instructions: the focus, issue, taking an exception (R175: conversion into a
throw, parking, DOUBLE), throws and their regions (R174, R178 to R183), trap entry and the return from it (R69, R187 to R189). -/

namespace Sys2Proof.Machine

/-! ## The focus -/

/-- A warp that has left is dropped when the focus moves from it. -/
def keepWarp (w : Warp) (l : List Warp) : List Warp := if w.gone then l else w :: l

/-- Core n comes into focus; a core that nothing has used has nothing cached. -/
def State.focusCore (s : State) (n : Nat) : State :=
  if s.core.num = n then s
  else
    { s with
      core := (s.cores.find? fun c => c.num == n).getD (Core.blank n)
      cores := s.core :: s.cores.filter fun c => c.num != n }

/-- Context n comes into focus. -/
def State.focusCtx (s : State) (n : Nat) : State :=
  if s.ctx.id = n then s
  else
    { s with
      ctx := (s.ctxs.find? fun c => c.id == n).getD (Ctx.blank n)
      ctxs := s.ctx :: s.ctxs.filter fun c => c.id != n }

def State.ctxOf (s : State) (id : Nat) : Ctx :=
  if s.ctx.id = id then s.ctx else (s.ctxs.find? fun c => c.id == id).getD (Ctx.blank id)

def State.focusLaunch (s : State) (n : Nat) : State :=
  if s.launch.id = n then s
  else match s.launches.find? fun l => l.id == n with
    | none => s
    | some l => { s with launch := l, launches := s.launch :: s.launches.filter fun x => x.id != n }

/-- The team with a handle comes into focus with its core, context and launch. -/
def State.focusTeam (s : State) (h : Nat) : Option State :=
  let found := if s.team.handle = h then some s
    else match s.teams.find? fun t => t.handle == h with
      | none => none
      | some t => some { s with team := t, teams := s.team :: s.teams.filter fun x => x.handle != h }
  found.map fun s => ((s.focusCore s.team.core).focusCtx s.team.ctx).focusLaunch s.team.launch

/-- Warp w of the team with handle h comes into focus. -/
def State.focusOn (s : State) (h w : Nat) : Option State :=
  match s.focusTeam h with
  | none => none
  | some s =>
    if s.warp.team = h ∧ s.warp.idx = w then (if s.warp.gone then none else some s)
    else match s.warps.find? fun x => x.team == h && x.idx == w with
      | none => none
      | some x => some { s with
          warp := x
          warps := keepWarp s.warp (s.warps.filter fun y => !(y.team == h && y.idx == w)) }

def State.mapWarps (s : State) (f : Warp → Warp) : State := { s with warp := f s.warp, warps := s.warps.map f }

/-- Every warp that has not left. -/
def State.allWarps (s : State) : List Warp := keepWarp s.warp s.warps

def State.teamWarps (s : State) (h : Nat) : List Warp := s.allWarps.filter fun w => w.team == h

def State.allTeams (s : State) : List Team := (s.team :: s.teams).filter fun t => t.life != .gone

def State.mapTeams (s : State) (f : Team → Team) : State := { s with team := f s.team, teams := s.teams.map f }

def State.onTeam (s : State) (h : Nat) (f : Team → Team) : State :=
  s.mapTeams fun t => if t.handle = h ∧ t.life ≠ .gone then f t else t

def State.onTeamWarps (s : State) (h : Nat) (f : Warp → Warp) : State :=
  s.mapWarps fun w => if w.team = h ∧ w.gone = false then f w else w

def State.onWarp (s : State) (h i : Nat) (f : Warp → Warp) : State :=
  s.mapWarps fun w => if w.team = h ∧ w.idx = i ∧ w.gone = false then f w else w

/-- The focus goes back to the warp and the team that it was on before; the warp may have left meanwhile. -/
def State.backTo (s before : State) : State :=
  let w := before.warp
  let s := (s.focusTeam w.team).getD s
  let t := match s.focusOn w.team w.idx with
    | some t => t
    | none => if s.warp.team = w.team ∧ s.warp.idx = w.idx then s else { s with warp := { w with gone := true }, warps := keepWarp s.warp s.warps }
  (t.focusTeam before.team.handle).getD t

def State.teamOf (s : State) (h : Nat) : Team := (s.allTeams.find? fun t => t.handle == h).getD Team.blank

/-! ## The end of a step -/

/-- A step has changed the machine, so every stalled warp may try again (R30). -/
def State.wake (s : State) : State := s.mapWarps fun w => { w with stalled := false }

/-- GTC, 64 bits wide (R2), after ns: it wraps. What was to come due past the wrap (a lease, a MONTO, a tw, a count of the hang detector) is a
plain number, and so does not come due after it; R2 is silent on it (DESIGN CHOICE: log 96). -/
def gtcAfter (gtc ns : Nat) : Nat := (gtc + ns) % 2 ^ 64

/-- What the issue of an instruction costs the scheduler: the warp counts as issued last, its run counter advances, and GTC
advances by 1 ns (DESIGN CHOICE: log 5). -/
def State.finish (s : State) : State :=
  ({ s with
    warp := { s.warp with issued := s.nextId, runCount := s.warp.runCount + 1 }
    core := { s.core with lastIssue := put s.core.lastIssue (s.warp.slot / 16) s.nextId }
    ctx := { s.ctx with lastBusy := gtcAfter s.gtc 1 }
    nextId := s.nextId + 1
    gtc := gtcAfter s.gtc 1 } : State).wake

/-- The instruction does not issue: its warp is STALLED (R30). -/
def State.stall (s : State) : State :=
  { s with warp := { s.warp with stalled := true }, ctx := { s.ctx with lastBusy := s.gtc } }

/-! ## Regions and throws -/

/-- An open region by level, time of opening and contents. -/
structure Holder where
  level : Nat
  region : Region
deriving DecidableEq, Repr

def newer (a b : Option Holder) : Option Holder :=
  match a, b with
  | none, b => b
  | a, none => a
  | some x, some y => if x.region.stamp < y.region.stamp then some y else some x

/-- The innermost open region that holds a lane of the warp in focus (R174). -/
def State.innermost (s : State) (L : Nat) : Option Holder :=
  newer (newer ((s.warp.tries.find? fun r => r.mask.getLsbD L).map fun r => { level := 0, region := r })
    (s.team.tries.head?.map fun r => { level := 1, region := r }))
    (s.launch.gtries.head?.map fun r => { level := 2, region := r })

/-- The innermost open region of at least a level: where a rethrow goes (R167, R183). Of a team and a grid region that are both open it is the
one opened last; the rules do not say which of them is at the level above (DESIGN CHOICE: log 83). -/
def State.innermostFrom (s : State) (level L : Nat) : Option Holder :=
  newer (if level = 0 then (s.warp.tries.find? fun r => r.mask.getLsbD L).map fun r => { level := 0, region := r } else none)
    (newer (if level ≤ 1 then s.team.tries.head?.map fun r => { level := 1, region := r } else none)
      (if level ≤ 2 then s.launch.gtries.head?.map fun r => { level := 2, region := r } else none))

/-- The region that takes COPYFAULT and SIGMISMATCH (R192, R280): the innermost open team-level region, failing that the grid-level one. -/
def State.teamRegion (s : State) : Option Holder :=
  match s.team.tries.head? with
  | some r => some { level := 1, region := r }
  | none => s.launch.gtries.head?.map fun r => { level := 2, region := r }

/-- Lanes that a batch which is no more leaves in its entry issue their SVC again (log 79). -/
def Warp.reissueSvc (l : List Nat) (w : Warp) : Warp :=
  { w with frontier := w.frontier.map fun e => match e.wait with
      | .svc _ _ (some i) => if l.contains i then { e with wait := .ready } else e
      | _ => e }

/-- The lanes of a mask that are in the frontier of a warp leave it at their stop PCs (R179); monitors of stopped lanes are disarmed, and an SVC
batch that is done keeps its results for the others (R346, R347); with none of its lanes left it is no more. -/
def Warp.stopLanes (w : Warp) (m : Mask) : Warp × Stopped :=
  let m := m &&& w.live &&& maskOf fun L => w.frontier.any fun e => e.mask.getLsbD L
  let ended := w.svcEnds.filter fun x => x.mask &&& ~~~m == 0
  ({ w with
      reissue := w.reissue.bind fun r => if r.2.2 &&& ~~~m = 0 then none else some (r.1, r.2.1 &&& ~~~m, r.2.2 &&& ~~~m)
      frontier := (Warp.reissueSvc (ended.map (·.index)) { w with frontier := dropLanes m w.frontier }).frontier
      svcEnds := (w.svcEnds.map fun x => { x with mask := x.mask &&& ~~~m }).filter fun x => x.mask != 0
      monws := (w.monws.map fun o => { o with mask := o.mask &&& ~~~m, lanes := o.lanes.filter fun l => !m.getLsbD l.lane }).filter
        fun o => o.mask != 0 },
    { team := w.team, warp := w.idx, lanes := m, pcs := pcsOf w.frontier })

/-- What a stop takes from a warp besides its lanes: its wait, its park and its request (R179). -/
def Warp.release (w : Warp) : Warp := { w.unwait with hold := .none, savedHold := .none, park := none }

/-- The lanes of the warp that are members of a region. -/
def Holder.members (r : Holder) (w : Warp) : Mask := if r.level = 0 then r.region.mask &&& w.live else w.live

/-- The delivery that is open for a region. -/
def Delivery.isFor (d : Delivery) (r : Holder) : Bool := d.level == r.level && d.stamp == r.region.stamp

/-- A delivery under way in a member warp of a region of a higher level (R182). -/
def State.inside (s : State) (d : Delivery) (r : Holder) : Bool :=
  decide (d.level < r.level) &&
    (if r.level = 1 then d.team == s.team.handle else d.launch == s.launch.id)

/-- Throws from lanes of the warp in focus to one region: the record opens, or they merge into the open one (R178 step 1,
R181); a delivery of a lower level in a member warp is abandoned and its throwers merge (R182). The members stop in CATCH_ENTRY, the
throwing warp among them, which issues nothing before (log 9). The record's NCOPY starts with the copies that abandoned deliveries have
cancelled, its BARMASK at 0 (DESIGN CHOICE: log 78). -/
def State.throwTo (s : State) (r : Holder) (ts : List Thrower) : State :=
  let w := if r.level = 0 then ({ s.warp with park := none } : Warp).replace s.pr else s.warp.release
  match s.deliveries.find? fun d => d.isFor r with
  | some d =>
    { s with
      warp := w
      deliveries := { d with throwers := d.throwers ++ ts } :: s.deliveries.filter fun x => x.id != d.id }
  | none =>
    let lower := s.deliveries.filter fun d => s.inside d r
    { s with
      warp := w
      nextId := s.nextId + 1
      deliveries :=
        { id := s.nextId, level := r.level, team := s.team.handle, warp := s.warp.idx, launch := s.launch.id,
          stamp := r.region.stamp, region := r.region, gtc := s.gtc,
          throwers := lower.flatMap (·.throwers) ++ ts,
          stopped := lower.flatMap (·.stopped),
          swept := false, ncopy := (lower.map (·.ncopy)).sum, barmask := 0 }
        :: s.deliveries.filter fun d => !s.inside d r }

/-- A throw that no region takes: the team is to be killed (R177); TEAM_KILL carries it out. -/
def State.doom (s : State) (code : BitVec 16) (pc addr : BitVec 64) : State :=
  match s.team.doomed with
  | some _ => s
  | none => { s with team := { s.team with doomed := some (code, pc, addr) } }

/-- The level of a throw's region, 3 where there is none. -/
def throwLevel (p : Option Holder × Thrower) : Nat := (p.1.map (·.level)).getD 3

/-- Each lane throws to its region; lanes under one region throw together. Regions of higher levels take theirs first, so that each
delivers separately (R176, R182). -/
def State.throwAll (s : State) (l : List (Option Holder × Thrower)) : State :=
  match sortBy (fun p q => throwLevel q ≤ throwLevel p) l with
  | [] => s
  | l =>
    let step (s : State) (p : Option Holder × Thrower) : State :=
      match p.1 with
      | none => s.doom p.2.code p.2.pc p.2.addr
      | some r =>
        let mine := (l.filter fun q => match q.1 with | some r' => r' == r | none => false).map (·.2)
        if mine.head? == some p.2 then s.throwTo r mine else s
    l.foldl step s

/-- A thrower of the warp in focus. -/
def State.thrower (s : State) (L : Nat) (code : BitVec 16) (pc addr : BitVec 64) : Thrower :=
  { team := s.team.handle, teamIndex := s.team.index, warp := s.warp.idx, lane := L, tid := s.tid L, code := code,
    f := decide (code.toNat < Code.software), pc := pc, addr := addr }

/-! ## Taking an exception (R175, R184, R186) -/

/-- Throws of lanes that instructions of the warp in focus have thrown from its issuing entry. In its trap routine the warp goes on at the next word
up to its TRET, since a delivery stops a trapped member only there; a throwing lane's stop PC is its THROW (R179). -/
def State.throwHere (s : State) (l : List (Option Holder × Thrower)) : State :=
  if s.warp.tdepth then s.advance.throwAll (l.map fun p => (p.1, { p.2 with stopAt := some s.entry.pc })) else s.throwAll l

/-- The warp parks (R184); its record waits for PARK_RECORD_POST. -/
def State.parkAt (s : State) (code : BitVec 16) (lanes : Mask) (pc addr : BitVec 64) : State :=
  { s with warp := { s.warp with
      park := some { code := code, second := 0, lanes := lanes, pc := pc, addr := addr, seq := none, since := s.gtc } } }

/-- A synchronous fault at TDEPTH 1: the warp parks with DOUBLE, whose fault address holds the second fault's code (R186,
Table 9-7). -/
def State.parkDouble (s : State) (code : BitVec 16) (lanes : Mask) (pc : BitVec 64) : State :=
  { s with warp := { s.warp with
      double := some { code := Code.double, second := code, lanes := lanes, pc := pc, addr := code.setWidth 64, seq := none,
                       since := s.gtc } } }

/-- A fault of lanes of a warp that a park holds waits until that park is over: a warp holds at most one, until PARKCMD acts on it or a delivery
withdraws it (R179, R184; DEDUCED: log 129). -/
def State.laterFault (s : State) (r : Raise) (pc : BitVec 64) : State :=
  let p : Park := { code := r.code, second := if s.warp.tdepth then 3 else 2, lanes := r.lanes, pc := pc, addr := r.addr, seq := none, since := s.gtc }
  { s with warp := { s.warp with pendFault := s.warp.pendFault ++ [p] } }

/-- A synchronous fault of the lanes of the warp in focus at pc takes its route of Table 9-2: DOUBLE at TDEPTH 1; a throw
from each faulting lane where every one of them is held by an innermost region with F = 1; else a park for all of them. One whose warp is parked
already, as that of a result of an instruction that issued before, waits. -/
def State.takeFault (s : State) (r : Raise) (pc : BitVec 64) : State :=
  if s.warp.parked then s.laterFault r pc
  else if s.warp.tdepth then s.parkDouble r.code r.lanes pc
  else
    let held := (maskLanes r.lanes).map fun L => (s.innermost L, s.thrower L r.code pc r.addr)
    if !held.isEmpty && held.all fun h => match h.1 with | some x => x.region.f | none => false then s.throwAll held
    else s.parkAt r.code r.lanes pc r.addr

/-- A fault at the instruction that the warp in focus is about to issue: no effect but the exception (R102). -/
def State.raise (s : State) (r : Raise) : State := (s.takeFault r s.entry.pc).wake

/-- A hardware throw from lanes of the warp in focus, whatever F is (Table 9-2). -/
def State.hardwareThrow (s : State) (code : BitVec 16) (lanes : Mask) (pc addr : BitVec 64) : State :=
  s.throwAll ((maskLanes lanes).map fun L => (s.innermost L, s.thrower L code pc addr))

/-! ## Issue -/

/-- The entry about to issue is not the one that issued last: a switch, which drains the window and invalidates the latches
(R29, Table 4-3). -/
def State.switches (s : State) : Bool :=
  match s.warp.lastEntry with
  | some i => i != s.entry.id
  | none => false

/-- What the switch and the issue do before the instruction's own checks. -/
def State.prelude (s : State) : State :=
  let w := if s.switches then s.warp.drain else s.warp
  { s with warp := { w with lastEntry := some s.entry.id } }

/-- An instruction at the first eligible entry of the warp in focus: it waits, faults, or takes its effect. -/
def State.issue (s : State) (uses : State → Uses) (effect : State → State) : Host.Outcome State Fault Refusal :=
  match s.issuing with
  | none => .fault .noIssuer
  | some _ =>
    if s.switches && !s.warp.unproduced.isEmpty then .next s.stall
    else
      let s' := s.prelude
      match s'.gate (uses s') with
      | .wait => .next s.stall
      | .raise r => .next (s'.raise r)
      | .go => .next (effect s').finish

/-- An instruction whose lanes go on at the next word. -/
def State.issueNext (s : State) (uses : State → Uses) (effect : State → State) : Host.Outcome State Fault Refusal :=
  s.issue uses fun s => (effect s).advance

/-- How an instruction that has passed its checks goes on: it is done, it waits (changed tells that it has changed the
machine meanwhile, so that others may go on), or it faults. -/
inductive Attempt where
  | done (s : State)
  | wait (s : State) (changed : Bool)
  | raise (s : State) (r : Raise)

/-- An instruction that may have to wait, or to fault, after its checks. -/
def State.attempt (s : State) (uses : State → Uses) (act : State → Attempt) : Host.Outcome State Fault Refusal :=
  match s.issuing with
  | none => .fault .noIssuer
  | some _ =>
    if s.switches && !s.warp.unproduced.isEmpty then .next s.stall
    else
      let s' := s.prelude
      match s'.gate (uses s') with
      | .wait => .next s.stall
      | .raise r => .next (s'.raise r)
      | .go => match act s' with
        | .done t => .next t.finish
        | .wait t changed => .next (if changed then t.wake else t).stall
        | .raise t r => .next (t.raise r)

/-- The state after an instruction's sources are read, dead reads included, and its entry is in the window (R55, R108): the
entry is formed from the state before any of it. -/
def State.settle (s : State) (srcs : List Src) (e : WinEntry) : State := (srcs.foldl State.deadRead s).enter e

/-- A vector-class instruction with one vector result. tags answers the tag the checks of row 9 give, none for TAG. -/
def State.vector (s : State) (i : Instr) (srcs : List Src) (dst : Src) (tags : State → Option Tag)
    (f : State → Tag → Result) : Host.Outcome State Fault Refusal :=
  s.issueNext
    (fun s => { legal := i.wellFormed, srcs := srcs, dsts := [dst], tagsOk := (tags s).isSome })
    (fun s => s.settle srcs (s.resultEntry (f s ((tags s).getD .i32))))

/-- A scalar-class instruction with one scalar result (R124). -/
def State.scalarOp (s : State) (i : Instr) (srcs : List SOp) (d : SOp) (cc : Bool)
    (f : State → Word × Word × Option Bool) : Host.Outcome State Fault Refusal :=
  s.issueNext
    (fun _ => { legal := i.wellFormed, ssrcs := srcs.map fun x => { op := x }, sdsts := [{ op := d }], sccAwait := cc })
    (fun s => let r := f s; s.settle [] (s.scalarEntry d r.1 r.2.1 r.2.2))

/-! ## Traps -/

/-- Every INFLIGHT slot of the warp has LANDED, and no result is still to be produced, so that a trap can enter (R64, R69,
R134). -/
def Warp.quiet (w : Warp) : Bool := w.unproduced.isEmpty && w.slots.toList.all fun x => x.state != .inflight

/-- The wait of the whole warp is that of an entry: of each, or of those that TRET has restored with WAIT 4, where there are such (R26). -/
def Warp.barWaits (w : Warp) (e : Entry) : Bool := e.wait == .bar || w.frontier.all fun x => x.wait != .bar

/-- The WAIT value of a frontier entry (R188). -/
def State.waitValue (s : State) (e : Entry) : BitVec 3 :=
  match e.wait with
  | .monw _ => 1
  | .pooled => 3
  | _ =>
    if s.warp.park.isSome then 2
    else match s.warp.hold with
      | .pool _ => if s.warp.lastEntry = some e.id then 3 else 0
      | .bar _ _ _ _ | .grid _ | .endtry _ | .regroup | .released | .mismatch => if s.warp.barWaits e then 4 else 0
      | _ => if e.wait == .bar then 4 else if e.wait == .parked then 2 else 0

def State.shadowFrontier (s : State) : Vector ShadowEntry 32 :=
  ⟨((List.range 32).map fun i =>
    match s.warp.frontier[i]? with
    | some e => { pc := e.pc, mask := e.mask, prio := e.prio, wait := s.waitValue e }
    | none => default).toArray, by simp⟩

/-- The eight latches with their values, tags and valid bits (R69). -/
def Warp.latchCopies (w : Warp) : Vector Copy 8 :=
  ⟨((List.range 8).map fun n =>
    let e := w.latchEntry n
    { data := e.latch, tag := e.tag, valid := e.valid,
      regs := (e.regs.filter fun x => x.life != .gone).map (·.reg) }).toArray, by simp⟩

/-- The trap's saved hold: a wait that the barrier unit or the WGU keeps as team state (R188). -/
def Hold.kept : Hold → Hold
  | .bar b g a w => .bar b g a w
  | .grid g => .grid g
  | .endtry l => .endtry l
  | .regroup => .regroup
  | .released => .released
  | .mismatch => .mismatch
  | _ => .none

/-- The place in the frontier of the entry that issued last: 32 where it is in none, 33 where none has issued since the warp came to be. -/
def Warp.lastIndex (w : Warp) : Nat :=
  match w.lastEntry with
  | none => 33
  | some i => (w.frontier.findIdx? fun e => e.id == i).getD 32

/-- Trap entry (R69, R187): drain, latches to the shadow, frontier to its shadow, TEPC, TCAUSE, TDEPTH := 1, every live lane
in one entry at TVB. A queued pool request is withdrawn (R67). -/
def State.trapEnter (s : State) (cause : Word) (tepc : BitVec 64) (fr : Vector ShadowEntry 32) (n : Nat) : State :=
  let w := s.warp
  let lanes := w.frontier.foldl (fun m e => m ||| e.mask) 0
  let e : Entry := { id := s.nextId, prio := 0, pc := s.ctx.tvb, mask := lanes, wait := .ready }
  { s with
    nextId := s.nextId + 1
    warp := { w.drain with
      shadow := w.latchCopies
      fsh := fr
      fshn := n
      fshLast := w.lastIndex
      tepc := tepc
      tcause := cause
      tdepth := true
      savedHold := w.hold.kept
      hold := .none
      svcEnds := []
      frontier := placeEntry s.pr none e []
      lastEntry := none } }

/-- TCAUSE of Table 9-9. -/
def tcauseOf (code : BitVec 16) (n : Nat) (resume : Bool) : Word :=
  BitVec.ofNat 32 (code.toNat + n * 2 ^ 16 + (if resume then 2 ^ 22 else 0))

/-- The first n entries of the frontier shadow. -/
def Warp.shadowEntries (w : Warp) : List ShadowEntry := w.fsh.toList.take w.fshn

/-- The frontier a TRET rebuilds is sound (R188). -/
def Warp.shadowOk (w : Warp) : Bool :=
  let es := w.shadowEntries
  w.fshn != 0 &&
  es.all (fun e => bits e.pc 0 2 == 0 && e.wait.toNat ≤ 4) &&
  (List.range 32).all fun L =>
    (es.filter fun e => e.mask.getLsbD L).length == (if w.live.getLsbD L then 1 else (es.filter fun e => e.mask.getLsbD L).length.min 1)

/-- The latches restored by TRET, held as window entries whose results have reached their registers (R69). -/
def Warp.restoredLatches (w : Warp) : List WinEntry :=
  w.shadow.toList.map fun c =>
    { WinEntry.blank with
      valid := c.valid, latch := c.data, tag := c.tag
      regs := c.regs.map fun r => { reg := r, image := splat 0, tag := .raw, life := .reached } }

/-- The return from a trap (R69, R188, R189). An entry saved in POOLWAIT issues its request again, one saved in MONW stays
parked on the MONW that covers its lanes, one saved in BARWAIT waits again unless its wait has ended meanwhile; none of them merges while it
waits (R26). The entry that issued last before the trap counts as such again (R29). -/
def State.trapReturn (s : State) : State :=
  let w := s.warp
  let entry (e : ShadowEntry) : Entry :=
    let wait : EWait := match e.wait.toNat with
      | 1 => match w.monws.find? fun o => o.mask == e.mask with
        | some o => .monw o.id
        | none => .ready
      | 2 => if w.park.isSome then .parked else .ready
      | 3 => .pooled
      | 4 => if w.savedHold = .none ∨ w.savedHold = .released then .ready else .bar
      | _ => .ready
    let pc := if e.wait = 4 ∧ w.savedHold = .released then e.pc + 4 else e.pc
    { id := 0, prio := e.prio, pc := pc, mask := e.mask &&& w.live, wait := wait }
  let last : Option Nat := if w.fshLast = 33 then none else if w.fshLast < 32 then some (s.nextId + w.fshLast) else some 0
  let step (acc : List Entry × Nat) (e : ShadowEntry) : List Entry × Nat :=
    (if e.mask &&& w.live = 0 then acc.1 else placeEntry s.pr last { entry e with id := acc.2 } acc.1, acc.2 + 1)
  let r := w.shadowEntries.foldl step ([], s.nextId)
  let waits := w.shadowEntries.any fun e => e.wait == 4
  { s with
    nextId := r.2
    warp := { w with
      frontier := r.1
      window := w.restoredLatches
      tdepth := false
      hold := if waits && w.savedHold != .released then w.savedHold else .none
      savedHold := .none
      lastEntry := last } }

end Sys2Proof.Machine
end

