-- ==== Sys2Proof/Machine/Elements.lean ====
section
/-! DEFINITION. Elements of a lane as integers (R73, R83, R107, R109): width, count, extraction, packing, saturation. -/

namespace Sys2Proof.Machine

/-- The element width of a format (Table 5-1). -/
def Tag.width : Tag → Nat
  | .raw | .fp32 | .i32 | .n32 => 32
  | .fp64 | .rw => 64
  | .fp16 | .bf16 | .i16 | .n16 | .rs16 | .rp16 => 16
  | .fp19 => 19
  | .rs12 | .rp12 => 12
  | .fp8a | .fp8b | .i8 | .n8 | .rs8 | .rp8 | .ix8 => 8
  | .fp6a | .fp6b | .rs6 | .rp6 => 6
  | .fp4 | .i4 | .n4 | .ix4 => 4
  | .i2 => 2
  | .n1 => 1

/-- Elements of a lane; FP64 and RW have one element in a pair. -/
def Tag.count : Tag → Nat
  | .fp64 | .rw | .fp19 => 1
  | .fp6a | .fp6b | .rs6 | .rp6 => 5
  | .rs12 | .rp12 => 2
  | t => 32 / Tag.width t

/-- The low bit of element i (R73: FP19 stands in bits [31:13]). -/
def Tag.offset (t : Tag) (i : Nat) : Nat := if t = .fp19 then 13 else i * Tag.width t

def Tag.signed : Tag → Bool
  | .i32 | .i16 | .i8 | .i4 | .i2 => true
  | _ => false

/-- The bits of element i of a lane. -/
def elemBits (t : Tag) (x : Word) (i : Nat) : Nat := bits x (Tag.offset t i) (Tag.width t)

/-- A lane from its elements' bits; unused bits are zero (R73). -/
def packElems (t : Tag) (xs : List Nat) : Word :=
  BitVec.ofNat 32 ((xs.zipIdx.map fun p => p.1 % 2 ^ Tag.width t * 2 ^ Tag.offset t p.2).sum)

/-- The integer of w bits, signed or unsigned. -/
def intOf (signed : Bool) (w u : Nat) : Int := if signed ∧ 2 ^ (w - 1) ≤ u then (u : Int) - 2 ^ w else u

/-- The helper Wrap of R107: x mod 2^w. -/
def wrap (w : Nat) (x : Int) : Nat := (x % (2 ^ w : Nat)).toNat

/-- The range of an integer format of width w (R83). -/
def rangeOf (signed : Bool) (w : Nat) : Int × Int :=
  if signed then (-(2 ^ (w - 1) : Nat), (2 ^ (w - 1) : Nat) - 1) else (0, (2 ^ w : Nat) - 1)

/-- The helper Saturate of R107: the nearest end of a range, and whether it clamped. -/
def saturate (r : Int × Int) (x : Int) : Int × Bool :=
  if x < r.1 then (r.1, true) else if r.2 < x then (r.2, true) else (x, false)

/-- What becomes of an exact integer result of width w (R109): the low bits, the high half, or a clamp to Sw or Uw. -/
inductive Narrow where
  | wrap | high | satS | satU
deriving DecidableEq, Repr

def Narrow.apply (m : Narrow) (w : Nat) (x : Int) : Nat × Bool :=
  match m with
  | .wrap => (Machine.wrap w x, false)
  | .high => (Machine.wrap w (x / (2 ^ w : Nat)), false)
  | .satS => let r := saturate (rangeOf true w) x; (Machine.wrap w r.1, r.2)
  | .satU => let r := saturate (rangeOf false w) x; (Machine.wrap w r.1, r.2)

/-- One lane of a packed integer operation on up to three sources (R109, R113), and whether SAT is set. -/
def packedLane (t : Tag) (signed : Bool) (m : Narrow) (op : Int → Int → Int → Int) (a b d : Word) : Word × Bool :=
  let w := Tag.width t
  let r := (List.range (Tag.count t)).map fun i =>
    m.apply w (op (intOf signed w (elemBits t a i)) (intOf signed w (elemBits t b i)) (intOf signed w (elemBits t d i)))
  (packElems t (r.map (·.1)), r.any (·.2))

/-- A vector operation lane by lane, with the SAT flag of its active lanes (R79). -/
def State.eachLane (s : State) (f : Nat → Word × Bool) : Lanes × Word :=
  (lanesOf fun L => (f L).1, if s.active.any fun L => (f L).2 then Flag.sat else 0)

def packedTags : List Tag := [.i32, .n32, .i16, .n16, .i8, .n8]

def wordTags : List Tag := [.i32, .n32]

end Sys2Proof.Machine
end

