-- ==== Sys2Proof/Machine/Float.lean ====
section
/-! DEFINITION. Floating-point formats, exact values and rounding (spec/05, R75 to R77, R84; R137, R143 of spec/08). A finite
value is kept exactly as sign, integer and power of two; the value of a transcendental function as such a number just below
its magnitude together with a sticky mark, so that it rounds as the exact value does (log 7). -/

namespace Sys2Proof.Machine

/-- What a format does beyond its largest finite value (Table 5-2). -/
inductive Top where
  | infinity | fp8a | finite
deriving DecidableEq, Repr

structure Format where
  ebits : Nat
  fbits : Nat
  bias : Nat
  top : Top
deriving DecidableEq, Repr

/-- Table 5-2. -/
def Tag.format : Tag → Option Format
  | .fp64 => some ⟨11, 52, 1023, .infinity⟩
  | .fp32 => some ⟨8, 23, 127, .infinity⟩
  | .fp19 => some ⟨8, 10, 127, .infinity⟩
  | .bf16 => some ⟨8, 7, 127, .infinity⟩
  | .fp16 => some ⟨5, 10, 15, .infinity⟩
  | .fp8b => some ⟨5, 2, 15, .infinity⟩
  | .fp8a => some ⟨4, 3, 7, .fp8a⟩
  | .fp6a => some ⟨3, 2, 3, .finite⟩
  | .fp6b => some ⟨2, 3, 1, .finite⟩
  | .fp4 => some ⟨2, 1, 1, .finite⟩
  | _ => none

/-- A value: NaN, an infinity, or ±m·2^e, where m = 0 is a signed zero and sticky says that the magnitude lies strictly
between m·2^e and (m + 1)·2^e. -/
inductive FVal where
  | nan
  | inf (neg : Bool)
  | num (neg : Bool) (m : Nat) (e : Int) (sticky : Bool)
deriving DecidableEq, Repr

def FVal.zero (neg : Bool) : FVal := .num neg 0 0 false

def Format.width (f : Format) : Nat := 1 + f.ebits + f.fbits

/-- The largest exponent field, and the largest fraction with it that is a number. -/
def Format.maxExp (f : Format) : Nat := if f.top = .infinity then 2 ^ f.ebits - 2 else 2 ^ f.ebits - 1

def Format.maxFrac (f : Format) : Nat := if f.top = .fp8a then 2 ^ f.fbits - 2 else 2 ^ f.fbits - 1

/-- The value of an encoding. -/
def Format.decode (f : Format) (x : Nat) : FVal :=
  let neg := x.testBit (f.ebits + f.fbits)
  let ex := x / 2 ^ f.fbits % 2 ^ f.ebits
  let fr := x % 2 ^ f.fbits
  if ex = 2 ^ f.ebits - 1 ∧ f.top = .infinity then (if fr = 0 then .inf neg else .nan)
  else if ex = 2 ^ f.ebits - 1 ∧ f.top = .fp8a ∧ fr = 2 ^ f.fbits - 1 then .nan
  else if ex = 0 then .num neg fr (1 - (f.bias : Int) - f.fbits) false
  else .num neg (2 ^ f.fbits + fr) ((ex : Int) - f.bias - f.fbits) false

/-- The sign bit at the top of a format's field. -/
def Format.sign (f : Format) (neg : Bool) : Nat := if neg then 2 ^ (f.ebits + f.fbits) else 0

def Format.infBits (f : Format) (neg : Bool) : Nat := f.sign neg + (2 ^ f.ebits - 1) * 2 ^ f.fbits

def Format.maxBits (f : Format) (neg : Bool) : Nat := f.sign neg + f.maxExp * 2 ^ f.fbits + f.maxFrac

/-- The canonical NaN (R76); a format without NaN delivers +0 (Table 5-6). -/
def Format.nanBits (f : Format) : Nat :=
  match f.top with
  | .infinity => (2 ^ f.ebits - 1) * 2 ^ f.fbits + 2 ^ (f.fbits - 1)
  | .fp8a => 2 ^ (f.ebits + f.fbits) - 1
  | .finite => 0

/-- Whether a magnitude n·quantum with a remainder rounds up: mode 0 to nearest even, 1 toward zero, 2 up, 3 down. above
is the remainder compared with half a quantum. -/
def roundsUp (mode : Nat) (neg : Bool) (n : Nat) (inexact : Bool) (above : Ordering) : Bool :=
  match mode with
  | 0 => match above with
    | .gt => true
    | .eq => n % 2 == 1
    | .lt => false
  | 1 => false
  | 2 => inexact && !neg
  | _ => inexact && neg

/-- m·2^e in units of 2^q rounded to an integer, and whether it was inexact. -/
def roundUnits (mode : Nat) (neg : Bool) (m : Nat) (e q : Int) (sticky : Bool) : Nat × Bool :=
  if q ≤ e then
    let n := m * 2 ^ (e - q).toNat
    (if roundsUp mode neg n sticky .lt then n + 1 else n, sticky)
  else
    let k := (q - e).toNat
    let n := m / 2 ^ k
    let r := m % 2 ^ k
    let half := 2 ^ (k - 1)
    let inexact := r != 0 || sticky
    let above : Ordering := if r < half then .lt else if half < r then .gt else if sticky then .gt else .eq
    (if roundsUp mode neg n inexact above then n + 1 else n, inexact)

/-- Delivery of a value to a float format (the float columns of Table 5-6), with its flags. -/
def Format.round (f : Format) (mode : Nat) (x : FVal) : Nat × Word :=
  match x with
  | .nan => (f.nanBits, Flag.nv)
  | .inf neg => if f.top = .infinity then (f.infBits neg, 0) else (f.maxBits neg, Flag.sat)
  | .num neg m e sticky =>
    if m = 0 ∧ sticky = false then (f.sign neg, 0)
    else
      let top : Int := (Nat.log2 m : Int) + e
      let emin : Int := 1 - (f.bias : Int)
      let q : Int := max top emin - f.fbits
      let tiny := decide (top < emin)
      let r := roundUnits mode neg m e q sticky
      let carry := decide (2 ^ (f.fbits + 1) ≤ r.1)
      let n := if carry then r.1 / 2 else r.1
      let q := if carry then q + 1 else q
      let ex : Nat := if n < 2 ^ f.fbits then 0 else (q + f.fbits + f.bias).toNat
      let fr := n % 2 ^ f.fbits
      if f.maxExp < ex ∨ (ex = f.maxExp ∧ f.maxFrac < fr) then
        match f.top with
        | .infinity =>
          let toInf := mode == 0 || (mode == 2 && !neg) || (mode == 3 && neg)
          (if toInf then f.infBits neg else f.maxBits neg, Flag.of ||| Flag.nx)
        | _ => (f.maxBits neg, Flag.of ||| Flag.sat ||| Flag.nx)
      else
        (f.sign neg + ex * 2 ^ f.fbits + fr,
          (if r.2 then Flag.nx else 0) ||| (if tiny && r.2 then Flag.uf else 0))

/-! ## Arithmetic -/

def FVal.isNan : FVal → Bool
  | .nan => true
  | _ => false

def FVal.neg : FVal → FVal
  | .nan => .nan
  | .inf n => .inf !n
  | .num n m e s => .num (!n) m e s

/-- The signed integer of an exact value in units of 2^q, q at most its exponent. -/
def signedUnits (neg : Bool) (m : Nat) (e q : Int) : Int :=
  let n : Int := (m : Int) * (2 ^ (e - q).toNat : Nat)
  if neg then -n else n

/-- An exact value from an integer in units of 2^q; a zero takes the sign given. -/
def ofUnits (x q : Int) (zeroNeg : Bool) : FVal :=
  if x = 0 then .zero zeroNeg else .num (decide (x < 0)) x.natAbs q false

/-- The exact sum; none is an invalid sum of opposite infinities. An exact zero takes the sign of R137. -/
def FVal.add (mode : Nat) (a b : FVal) : Option FVal :=
  match a, b with
  | .nan, _ | _, .nan => some .nan
  | .inf x, .inf y => if x = y then some (.inf x) else none
  | .inf x, _ => some (.inf x)
  | _, .inf y => some (.inf y)
  | .num x m e _, .num y n g _ =>
    if m = 0 ∧ n = 0 then some (.zero (if x = y then x else mode == 3))
    else
      let q := min e g
      some (ofUnits (signedUnits x m e q + signedUnits y n g q) q (mode == 3))

/-- The exact product; none is 0 × ∞. -/
def FVal.mul (a b : FVal) : Option FVal :=
  match a, b with
  | .nan, _ | _, .nan => some .nan
  | .inf x, .inf y => some (.inf (x != y))
  | .inf x, .num y n _ _ => if n = 0 then none else some (.inf (x != y))
  | .num x m _ _, .inf y => if m = 0 then none else some (.inf (x != y))
  | .num x m e _, .num y n g _ => some (.num (x != y) (m * n) (e + g) false)

/-- The quotient with its flags (R142). -/
def FVal.div (a b : FVal) : FVal × Word :=
  match a, b with
  | .nan, _ | _, .nan => (.nan, Flag.nv)
  | .inf _, .inf _ => (.nan, Flag.nv)
  | .inf x, .num y _ _ _ => (.inf (x != y), 0)
  | .num x _ _ _, .inf y => (.zero (x != y), 0)
  | .num x m e _, .num y n g _ =>
    if n = 0 then (if m = 0 then (.nan, Flag.nv) else (.inf (x != y), Flag.dz))
    else if m = 0 then (.zero (x != y), 0)
    else
      let k := 130 + Nat.log2 n
      (.num (x != y) (m * 2 ^ k / n) (e - g - k) (m * 2 ^ k % n != 0), 0)

/-- The integer square root, bit by bit: fuel bits from the top. -/
def isqrtGo (n : Nat) : Nat → Nat → Nat
  | 0, acc => acc
  | k + 1, acc => isqrtGo n k (if (acc + 2 ^ k) * (acc + 2 ^ k) ≤ n then acc + 2 ^ k else acc)

def isqrt (n : Nat) : Nat := isqrtGo n (Nat.log2 n / 2 + 1) 0

/-- √a (Table 8-4). -/
def FVal.sqrt (a : FVal) : FVal × Word :=
  match a with
  | .nan => (.nan, Flag.nv)
  | .inf true => (.nan, Flag.nv)
  | .inf false => (.inf false, 0)
  | .num neg m e _ =>
    if m = 0 then (.zero neg, 0)
    else if neg then (.nan, Flag.nv)
    else
      let m' := if e % 2 = 0 then m else m * 2
      let e' := if e % 2 = 0 then e else e - 1
      let r := isqrt (m' * 2 ^ 200)
      (.num false r (e' / 2 - 100) (r * r != m' * 2 ^ 200), 0)

/-- 1/a (Table 8-4). -/
def FVal.rcp (a : FVal) : FVal × Word := FVal.div (.num false 1 0 false) a

/-- 1/√a (Table 8-4). -/
def FVal.rsq (a : FVal) : FVal × Word :=
  match a with
  | .nan => (.nan, Flag.nv)
  | .inf true => (.nan, Flag.nv)
  | .inf false => (.zero false, 0)
  | .num neg m e _ =>
    if m = 0 then (.inf neg, Flag.dz)
    else if neg then (.nan, Flag.nv)
    else
      let m' := if e % 2 = 0 then m else m * 2
      let e' := if e % 2 = 0 then e else e - 1
      let r := isqrt (2 ^ 400 / m')
      (.num false r (-(e' / 2) - 200) (r * r * m' != 2 ^ 400), 0)

/-! ## Transcendental functions (R142, R143; log 7) -/

/-- Fixed-point one: 2^320. -/
def fxOne : Nat := 2 ^ 320

/-- ln 2 in units of 2^-320. -/
def fxLn2 : Nat := 0xb17217f7d1cf79abc9e3b39803f2f6af40f343267298b62d8a0d175b8baafa2be7b876206debac98

/-- π in units of 2^-512. -/
def fxPi : Nat := 0x3243f6a8885a308d313198a2e03707344a4093822299f31d0082efa98ec4e6c89452821e638d01377be5466cf34e90c6cc0ac29b7c97c50dd3f84d5b5b5470914

/-- Terms x^k/k! from term on, each divided by the next factor: the sum of the exponential series. -/
def expSeries (x : Nat) : Nat → Nat → Nat → Nat
  | 0, _, _ => 0
  | fuel + 1, k, term => term + expSeries x fuel (k + 1) (term * x / fxOne / (k + 1))

/-- 2^a for a exact a; a far outside the exponent range is replaced by a power of two beyond every format. -/
def FVal.exp2 (a : FVal) : FVal × Word :=
  match a with
  | .nan => (.nan, Flag.nv)
  | .inf true => (.zero false, 0)
  | .inf false => (.inf false, 0)
  | .num neg m e _ =>
    if m = 0 then (.num false 1 0 false, 0)
    else if 16 ≤ (Nat.log2 m : Int) + e then (.num false 1 (if neg then -70000 else 70000) true, 0)
    else
      let k := (-e).toNat
      let x : Int := signedUnits neg m e (min e 0)
      let n := x / (2 ^ k : Nat)
      let f := (x % (2 ^ k : Nat)).toNat
      if f = 0 then (.num false 1 n false, 0)
      else (.num false (expSeries (fxLn2 * f / 2 ^ k) 90 0 fxOne) (n - 320) true, 0)

/-- Binary digits of log2 y for y in [1, 2) in units of 2^-400, by repeated squaring. -/
def logDigits : Nat → Nat → Nat → Nat
  | 0, _, acc => acc
  | n + 1, y, acc =>
    let z := y * y / 2 ^ 400
    if 2 ^ 401 ≤ z then logDigits n (z / 2) (2 * acc + 1) else logDigits n z (2 * acc)

/-- log₂ a. -/
def FVal.log2 (a : FVal) : FVal × Word :=
  match a with
  | .nan => (.nan, Flag.nv)
  | .inf true => (.nan, Flag.nv)
  | .inf false => (.inf false, 0)
  | .num neg m e _ =>
    if m = 0 then (.inf true, Flag.dz)
    else if neg then (.nan, Flag.nv)
    else
      let top : Int := (Nat.log2 m : Int) + e
      if m = 2 ^ Nat.log2 m then (ofUnits top 0 false, 0)
      else
        let d := logDigits 160 (m * 2 ^ 400 / 2 ^ Nat.log2 m) 0
        let x : Int := top * (2 ^ 160 : Nat) + d
        if x < 0 then (.num true (x.natAbs - 1) (-160) true, 0) else (.num false x.toNat (-160) true, 0)

/-- Alternating series of sine (k = 1) or cosine (k = 0): term, then terms divided by the next two factors, times x². -/
def trigSeries (x2 : Nat) : Nat → Nat → Int → Int
  | 0, _, _ => 0
  | fuel + 1, k, term => term + trigSeries x2 fuel (k + 2) (-(term * x2 / fxOne / ((k + 1) * (k + 2) : Nat)))

/-- The magnitude of sine (or cosine) of a reduced argument r in [0, π/2), in units of 2^-320. -/
def trigUnits (cosine : Bool) (r : Nat) : Nat :=
  let x2 := r * r / fxOne
  (if cosine then trigSeries x2 50 0 fxOne else trigSeries x2 50 1 r).toNat

/-- sin a or cos a. A small argument is settled by sin a = a − δ and cos a = 1 − δ with δ below a relative 2^-40. -/
def FVal.trig (cosine : Bool) (a : FVal) : FVal × Word :=
  match a with
  | .nan => (.nan, Flag.nv)
  | .inf _ => (.nan, Flag.nv)
  | .num neg m e _ =>
    if m = 0 then (if cosine then .num false 1 0 false else .zero neg, 0)
    else if (Nat.log2 m : Int) + e < -21 then
      if cosine then (.num false (2 ^ 200 - 1) (-200) true, 0) else (.num neg (m * 2 ^ 200 - 1) (e - 200) true, 0)
    else
      let x := m * 2 ^ (e + 512).toNat
      let half := fxPi / 2
      let k := x / half
      let r := (x % half) / 2 ^ 192
      let quadrant := (k + (if cosine then 1 else 0)) % 4
      let v := trigUnits (quadrant % 2 = 1) r
      (.num ((2 ≤ quadrant) != (neg && !cosine)) v (-320) true, 0)

end Sys2Proof.Machine
end

