-- ==== Sys2Proof/Machine/Integer.lean ====
section
/-! DEFINITION. Integer, logic, shift, bit-field, compare, select, wide and division instructions (spec/07, R109 to R118). -/

namespace Sys2Proof.Machine

/-- A source of format A. -/
def srcA (x : VOp) (dead : BitVec 1) : Src := { op := x, dead := on dead }

/-- The packed arithmetic of R113: T is the common tag of the sources, and the result carries it. -/
def State.packed (s : State) (i : Instr) (srcs : List Src) (d : VOp) (accepted : List Tag)
    (signed : Bool) (m : Narrow) (op : Int → Int → Int → Int) : Host.Outcome State Fault Refusal :=
  let x (s : State) (k : Nat) (L : Nat) : Word := match srcs[k]? with | some a => lane (s.vec a.op) L | none => 0
  s.vector i srcs { op := d } (fun s => commonTag accepted false (srcs.map fun a => s.srcTag a.op))
    (fun s t =>
      let r := s.eachLane fun L => packedLane t signed m op (x s 0 L) (x s 1 L) (x s 2 L)
      { dst := d, tag := t, lo := r.1, flags := r.2 })

/-- The carry forms of IADD and ISUB (f = 3): cc is the carry or borrow in and out. -/
def State.carry (s : State) (i : Instr) (srcs : List Src) (a b d : VOp) (sub : Bool) : Host.Outcome State Fault Refusal :=
  s.issueNext
    (fun s => { legal := i.wellFormed, srcs := srcs, dsts := [{ op := d }], ccAwait := true,
                tagsOk := (commonTag wordTags false [s.srcTag a, s.srcTag b]).isSome })
    (fun s =>
      let t := (commonTag wordTags false [s.srcTag a, s.srcTag b]).getD .i32
      let x L := lane (s.vec a) L
      let y L := lane (s.vec b) L
      let c L := s.warp.ccl.getLsbD L
      let r := lanesOf fun L =>
        if sub then x L - y L - (if c L then 1 else 0) else x L + y L + (if c L then 1 else 0)
      s.settle srcs (s.resultEntry
        { dst := d, tag := t, lo := r,
          cc := some (maskOf fun L => if sub then borrowOut (x L) (y L) (c L) else carryOut (x L) (y L) (c L)) }))

/-- Wrap, saturate to Sw or saturate to Uw by f, with the signedness R113 gives it. -/
def narrowOf (f : Nat) : Bool × Narrow :=
  if f = 1 then (true, .satS) else if f = 2 then (false, .satU) else (false, .wrap)

/-- IADD (R113). -/
def execIadd (d a b : VOp) (da db : BitVec 1) (f : BitVec 2) (s : State) : Host.Outcome State Fault Refusal :=
  if f = 3 then s.carry (.iadd d a b da db f) [srcA a da, srcA b db] a b d false
  else s.packed (.iadd d a b da db f) [srcA a da, srcA b db] d packedTags (narrowOf f.toNat).1 (narrowOf f.toNat).2 fun x y _ => x + y

/-- ISUB (R113). -/
def execIsub (d a b : VOp) (da db : BitVec 1) (f : BitVec 2) (s : State) : Host.Outcome State Fault Refusal :=
  if f = 3 then s.carry (.isub d a b da db f) [srcA a da, srcA b db] a b d true
  else s.packed (.isub d a b da db f) [srcA a da, srcA b db] d packedTags (narrowOf f.toNat).1 (narrowOf f.toNat).2 fun x y _ => x - y

/-- IMUL (R113): low half, signed or unsigned high half, or signed saturating. -/
def execImul (d a b : VOp) (da db : BitVec 1) (f : BitVec 2) (s : State) : Host.Outcome State Fault Refusal :=
  s.packed (.imul d a b da db f) [srcA a da, srcA b db] d packedTags (f != 2)
    (if f = 0 then .wrap else if f = 3 then .satS else .high) fun x y _ => x * y

/-- IMAD (R113): D is the accumulator, read after A and B. -/
def execImad (d a b : VOp) (da db : BitVec 1) (f : BitVec 2) (s : State) : Host.Outcome State Fault Refusal :=
  s.packed (.imad d a b da db f) [srcA a da, srcA b db, { op := d }] d packedTags (narrowOf f.toNat).1 (narrowOf f.toNat).2
    fun x y z => x * y + z

/-- IMIN (R113). -/
def execImin (d a b : VOp) (da db : BitVec 1) (f : BitVec 2) (s : State) : Host.Outcome State Fault Refusal :=
  s.packed (.imin d a b da db f) [srcA a da, srcA b db] d packedTags (f == 0) .wrap fun x y _ => min x y

/-- IMAX (R113). -/
def execImax (d a b : VOp) (da db : BitVec 1) (f : BitVec 2) (s : State) : Host.Outcome State Fault Refusal :=
  s.packed (.imax d a b da db f) [srcA a da, srcA b db] d packedTags (f == 0) .wrap fun x y _ => max x y

/-- IABS (R113). -/
def execIabs (d a : VOp) (da : BitVec 1) (f : BitVec 2) (s : State) : Host.Outcome State Fault Refusal :=
  s.packed (.iabs d a da f) [srcA a da] d [.i32, .i16, .i8] true (if f = 1 then .satS else .wrap) fun x _ _ => x.natAbs

/-- LEA (R113): a + (b << s). -/
def execLea (d a b : VOp) (da db : BitVec 1) (f : BitVec 2) (s : State) : Host.Outcome State Fault Refusal :=
  s.packed (.lea d a b da db f) [srcA a da, srcA b db] d wordTags false .wrap fun x y _ => x + y * 2 ^ f.toNat

/-! ## Bit class (R114) -/

def bitTags : List Tag := [.i32, .n32]

/-- A bit-class instruction: g on the lane values of its sources. -/
def State.bitwise (s : State) (i : Instr) (srcs : List Src) (d : VOp) (g : List Word → Word) :
    Host.Outcome State Fault Refusal :=
  s.vector i srcs { op := d } (fun s => commonTag bitTags true (srcs.map fun a => s.srcTag a.op))
    (fun s t => { dst := d, tag := t, lo := lanesOf fun L => g (srcs.map fun a => lane (s.vec a.op) L) })

def word1 (f : Word → Word) : List Word → Word
  | [a] => f a
  | _ => 0

def word2 (f : Word → Word → Word) : List Word → Word
  | [a, b] => f a b
  | _ => 0

def word3 (f : Word → Word → Word → Word) : List Word → Word
  | [a, b, c] => f a b c
  | _ => 0

/-- SHL, SHR, SAR and ROL by an amount below 32. -/
def shiftOf (f : Nat) (a : Word) (m : Nat) : Word :=
  match f with
  | 0 => a <<< m
  | 1 => a >>> m
  | 2 => a.sshiftRight m
  | _ => a.rotateLeft m

/-- The field of length m at p: e is min(p + m, 32). -/
def fieldEnd (b : Word) : Nat := min (bits b 0 5 + bits b 8 5) 32

/-- BFX and BFX.S. -/
def bfxOf (signed : Bool) (a b : Word) : Word :=
  let p := bits b 0 5
  let n := fieldEnd b - p
  if n = 0 then 0 else BitVec.ofInt 32 (intOf signed n (bits a p n))

/-- BFI: D with bits [e-1:p] replaced by A[e-p-1:0]. -/
def bfiOf (a b d : Word) : Word :=
  let p := bits b 0 5
  let n := fieldEnd b - p
  let field : Word := BitVec.ofNat 32 ((2 ^ n - 1) * 2 ^ p)
  (d &&& ~~~field) ||| ((a <<< p) &&& field)

def clzOf (a : Word) : Nat := ((List.range 32).takeWhile fun i => !a.getLsbD (31 - i)).length

def ctzOf (a : Word) : Nat := ((List.range 32).takeWhile fun i => !a.getLsbD i).length

def brevOf (a : Word) : Word := maskOf fun i => a.getLsbD (31 - i)

/-- AND, ANDN, NAND (R114). -/
def execAndFam (d a b : VOp) (da db : BitVec 1) (f : BitVec 2) (s : State) : Host.Outcome State Fault Refusal :=
  s.bitwise (.andFam d a b da db f) [srcA a da, srcA b db] d
    (word2 fun x y => if f = 0 then x &&& y else if f = 1 then x &&& ~~~y else ~~~(x &&& y))

/-- OR, ORN, NOR (R114). -/
def execOrFam (d a b : VOp) (da db : BitVec 1) (f : BitVec 2) (s : State) : Host.Outcome State Fault Refusal :=
  s.bitwise (.orFam d a b da db f) [srcA a da, srcA b db] d
    (word2 fun x y => if f = 0 then x ||| y else if f = 1 then x ||| ~~~y else ~~~(x ||| y))

/-- XOR, XNOR (R114). -/
def execXorFam (d a b : VOp) (da db : BitVec 1) (f : BitVec 2) (s : State) : Host.Outcome State Fault Refusal :=
  s.bitwise (.xorFam d a b da db f) [srcA a da, srcA b db] d
    (word2 fun x y => if f = 0 then x ^^^ y else ~~~(x ^^^ y))

/-- SHL, SHR, SAR, ROL (R114). -/
def execShiftFam (d a b : VOp) (da db : BitVec 1) (f : BitVec 2) (s : State) : Host.Outcome State Fault Refusal :=
  s.bitwise (.shiftFam d a b da db f) [srcA a da, srcA b db] d (word2 fun x y => shiftOf f.toNat x (bits y 0 5))

/-- BFX (R114). -/
def execBfx (d a b : VOp) (da db : BitVec 1) (f : BitVec 2) (s : State) : Host.Outcome State Fault Refusal :=
  s.bitwise (.bfx d a b da db f) [srcA a da, srcA b db] d (word2 (bfxOf (f == 1)))

/-- BFI (R114): D is the base, read after A and B. -/
def execBfi (d a b : VOp) (da db : BitVec 1) (f : BitVec 2) (s : State) : Host.Outcome State Fault Refusal :=
  s.bitwise (.bfi d a b da db f) [srcA a da, srcA b db, { op := d }] d (word3 bfiOf)

/-- POPC, CLZ, BREV, CTZ (R114). -/
def execBitFam (d a : VOp) (da : BitVec 1) (f : BitVec 2) (s : State) : Host.Outcome State Fault Refusal :=
  s.bitwise (.bitFam d a da f) [srcA a da] d
    (word1 fun x => match f.toNat with
      | 0 => BitVec.ofNat 32 (popcount x)
      | 1 => BitVec.ofNat 32 (clzOf x)
      | 2 => brevOf x
      | _ => BitVec.ofNat 32 (ctzOf x))

/-! ## Compares and select (R115, R116) -/

/-- EQ, NE, LT, LE by f. -/
def relation (signed : Bool) (f : Nat) (a b : Word) : Bool :=
  match f with
  | 0 => a == b
  | 1 => a != b
  | 2 => if signed then a.slt b else a.ult b
  | _ => if signed then a.sle b else a.ule b

/-- A compare: all-ones with cc := 1, or zero with cc := 0 (R115). -/
def State.compare (s : State) (i : Instr) (srcs : List Src) (d : VOp) (holds : List Word → Bool) :
    Host.Outcome State Fault Refusal :=
  s.issueNext
    (fun s => { legal := i.wellFormed, srcs := srcs, dsts := [{ op := d }], ccAwait := true,
                tagsOk := (commonTag wordTags false (srcs.map fun a => s.srcTag a.op)).isSome })
    (fun s =>
      let p L := holds (srcs.map fun a => lane (s.vec a.op) L)
      s.settle srcs (s.resultEntry
        { dst := d, tag := .i32, lo := lanesOf fun L => if p L then BitVec.allOnes 32 else 0, cc := some (maskOf p) }))

def rel2 (g : Word → Word → Bool) : List Word → Bool
  | [a, b] => g a b
  | _ => false

def rel1 (g : Word → Bool) : List Word → Bool
  | [a] => g a
  | _ => false

/-- ICMP (R115). -/
def execIcmp (d a b : VOp) (da db : BitVec 1) (f : BitVec 2) (s : State) : Host.Outcome State Fault Refusal :=
  s.compare (.icmp d a b da db f) [srcA a da, srcA b db] d (rel2 (relation true f.toNat))

/-- ICMPN (R115). -/
def execIcmpn (d a b : VOp) (da db : BitVec 1) (f : BitVec 2) (s : State) : Host.Outcome State Fault Refusal :=
  s.compare (.icmpn d a b da db f) [srcA a da, srcA b db] d (rel2 (relation false f.toNat))

/-- The tag of SEL: A and B carry the same tag; an untagged source takes the other's, and I32 when both are (R116). -/
def selTag (a b : Option Tag) : Option Tag :=
  match a, b with
  | none, none => some .i32
  | some t, none => some t
  | none, some t => some t
  | some t, some u => if t = u then some t else none

/-- SEL (R116). -/
def execSel (d a b : VOp) (da db : BitVec 1) (s : State) : Host.Outcome State Fault Refusal :=
  s.issueNext
    (fun s => { legal := (Instr.sel d a b da db).wellFormed, srcs := [srcA a da, srcA b db], dsts := [{ op := d }],
                ccAwait := true, tagsOk := (selTag (s.srcTag a) (s.srcTag b)).isSome })
    (fun s => s.settle [srcA a da, srcA b db] (s.resultEntry
      { dst := d, tag := (selTag (s.srcTag a) (s.srcTag b)).getD .i32,
        lo := lanesOf fun L => if s.warp.ccl.getLsbD L then lane (s.vec a) L else lane (s.vec b) L }))

/-! ## Wide forms (R117) -/

/-- The registers that a wide operand names: a pair, or nothing for zero. -/
def wideSrc (x : VOp) (dead : BitVec 1) : Src := { op := x, count := if x = .zero then 1 else 2, dead := on dead }

/-- The tags of a wide operand's registers. -/
def State.wideTags (s : State) (x : VOp) : List (Option Tag) := if x.isV then [s.srcTag x, s.srcTag x 1] else [none]

/-- Lane L of a wide operand: a v pair, a scalar pair, or zero. -/
def State.wide (s : State) (x : VOp) (L : Nat) : Nat := if x = .zero then 0 else (s.pair x L).toNat

/-- A pair of lane images. -/
def splitPair (f : Nat → Nat) : Lanes × Lanes :=
  (lanesOf fun L => BitVec.ofNat 32 (f L), lanesOf fun L => BitVec.ofNat 32 (f L / 2 ^ 32))

/-- IADDW and ISUBW (R117). -/
def execAddsubw (d a b : VOp) (da db : BitVec 1) (f : BitVec 2) (s : State) : Host.Outcome State Fault Refusal :=
  let srcs := [wideSrc a da, wideSrc b db]
  let tags (s : State) := commonTag wordTags false (s.wideTags a ++ s.wideTags b)
  let paired (s : State) := (s.wideTags a).eraseDups.length == 1 && (s.wideTags b).eraseDups.length == 1
  s.issueNext
    (fun s => { legal := (Instr.addsubw d a b da db f).wellFormed, srcs := srcs, dsts := [{ op := d, count := 2 }],
                ccAwait := true, tagsOk := (tags s).isSome && paired s })
    (fun s =>
      let x L := s.wide a L
      let y L := s.wide b L
      let r := splitPair fun L => if f = 0 then (x L + y L) % 2 ^ 64 else (x L + 2 ^ 64 - y L) % 2 ^ 64
      let t := (tags s).getD .i32
      s.settle srcs (s.resultEntry
        { dst := d, tag := t, lo := r.1, hi := some (r.2, t),
          cc := some (maskOf fun L => if f = 0 then decide (2 ^ 64 ≤ x L + y L) else decide (x L < y L)) }))

/-- MULW (R117): signed or unsigned 64-bit product. -/
def execMulw (d a b : VOp) (da db : BitVec 1) (f : BitVec 2) (s : State) : Host.Outcome State Fault Refusal :=
  let srcs := [srcA a da, srcA b db]
  s.vector (.mulw d a b da db f) srcs { op := d, count := 2 }
    (fun s => commonTag wordTags false [s.srcTag a, s.srcTag b])
    (fun s t =>
      let v (x : Word) : Int := intOf (f == 0) 32 x.toNat
      let r := splitPair fun L => wrap 64 (v (lane (s.vec a) L) * v (lane (s.vec b) L))
      { dst := d, tag := t, lo := r.1, hi := some (r.2, t) })

/-! ## Division (R118) -/

/-- The active lanes whose divisor is zero. -/
def State.zeroLanes (s : State) (b : VOp) : Mask := maskOf fun L => s.mask.getLsbD L && lane (s.vec b) L == 0

/-- IDIV and NDIV: the quotient toward zero; INTDIV0 before any effect where an active lane divides by zero, the fault
address the lowest such lane's number. The result is a long one. -/
def State.divide (s : State) (i : Instr) (a b d : VOp) (k : BitVec 4) (signed : Bool) : Host.Outcome State Fault Refusal :=
  let tags (s : State) := commonTag wordTags false [s.srcTag a, s.srcTag b]
  s.issueNext
    (fun s => { legal := i.wellFormed, srcs := [{ op := a }, { op := b }], dsts := [{ op := d }], tagsOk := (tags s).isSome,
                specific := match lowest (s.zeroLanes b) with
                  | some L => some { code := Code.intdiv0, lanes := s.zeroLanes b, addr := BitVec.ofNat 64 L }
                  | none => none })
    (fun s =>
      let v (x : Word) : Int := intOf signed 32 x.toNat
      let r := s.eachLane fun L =>
        let q := Narrow.apply (if signed then .satS else .wrap) 32 ((v (lane (s.vec a) L)).tdiv (v (lane (s.vec b) L)))
        (BitVec.ofNat 32 q.1, q.2)
      s.settle [] (s.resultEntry { dst := d, tag := (tags s).getD .i32, lo := r.1, flags := r.2, long := true, look := some k }))

/-- IDIV (R118). -/
def execIdiv (d a b : VOp) (k : BitVec 4) (s : State) : Host.Outcome State Fault Refusal :=
  s.divide (.idiv d a b k) a b d k true

/-- NDIV (R118). -/
def execNdiv (d a b : VOp) (k : BitVec 4) (s : State) : Host.Outcome State Fault Refusal :=
  s.divide (.ndiv d a b k) a b d k false

/-! ## Lane operations (R119 to R122) -/

/-- SHFL (R119). -/
def execShfl (d a b : VOp) (da db : BitVec 1) (f : BitVec 2) (s : State) : Host.Outcome State Fault Refusal :=
  s.vector (.shfl d a b da db f) [srcA a da, srcA b db] { op := d } (fun s => some ((s.srcTag a).getD .i32))
    (fun s t =>
      let pick (L : Nat) : Nat :=
        let n := (lane (s.vec b) L).toNat
        let j : Option Nat := match f.toNat with
          | 0 => some (n % 32)
          | 1 => if n ≤ L then some (L - n) else none
          | 2 => if L + n ≤ 31 then some (L + n) else none
          | _ => some (L ^^^ (n % 32))
        match j with
        | some j => if s.mask.getLsbD j then j else L
        | none => L
      { dst := d, tag := t, lo := lanesOf fun L => lane (s.vec a) (pick L) })

/-- VOTE (R120). -/
def execVote (d a : VOp) (da : BitVec 1) (f : BitVec 2) (s : State) : Host.Outcome State Fault Refusal :=
  s.vector (.vote d a da f) [srcA a da] { op := d } (fun s => commonTag wordTags false [s.srcTag a])
    (fun s t =>
      let x L := lane (s.vec a) L
      let ones (b : Bool) : Word := if b then BitVec.allOnes 32 else 0
      { dst := d, tag := t, lo := match f.toNat with
          | 0 => splat (ones (s.active.all fun L => x L != 0))
          | 1 => splat (ones (s.active.any fun L => x L != 0))
          | 2 => splat (maskOf fun L => s.mask.getLsbD L && x L != 0)
          | _ => lanesOf fun L => maskOf fun j => s.mask.getLsbD j && x j == x L })

/-- VRED (R121): the tag fixes signedness. -/
def execVred (d a : VOp) (da : BitVec 1) (f : BitVec 2) (s : State) : Host.Outcome State Fault Refusal :=
  s.vector (.vred d a da f) [srcA a da] { op := d } (fun s => commonTag wordTags false [s.srcTag a])
    (fun s t =>
      let xs := s.active.map fun L => lane (s.vec a) L
      let lt (x y : Word) : Bool := if t = .i32 then x.slt y else x.ult y
      let y : Word := match f.toNat with
        | 0 => xs.foldl (· + ·) 0
        | 1 => xs.foldl (fun m x => if lt x m then x else m) (xs.headD 0)
        | 2 => xs.foldl (fun m x => if lt m x then x else m) (xs.headD 0)
        | _ => xs.foldl (· ||| ·) 0
      { dst := d, tag := t, lo := splat y })

/-! ## Immediate forms (R123) -/

def immOf (imm : BitVec 10) : Word := imm.signExtend 32

/-- IADDI (R123). -/
def execIaddi (d a : VOp) (imm : BitVec 10) (da : BitVec 1) (s : State) : Host.Outcome State Fault Refusal :=
  s.packed (.iaddi d a imm da) [srcA a da] d wordTags true .wrap fun x _ _ => x + (immOf imm).toInt

/-- IMULI (R123). -/
def execImuli (d a : VOp) (imm : BitVec 10) (da : BitVec 1) (s : State) : Host.Outcome State Fault Refusal :=
  s.packed (.imuli d a imm da) [srcA a da] d wordTags true .wrap fun x _ _ => x * (immOf imm).toInt

/-- ANDI (R123). -/
def execAndi (d a : VOp) (imm : BitVec 10) (da : BitVec 1) (s : State) : Host.Outcome State Fault Refusal :=
  s.bitwise (.andi d a imm da) [srcA a da] d (word1 fun x => x &&& immOf imm)

/-- ORI (R123). -/
def execOri (d a : VOp) (imm : BitVec 10) (da : BitVec 1) (s : State) : Host.Outcome State Fault Refusal :=
  s.bitwise (.ori d a imm da) [srcA a da] d (word1 fun x => x ||| immOf imm)

/-- XORI (R123). -/
def execXori (d a : VOp) (imm : BitVec 10) (da : BitVec 1) (s : State) : Host.Outcome State Fault Refusal :=
  s.bitwise (.xori d a imm da) [srcA a da] d (word1 fun x => x ^^^ immOf imm)

/-- SHLI (R123). -/
def execShli (d a : VOp) (m : BitVec 5) (da : BitVec 1) (s : State) : Host.Outcome State Fault Refusal :=
  s.bitwise (.shli d a m da) [srcA a da] d (word1 fun x => shiftOf 0 x m.toNat)

/-- SHRI (R123). -/
def execShri (d a : VOp) (m : BitVec 5) (da : BitVec 1) (s : State) : Host.Outcome State Fault Refusal :=
  s.bitwise (.shri d a m da) [srcA a da] d (word1 fun x => shiftOf 1 x m.toNat)

/-- SARI (R123). -/
def execSari (d a : VOp) (m : BitVec 5) (da : BitVec 1) (s : State) : Host.Outcome State Fault Refusal :=
  s.bitwise (.sari d a m da) [srcA a da] d (word1 fun x => shiftOf 2 x m.toNat)

/-- ICMPIEQ (R123). -/
def execIcmpieq (d a : VOp) (imm : BitVec 10) (da : BitVec 1) (s : State) : Host.Outcome State Fault Refusal :=
  s.compare (.icmpieq d a imm da) [srcA a da] d (rel1 fun x => relation true 0 x (immOf imm))

/-- ICMPILT (R123): signed. -/
def execIcmpilt (d a : VOp) (imm : BitVec 10) (da : BitVec 1) (s : State) : Host.Outcome State Fault Refusal :=
  s.compare (.icmpilt d a imm da) [srcA a da] d (rel1 fun x => relation true 2 x (immOf imm))

/-- ICMPINE (R123). -/
def execIcmpine (d a : VOp) (imm : BitVec 10) (da : BitVec 1) (s : State) : Host.Outcome State Fault Refusal :=
  s.compare (.icmpine d a imm da) [srcA a da] d (rel1 fun x => relation true 1 x (immOf imm))

/-- MOVI (R123). -/
def execMovi (d : VOp) (imm : BitVec 10) (s : State) : Host.Outcome State Fault Refusal :=
  s.vector (.movi d imm) [] { op := d } (fun _ => some .i32) fun _ t => { dst := d, tag := t, lo := splat (immOf imm) }

end Sys2Proof.Machine
end

