-- ==== Sys2Proof/Machine/FloatOps.lean ====
section
/-! DEFINITION. Float instructions and dot products (spec/08, R135 to R146). -/

namespace Sys2Proof.Machine

def floatTags : List Tag := [.fp32, .fp64, .fp16, .bf16]

/-- Format of an accepted tag; the default is never used. -/
def fmt (t : Tag) : Format := (Tag.format t).getD ⟨8, 23, 127, .infinity⟩

/-- The float class's tag check (R81, R82, R135): one tag among the tagged sources; untagged sources take FP32 and are
faulted beside FP64; every FP64 operand and the FP64 destination is an even v code, both of whose registers are tagged FP64.
fp64Dest is false where the result is not FP64. -/
def State.floatTag (s : State) (accepted : List Tag) (xs : List VOp) (d : VOp) (fp64Dest : Bool := true) : Option Tag :=
  let ts := xs.map fun x => s.srcTag x
  let tagged := ts.filterMap id
  let t := tagged.headD .fp32
  if !accepted.contains t || !tagged.all (· == t) then none
  else if t = .fp64 then
    if xs.all (fun x => x.evenV && s.srcTag x 1 == some .fp64) && (!fp64Dest || d.evenV) then some t else none
  else if t != .fp32 && tagged.length != ts.length then none
  else some t

/-- A float source: a pair where its register is tagged FP64. -/
def State.floatSrc (s : State) (x : VOp) (dead : BitVec 1) : Src :=
  { op := x, count := if x.evenV && s.srcTag x == some .fp64 then 2 else 1, dead := on dead }

/-- Element i of lane L as its bits; FP64 is the pair. -/
def State.floatBits (s : State) (t : Tag) (x : VOp) (L i : Nat) : Nat :=
  if t = .fp64 then (s.pair x L).toNat else elemBits t (lane (s.vec x) L) i

/-- FTZ acts on FP32 only (R77). -/
def ftzOn (frm : Word) (t : Tag) : Bool := frmFtz frm && t == .fp32

/-- A subnormal FP32 value read as zero of its sign. -/
def flushIn (on : Bool) (x : FVal) : FVal :=
  match x with
  | .num n m e _ => if on && decide ((Nat.log2 m : Int) + e < -126) then .zero n else x
  | _ => x

/-- A subnormal FP32 result replaced by zero of its sign, with UF and NX. -/
def flushOut (on : Bool) (r : Nat × Word) : Nat × Word :=
  if on && r.1 / 2 ^ 23 % 256 == 0 && r.1 % 2 ^ 23 != 0 then (r.1 / 2 ^ 31 * 2 ^ 31, r.2 ||| Flag.uf ||| Flag.nx) else r

/-- Result lanes of t from element results; FP64 fills a pair. -/
def floatLanes (t : Tag) (f : Nat → Nat → Nat) : Lanes × Option (Lanes × Tag) :=
  if t = .fp64 then (lanesOf fun L => BitVec.ofNat 32 (f L 0), some (lanesOf fun L => BitVec.ofNat 32 (f L 0 / 2 ^ 32), .fp64))
  else (lanesOf fun L => packElems t ((List.range (Tag.count t)).map (f L)), none)

/-- The flags of every element of every active lane, ORed (R79). -/
def State.floatFlags (s : State) (t : Tag) (f : Nat → Nat → Word) : Word :=
  (s.active.flatMap fun L => (List.range (Tag.count t)).map (f L)).foldl (· ||| ·) 0

/-- A float instruction whose result has the sources' tag: g gives an element's bits and flags from its sources' bits; look
is the lookahead of a long one (R61). -/
def State.float (s : State) (i : Instr) (srcs : List (VOp × BitVec 1)) (d : VOp) (accepted : List Tag) (look : Option (BitVec 4))
    (g : State → Tag → List Nat → Nat × Word) : Host.Outcome State Fault Refusal :=
  let tag (s : State) := s.floatTag accepted (srcs.map (·.1)) d
  let reads (s : State) := srcs.map fun x => s.floatSrc x.1 x.2
  s.issueNext
    (fun s => { legal := i.wellFormed, srcs := reads s, tagsOk := (tag s).isSome
                dsts := [{ op := d, count := if tag s = some .fp64 then 2 else 1 }] })
    (fun s =>
      let t := (tag s).getD .fp32
      let r L i := g s t (srcs.map fun x => s.floatBits t x.1 L i)
      let y := floatLanes t fun L i => (r L i).1
      s.settle (reads s) (s.resultEntry
        { dst := d, tag := t, lo := y.1, hi := y.2, flags := s.floatFlags t fun L i => (r L i).2, long := look.isSome, look := look }))

/-- Delivery of an exact value, none where the operation is invalid (R136). -/
def deliver (t : Tag) (mode : Nat) (ftz : Bool) (x : Option FVal) : Nat × Word :=
  match x with
  | none => ((fmt t).nanBits, Flag.nv)
  | some v => flushOut ftz ((fmt t).round mode v)

/-- An operand's value as the instruction reads it. -/
def operand (t : Tag) (ftz : Bool) (x : Nat) : FVal := flushIn ftz ((fmt t).decode x)

/-- FADD, FSUB and FMUL on two elements. -/
def arith2 (op : Nat → FVal → FVal → Option FVal) (f : BitVec 2) (s : State) (t : Tag) : List Nat → Nat × Word
  | [a, b] =>
    let z := ftzOn s.warp.frm t
    let m := mode s.warp.frm f.toNat
    deliver t m z (op m (operand t z a) (operand t z b))
  | _ => (0, 0)

/-- FADD (R136). -/
def execFadd (d a b : VOp) (da db : BitVec 1) (f : BitVec 2) (s : State) : Host.Outcome State Fault Refusal :=
  s.float (.fadd d a b da db f) [(a, da), (b, db)] d floatTags none (arith2 FVal.add f)

/-- FSUB (R136). -/
def execFsub (d a b : VOp) (da db : BitVec 1) (f : BitVec 2) (s : State) : Host.Outcome State Fault Refusal :=
  s.float (.fsub d a b da db f) [(a, da), (b, db)] d floatTags none (arith2 (fun m x y => FVal.add m x y.neg) f)

/-- FMUL (R136). -/
def execFmul (d a b : VOp) (da db : BitVec 1) (f : BitVec 2) (s : State) : Host.Outcome State Fault Refusal :=
  s.float (.fmul d a b da db f) [(a, da), (b, db)] d floatTags none (arith2 (fun _ x y => FVal.mul x y) f)

/-- FFMA (R136): D is the addend, read after A and B; one rounding. -/
def execFfma (d a b : VOp) (da db : BitVec 1) (f : BitVec 2) (s : State) : Host.Outcome State Fault Refusal :=
  s.float (.ffma d a b da db f) [(a, da), (b, db), (d, 0)] d floatTags none fun s t xs =>
    match xs with
    | [a, b, c] =>
      let z := ftzOn s.warp.frm t
      let m := mode s.warp.frm f.toNat
      let c := operand t z c
      deliver t m z (if c.isNan then some .nan else ((operand t z a).mul (operand t z b)).bind fun p => p.add m c)
    | _ => (0, 0)

/-- a < b on values that are not NaN, −0 below +0 where zeros is true (R138, R139). -/
def FVal.lt (zeros : Bool) (a b : FVal) : Bool :=
  match a, b with
  | .nan, _ | _, .nan => false
  | .inf x, .inf y => x && !y
  | .inf x, _ => x
  | _, .inf y => !y
  | .num x m e _, .num y n g _ =>
    if m = 0 ∧ n = 0 then zeros && x && !y
    else
      let q := min e g
      decide (signedUnits x m e q < signedUnits y n g q)

/-- FMIN and FMAX (R138). -/
def execFminmax (d a b : VOp) (da db : BitVec 1) (f : BitVec 2) (s : State) : Host.Outcome State Fault Refusal :=
  s.float (.fminmax d a b da db f) [(a, da), (b, db)] d floatTags none fun s t xs =>
    match xs with
    | [a, b] =>
      let z := ftzOn s.warp.frm t
      let x := operand t z a
      let y := operand t z b
      let nan := (fmt t).nanBits
      let keep (bits : Nat) (v : FVal) : Nat := match v with
        | .num n m _ _ => if m = 0 then (fmt t).sign n else bits
        | _ => bits
      if x.isNan && y.isNan then (nan, Flag.nv)
      else if x.isNan then (if 2 ≤ f.toNat then nan else keep b y, Flag.nv)
      else if y.isNan then (if 2 ≤ f.toNat then nan else keep a x, Flag.nv)
      else
        let first := if f.toNat % 2 = 0 then !(y.lt true x) else !(x.lt true y)
        (if first then keep a x else keep b y, 0)
    | _ => (0, 0)

/-- EQ, LT, LE, UN (R139). -/
def floatRelation (f : Nat) (x y : FVal) : Bool :=
  if x.isNan || y.isNan then f == 3
  else match f with
    | 0 => !(x.lt false y) && !(y.lt false x)
    | 1 => x.lt false y
    | 2 => !(y.lt false x)
    | _ => false

/-- FCMP (R139): D is one register tagged I32, and the lane cc takes the relation of element 0. -/
def execFcmp (d a b : VOp) (da db : BitVec 1) (f : BitVec 2) (s : State) : Host.Outcome State Fault Refusal :=
  let tag (s : State) := s.floatTag floatTags [a, b] d false
  let reads (s : State) := [s.floatSrc a da, s.floatSrc b db]
  s.issueNext
    (fun s => { legal := (Instr.fcmp d a b da db f).wellFormed, srcs := reads s, dsts := [{ op := d }], ccAwait := true,
                tagsOk := (tag s).isSome })
    (fun s =>
      let t := (tag s).getD .fp32
      let z := ftzOn s.warp.frm t
      let v x L i := operand t z (s.floatBits t x L i)
      let p L i := floatRelation f.toNat (v a L i) (v b L i)
      let y L : Word :=
        if Tag.count t = 1 then (if p L 0 then BitVec.allOnes 32 else 0)
        else packElems t ((List.range (Tag.count t)).map fun i => if p L i then 0xFFFF else 0)
      s.settle (reads s) (s.resultEntry
        { dst := d, tag := .i32, lo := lanesOf y, cc := some (maskOf fun L => p L 0)
          flags := s.floatFlags t fun L i => if (v a L i).isNan || (v b L i).isNan then Flag.nv else 0 }))

/-- FNEG, FABS and FSGN (R140): sign bits only, no flag. -/
def execFsign (d a b : VOp) (da db : BitVec 1) (f : BitVec 2) (s : State) : Host.Outcome State Fault Refusal :=
  s.float (.fsign d a b da db f) (if f = 2 then [(a, da), (b, db)] else [(a, da)]) d floatTags none fun _ t xs =>
    let top := 2 ^ ((fmt t).width - 1)
    match xs with
    | [x] => (if f = 0 then (if x / top = 1 then x - top else x + top) else x % top, 0)
    | [x, y] => (x % top + y / top * top, 0)
    | _ => (0, 0)

/-- FROUND (R146): no flag but NV. -/
def execFround (d a : VOp) (da : BitVec 1) (f : BitVec 2) (s : State) : Host.Outcome State Fault Refusal :=
  s.float (.fround d a da f) [(a, da)] d floatTags none fun _ t xs =>
    match xs with
    | [x] =>
      match (fmt t).decode x with
      | .nan => ((fmt t).nanBits, Flag.nv)
      | .inf _ => (x, 0)
      | .num n m e _ => if 0 ≤ e then (x, 0) else (((fmt t).round 0 (.num n (roundUnits f.toNat n m e 0 false).1 0 false)).1, 0)
    | _ => (0, 0)

/-! ## Long operations (R141 to R143) -/

/-- FDIV and FSQRT: one rounding in the tag's own format. -/
def longOnce (g : FVal → FVal → FVal × Word) (s : State) (t : Tag) (xs : List Nat) : Nat × Word :=
  let z := ftzOn s.warp.frm t
  let r := g (operand t z (xs.getD 0 0)) (operand t z (xs.getD 1 0))
  match r.1 with
  | .nan => ((fmt t).nanBits, Flag.nv)
  | v => let y := flushOut z ((fmt t).round (frmRm s.warp.frm) v); (y.1, y.2 ||| r.2)

/-- The other functions: FP32 first, and for FP16 and BF16 a second rounding to the tag (R141). -/
def longTwice (g : FVal → FVal × Word) (s : State) (t : Tag) (xs : List Nat) : Nat × Word :=
  let z := ftzOn s.warp.frm t
  let m := frmRm s.warp.frm
  let r := g (operand t z (xs.getD 0 0))
  match r.1 with
  | .nan => ((fmt t).nanBits, Flag.nv)
  | v =>
    let y := flushOut z ((fmt .fp32).round m v)
    if t = .fp32 then (y.1, y.2 ||| r.2)
    else let w := (fmt t).round m ((fmt .fp32).decode y.1); (w.1, w.2 ||| y.2 ||| r.2)

def shortTags : List Tag := [.fp32, .fp16, .bf16]

/-- FRCP (R141). -/
def execFrcp (d a : VOp) (k : BitVec 4) (s : State) : Host.Outcome State Fault Refusal :=
  s.float (.frcp d a k) [(a, 0)] d shortTags (some k) (longTwice FVal.rcp)

/-- FRSQ (R141). -/
def execFrsq (d a : VOp) (k : BitVec 4) (s : State) : Host.Outcome State Fault Refusal :=
  s.float (.frsq d a k) [(a, 0)] d shortTags (some k) (longTwice FVal.rsq)

/-- FSQRT (R141). -/
def execFsqrt (d a : VOp) (k : BitVec 4) (s : State) : Host.Outcome State Fault Refusal :=
  s.float (.fsqrt d a k) [(a, 0)] d floatTags (some k) (longOnce fun x _ => FVal.sqrt x)

/-- FEXP2 (R141). -/
def execFexp2 (d a : VOp) (k : BitVec 4) (s : State) : Host.Outcome State Fault Refusal :=
  s.float (.fexp2 d a k) [(a, 0)] d shortTags (some k) (longTwice FVal.exp2)

/-- FLOG2 (R141). -/
def execFlog2 (d a : VOp) (k : BitVec 4) (s : State) : Host.Outcome State Fault Refusal :=
  s.float (.flog2 d a k) [(a, 0)] d shortTags (some k) (longTwice FVal.log2)

/-- FSIN (R141). -/
def execFsin (d a : VOp) (k : BitVec 4) (s : State) : Host.Outcome State Fault Refusal :=
  s.float (.fsin d a k) [(a, 0)] d shortTags (some k) (longTwice (FVal.trig false))

/-- FCOS (R141). -/
def execFcos (d a : VOp) (k : BitVec 4) (s : State) : Host.Outcome State Fault Refusal :=
  s.float (.fcos d a k) [(a, 0)] d shortTags (some k) (longTwice (FVal.trig true))

/-- FDIV (R141, R142). -/
def execFdiv (d a b : VOp) (k : BitVec 4) (s : State) : Host.Outcome State Fault Refusal :=
  s.float (.fdiv d a b k) [(a, 0), (b, 0)] d floatTags (some k) (longOnce FVal.div)

/-! ## Dot products (R144, R145) -/

/-- A sum of exact values (FDOT2): infinities of opposite sign are invalid; an exact zero takes the sum rule of R137. -/
def FVal.sum (mode : Nat) (xs : List (Option FVal)) : Option FVal :=
  match xs with
  | [] => none
  | x :: rest => rest.foldl (fun acc y => match acc, y with | some a, some b => a.add mode b | _, _ => none) x

/-- FDOT2 (R144): A and B FP16 or BF16, D FP32; one rounding in FRM.RM, FTZ on the result only. -/
def execFdot2 (d a b : VOp) (da db : BitVec 1) (s : State) : Host.Outcome State Fault Refusal :=
  let tag (s : State) : Option Tag :=
    match s.srcTag a, s.srcTag b with
    | some t, some u => if t = u ∧ (t = .fp16 ∨ t = .bf16) ∧ ((s.srcTag d).getD .fp32) = .fp32 then some t else none
    | _, _ => none
  s.issueNext
    (fun s => { legal := (Instr.fdot2 d a b da db).wellFormed, srcs := [srcA a da, srcA b db, { op := d }], dsts := [{ op := d }],
                tagsOk := (tag s).isSome })
    (fun s =>
      let t := (tag s).getD .fp16
      let v x L i := (fmt t).decode (elemBits t (lane (s.vec x) L) i)
      let c L := (fmt .fp32).decode (lane (s.vec d) L).toNat
      let m := frmRm s.warp.frm
      let r L : Nat × Word :=
        let parts := [v a L 0, v b L 0, v a L 1, v b L 1, c L]
        if parts.any FVal.isNan then ((fmt .fp32).nanBits, Flag.nv)
        else deliver .fp32 m (frmFtz s.warp.frm)
          (FVal.sum m [(v a L 0).mul (v b L 0), (v a L 1).mul (v b L 1), some (c L)])
      s.settle [srcA a da, srcA b db] (s.resultEntry
        { dst := d, tag := .fp32, lo := lanesOf fun L => BitVec.ofNat 32 (r L).1
          flags := (s.active.map fun L => (r L).2).foldl (· ||| ·) 0 }))

/-- The tag an operand of IDOT4 reads by: its own, else the other's, else I8 (R145). -/
def dotTag (own other : Option Tag) : Option Tag :=
  let known (t : Option Tag) : Option Tag := if t = some .raw then none else t
  match known own, known other with
  | some t, _ => if t = .i8 ∨ t = .n8 then some t else none
  | none, some t => if t = .i8 ∨ t = .n8 then some t else none
  | none, none => some .i8

/-- IDOT4 (R145). -/
def execIdot4 (d a b : VOp) (da db : BitVec 1) (f : BitVec 2) (s : State) : Host.Outcome State Fault Refusal :=
  let ta (s : State) := dotTag (s.srcTag a) (s.srcTag b)
  let tb (s : State) := dotTag (s.srcTag b) (s.srcTag a)
  let dOk (s : State) : Bool := [none, some Tag.raw, some .i32].contains (s.srcTag d)
  s.issueNext
    (fun s => { legal := (Instr.idot4 d a b da db f).wellFormed, srcs := [srcA a da, srcA b db, { op := d }], dsts := [{ op := d }],
                tagsOk := (ta s).isSome && (tb s).isSome && dOk s })
    (fun s =>
      let e (t : Option Tag) x L i : Int := intOf (t == some .i8) 8 (bits (lane (s.vec x) L) (8 * i) 8)
      let r := s.eachLane fun L =>
        let x := (lane (s.vec d) L).toInt + ((List.range 4).map fun i => e (ta s) a L i * e (tb s) b L i).sum
        let y := (if f = 1 then Narrow.satS else .wrap).apply 32 x
        (BitVec.ofNat 32 y.1, y.2)
      s.settle [srcA a da, srcA b db] (s.resultEntry { dst := d, tag := .i32, lo := r.1, flags := r.2 }))

end Sys2Proof.Machine
end

