-- ==== Sys2Proof/Machine/Residue.lean ====
section
/-! DEFINITION. Residue formats and conversion (spec/05, R84 to R88) and the residue, conversion and move instructions
(spec/08, R148 to R154). -/

namespace Sys2Proof.Machine

/-- A channel: modulus, low bit, width, and its weight in the Chinese remainder sum: M/m times its inverse modulo m. -/
structure Channel where
  m : Nat
  lo : Nat
  len : Nat
  weight : Nat

/-- Table 5-7. -/
def Tag.channels : Tag → List Channel
  | .rs6 | .rp6 => [⟨2, 0, 1, 15⟩, ⟨3, 1, 2, 10⟩, ⟨5, 3, 3, 6⟩]
  | .rs8 | .rp8 => [⟨3, 0, 2, 70⟩, ⟨5, 2, 3, 21⟩, ⟨7, 5, 3, 15⟩]
  | .rs12 | .rp12 => [⟨13, 0, 4, 2640⟩, ⟨15, 4, 4, 1456⟩, ⟨16, 8, 4, 2145⟩]
  | .rs16 | .rp16 => [⟨31, 0, 5, 16896⟩, ⟨32, 5, 5, 31713⟩, ⟨33, 10, 6, 16864⟩]
  | .rw => [⟨65535, 0, 16, 140739635838976⟩, ⟨65536, 16, 16, 281470681677825⟩, ⟨65537, 32, 17, 140739635773440⟩]
  | _ => []

/-- The product M of a format's moduli (Table 5-7). -/
def Tag.modulus : Tag → Nat
  | .rs6 | .rp6 => 30
  | .rs8 | .rp8 => 105
  | .rs12 | .rp12 => 3120
  | .rs16 | .rp16 => 32736
  | .rw => 2 ^ 48 - 2 ^ 16
  | _ => 1

def Tag.isResidue (t : Tag) : Bool := !(Tag.channels t).isEmpty

/-- The range of a residue format (Table 5-7). -/
def Tag.residueRange : Tag → Int × Int
  | .rs6 => (-15, 14) | .rp6 => (0, 29)
  | .rs8 => (-52, 52) | .rp8 => (0, 104)
  | .rs12 => (-1560, 1559) | .rp12 => (0, 3119)
  | .rs16 => (-16368, 16367) | .rp16 => (0, 32735)
  | .rw => (-140737488322560, 140737488322559)
  | _ => (0, 0)

/-- An element with a channel code in its VOID set (R87). -/
def isVoid (t : Tag) (x : Nat) : Bool :=
  (Tag.channels t).any (fun c => decide (c.m ≤ x / 2 ^ c.lo % 2 ^ c.len)) || (t == .rw && decide (2 ^ 49 ≤ x))

/-- The helper RDecode: the integer of an element (R86). -/
def rdecode (t : Tag) (x : Nat) : Int :=
  let u := ((Tag.channels t).map fun c => x / 2 ^ c.lo % 2 ^ c.len * c.weight).sum % Tag.modulus t
  if (u : Int) ≤ (Tag.residueRange t).2 then u else (u : Int) - Tag.modulus t

/-- The channels of an integer modulo the format's M (R86, R88). -/
def rencode (t : Tag) (x : Int) : Nat :=
  ((Tag.channels t).map fun c => (x % (c.m : Int)).toNat * 2 ^ c.lo).sum

/-- A residue element as arithmetic reads it: VOID as zero, with its flag (R87). -/
def relem (t : Tag) (x : Nat) : Int × Word := if isVoid t x then (0, Flag.void) else (rdecode t x, 0)

/-! ## Delivery (Table 5-6) -/

/-- A source element's value. -/
inductive Source where
  | float (x : FVal)
  | int (x : Int)
  | void
deriving DecidableEq, Repr

/-- The integer formats. -/
def Tag.isInt (t : Tag) : Bool := [Tag.i32, .n32, .i16, .n16, .i8, .n8, .i4, .n4, .i2, .n1].contains t

/-- The exact value of an element; an IX element is its codebook's FP16 entry. -/
def sourceOf (book4 book8 : Nat → Nat) (t : Tag) (x : Nat) : Source :=
  match t with
  | .ix4 => .float ((fmt .fp16).decode (book4 x))
  | .ix8 => .float ((fmt .fp16).decode (book8 x))
  | _ =>
    if Tag.isResidue t then (if isVoid t x then .void else .int (rdecode t x))
    else if Tag.isInt t then .int (intOf (Tag.signed t) (Tag.width t) x)
    else .float ((fmt t).decode x)

/-- Delivery to an integer or residue range: the integer and its flags. The range is checked on the value after rounding
(DEDUCED: log 93). -/
def toRange (r : Int × Int) (mode : Nat) (x : Source) : Int × Word :=
  match x with
  | .void => (0, Flag.void)
  | .int v => let y := saturate r v; (y.1, if y.2 then Flag.sat else 0)
  | .float .nan => (0, Flag.nv)
  | .float (.inf n) => (if n then r.1 else r.2, Flag.nv ||| Flag.sat)
  | .float (.num n m e s) =>
    let u := roundUnits mode n m e 0 s
    let y := saturate r (if n then -(u.1 : Int) else u.1)
    (y.1, if y.2 then Flag.nv ||| Flag.sat else if u.2 then Flag.nx else 0)

/-- The helper Round of R107 with Table 5-6: an element of the target tag and its flags. -/
def convertTo (t : Tag) (mode : Nat) (x : Source) : Nat × Word :=
  if Tag.isResidue t then let r := toRange (Tag.residueRange t) mode x; (rencode t r.1, r.2)
  else if Tag.isInt t then
    let r := toRange (rangeOf (Tag.signed t) (Tag.width t)) mode x
    (wrap (Tag.width t) r.1, r.2)
  else match x with
    | .void => (0, Flag.void)
    | .int v => (fmt t).round mode (.num (decide (v < 0)) v.natAbs 0 false)
    | .float v => (fmt t).round mode v

/-! ## Residue instructions (R148 to R151) -/

def residueTags : List Tag := [.rs6, .rp6, .rs8, .rp8, .rs12, .rp12, .rs16, .rp16]

/-- The common residue tag: equal on all operands, none of them untagged or RAW (R81, R82). -/
def State.residueTag (s : State) (xs : List VOp) : Option Tag :=
  match xs.map fun x => s.srcTag x with
  | some t :: rest => if residueTags.contains t && rest.all (· == some t) then some t else none
  | _ => none

/-- Active lanes that read a VOID element of a source (row 10). -/
def State.voidLanes (s : State) (t : Tag) (x : VOp) (elems : Nat → List Nat) : Mask :=
  maskOf fun L => s.mask.getLsbD L && (elems L).any fun i => isVoid t (elemBits t (lane (s.vec x) L) i)

def allElems (t : Tag) (_ : Nat) : List Nat := List.range (Tag.count t)

/-- RADD, RMUL and RNEG: exact modulo M, channel by channel. -/
def State.residue (s : State) (i : Instr) (srcs : List Src) (d : VOp) (op : List Int → Int) : Host.Outcome State Fault Refusal :=
  let tag (s : State) := s.residueTag (srcs.map (·.op))
  s.issueNext
    (fun s =>
      let t := (tag s).getD .rs8
      { legal := i.wellFormed, srcs := srcs, dsts := [{ op := d }], tagsOk := (tag s).isSome
        voids := srcs.foldl (fun m x => m ||| s.voidLanes t x.op (allElems t)) 0 })
    (fun s =>
      let t := (tag s).getD .rs8
      let e L i := srcs.map fun x => relem t (elemBits t (lane (s.vec x.op) L) i)
      s.settle srcs (s.resultEntry
        { dst := d, tag := t
          lo := lanesOf fun L => packElems t ((List.range (Tag.count t)).map fun i => rencode t (op ((e L i).map (·.1))))
          flags := s.floatFlags t fun L i => ((e L i).map (·.2)).foldl (· ||| ·) 0 }))

/-- RADD (R149). -/
def execRadd (d a b : VOp) (da db : BitVec 1) (s : State) : Host.Outcome State Fault Refusal :=
  s.residue (.radd d a b da db) [srcA a da, srcA b db] d List.sum

/-- RMUL (R149). -/
def execRmul (d a b : VOp) (da db : BitVec 1) (s : State) : Host.Outcome State Fault Refusal :=
  s.residue (.rmul d a b da db) [srcA a da, srcA b db] d List.prod

/-- RNEG (R149). -/
def execRneg (d a : VOp) (da : BitVec 1) (s : State) : Host.Outcome State Fault Refusal :=
  s.residue (.rneg d a da) [srcA a da] d fun xs => -xs.sum

/-- An RW pair's lane as it is read: VOID as zero. -/
def State.rw (s : State) (x : VOp) (L : Nat) : Int × Word := relem .rw (s.pair x L).toNat

def State.rwTagged (s : State) (x : VOp) : Bool := s.srcTag x == some .rw && s.srcTag x 1 == some .rw

def State.rwVoid (s : State) (x : VOp) : Mask := maskOf fun L => s.mask.getLsbD L && isVoid .rw (s.pair x L).toNat

/-- RMAC (R149): one RW value per lane; D is read after A and B and wraps modulo 2^48 − 2^16. -/
def execRmac (d a b : VOp) (da db : BitVec 1) (s : State) : Host.Outcome State Fault Refusal :=
  let tag (s : State) := s.residueTag [a, b]
  let srcs : List Src := [srcA a da, srcA b db, { op := d, count := 2 }]
  s.issueNext
    (fun s =>
      let t := (tag s).getD .rs8
      { legal := (Instr.rmac d a b da db).wellFormed, srcs := srcs, dsts := [{ op := d, count := 2 }]
        tagsOk := (tag s).isSome && s.rwTagged d
        voids := s.voidLanes t a (allElems t) ||| s.voidLanes t b (allElems t) ||| s.rwVoid d })
    (fun s =>
      let t := (tag s).getD .rs8
      let e x L i := relem t (elemBits t (lane (s.vec x) L) i)
      let sum L : Int := (s.rw d L).1 + ((allElems t L).map fun i => (e a L i).1 * (e b L i).1).sum
      let r := splitPair fun L => rencode .rw (sum L)
      s.settle [srcA a da, srcA b db] (s.resultEntry
        { dst := d, tag := .rw, lo := r.1, hi := some (r.2, .rw)
          flags := (s.floatFlags t fun L i => (e a L i).2 ||| (e b L i).2) |||
            (s.active.map fun L => (s.rw d L).2).foldl (· ||| ·) 0 }))

/-- RCRT (R150): one element of A chosen by V(B)[2:0], or an RW pair saturated to I32. -/
def execRcrt (d a b : VOp) (da db : BitVec 1) (f : BitVec 2) (s : State) : Host.Outcome State Fault Refusal :=
  if f = 0 then
    let tag (s : State) := s.residueTag [a]
    let pick (s : State) (L : Nat) : Nat := bits (lane (s.vec b) L) 0 3
    s.issueNext
      (fun s =>
        let t := (tag s).getD .rs8
        { legal := (Instr.rcrt d a b da db f).wellFormed, srcs := [srcA a da, srcA b db], dsts := [{ op := d }]
          tagsOk := (tag s).isSome
          voids := s.voidLanes t a fun L => if pick s L < Tag.count t then [pick s L] else [] })
      (fun s =>
        let t := (tag s).getD .rs8
        let e L : Int × Word := if pick s L < Tag.count t then relem t (elemBits t (lane (s.vec a) L) (pick s L)) else (0, 0)
        s.settle [srcA a da, srcA b db] (s.resultEntry
          { dst := d, tag := .i32, lo := lanesOf fun L => BitVec.ofInt 32 (e L).1
            flags := (s.active.map fun L => (e L).2).foldl (· ||| ·) 0 }))
  else
    let srcs : List Src := [{ op := a, count := 2, dead := on da }, srcA b db]
    s.issueNext
      (fun s => { legal := (Instr.rcrt d a b da db f).wellFormed, srcs := srcs, dsts := [{ op := d }]
                  tagsOk := s.rwTagged a, voids := s.rwVoid a })
      (fun s =>
        let e L := saturate (rangeOf true 32) (s.rw a L).1
        s.settle srcs (s.resultEntry
          { dst := d, tag := .i32, lo := lanesOf fun L => BitVec.ofInt 32 (e L).1
            flags := (s.active.map fun L => (s.rw a L).2 ||| (if (e L).2 then Flag.sat else 0)).foldl (· ||| ·) 0 }))

/-- RENC (R151): an I32 value into element 0 of a residue format; an untagged source is read as I32 (DEDUCED: log 15). -/
def execRenc (d a : VOp) (g : Tag) (da : BitVec 1) (s : State) : Host.Outcome State Fault Refusal :=
  s.issueNext
    (fun s => { legal := (Instr.renc d a g da).wellFormed, srcs := [srcA a da]
                dsts := [{ op := d, count := if g = .rw then 2 else 1 }]
                tagsOk := (s.srcTag a).getD .i32 == .i32 })
    (fun s =>
      let e L := saturate (Tag.residueRange g) (lane (s.vec a) L).toInt
      let r := splitPair fun L => rencode g (e L).1
      s.settle [srcA a da] (s.resultEntry
        { dst := d, tag := g, lo := r.1, hi := if g = .rw then some (r.2, .rw) else none
          flags := if s.active.any fun L => (e L).2 then Flag.sat else 0 }))

/-! ## Conversion and moves (R152 to R154) -/

/-- Entry x of the team's matrix codebooks MCB4 and MCB8 (R289). -/
def Team.book (t : Team) (wide : Bool) (x : Nat) : Nat := ((if wide then t.mcb8 else t.mcb4).getD x 0).toNat

/-- CVT (R152). -/
def execCvt (d a : VOp) (r : BitVec 2) (g : Tag) (da : BitVec 1) (s : State) : Host.Outcome State Fault Refusal :=
  let from64 (s : State) : Bool := s.srcTag a == some .fp64
  let src (s : State) := s.floatSrc a da
  let srcTag (s : State) : Tag := (s.srcTag a).getD .i32
  s.issueNext
    (fun s => { legal := (Instr.cvt d a r g da).wellFormed, srcs := [src s]
                dsts := [{ op := d, count := if g = .fp64 then 2 else 1 }]
                tagsOk := srcTag s != .raw && srcTag s != .rw && (!from64 s || (a.evenV && s.srcTag a 1 == some .fp64))
                voids := if Tag.isResidue (srcTag s) then
                    s.voidLanes (srcTag s) a fun _ => List.range (min (Tag.count g) (Tag.count (srcTag s))) else 0 })
    (fun s =>
      let t := srcTag s
      let m := mode s.warp.frm r.toNat
      let e L i : Nat × Word :=
        if i < Tag.count t then
          convertTo g m (sourceOf (s.team.book false) (s.team.book true) t (s.floatBits t a L i))
        else (0, 0)
      let y := floatLanes g fun L i => (e L i).1
      s.settle [src s] (s.resultEntry
        { dst := d, tag := g, lo := y.1, hi := y.2, flags := s.floatFlags g fun L i => (e L i).2 }))

/-- TAG (R153): the bits of A with another tag. -/
def execTag (d a : VOp) (g : Tag) (da : BitVec 1) (s : State) : Host.Outcome State Fault Refusal :=
  let n := if g = .fp64 ∨ g = .rw then 2 else 1
  let src : Src := { op := a, count := n, dead := on da }
  s.vector (.tag d a g da) [src] { op := d, count := n } (fun _ => some g)
    fun s t => { dst := d, tag := t, lo := s.vec a, hi := if n = 2 then some (s.vec a 1, t) else none }

/-- MOV (R154). -/
def execMov (d a : VOp) (da : BitVec 1) (s : State) : Host.Outcome State Fault Refusal :=
  s.vector (.mov d a da) [srcA a da] { op := d } (fun s => some ((s.srcTag a).getD .i32))
    fun s t => { dst := d, tag := t, lo := s.vec a }

/-- MOV.D (R154): a pair as bits, each register with its own tag. -/
def execMovD (d a : VOp) (da : BitVec 1) (s : State) : Host.Outcome State Fault Refusal :=
  s.vector (.movD d a da) [{ op := a, count := 2, dead := on da }] { op := d, count := 2 }
    (fun s => some ((s.srcTag a).getD .i32))
    fun s t => { dst := d, tag := t, lo := s.vec a, hi := some (s.vec a 1, (s.srcTag a 1).getD .i32) }

end Sys2Proof.Machine
end

