-- ==== Sys2Proof/Machine/Scalar.lean ====
section
/-! DEFINITION. Scalar instructions (spec/07, R124 to R126, R129). -/

namespace Sys2Proof.Machine

/-- SADD and SSUB by f: wrap, saturate to S32 or U32, or with the scalar cc as carry or borrow (Table 7-6). -/
def addSubOf (sub : Bool) (f : Nat) (a b : Word) (cc : Bool) : Word × Word × Option Bool :=
  let x (signed : Bool) : Int := intOf signed 32 a.toNat
  let y (signed : Bool) : Int := intOf signed 32 b.toNat
  let exact (signed : Bool) : Int := if sub then x signed - y signed else x signed + y signed
  if f = 3 then
    (if sub then a - b - (if cc then 1 else 0) else a + b + (if cc then 1 else 0), 0,
      some (if sub then borrowOut a b cc else carryOut a b cc))
  else
    let r := (narrowOf f).2.apply 32 (exact (narrowOf f).1)
    (BitVec.ofNat 32 r.1, if r.2 then Flag.sat else 0, none)

/-- SADD (R125). -/
def execSadd (d a b : SOp) (f : BitVec 2) (s : State) : Host.Outcome State Fault Refusal :=
  s.scalarOp (.sadd d a b f) [a, b] d (f == 3) fun s => addSubOf false f.toNat (s.sc a) (s.sc b) s.warp.ccs

/-- SSUB (R125). -/
def execSsub (d a b : SOp) (f : BitVec 2) (s : State) : Host.Outcome State Fault Refusal :=
  s.scalarOp (.ssub d a b f) [a, b] d (f == 3) fun s => addSubOf true f.toNat (s.sc a) (s.sc b) s.warp.ccs

/-- SMUL (R125). -/
def execSmul (d a b : SOp) (f : BitVec 2) (s : State) : Host.Outcome State Fault Refusal :=
  s.scalarOp (.smul d a b f) [a, b] d false fun s =>
    let v (x : Word) : Int := intOf (f != 2) 32 x.toNat
    let r := (if f = 0 then Narrow.wrap else .high).apply 32 (v (s.sc a) * v (s.sc b))
    (BitVec.ofNat 32 r.1, 0, none)

/-- SAND, SOR, SXOR, SANDN (R125). -/
def execSlog (d a b : SOp) (f : BitVec 2) (s : State) : Host.Outcome State Fault Refusal :=
  s.scalarOp (.slog d a b f) [a, b] d false fun s =>
    let x := s.sc a
    let y := s.sc b
    (match f.toNat with | 0 => x &&& y | 1 => x ||| y | 2 => x ^^^ y | _ => x &&& ~~~y, 0, none)

/-- SSHL, SSHR, SSAR, SROL (R125). -/
def execSshf (d a b : SOp) (f : BitVec 2) (s : State) : Host.Outcome State Fault Refusal :=
  s.scalarOp (.sshf d a b f) [a, b] d false fun s => (shiftOf f.toNat (s.sc a) (bits (s.sc b) 0 5), 0, none)

/-- SCMP (R125): all-ones or zero, and the scalar cc. -/
def execScmp (d a b : SOp) (f : BitVec 2) (s : State) : Host.Outcome State Fault Refusal :=
  s.scalarOp (.scmp d a b f) [a, b] d true fun s =>
    let p := relation true f.toNat (s.sc a) (s.sc b)
    (if p then BitVec.allOnes 32 else 0, 0, some p)

/-- SSEL (R125). -/
def execSsel (d a b : SOp) (s : State) : Host.Outcome State Fault Refusal :=
  s.scalarOp (.ssel d a b) [a, b] d true fun s => (if s.warp.ccs then s.sc a else s.sc b, 0, none)

/-- SADDI (R125). -/
def execSaddi (d a : SOp) (imm : BitVec 10) (s : State) : Host.Outcome State Fault Refusal :=
  s.scalarOp (.saddi d a imm) [a] d false fun s => (s.sc a + immOf imm, 0, none)

/-- SMOVI (R125). -/
def execSmovi (d : SOp) (imm : BitVec 10) (s : State) : Host.Outcome State Fault Refusal :=
  s.scalarOp (.smovi d imm) [] d false fun _ => (immOf imm, 0, none)

/-- SMIN, SMAX, SMIN.U, SMAX.U (R125). -/
def execSminmax (d a b : SOp) (f : BitVec 2) (s : State) : Host.Outcome State Fault Refusal :=
  s.scalarOp (.sminmax d a b f) [a, b] d false fun s =>
    let x := s.sc a
    let y := s.sc b
    let lt : Bool := if f.toNat < 2 then x.slt y else x.ult y
    (if f.toNat % 2 = 0 then (if lt then x else y) else (if lt then y else x), 0, none)

/-- The word of the constant bank at a byte offset (R126). -/
def State.constWord (s : State) (o : Nat) : Word := BitVec.ofNat 32 (leNat ((s.team.consts.drop o).take 4))

/-- SLDC (R126): ALIGN, then ACCESS, with the offset as the fault address; a long result. -/
def execSldc (d a b : SOp) (k : BitVec 4) (s : State) : Host.Outcome State Fault Refusal :=
  let off (s : State) : Word := s.sc a + s.sc b
  s.issueNext
    (fun s => { legal := (Instr.sldc d a b k).wellFormed, ssrcs := [{ op := a }, { op := b }], sdsts := [{ op := d }],
                specific :=
                  if bits (off s) 0 2 ≠ 0 then some { code := Code.align, lanes := s.mask, addr := (off s).setWidth 64 }
                  else if s.team.consts.length ≤ (off s).toNat then
                    some { code := Code.access, lanes := s.mask, addr := (off s).setWidth 64 }
                  else none })
    (fun s => s.settle [] (s.scalarEntry d (s.constWord (off s).toNat) 0 none true (some k)))

/-- SGET (R129): lane V(B)[j] mod 32 of A, j the lowest active lane. -/
def execSget (d : SOp) (a b : VOp) (s : State) : Host.Outcome State Fault Refusal :=
  s.issueNext
    (fun _ => { legal := (Instr.sget d a b).wellFormed, srcs := [{ op := a }, { op := b }], sdsts := [{ op := d }] })
    (fun s => s.settle [] (s.scalarEntry d (lane (s.vec a) (bits (s.firstOf (s.vec b)) 0 5))))

/-! ## Scratchpad (R130 to R134) -/

/-- A word of the team's scratchpad. -/
def Team.scratchWord (t : Team) (a : Nat) : Word := BitVec.ofNat 32 (Memory.readNat t.scratch a 4)

def Team.setScratch (t : Team) (a : Nat) (x : Word) : Team := { t with scratch := Memory.writeNat t.scratch a 4 x.toNat }

/-- The byte addresses of LDS and STS. -/
def State.scratchAddr (s : State) (a b : VOp) (L : Nat) : Word := lane (s.vec a) L + lane (s.vec b) L

/-- The active lanes whose scratchpad address meets a condition. -/
def State.scratchLanes (s : State) (a b : VOp) (p : Word → Bool) : Mask :=
  maskOf fun L => s.mask.getLsbD L && p (s.scratchAddr a b L)

/-- The first of a list of per-lane conditions that an active lane meets, as a fault at its lowest lane's address. -/
def firstRaise (addr : Nat → BitVec 64) : List (BitVec 16 × Mask) → Option Raise
  | [] => none
  | (c, m) :: rest => match lowest m with
    | some L => some { code := c, lanes := m, addr := addr L }
    | none => firstRaise addr rest

/-- The checks of R130: ALIGN, then ACCESS. -/
def State.scratchCheck (s : State) (a b : VOp) : Option Raise :=
  firstRaise (fun L => (s.scratchAddr a b L).setWidth 64)
    [(Code.align, s.scratchLanes a b fun x => bits x 0 2 != 0),
     (Code.access, s.scratchLanes a b fun x => decide (s.team.scratchSize ≤ x.toNat))]

/-- The offset of LDS and STS is RAW, I32 or N32 (R130), or carries no tag: R130 names no untagged source and R81 lets other classes read one
(DESIGN CHOICE: log 117). -/
def State.offsetTag (s : State) (b : VOp) : Bool := (commonTag wordTags true [s.srcTag b]).isSome

end Sys2Proof.Machine
end

