-- ==== Sys2Proof/Machine/Home.lean ====
section
/-! DEFINITION. The homes of lines: rings of records (R215, Table 23-6), monitors, access counters (R249, R250), slice logs (R377), updates
at their homes (R200), and the translation of addresses with A and D set at the home of a PTE (R243, R244). -/

namespace Sys2Proof.Machine

/-! ## Rings -/

/-- The ring is enabled and not full: full when TAIL + 1 = HEAD mod SIZE (Table 23-6). -/
def Ring.room (r : Ring) : Bool := r.size != 0 && (r.tail.toNat + 1) % r.size.toNat != r.head.toNat

/-- The ring lies in host memory. -/
def Ring.inHost (r : Ring) : Bool := target r.base.toNat == .host

/-- Words and double words of a record, little-endian. -/
def word4 (x : Nat) : List Byte := leBytes x 4

def word8 (x : Nat) : List Byte := leBytes x 8

def saturate32 (x : Word) : Word := if x = 0xFFFFFFFF then x else x + 1

def State.dieAt (s : State) (d : Nat) : Die := look s.dies Die.blank d

def State.setDie (s : State) (d : Nat) (x : Die) : State := { s with dies := put s.dies d x }

/-- The die of a core: user core 96·d + i, service core 384 + d (R4). -/
def dieOfCore (c : Nat) : Nat := if c < 384 then c / 96 else c - 384

/-- The condition of a MONW (Table 12-10). -/
def monwHolds (k : Nat) (m b : Word) : Bool :=
  match k with
  | 0 => m == b
  | 1 => m != b
  | 2 => b.sle m
  | 3 => m.slt b
  | 4 => b.ule m
  | 5 => m.ult b
  | 6 => m &&& b != 0
  | _ => m &&& b == 0

def State.memWord (s : State) (pa : Nat) : Word := BitVec.ofNat 32 (Memory.readNat s.mem pa 4)

/-- MONITOR_FIRE: armed monitors of a line whose condition holds satisfy their lanes (R236). -/
def State.fire (s : State) (line : Nat) : State :=
  let lane (o : Monw) (l : MonLane) : MonLane :=
    if l.armed && l.value.isNone && lineOf l.pa == line && monwHolds o.cond (s.memWord l.pa) l.cmp then
      { l with value := some (s.memWord l.pa) }
    else l
  s.mapWarps fun w => { w with monws := w.monws.map fun o => { o with lanes := o.lanes.map (lane o) } }

/-- An agent holds the line exclusively, so that its home answers no other request (R206). -/
def State.lineHeld (s : State) (line : Nat) : Bool := (s.homeLine line).excl.isSome

/-- The lines of n bytes at an address. -/
def linesAt (pa n : Nat) : List Nat := ((List.range n).map fun i => lineOf (pa + i)).dedup

/-- No agent holds a line of n bytes exclusively, so that their homes answer (R206). -/
def State.linesOpen (s : State) (pa n : Nat) : Bool := (linesAt pa n).all fun line => !s.lineHeld line

/-- The update of a unit of the package, which is of no team. -/
def unitWrite (pa : Nat) (kind : UpdateKind) : Update :=
  { uid := 0, core := 0x1FF, team := 0, warp := 0, ctx := 0, pa := pa, va := 0, kind := kind, kept := false, tw := 0 }

/-- An update waits at the home of a line that an agent holds exclusively (R206). -/
def State.waitAtHome (s : State) (u : Update) : State :=
  let h := s.homeLine (lineOf u.pa)
  ({ s with nextId := s.nextId + 1 } : State).setHomeLine { h with pend := h.pend ++ [{ u with uid := s.nextId }] }

/-- Bytes of one line that a unit writes: performed at the home at once, or once an exclusive lease has ended. -/
def State.putChunk (s : State) (pa : Nat) (l : List Byte) : State :=
  if s.lineHeld (lineOf pa) then s.waitAtHome (unitWrite pa (.bytes l))
  else
    let keep (c : Core) : Core := { c with lines := c.lines.filter fun x => !(x.cls == 0 && x.line == lineOf pa) }
    ({ s with mem := Memory.writeBytes s.mem pa l, core := keep s.core, cores := s.cores.map keep } : State).fire (lineOf pa)

/-- Bytes that a unit of the package writes at physical addresses, so that no L1 keeps a leased copy of what was there. -/
def State.putBytes (s : State) (pa : Nat) (l : List Byte) : State :=
  (linesAt pa l.length).foldl (fun s line =>
    let lo := max pa (128 * line)
    s.putChunk lo ((l.drop (lo - pa)).take (128 * line + 128 - lo))) s

/-- A unit of the package sets the bits of a byte that a mask names. -/
def State.setBits (s : State) (pa : Nat) (m : Byte) : State :=
  if s.lineHeld (lineOf pa) then s.waitAtHome (unitWrite pa (.merge m m)) else s.putChunk pa [Memory.read s.mem pa ||| m]

/-- A record is posted at the tail of a ring; what is written to host memory after link loss is discarded (R354). -/
def State.postTo (s : State) (r : Ring) (record : List Byte) : State × Ring :=
  let s := if r.inHost && s.hostGone then s else s.putBytes (r.base.toNat + record.length * r.tail.toNat) record
  (s, { r with tail := BitVec.ofNat 16 ((r.tail.toNat + 1) % r.size.toNat) })

/-! ## Access counters (R249, R250) -/

/-- A counter reaching PACTHR posts a notification, with the context and the virtual address of the miss that crossed it (log 97), and is marked; a
full queue drops it and leaves the counter un-notified. -/
def State.notify (s : State) (d : Nat) (k : AccessCounter) (ctx : Nat) (va : BitVec 64) (core : Nat) : State × AccessCounter :=
  let die := s.dieAt d
  if die.pacthr = 0 ∨ k.count < die.pacthr.toNat ∨ k.notified then (s, k)
  else if !die.acnq.room || (die.acnq.inHost && s.hostGone) then (s.setDie d { die with acndrop := saturate32 die.acndrop }, k)
  else
    let r := s.postTo die.acnq
      (word4 (1 + 2 ^ 16 * die.noteSeq.toNat) ++ word4 ctx ++ word8 (va.toNat / 65536 * 65536) ++ word8 (k.page * 65536) ++
        word4 (k.count + 2 ^ 16 * core) ++ word4 (s.gtc % 2 ^ 32))
    (r.1.setDie d { die with acnq := r.2, noteSeq := die.noteSeq + 1 }, { k with notified := true })

/-- The place of the table that a new page takes: the lowest free one, or else that of the entry with the lowest count, the lowest of
those on a tie. -/
def counterPlace (l : List AccessCounter) : Nat :=
  match (List.range (min 4096 (l.length + 1))).find? fun i => l.all fun k => k.index != i with
  | some i => i
  | none =>
    let low := l.foldl (fun m k => min m k.count) 65536
    (l.filter fun k => k.count == low).foldl (fun m k => min m k.index) 4095

/-- ACCESS_COUNT: a line request of a context that missed in its home slice is counted. -/
def State.countMiss (s : State) (ctx pa : Nat) (va : BitVec 64) (core : Nat) : State :=
  let page := pa / 65536
  let d := page % 4
  let die := s.dieAt d
  let old := die.counters.find? fun k => k.page == page
  let k : AccessCounter := match old with
    | some k => { k with count := min 65535 (k.count + 1) }
    | none =>
      { ctx := ctx, page := page, count := 1, notified := false, index := counterPlace die.counters,
        va := BitVec.ofNat 64 (va.toNat / 65536 * 65536) }
  let r := s.notify d k ctx va core
  let die := r.1.dieAt d
  r.1.setDie d { die with counters := r.2 :: die.counters.filter fun x => x.index != k.index }

/-! ## Slice logs (R377) -/

/-- SLICE_LOG: a home slice logs a served request of class cls (Table 25-4). core is 0x1FF for none. -/
def State.slog (s : State) (line cls : Nat) (hit : Bool) (core requester : Nat) : State :=
  let d := homeDie line
  let die := s.dieAt d
  let pa := line * 128
  if die.slEn && die.slOps.getLsbD cls && die.slflo.toNat ≤ pa && pa < die.slfhi.toNat then
    let n := homeSlice line
    let w0 := BitVec.ofNat 64 (pa + 2 ^ 56 * cls + if hit then 2 ^ 63 else 0)
    let e : Vector Word 4 := #v[w0.setWidth 32, (w0 >>> 32).setWidth 32, BitVec.ofNat 32 s.gtc, BitVec.ofNat 32 (core + 2 ^ 9 * requester)]
    let l := (die.logs.find? fun l => l.slice == n).getD { slice := n, next := 0, entries := [] }
    let l' : SliceLog := { l with
      next := (l.next + 1) % 4096
      entries := (l.next, e) :: l.entries.filter fun x => x.1 != l.next }
    s.setDie d { die with logs := l' :: die.logs.filter fun x => x.slice != n }
  else s

/-- The user core number of a core in a slice log entry. -/
def logCore (c : Nat) : Nat := if c < 384 then c else 0x1FF

/-! ## Updates at the home (R200) -/

/-- RoundNE of a sum in a format, on encodings; subnormals kept, the canonical NaN (R228). -/
def faddBits (t : Tag) (a b : Nat) : Nat :=
  match Tag.format t with
  | some f => match FVal.add 0 (f.decode a) (f.decode b) with
    | some x => (f.round 0 x).1
    | none => f.nanBits
  | none => 0

/-- What an ATOM operation leaves in memory (Table 12-6). -/
def atomNew (k old b d : Nat) : Nat :=
  match k with
  | 0 => (old + b) % 2 ^ 32
  | 1 => if intOf true 32 old ≤ intOf true 32 b then old else b
  | 2 => min old b
  | 3 => if intOf true 32 old ≤ intOf true 32 b then b else old
  | 4 => max old b
  | 5 => old &&& b
  | 6 => old ||| b
  | 7 => old ^^^ b
  | 8 => b
  | 9 => if old = d then b else old
  | 10 => if b ≤ old then 0 else old + 1
  | 11 => faddBits .fp32 old b
  | 12 => faddBits .fp16 (old % 2 ^ 16) (b % 2 ^ 16) + 2 ^ 16 * faddBits .fp16 (old / 2 ^ 16) (b / 2 ^ 16)
  | 13 => (old + b) % 2 ^ 64
  | 14 => if old = d then b else old
  | _ => b

/-- Bytes of an ATOM operation. -/
def atomWidth (k : Nat) : Nat := if 13 ≤ k then 8 else 4

/-- The ATOM operation of a RED (Table 12-7); 16 stands for RWADD. -/
def redAtom (k : Nat) : Nat := ([0, 1, 2, 3, 4, 5, 6, 7, 11, 12, 13] : List Nat).getD k 16

/-- RED.RWADD: channels added, a VOID memory element read as 0 (R231). -/
def rwadd (old b : Nat) : Nat := rencode .rw ((relem .rw old).1 + (relem .rw b).1)

/-- What a reduction leaves in memory, k as in Table 12-7. -/
def redNew (k old b : Nat) : Nat := if redAtom k = 16 then rwadd old b else atomNew (redAtom k) old b 0

def redWidth (k : Nat) : Nat := if redAtom k = 16 then 8 else atomWidth (redAtom k)

/-- Memory after an update. -/
def Update.perform (u : Update) (m : List Host.Cell) : List Host.Cell :=
  match u.kind with
  | .bytes l => Memory.writeBytes m u.pa l
  | .masked l => Memory.writeMasked m u.pa l
  | .merge d k => Memory.write m u.pa ((Memory.read m u.pa &&& ~~~k) ||| (d &&& k))
  | .red k b => Memory.writeNat m u.pa (redWidth k) (redNew k (Memory.readNat m u.pa (redWidth k)) b.toNat)
  | .reds k l => l.foldl (fun m e => Memory.writeNat m (u.pa + e.1) (redWidth k) (redNew k (Memory.readNat m (u.pa + e.1) (redWidth k)) e.2.toNat)) m
  | .atomic k b d _ _ => Memory.writeNat m u.pa (atomWidth k) (atomNew k (Memory.readNat m u.pa (atomWidth k)) b.toNat d.toNat)

/-- An ATOM lane's old value comes back (R229); the lane leaves the operation. -/
def State.atomAnswer (s : State) (id lane old : Nat) : State :=
  let fix (a : AtomOp) : AtomOp :=
    if a.id = id then
      { a with lanes := a.lanes.filter (fun l => l.lane != lane), results := (lane, BitVec.ofNat 64 old) :: a.results }
    else a
  { s with
    core := { s.core with atoms := s.core.atoms.map fix }
    cores := s.cores.map fun c => { c with atoms := c.atoms.map fix } }

/-- A unit of the package makes the update, for no context; no slice log has an entry for it (log 67). -/
def Update.byUnit (u : Update) : Bool := u.core == 0x1FF && u.asker == 0

/-- The home performs one update: memory, an ATOM's answer, monitors, the log, for which hit tells whether the slice had the line, and the count
of a miss (R249). -/
def State.performUpdate (s : State) (u : Update) (hit : Bool) : State :=
  let s := match u.kind with
    | .atomic k _ _ id lane => s.atomAnswer id lane (Memory.readNat s.mem u.pa (atomWidth k))
    | _ => s
  let cls := match u.kind with | .red _ _ | .reds _ _ => 3 | .masked _ => 6 | _ => 1
  let s := ({ s with mem := u.perform s.mem } : State).fire (lineOf u.pa)
  let s := if u.byUnit then s else s.slog (lineOf u.pa) cls hit (logCore u.core) u.asker
  if !hit && u.counted then s.countMiss u.ctx (128 * lineOf u.pa) u.va u.core else s

/-- The first pending update of a line is performed. -/
def State.performFirst (s : State) (line : Nat) : State :=
  let h := s.homeLine line
  match h.pend with
  | [] => s
  | u :: rest =>
    let t := s.setHomeLine { h with pend := rest, cached := h.cached && u.alloc }
    (if u.alloc then t.cacheLine line else t).performUpdate u h.cached

/-- Every pending update of a line that is due at GTC is performed, in arrival order. -/
def State.settleLine (s : State) (line : Nat) : Nat → State
  | 0 => s
  | n + 1 =>
    match (s.homeLine line).pend with
    | u :: _ => if u.tw ≤ s.gtc ∧ (s.homeLine line).excl = none then (s.performFirst line).settleLine line n else s
    | [] => s

def State.settleHome (s : State) (line : Nat) : State := s.settleLine line (s.homeLine line).pend.length

/-- Every update of the machine that is due is performed. -/
def State.settleDue (s : State) : State :=
  ((s.home.filter fun h => match h.pend with | u :: _ => decide (u.tw ≤ s.gtc) | [] => false).map (·.line)).foldl State.settleHome s

/-- An update arrives at its home and is given its tw (R200), no earlier than its own where it has one already: it has been sent after what had that
tw (R205, R361). -/
def State.arrive (s : State) (u : Update) : State × Nat :=
  let line := lineOf u.pa
  let s := s.settleHome line
  let h := s.homeLine line
  let tw := max (max s.gtc u.tw) (max h.lmax h.lastTw)
  (({ s with nextId := s.nextId + 1 } : State).setHomeLine
    { h with lastTw := tw, pend := h.pend ++ [{ u with uid := s.nextId, tw := tw }] }, tw)

/-- The homes answer for every line of a context's RAT (R206). -/
def State.ratOpen (s : State) (c : Ctx) : Bool := s.linesOpen c.ratb.toNat (32 * min c.ratn.toNat 1024)

/-- The core takes its copy of the RAT, as memory holds it with every due update performed (R246), once the homes answer. -/
def State.useRat (s : State) (c : Ctx) : State :=
  match s.core.rats.find? fun r => r.1 == c.id with
  | some _ => s
  | none =>
    let s := s.settleDue
    if !s.ratOpen c then s else
    { s with core := { s.core with rats := (c.id, s.ratTable c) :: s.core.rats } }

/-! ## Translation (R243, R244) -/

/-- The outcome of translating one address: the rows of Table 12-2 that concern the page. -/
inductive Xlat where
  | ok (pa : Nat)
  | page | access
  /-- The walker's read, or its compare-and-swap, at the home of a PTE is still to come, or the core's read of the RAT (R206, R243). -/
  | wait
  | lost (addr : BitVec 64)
deriving DecidableEq, Repr

/-- The peer window cannot be reached: the port is down, or the offset is past the peer's HBM (R360). -/
def State.peerGone (s : State) (pa : Nat) : Bool :=
  let p := look s.pkg.ports Port.blank (pa / 2 ^ 48 % 16)
  target pa == .peer && (p.cur == 3 || hbmSize ≤ pa % 2 ^ 48)

def State.setCore (s : State) (c : Core) : State := { s with core := c }

/-- The PTEs that a walk reads, by physical address. -/
def walkPath (rd : Nat → Walk ⊕ Dword) (va : Nat) : Nat → Nat → List Nat
  | 0, _ => []
  | n + 1, table =>
    let ptePa := table + 8 * (va / 2 ^ (12 + 9 * n) % 512)
    match rd ptePa with
    | .inl _ => []
    | .inr pte =>
      ptePa :: (if pteBit pte 0 && !pteBit pte 1 && !pteBit pte 2 && !pteBit pte 3 then walkPath rd va n (ptePpn pte * 4096) else [])

/-- The PTEs that a walk of a context reads. -/
def State.walkPtes (s : State) (c : Ctx) (va : BitVec 64) : List Nat :=
  if canonical va then walkPath s.readPte va.toNat 5 (c.root.toNat * 4096) else []

/-- The homes answer for every PTE that a walk reads (R206). -/
def State.walkOpen (s : State) (c : Ctx) (va : BitVec 64) : Bool := (s.walkPtes c va).all fun pa => !s.lineHeld (lineOf pa)

/-- The home of a PTE logs a request of the walker of a core (R377, Table 25-4). -/
def State.logPte (s : State) (core pa : Nat) : State := s.slog (lineOf pa) 5 (s.homeLine (lineOf pa)).cached core 4

/-- A walk for a core, 0x1FF for none: the updates that are due are performed, and the homes of the PTEs log its reads (R377). -/
def State.beforeWalk (s : State) (c : Ctx) (va : BitVec 64) (core : Nat) : State :=
  let s := s.settleDue
  (s.walkPtes c va).foldl (State.logPte · core ·) s

/-- The walker's compare-and-swap of a PTE at its home: an update that is performed once no lease, no pending update and no other
agent stands before it; none until then (R200, R243). The home logs it as a request of the walker (DESIGN CHOICE of its class: log 126). -/
def State.swapPte (s : State) (core ptePa : Nat) (pte : Dword) : Option State :=
  let h := s.homeLine (lineOf ptePa)
  if h.pend.isEmpty && h.excl.isNone && decide (max h.lmax h.lastTw ≤ s.gtc) then
    some (((({ s with mem := Memory.writeNat s.mem ptePa 8 pte.toNat } : State).setHomeLine { h with lastTw := s.gtc }).fire (lineOf ptePa)).logPte
      core ptePa)
  else none

/-- The translation of one address through the translations that a load pipe of the core has cached, or else through a walk that sets A
and D and caches its leaf (R243, R244). A write through a cached translation whose D is 0 walks again. -/
def State.translate (s : State) (c : Ctx) (k : Access) (priv : Bool) (va : BitVec 64) (pipe : Nat := 0) : State × Xlat :=
  let hit := s.core.tlb.find? fun t => t.pipe == pipe && t.ctx == c.id && decide (t.va ≤ va.toNat) && decide (va.toNat < t.va + t.size) &&
    (pteBit t.pte 7 || !k.writes)
  let finish (s : State) (pa : Nat) : State × Xlat :=
    if target pa = .absent then (s, .access) else (s, .ok pa)
  if (s.core.rats.find? fun r => r.1 == c.id).isNone then (s, .wait)
  else match hit with
  | some t =>
    if permits t.pte k priv then finish s (t.pa + (va.toNat - t.va)) else (s, .access)
  | none =>
    let s := s.settleDue
    if !s.walkOpen c va then (s, .wait)
    else
    let s := s.beforeWalk c va (logCore s.core.num)
    match s.walk c va with
    | .page => (s, .page)
    | .access => (s, .access)
    | .lost a => (s, .lost (BitVec.ofNat 64 a))
    | .leaf pte ptePa level =>
      if permits pte k priv then
        let size := leafSize pte level
        let start := va.toNat / size * size
        let pte' : Dword := pte ||| 0x40#64 ||| (if k.writes then 0x80#64 else 0)
        let t : Tlb := { ctx := c.id, va := start, size := size, pa := leafBase pte, pte := pte', ptePa := ptePa, pipe := pipe }
        match if pte' = pte then some s else s.swapPte (logCore s.core.num) ptePa pte' with
        | none => (s, .wait)
        | some s =>
          finish { s with core := { s.core with
              tlb := t :: s.core.tlb.filter fun x => !(x.pipe == pipe && x.ctx == c.id && x.va == start && x.size == size) } }
            (leafBase pte + (va.toNat - start))
      else (s, .access)

end Sys2Proof.Machine
end

