-- ==== Sys2Proof/Machine/Pool.lean ====
section
/-! DEFINITION. The register pool and its arbiter (R12, R13, R65 to R68), GROW and SHRINK (R156). -/

namespace Sys2Proof.Machine

/-- Granules of the pool of a core (R12). -/
def poolSize : Nat := 1536

/-- The team holds a place of a core (R11): its tiles are charged there. -/
def Team.onCore (t : Team) (c : Nat) : Bool :=
  t.core == c && (t.life == .resident || t.life == .preempting || t.life == .ending)

def State.coreTeams (s : State) (c : Nat) : List Team := s.allTeams.filter fun t => t.onCore c

/-- The warps that hold slots of a core. -/
def State.coreWarps (s : State) (c : Nat) : List Warp :=
  s.allWarps.filter fun w => (s.coreTeams c).any fun t => t.handle == w.team

/-- Granules in use (Table 1-3). -/
def State.granules (s : State) (c : Nat) : Nat :=
  ((s.coreWarps c).map (·.vvg)).sum + 2 * ((s.coreTeams c).map fun t => t.tiles.length).sum

def State.freeGranules (s : State) (c : Nat) : Nat := poolSize - s.granules c

def PoolReq.granules : PoolReq → Nat
  | .grow _ g => g
  | .malloc _ c => 2 * c
  | .callr _ _ _ g => g

def Warp.request (w : Warp) : Option PoolReq :=
  match w.hold with
  | .pool r => some r
  | _ => none

def State.prioOf (s : State) (h : Nat) : Nat := ((s.allTeams.find? fun t => t.handle == h).map (·.prio)).getD 0

/-- Warp a is served before warp b: by descending launch priority, then by age of the request (R12). -/
def State.servedBefore (s : State) (a b : Warp) : Bool :=
  s.prioOf b.team < s.prioOf a.team || (s.prioOf a.team == s.prioOf b.team && a.issued < b.issued)

/-- The blocking queue of a core. -/
def State.poolQueue (s : State) (c : Nat) : List Warp := (s.coreWarps c).filter fun w => w.request.isSome

def State.poolHead (s : State) (c : Nat) : Option Warp :=
  (s.poolQueue c).foldl (fun b w => match b with
    | none => some w
    | some x => if s.servedBefore w x then some w else b) none

/-- A granted GROW: the new registers are stale (R65). -/
def Warp.growBy (w : Warp) (g : Nat) : Warp :=
  { (List.range (8 * g)).foldl (fun w i => w.setBank (8 * w.vvg + i) { w.bankReg (8 * w.vvg + i) with stale := true, pending := false }) w
    with vvg := w.vvg + g }

/-- SHRINK releases granules: results for released registers are lost (R66). -/
def Warp.shrinkBy (w : Warp) (g : Nat) : Warp :=
  let w := (List.range (8 * g)).foldl (fun w i => w.killReg (8 * (w.vvg - g) + i)) w
  { w with vvg := w.vvg - g }

def Tile.blank : Tile := { slots := Vector.replicate 256 0, tag := .raw, depth := 0, bound := 0 }

/-- A granted MALLOC appends tiles (R65). -/
def Team.addTiles (t : Team) (c : Nat) : Team := { t with tiles := t.tiles ++ List.replicate c Tile.blank }

/-- A wait of the whole warp in focus begins. -/
def State.holdAs (s : State) (h : Hold) : State := { s with warp := { s.warp with hold := h, holdSince := s.gtc } }

/-- A status that becomes usable as Table 8-6 gives. -/
def State.status (s : State) (d : SOp) (x : Word) : State := s.settle [] (s.scalarEntry d x 0 none true)

/-- What a granted request does (R65, R156, R162, R317). The warp is in focus. -/
def State.grantReq (s : State) (r : PoolReq) : State :=
  match r with
  | .grow d g => ({ s with warp := s.warp.growBy g } : State).status d 0
  | .malloc d c => ({ s with team := s.team.addTiles c } : State).status d 0
  | .callr d dead ts g =>
    let s : State := { s with warp := s.warp.growBy g }
    let link : BitVec 64 := s.entry.pc + 4
    let srcs : List Src := match dead with
      | some a => [{ op := a, count := 2, dead := true }]
      | none => []
    (s.settle srcs (s.resultEntry
      { dst := d, tag := .raw, lo := splat (link.setWidth 32), hi := some (splat ((link >>> 32).setWidth 32), .raw) })).split ts

/-- A granted request ends its instruction: GROW and MALLOC go on at the next word, CALLR.GROW at its targets. -/
def State.grantEnd (s : State) (r : PoolReq) : State :=
  match r with
  | .callr _ _ _ _ => s.grantReq r
  | _ => (s.grantReq r).advance

/-- The head of the blocking queue of a core where it fits, with its request (R67). -/
def State.fittingHead (s : State) (c : Nat) : Option (Warp × PoolReq) :=
  match s.poolHead c with
  | none => none
  | some w => match w.request with
    | some r => if r.granules ≤ s.freeGranules c then some (w, r) else none
    | none => none

/-- The warp's request is the next that the arbiter grants: it leaves the queue granted, before anything can stop the warp (R67). -/
def State.grantable (s : State) (w : Warp) : Bool :=
  match s.fittingHead (s.teamOf w.team).core with
  | some p => p.1.team == w.team && p.1.idx == w.idx
  | none => false

/-- The head of the blocking queue of a core is granted where it fits; its warp comes into focus. -/
def State.grantHead (s : State) (c : Nat) : Option State :=
  match s.fittingHead c with
  | none => none
  | some (w, r) => match s.focusOn w.team w.idx with
    | none => none
    | some s =>
      let s : State := { s with warp := { s.warp with hold := .none } }
      if s.issuing.isSome then some (s.grantEnd r) else none

/-- The heads of the blocking queue of a core are granted while they fit; n bounds their number. -/
def State.grantHeads (s : State) (c : Nat) : Nat → State
  | 0 => s
  | n + 1 => match s.grantHead c with
    | none => s
    | some t => t.grantHeads c n

/-- The arbiter acts before a request of the warp in focus: every head that fits is granted (R67, step 2). Which of the requests and releases of a
cycle comes first is said where the next warp is chosen (State.sameCycle, log 89). -/
def State.arbitrate (s : State) : State :=
  let c := s.core.num
  if (s.fittingHead c).isNone then s else (s.grantHeads c (s.poolQueue c).length).backTo s

/-- A request reaches the arbiter: a blocking one joins the queue, unless it is alone there and fits; one that does not
queue finds a free granule only while the queue is empty (R67). -/
def State.request (s : State) (d : SOp) (r : PoolReq) (blocking : Bool) : State :=
  let s := s.arbitrate
  if (s.poolQueue s.core.num).isEmpty && r.granules ≤ s.freeGranules s.core.num then s.grantEnd r
  else if blocking then s.holdAs (.pool r)
  else (s.status d 1).advance

/-- GROW (R156). -/
def execGrow (d : SOp) (blocking : BitVec 1) (g : BitVec 8) (s : State) : Host.Outcome State Fault Refusal :=
  s.issue (fun _ => { legal := (Instr.grow d blocking g).wellFormed, sdsts := [{ op := d }] }) fun s =>
    if g = 0 then (s.status d 0).advance
    else if 32 < s.warp.vvg + g.toNat then (s.status d 2).advance
    else s.request d (.grow d g.toNat) (blocking == 1)

/-- The fault of a SHRINK by g granules (R66). -/
def State.shrinkCheck (s : State) (g : Nat) : Option Raise :=
  let left := s.warp.vvg - g
  if g = 0 then none
  else if s.warp.vvg ≤ g ∨ (s.warp.wb ≠ 0 ∧ 8 * left < s.warp.wb + 64) then
    some { code := Code.window, lanes := s.mask, addr := 0 }
  else if (List.range (8 * g)).any fun i => (s.warp.bankReg (8 * left + i)).pending then
    some { code := Code.pending, lanes := s.mask, addr := 0 }
  else none

/-- SHRINK (R66, R156). -/
def execShrink (d : SOp) (g : BitVec 8) (s : State) : Host.Outcome State Fault Refusal :=
  s.issueNext
    (fun s => { legal := (Instr.shrink d g).wellFormed, sdsts := [{ op := d }], specific := s.shrinkCheck g.toNat })
    (fun s => ({ s with warp := s.warp.shrinkBy g.toNat } : State).status d 0)

/-- POOL_GRANT (R67): the head of the blocking queue of a core is granted while it fits. -/
def execPoolGrant (core : Nat) (s : State) : Host.Outcome State Fault Refusal :=
  match s.grantHead core with
  | some t => .next t.wake
  | none => .fault .cannotHappen

/-- The warp is in POOLWAIT or BARWAIT (R68): a parked one is PARKED whatever it waits for, or STALLED until its record is posted (R30, R348). -/
def Warp.poolStuck (w : Warp) : Bool :=
  !w.parked &&
    match w.hold with
    | .pool _ | .bar _ _ _ _ | .grid _ | .endtry _ | .regroup => true
    | _ => false

/-- A release is in progress on a core: a team of it is ending, is being killed, or is leaving the core (R68). -/
def State.releasing (s : State) (c : Nat) : Bool :=
  (s.coreTeams c).any fun t => t.life == .ending || t.life == .preempting || t.doomed.isSome

/-- Request a is a better victim than b: lowest priority, most recently placed team, highest warp index (R68). -/
def State.worse (s : State) (a b : Warp) : Bool :=
  let pa := s.prioOf a.team
  let pb := s.prioOf b.team
  let at' := ((s.allTeams.find? fun t => t.handle == a.team).map (·.placedAt)).getD 0
  let bt := ((s.allTeams.find? fun t => t.handle == b.team).map (·.placedAt)).getD 0
  pa < pb || (pa == pb && (bt < at' || (bt == at' && b.idx < a.idx)))

def State.poolVictim (s : State) (c : Nat) : Option Warp :=
  (s.poolQueue c).foldl (fun b w => match b with
    | none => some w
    | some x => if s.worse w x then some w else b) none

/-- POOL_VICTIM (R68): the queue is deadlocked; the victim's request leaves it and its instruction ends in a GROWDENIED throw
from the active lanes. The 64 cc for which the deadlock holds are not counted (log 5). -/
def execPoolVictim (core : Nat) (s : State) : Host.Outcome State Fault Refusal :=
  let q := s.poolQueue core
  let stuck := (s.coreWarps core).all fun w => !(q.any fun x => x.team == w.team) || w.poolStuck
  match s.poolHead core, s.poolVictim core with
  | some head, some v =>
    if stuck && !s.releasing core && (match head.request with | some r => s.freeGranules core < r.granules | none => false) then
      match s.focusOn v.team v.idx with
      | none => .fault .cannotHappen
      | some s =>
        let s : State := { s with warp := { s.warp with hold := .none } }
        .next (s.throwHere (s.active.map fun L => (s.innermost L, s.thrower L Code.growdenied s.entry.pc 0))).wake
    else .fault .cannotHappen
  | _, _ => .fault .cannotHappen

end Sys2Proof.Machine
end

