-- ==== Sys2Proof/Machine/Branch.lean ====
section
/-! DEFINITION. Fetching a word (R95, R96), NOP, YIELD, LIT, BLK (R103 to R106), WINB, SWINB and OCMOV (R155, R157), and the
branches, calls and returns (R159 to R162). -/

namespace Sys2Proof.Machine

/-! ## Fetch -/

/-- The outcome of a fetch: the word, the code and the fault address of row 1 of Table 6-6, or a wait (R30). -/
inductive Fetched where
  | word (w : Word)
  /-- The range is in TRANSIT (R210), or the walker waits for the home of a PTE (R243). -/
  | stall
  | bad (code : BitVec 16) (addr : BitVec 64)
deriving DecidableEq, Repr

/-- A choice between two words that the spec leaves open (R96), drawn from the free values (log 6). -/
def State.chooseWord (s : State) (a b : Word) : State × Word :=
  if a = b then (s, a) else ({ s with free := s.free + 1 }, if Config.freeBit s.free then a else b)

/-- The word at pc, through the warp's translation. A word that was mapped when the launch was admitted, and that has been
stored to since, is read as the old or the new word (R96). The peer window's words are the peer's, free values (log 6), and a fetch from it
faults as R360 lays down. The service teams' program needs no translation (log 88). -/
def State.fetch (s : State) (pc : BitVec 64) : State × Fetched :=
  if bits pc 0 2 ≠ 0 then (s, .bad Code.align pc)
  else if s.launch.firmware then (s, .word (Config.firmwareWord pc))
  else
    let x := (s.useRat s.ctx).translate s.ctx .fetch s.privileged pc
    let r := x.1.rat s.ctx pc
    match x.2 with
    | .page => (x.1, .bad Code.page pc)
    | .access => (x.1, .bad Code.access pc)
    | .lost a => (x.1, .bad Code.hostlost a)
    | .wait => (x.1, .stall)
    | .ok pa =>
      if x.1.peerGone pa then (x.1, .bad Code.access pc)
      else if r.cls = 3 ∨ (r.cls = 2 ∧ r.owner ≠ s.core.num) then (x.1, .bad Code.coherence pc)
      else if target pa = .host ∧ s.hostGone then (x.1, .bad Code.hostlost pc)
      else if r.transit || x.1.lineHeld (lineOf pa) then (x.1, .stall)
      else if target pa = .peer then ({ x.1 with free := x.1.free + 1 }, .word ((Config.freeDword x.1.free).setWidth 32))
      else if x.1.poison.contains (lineOf pa) then (x.1, .bad Code.poison pc)
      else
        let t := x.1.settleHome (lineOf pa)
        let now : Word := BitVec.ofNat 32 (Memory.readNat t.mem pa 4)
        let c := t.chooseWord ((s.launch.imageWord pc).getD now) now
        (c.1, .word c.2)

/-! ## Instructions with no operand of their own -/

/-- NOP (R103). -/
def execNop (s : State) : Host.Outcome State Fault Refusal :=
  s.issueNext (fun _ => { legal := Instr.nop.wellFormed }) State.enterInvalid

/-- YIELD (R33, R103): the drain comes before the entry; the run ends, and the warp rests at the next turn of its partition. -/
def execYield (s : State) : Host.Outcome State Fault Refusal :=
  s.issueNext (fun _ => { legal := Instr.yield.wellFormed, drains := true })
    (fun s => ({ s with warp := { s.warp.yieldPoint with runCount := 64, rest := true } } : State).enterInvalid)

/-- LIT (R104). -/
def execLit (v : BitVec 24) (s : State) : Host.Outcome State Fault Refusal :=
  s.issueNext (fun _ => { legal := (Instr.lit v).wellFormed, sdsts := [{ op := .lit }] })
    (fun s => ({ s with warp := { s.warp with lit := v.signExtend 32 } } : State).enterInvalid)

/-- LIT.HI (R104). -/
def execLitHi (b : BitVec 8) (s : State) : Host.Outcome State Fault Refusal :=
  s.issueNext (fun _ => { legal := (Instr.litHi b).wellFormed, sdsts := [{ op := .lit }] })
    (fun s => ({ s with warp := { s.warp with lit := b ++ s.warp.lit.setWidth 24 } } : State).enterInvalid)

/-- BLK (R106): its priority took effect when the lanes reached it (R17), or takes effect now where the word could not be read then. -/
def execBlk (r p : BitVec 8) (s : State) : Host.Outcome State Fault Refusal :=
  s.issueNext (fun _ => { legal := (Instr.blk r p).wellFormed }) fun s => (s.enterInvalid).setPrio ((s.pr s.entry.pc).getD p)

/-! ## Windows (R51, R155) -/

/-- WINB: WB := 8q, WINDOW unless WB is 0 or WB + 64 is within the allocation. -/
def execWinb (q : BitVec 5) (s : State) : Host.Outcome State Fault Refusal :=
  s.issueNext
    (fun s => { legal := (Instr.winb q).wellFormed, window := q == 0 || 8 * q.toNat + 64 ≤ 8 * s.warp.vvg })
    (fun s => ({ s with warp := { s.warp with wb := 8 * q.toNat } } : State).enterInvalid)

/-- SWINB: SWB := 8q, WINDOW where q is above 33. -/
def execSwinb (q : BitVec 6) (s : State) : Host.Outcome State Fault Refusal :=
  s.issueNext
    (fun _ => { legal := (Instr.swinb q).wellFormed, window := q.toNat ≤ 33 })
    (fun s => ({ s with warp := { s.warp with swb := 8 * q.toNat } } : State).enterInvalid)

/-! ## OCMOV (R157) and the writes of all lanes (R58, R71) -/

/-- A result for all 32 lanes, whatever the active mask. It enters the window as a valid entry, that of OCWR and OCMOV.WR, which write a slot
alone, among them: R52 does not list these two (DESIGN CHOICE: log 87). Its latch reads as zero in the lanes that were not active: R58 says so of a
latch, and excepts these instructions from what it says of lanes (DESIGN CHOICE: log 118). -/
def State.allLanesEntry (s : State) (d : VOp) (y : Lanes) (t : Tag) : WinEntry :=
  match s.place d with
  | .reg r => { WinEntry.blank with valid := true, latch := mergeLanes s.mask y (splat 0), tag := t, regs := [{ reg := r, image := y, tag := t, life := .live }] }
  | .row r => { WinEntry.blank with valid := true, latch := mergeLanes s.mask y (splat 0), tag := t, late := [.vtRow s.warp.vtsel r y (maskOf fun _ => true)] }
  | .cache n => { WinEntry.blank with valid := true, latch := mergeLanes s.mask y (splat 0), tag := t, late := [.cache n y (maskOf fun _ => true) t] }
  | .lit => { WinEntry.blank with valid := true, latch := mergeLanes s.mask y (splat 0), tag := t, late := [.lit (s.firstOf y)] }
  | .scalar r => { WinEntry.blank with valid := true, latch := mergeLanes s.mask y (splat 0), tag := t, late := [.scalar r (s.firstOf y)] }
  | .cc => { WinEntry.blank with valid := true, latch := mergeLanes s.mask y (splat 0), tag := t, late := [.laneCc (maskOf fun _ => true) (maskOf fun L => lane y L != 0)] }
  | _ => { WinEntry.blank with valid := true, latch := mergeLanes s.mask y (splat 0), tag := t }

/-- The bits and tag of a slot of the operand cache, 0 and RAW where it is empty. -/
def Warp.cacheValue (w : Warp) (n : Nat) : Lanes × Tag :=
  let c := look w.oc Copy.blank n
  if c.valid then (c.data, c.tag) else (splat 0, .raw)

/-- Slot n takes a value whole. -/
def Warp.fillCache (w : Warp) (n : Nat) (y : Lanes) (t : Tag) : Warp :=
  { w with oc := put w.oc n { data := y, tag := t, valid := true, regs := [] } }

def slotNo : VOp → Nat
  | .oc n => n.toNat
  | _ => 0

/-- OCMOV.RD. -/
def execOcmovRd (d b : VOp) (s : State) : Host.Outcome State Fault Refusal :=
  s.issueNext
    (fun _ => { legal := (Instr.ocmovRd d b).wellFormed, srcs := [{ op := b }], dsts := [{ op := d }], readsEmpty := true })
    (fun s => let v := s.warp.cacheValue (slotNo b); s.settle [] (s.allLanesEntry d v.1 v.2))

/-- OCMOV.WR. -/
def execOcmovWr (a b : VOp) (da : BitVec 1) (s : State) : Host.Outcome State Fault Refusal :=
  let src : Src := { op := a, dead := da == 1 }
  s.issueNext
    (fun _ => { legal := (Instr.ocmovWr a b da).wellFormed, srcs := [src], dsts := [{ op := b }] })
    (fun s => s.settle [src] (s.allLanesEntry b (s.vec a) ((s.srcTag a).getD .raw)))

/-! ## Branches (R94, R159) -/

/-- PC + 4 + 4·disp. -/
def State.branchTarget (s : State) (disp : BitVec 17) : BitVec 64 := s.entry.pc + 4 + 4 * disp.signExtend 64

/-- The lanes of the issuing entry that take a branch. -/
def State.branch (s : State) (taken : Mask) (disp : BitVec 17) : State :=
  s.split [(s.mask &&& taken, s.branchTarget disp), (s.mask &&& ~~~taken, s.entry.pc + 4)]

/-- Every active lane takes the branch, or none does. -/
def State.agree (s : State) (taken : Mask) : Bool := s.mask &&& taken == 0 || s.mask &&& taken == s.mask

/-- BRA. -/
def execBra (u : BitVec 1) (disp : BitVec 17) (s : State) : Host.Outcome State Fault Refusal :=
  s.issue (fun _ => { legal := (Instr.bra u disp).wellFormed }) fun s => s.enterInvalid.moveTo (s.branchTarget disp)

/-- The lanes where a condition register is not zero. -/
def State.nonzero (s : State) (c : VOp) : Mask := maskOf fun L => lane (s.vec c) L != 0

/-- BNZ. -/
def execBnz (c : VOp) (u : BitVec 1) (disp : BitVec 17) (s : State) : Host.Outcome State Fault Refusal :=
  s.issue
    (fun s => { legal := (Instr.bnz c u disp).wellFormed, srcs := [{ op := c }], uniform := u == 0 || s.agree (s.nonzero c) })
    (fun s => s.enterInvalid.branch (s.nonzero c) disp)

/-- BZ. -/
def execBz (c : VOp) (u : BitVec 1) (disp : BitVec 17) (s : State) : Host.Outcome State Fault Refusal :=
  s.issue
    (fun s => { legal := (Instr.bz c u disp).wellFormed, srcs := [{ op := c }], uniform := u == 0 || s.agree (s.nonzero c) })
    (fun s => s.enterInvalid.branch (~~~ s.nonzero c) disp)

/-! ## Calls and returns (R160 to R162) -/

/-- The link value PC + 4 as a pair with tag RAW. -/
def State.link (s : State) (d : VOp) : Result :=
  let x : BitVec 64 := s.entry.pc + 4
  { dst := d, tag := .raw, lo := splat (x.setWidth 32), hi := some (splat ((x >>> 32).setWidth 32), .raw) }

/-- CALL. -/
def execCall (c : VOp) (disp : BitVec 17) (s : State) : Host.Outcome State Fault Refusal :=
  s.issue (fun _ => { legal := (Instr.call c disp).wellFormed, dsts := [{ op := c, count := 2 }] })
    fun s => (s.settle [] (s.resultEntry (s.link c))).moveTo (s.branchTarget disp)

/-- The active lanes grouped by the target in pair a, in ascending order of target. -/
def State.targets (s : State) (a : VOp) : List (Mask × BitVec 64) :=
  let ts := sortBy (fun x y => x.toNat ≤ y.toNat) (s.active.map fun L => s.pair a L).dedup
  ts.map fun t => (maskOf fun L => s.mask.getLsbD L && s.pair a L == t, t)

/-- ALIGN where an active target is misaligned; the fault address is that of the lowest such lane. -/
def State.targetAlign (s : State) (a : VOp) : Option Raise :=
  firstRaise (s.pair a) [(Code.align, maskOf fun L => s.mask.getLsbD L && bits (s.pair a L) 0 2 != 0)]

/-- JMPR. -/
def execJmpr (a : VOp) (da : BitVec 1) (s : State) : Host.Outcome State Fault Refusal :=
  let src : Src := { op := a, count := 2, dead := da == 1 }
  s.issue (fun s => { legal := (Instr.jmpr a da).wellFormed, srcs := [src], specific := s.targetAlign a })
    fun s => let ts := s.targets a; (s.settle [src] WinEntry.blank).split ts

/-- RET. -/
def execRet (a : VOp) (da : BitVec 1) (s : State) : Host.Outcome State Fault Refusal :=
  let src : Src := { op := a, count := 2, dead := da == 1 }
  s.issue (fun s => { legal := (Instr.ret a da).wellFormed, srcs := [src], specific := s.targetAlign a })
    fun s => let ts := s.targets a; (s.settle [src] WinEntry.blank).split ts

/-- The outcome of fetching CALLR's targets: the first fault, a wait, or the budget of each target (R162). -/
inductive TargetFetch where
  | bad (r : Raise)
  | stall
  | budgets (l : List Nat)
deriving DecidableEq, Repr

/-- The fetches of CALLR's targets in ascending order. A fault of a per-lane code is that of the lanes with the target (R176). -/
def State.fetchTargets (s : State) : List (Mask × BitVec 64) → State × TargetFetch
  | [] => (s, .budgets [])
  | t :: ts =>
    let f := s.fetch t.2
    match f.2 with
    | .bad c a => (f.1, .bad { code := c, lanes := if Code.perLane c then t.1 else s.mask, addr := a })
    | .stall => (f.1, .stall)
    | .word w =>
      let rest := f.1.fetchTargets ts
      match rest.2 with
      | .budgets l => (rest.1, .budgets (((blkOf w).map (·.2)).getD 0 :: l))
      | other => (rest.1, other)

/-- The outcome of checks 1 to 4 of R162: a fault, a wait, or the granules that the largest budget lacks. -/
inductive CallrCheck where
  | bad (r : Raise)
  | stall
  | lacks (granules : Nat)
deriving DecidableEq, Repr

/-- Checks 1 to 4 of R162. The address of BADTARGET is the first such target and that of BUDGET is 0: R162 gives neither (DESIGN CHOICE: log
44). -/
def State.callrCheck (s : State) (a : VOp) (grow : Bool) : CallrCheck :=
  match s.targetAlign a with
  | some r => .bad r
  | none =>
    match (s.fetchTargets (s.targets a)).2 with
    | .bad r => .bad r
    | .stall => .stall
    | .budgets l =>
      if l.contains 0 then
        .bad { code := Code.badtarget, lanes := s.mask,
               addr := ((((s.targets a).map (·.2)).zip l).find? fun p => p.2 == 0).elim 0 (·.1) }
      else
        let r := 8 * l.foldl max 0
        let h := 8 * s.warp.vvg - s.warp.wb
        let g := (r - h + 7) / 8
        if r ≤ h then .lacks 0
        else if grow && s.warp.vvg + g ≤ 32 then .lacks g
        else .bad { code := Code.budget, lanes := s.mask, addr := 0 }

/-- CALLR and CALLR.GROW. -/
def execCallr (d a : VOp) (da : BitVec 1) (f : BitVec 2) (s : State) : Host.Outcome State Fault Refusal :=
  let src : Src := { op := a, count := 2, dead := da == 1 }
  s.issue
    (fun s => { legal := (Instr.callr d a da f).wellFormed, srcs := [src], dsts := [{ op := d, count := 2 }],
                specific := match s.callrCheck a (f == 1) with | .bad r => some r | _ => none,
                retry := match s.callrCheck a (f == 1) with | .stall => true | _ => false })
    (fun s =>
      let ts := s.targets a
      let g := match s.callrCheck a (f == 1) with | .lacks g => g | _ => 0
      let s := (s.fetchTargets ts).1
      if g = 0 then (s.settle [src] (s.resultEntry (s.link d))).split ts
      else
        let r : PoolReq := .callr d (if da = 1 then some a else none) ts g
        let s := s.arbitrate
        if (s.poolQueue s.core.num).isEmpty && g ≤ s.freeGranules s.core.num then s.grantEnd r else s.holdAs (.pool r))

end Sys2Proof.Machine
end

