-- ==== Sys2Proof/Machine/Access.lean ====
section
/-! DEFINITION. Accesses to global memory: the checks of Table 12-2 (R218), loads and leases (R198, R202, R203), stores and write-backs
(R200, R201), the classes of Table 11-3, signatures (R362) and sampling (R376). -/

namespace Sys2Proof.Machine

/-! ## CRC-64 signatures (R357, R362) -/

def crcPoly : BitVec 64 := 0x42F0E1EBA9EA3693

def crcStep (c : BitVec 64) : Nat → BitVec 64
  | 0 => c
  | n + 1 => crcStep (if c.getLsbD 63 then (c <<< 1) ^^^ crcPoly else c <<< 1) n

/-- One byte, most significant bit first. -/
def crcByte (c : BitVec 64) (b : Byte) : BitVec 64 := crcStep (c ^^^ (b.setWidth 64 <<< 56)) 8

def crc64 (c : BitVec 64) (l : List Byte) : BitVec 64 := l.foldl crcByte c

/-- One group of a signature: virtual address, width, data (R362). -/
def crcGroup (c : BitVec 64) (va : BitVec 64) (data : List Byte) : BitVec 64 :=
  crc64 c (word8 va.toNat ++ [BitVec.ofNat 8 data.length] ++ data)

/-- A group comes before another in program order, and within an instruction in that of its lanes or addresses. -/
def SigGroup.before (a b : SigGroup) : Bool := a.stamp < b.stamp || (a.stamp == b.stamp && decide (a.key ≤ b.key))

/-- The signature of the warp with a number, from the groups of its team. -/
def signatureOf (owner : Nat) (l : List SigGroup) : Dword :=
  (sortBy SigGroup.before (l.filter fun g => g.owner == owner)).foldl (fun c g => crcGroup c g.va g.data) 0

/-! ## L1 lines -/

def Core.line? (c : Core) (line : Nat) : Option L1Line := c.lines.find? fun l => l.line == line

def Core.setLine (c : Core) (l : L1Line) : Core := { c with lines := l :: c.lines.filter fun x => x.line != l.line }

def Core.dropLine (c : Core) (line : Nat) : Core := { c with lines := c.lines.filter fun x => x.line != line }

/-- Bytes written into an L1 copy from an offset on; dirty where the line's class is written back (R207). -/
def L1Line.write (l : L1Line) (off : Nat) (data : List Byte) (dirty : Bool) : L1Line :=
  let m : BitVec 128 := BitVec.ofNat 128 ((2 ^ data.length - 1) * 2 ^ off)
  { l with
    data := (data.zip (List.range data.length)).foldl (fun v p => put v (off + p.2) p.1) l.data
    present := l.present ||| m
    dirty := if dirty then l.dirty ||| m else l.dirty }

/-- A warp has stored into a line whose dirty bytes were old before. -/
def L1Line.writtenBy (l : L1Line) (old : BitVec 128) (w : Nat × Nat) : L1Line :=
  { l with writers := if old = 0 then [w] else if l.writers.contains w then l.writers else w :: l.writers }

def L1Line.full (l : L1Line) : Bool := l.present == BitVec.allOnes 128

/-- The update that an access to the peer window carries. -/
def PeerOp.update? (p : PeerOp) : Option Update :=
  match p.what with
  | .update u | .report u _ _ _ _ => some u
  | _ => none

/-- The updates of a line that the L1 of the core in focus keeps, oldest first: those pending at the line's home, and those that a peer
has not acknowledged (R201, R360). -/
def State.keptUpdates (s : State) (line : Nat) : List Update :=
  ((s.homeLine line).pend ++ s.pkg.peers.filterMap PeerOp.update?).filter fun u =>
    u.kept && u.core == s.core.num && lineOf u.pa == line

/-- The updates of a line that paired and guarded teams of the core in focus hold, or have still to send (R363). -/
def State.heldUpdates (s : State) (line : Nat) : List Update :=
  (s.coreTeams s.core.num).flatMap fun t => (t.out ++ t.held).filter fun u => u.kept && lineOf u.pa == line

/-- n bytes of a line from an offset on. -/
def lineBytes (d : Vector Byte 128) (off n : Nat) : List Byte := (List.range n).map fun i => look d 0 (off + i)

/-- A line with bytes from an offset on. -/
def putBytesAt (d : Vector Byte 128) (off : Nat) (l : List Byte) : Vector Byte 128 :=
  (l.zip (List.range l.length)).foldl (fun v p => put v (off + p.2) p.1) d

/-- A line with a reduction performed on it. -/
def reduceAt (d : Vector Byte 128) (off k b : Nat) : Vector Byte 128 :=
  putBytesAt d off (leBytes (redNew k (leNat (lineBytes d off (redWidth k))) b) (redWidth k))

/-- The bytes of a line with an update on them. A reduction is there where its team holds it (R363; DEDUCED: log 76). -/
def overlayUpdate (line : Nat) (d : Vector Byte 128) (u : Update) : Vector Byte 128 :=
  let off := u.pa - 128 * line
  match u.kind with
  | .bytes l => putBytesAt d off l
  | .red k b => reduceAt d off k b.toNat
  | .masked l => (l.zip (List.range l.length)).foldl (fun v p => match p.1 with | some b => put v (off + p.2) b | none => v) d
  | .merge b k => put d off ((look d 0 off &&& ~~~k) ||| (b &&& k))
  | _ => d

def overlayAll (line : Nat) (us : List Update) (d : Vector Byte 128) : Vector Byte 128 := us.foldl (overlayUpdate line) d

def State.memLine (s : State) (line : Nat) : Vector Byte 128 :=
  ⟨(Memory.readBytes s.mem (128 * line) 128).toArray, by
    have h : ∀ n a, (Memory.readBytes s.mem a n).length = n := by
      intro n; induction n with
      | zero => intro a; rfl
      | succ n ih => intro a; simp [Memory.readBytes, ih]
    simp [h]⟩

/-! ## Write-backs (R207, R208, R212) -/

/-- The bytes of a line that are dirty. -/
def L1Line.dirtyBytes (l : L1Line) : List (Option Byte) :=
  (List.range 128).map fun i => if l.dirty.getLsbD i then some (look l.data 0 i) else none

/-- The data of a range may stay in the slices: not that of a range with NOALLOC, of a peer window, or of host lines over PCIe (R211, R245,
R360). -/
def sliceKeeps (r : Rat) (pa : Nat) : Bool :=
  !r.noalloc && (target pa == .hbm || (target pa == .host && Config.strapCxl))

/-- Misses of a line request of a range at an address count (R249): that of a privileged requester never does. -/
def countsMiss (r : Rat) (pa : Nat) (privileged : Bool) : Bool := r.count && target pa == .host && !privileged

/-- A new update of the warp in focus, not yet at its home. -/
def State.newUpdate (s : State) (va : BitVec 64) (pa : Nat) (kind : UpdateKind) (kept : Bool) : Update :=
  { uid := 0, core := s.core.num, team := s.team.handle, warp := s.warp.idx, ctx := s.ctx.id, pa := pa, va := va, kind := kind,
    kept := kept, tw := 0, alloc := sliceKeeps (s.rat s.ctx va) pa, counted := countsMiss (s.rat s.ctx va) pa s.privileged }

/-- An access to the peer window on behalf of a warp is sent (R360): it waits for the peer's answer or acknowledgement. -/
def State.peerAccess (s : State) (core team warp : Nat) (va : BitVec 64) (pa : Nat) (what : PeerWhat) : State :=
  { s with
    nextId := s.nextId + 1
    pkg := { s.pkg with peers := s.pkg.peers ++
      [{ id := s.nextId, port := pa / 2 ^ 48 % 16, core := core, team := team, warp := warp, va := va, pa := pa, what := what,
         sent := false }] } }

/-- An access of the warp in focus to the peer window. -/
def State.sendPeer (s : State) (va : BitVec 64) (pa : Nat) (what : PeerWhat) : State :=
  s.peerAccess s.core.num s.team.handle s.warp.idx va pa what

/-- An update goes to the peer, or arrives at its home and returns its tw. -/
def State.dispatch (s : State) (u : Update) : State × Nat :=
  if target u.pa = .peer then (s.peerAccess u.core u.team u.warp u.va u.pa (.update u), 0) else s.arrive u

/-- The current translation of a line: the address at which it is written back, if it has write permission (R212, R252). -/
def State.backPa (s : State) (l : L1Line) : Option Nat :=
  match s.walk (s.ctxOf l.ctx) l.va with
  | .leaf pte _ level => if pteBit pte 2 then some (leafBase pte + l.va.toNat % leafSize pte level) else none
  | _ => none

/-- The page of a line is mapped. -/
def State.backMapped (s : State) (l : L1Line) : Bool :=
  match s.walk (s.ctxOf l.ctx) l.va with
  | .leaf _ _ _ => true
  | _ => false

/-- The walk of a write-back by the core in focus, whose reads the homes of the PTEs log (R377), sets A and D in the line's PTE, as that of any
write (R242, R243); none while its compare-and-swap has to wait. -/
def State.markDirty (s : State) (l : L1Line) : Option State :=
  let core := logCore s.core.num
  let s := s.beforeWalk (s.ctxOf l.ctx) l.va core
  match s.walk (s.ctxOf l.ctx) l.va with
  | .leaf pte ptePa _ =>
    let pte' : Dword := pte ||| 0xC0#64
    if pte' = pte then some s else s.swapPte core ptePa pte'
  | _ => some s

/-- The write-back of a line waits for the home of a PTE (R206, R243). -/
def State.backWaits (s : State) (l : L1Line) : Bool := !s.walkOpen (s.ctxOf l.ctx) l.va || ((s.backPa l).isSome && (s.markDirty l).isNone)

/-- The write-back of a line stalls: its range is write-blocked for the core in focus (R252), or its walk waits. -/
def State.backBlocked (s : State) (l : L1Line) : Bool := (s.rat (s.ctxOf l.ctx) l.va).wblock || s.backWaits l

/-- The warps of a list, as pairs of team and index, have written to the host, where an address is one of its (R204). -/
def State.noteHost (s : State) (ws : List (Nat × Nat)) (pa : Nat) : State :=
  if target pa = .host then s.mapWarps fun w => if ws.contains (w.team, w.idx) ∧ w.gone = false then { w with hostWritten := true } else w
  else s

/-- The update that writes a line back at an address: one of the line's own context (R208). -/
def State.backUpdate (s : State) (l : L1Line) (pa : Nat) : Update :=
  let r := s.rat (s.ctxOf l.ctx) l.va
  { s.newUpdate l.va pa (.masked l.dirtyBytes) true with
    ctx := l.ctx, alloc := sliceKeeps r pa, counted := countsMiss r pa s.privileged, writers := l.writers }

/-- A write-back by no instruction: its tw enters no WCT, its warp is none, and a miss of it counts for none (R249). -/
def State.sendBack (s : State) (l : L1Line) : State :=
  match s.backPa l with
  | none => s
  | some pa =>
    if l.dirty = 0 then s
    else
      ((((s.markDirty l).getD s).noteHost l.writers pa).dispatch { s.backUpdate l pa with team := 0, warp := 0, counted := false }).1

/-! ## The lines of an L1 (R3, R198, R207) -/

/-- Lines that an L1 holds at most: 256 KiB (R3). -/
def l1Lines : Nat := 2048

/-- The L1 can give a line up: it is clean, or can be written back now. -/
def State.canEvict (s : State) (l : L1Line) : Bool :=
  !l.pinned && (l.dirty == 0 || ((s.backPa l).isSome && !s.backBlocked l))

/-- The L1 gives up a line, with its dirty bytes written back. -/
def State.evictLine (s : State) (l : L1Line) : State := ({ s with core := s.core.dropLine l.line } : State).sendBack l

/-- The L1 has room for a line, once it has given up the one that it filled or wrote least recently (DESIGN CHOICE: log 75); none where it
can give up none. -/
def State.makeRoom (s : State) (line : Nat) : Option State :=
  if (s.core.line? line).isSome || s.core.lines.length < l1Lines then some s
  else (s.core.lines.reverse.find? s.canEvict).map s.evictLine

/-- The L1 keeps a line, if it has room. -/
def State.fillLine (s : State) (l : L1Line) : State :=
  match s.makeRoom l.line with
  | some t => { t with core := t.core.setLine l }
  | none => s

/-- A line of the L1 that holds no byte yet. -/
def State.emptyLine (s : State) (line : Nat) (va : BitVec 64) (cls : Nat) : L1Line :=
  { line := line, ctx := s.ctx.id, va := va &&& ~~~0x7F#64, data := Vector.replicate 128 0, present := 0, dirty := 0, expiry := none,
    cls := cls, pinned := false }

/-! ## Loads (R198, R202) -/

/-- What a home serves to the core in focus at GTC: the line with its pending updates due performed; none while another
agent holds it exclusively (R206). The request is logged with its requester (Table 25-4), and counted where it misses and counted allows it
(R249). -/
def State.homeServe (s : State) (line : Nat) (r : Rat) (va : BitVec 64) (counted : Bool := true) (asker : Nat := 0) : Option State :=
  let s := s.settleHome line
  let h := s.homeLine line
  if h.excl.isSome then none
  else
    let hit := h.cached
    let s := (if sliceKeeps r (128 * line) then s.cacheLine line else s.setHomeLine { h with cached := false }).slog line 0 hit
      (logCore s.core.num) asker
    some (if !hit && countsMiss r (128 * line) (!counted) then s.countMiss s.ctx.id (128 * line) va s.core.num else s)

/-- What an L1 hit of the core in focus returns: a valid line with what the core's teams hold on it. -/
def State.l1Hit (s : State) (line : Nat) : Option (Vector Byte 128) :=
  match s.core.line? line with
  | some l =>
    if l.full && (match l.expiry with | some e => s.gtc < e | none => l.cls != 0) then some (overlayAll line (s.heldUpdates line) l.data)
    else none
  | none => none

/-- A line's data d arrives from its home or from a peer for the core in focus: its kept stores lie over it, and the L1 is filled as its
class says (R198, R201, R207, R360). -/
def State.fillFrom (s : State) (line : Nat) (va : BitVec 64) (r : Rat) (d : Vector Byte 128) : State × Vector Byte 128 :=
  let d := overlayAll line (s.keptUpdates line) d
  let held := s.heldUpdates line
  if r.cls = 0 then
    let h := s.homeLine line
    let e := (h.pend.map (·.tw)).foldl (fun m t => min m (t - 4)) (s.gtc + r.lease)
    if r.lease = 0 ∨ e ≤ s.gtc ∨ target (128 * line) = .peer then (s, overlayAll line held d)
    else match s.makeRoom line with
      | none => (s, overlayAll line held d)
      | some s =>
        let l := { s.emptyLine line va 0 with data := d, present := BitVec.allOnes 128, expiry := some e }
        let h := s.homeLine line
        ({ (s.setHomeLine { h with lmax := max h.lmax (e + 4) }) with core := s.core.setLine l }, overlayAll line held d)
  else
    let old := (s.core.line? line).getD (s.emptyLine line va r.cls)
    let merged : Vector Byte 128 :=
      ⟨((List.range 128).map fun i => if old.present.getLsbD i then look old.data 0 i else look d 0 i).toArray, by simp⟩
    (s.fillLine { old with data := merged, present := BitVec.allOnes 128 }, overlayAll line held merged)

/-- A line of free bytes (log 6). -/
def State.freeLine (s : State) : State × Vector Byte 128 :=
  ({ s with free := s.free + 128 }, ⟨((List.range 128).map fun i => (Config.freeDword (s.free + i)).setWidth 8).toArray, by simp⟩)

/-- The bytes of a line that a load of the core in focus reads (R198, R207); none while the home cannot answer, and where only a peer
can. -/
def State.readLine (s : State) (line : Nat) (va : BitVec 64) (counted : Bool := true) (asker : Nat := 0) : Option (State × Vector Byte 128) :=
  match s.l1Hit line with
  | some d => some (s, d)
  | none =>
    if target (128 * line) = .peer then none
    else
      let r := s.rat s.ctx va
      (s.homeServe line r va counted asker).map fun s => s.fillFrom line va r (s.memLine line)

/-! ## Checks of Table 12-2 -/

structure Xlated where
  lane : Nat
  va : BitVec 64
  out : Xlat
  rat : Rat

/-- Every lane's address is translated before any check (R218), through a load pipe of the core. -/
def State.translateAll (s : State) (k : Access) (priv : Bool) (l : List (Nat × BitVec 64)) (pipe : Nat := 0) : State × List Xlated :=
  match l with
  | [] => (s, [])
  | (L, va) :: rest =>
    let x := s.translate s.ctx k priv va pipe
    let r := x.1.translateAll k priv rest pipe
    (r.1, { lane := L, va := va, out := x.2, rat := s.rat s.ctx va } :: r.2)

/-- The code of the row of Table 12-2 that a lane fails, by row. -/
def State.failsRow (s : State) (width : Nat) (x : Xlated) : Nat → Option (BitVec 16 × BitVec 64)
  | 1 => if x.va.toNat % width ≠ 0 then some (Code.align, x.va) else none
  | 2 => if x.out = .page then some (Code.page, x.va) else none
  | 3 => match x.out with
    | .access => some (Code.access, x.va)
    | .ok pa => if s.peerGone pa then some (Code.access, x.va) else none
    | _ => none
  | 4 => if x.rat.cls = 3 ∨ (x.rat.cls = 2 ∧ x.rat.owner ≠ s.core.num) then some (Code.coherence, x.va) else none
  | 5 => match x.out with
    | .lost a => some (Code.hostlost, a)
    | .ok pa => if target pa = .host ∧ s.hostGone then some (Code.hostlost, x.va) else none
    | _ => none
  | _ => none

/-- The outcome of the checks: a fault, a wait for TRANSIT, WBLOCK or a walk (R210, R218, R252), or the lanes with their addresses. -/
inductive Checked where
  | raise (r : Raise)
  | stall
  | ok (lanes : List LaneLoad)

/-- The code of the row that a lane fails. spared tells that the access is a write of a service team, which after link loss is discarded where
it reaches host memory, and does not fail (R354). -/
def State.failsUnspared (s : State) (spared : Bool) (width : Nat) (x : Xlated) (row : Nat) : Option (BitVec 16 × BitVec 64) :=
  match x.out with
  | .ok _ => if spared && row == 5 then none else s.failsRow width x row
  | _ => s.failsRow width x row

/-- The first row that any lane fails, with the lanes that fail it and the lowest one's address (R218). -/
def State.accessRaise (s : State) (width : Nat) (xs : List Xlated) (spared : Bool := false) : Option Raise :=
  ([1, 2, 3, 4, 5] : List Nat).findSome? fun row =>
    let bad := xs.filterMap fun x => (s.failsUnspared spared width x row).map fun f => (x.lane, f)
    match bad with
    | [] => none
    | (_, f) :: _ => some { code := f.1, lanes := maskOf fun L => bad.any fun b => b.1 == L, addr := f.2 }

/-- The checks of Table 12-2 on the accesses of the warp in focus, in ascending lane order. red tells that they are a RED's. -/
def State.check (s : State) (k : Access) (width : Nat) (lanes : List (Nat × BitVec 64)) (red : Bool := false) : State × Checked :=
  let x := (s.useRat s.ctx).translateAll k s.privileged lanes
  if x.2.any fun x => x.out == .wait then (x.1, .stall)
  else match x.1.accessRaise width x.2 (s.team.service && (k == .store || red)) with
  | some r => (x.1, .raise r)
  | none =>
    if x.2.any fun x => x.rat.transit || (k.writes && x.rat.wblock) then (x.1, .stall)
    else (x.1, .ok (x.2.filterMap fun x => match x.out with
      | .ok pa => some { lane := x.lane, va := x.va, pa := pa }
      | _ => none))

/-! ## Sampling (R376) -/

/-- Where the instruction of the warp in focus issues. -/
def State.originOf (s : State) (opcode : Nat) : Origin :=
  { pc := s.entry.pc, rgn := s.warp.rgn.take 4, warp := s.warp.idx, opcode := opcode, gtc := s.gtc }

/-- The line of a virtual address by its cached translation. -/
def Core.cachedLine (c : Core) (ctx : Nat) (va : BitVec 64) : Option Nat :=
  (c.tlb.find? fun t => t.ctx == ctx && decide (t.va ≤ va.toNat) && decide (va.toNat < t.va + t.size)).map
    fun t => lineOf (t.pa + (va.toNat - t.va))

/-- The mark of a line request with the hops that it passes through (Table 25-3): a combining switch where it is a contribution; the other
hops where the L1 sends it on, which it does not where it has the line of a load, where a store stays in it, and where a CP range's owner executes an
ATOM or RED in it (R206): a die link to another die, the home slice of a line that no peer holds, and a memory controller for an HBM
line that the slice does not hold. -/
def State.markOf (s : State) (o : Origin) (k : Access) (red : Bool) (line : BitVec 64) : Mark :=
  let pa := s.core.cachedLine s.ctx.id line
  let away : Bool := match pa with
    | none => false
    | some l => match k with
      | .load => (s.l1Hit l).isNone
      | .store => (s.rat s.ctx line).cls == 0
      | _ => let r := s.rat s.ctx line; red || r.cls != 2 || (target (128 * l) == .host && r.route != 0)
  let on (f : Nat → Bool) : Bool := away && pa.any f
  { origin := o, line := line, ctx := s.ctx.id, team := s.team.handle, pa := pa, switch := red
    link := on fun l => target (128 * l) != .peer && homeDie l != dieOfCore s.core.num
    slice := on fun l => target (128 * l) != .peer
    memory := on fun l => target (128 * l) == .hbm && !(s.homeLine l).cached
    sent := s.nextId }

/-- The line requests of an instruction, or of what it has forked, are counted for its context; the SAMPN-th is marked. -/
def State.sampleFor (s : State) (o : Origin) (k : Access) (vas : List (BitVec 64)) (red : Bool := false) : State :=
  if s.team.service ∨ s.ctx.sampn = 0 then s
  else
    let step (s : State) (line : BitVec 64) : State :=
      let n := ((s.core.counts.find? fun c => c.1 == s.ctx.id).elim 0 (·.2)) + 1
      let hit := s.ctx.sampn.toNat ≤ n
      let rest := s.core.counts.filter fun c => c.1 != s.ctx.id
      { s with core := { s.core with
          counts := (s.ctx.id, if hit then 0 else n) :: rest
          marks := if hit then s.core.marks ++ [s.markOf o k red line] else s.core.marks } }
    (vas.map fun a => a &&& ~~~0x7F#64).dedup.foldl step s

/-- The line requests of an instruction that acts on memory itself. -/
def State.sample (s : State) (opcode : Nat) (k : Access) (vas : List (BitVec 64)) : State := s.sampleFor (s.originOf opcode) k vas

/-! ## Stores -/

/-- Max of a time into the WCT of the warp in focus (R200). -/
def State.foldWct (s : State) (tw : Nat) : State := { s with warp := { s.warp with wct := max s.warp.wct tw } }

/-- The team's updates are held back (R363, R365). -/
def Team.holds (t : Team) : Bool := t.paired || t.guarded

/-- The L1 of the core in focus writes an update into its own copy of the line and leaves the lease unchanged (R201). -/
def State.writeOwn (s : State) (u : Update) : State :=
  match s.core.line? (lineOf u.pa) with
  | some l =>
    let l' : L1Line := match u.kind with
      | .bytes d => l.write (u.pa % 128) d false
      | _ => { l with data := overlayUpdate l.line l.data u }
    { s with core := { s.core with lines := s.core.lines.map fun x => if x.line = l.line then l' else x } }
  | none => s

/-- The number that stands for every warp of a team, in an update whose tw any of them may have to wait for. -/
def anyWarp : Nat := 32

/-- An update of a warp of the core in focus, or of its operation, is sent: its core keeps it, and its warp has written to the host where it
goes there (R201, R204). -/
def State.sendUpdate (s : State) (u : Update) : State × Nat :=
  let wrote (w : Warp) : Warp := { w with hostWritten := true }
  let s := if target u.pa ≠ .host then s
    else if u.who = 0 ∧ u.warp ≠ anyWarp then s.onWarp u.team u.warp wrote else s.onTeamWarps u.team wrote
  (if u.kept then s.writeOwn u else s).dispatch u

/-- The team in focus holds an update, under a number by which those that load it know it (R205, R363, R365). Loads of the core see it, a RED
among them, as a kept store. -/
def State.holdUpdate (s : State) (u : Update) : State :=
  { s with nextId := s.nextId + 1, team := { s.team with held := s.team.held ++ [{ u with uid := s.nextId, kept := true }] } }

/-- An update of the warp in focus is sent, and the warp takes its tw (R200). -/
def State.sendOwn (s : State) (u : Update) : State :=
  let a := s.sendUpdate u
  a.1.foldWct a.2

/-- An update leaves the warp in focus, or its team holds it (R363, R365). -/
def State.emit (s : State) (u : Update) : State := if s.team.holds then s.holdUpdate u else s.sendOwn u

/-- A write that the warp in focus makes adds a group to its signature, if its team is paired (R362). -/
def State.signStore (s : State) (a : LaneLoad) (data : List Byte) : State :=
  if s.team.paired then
    { s with warp := { s.warp with sig := s.warp.sig ++ [{ owner := s.warp.uid, stamp := s.nextId, key := a.lane, va := a.va, data := data }] } }
  else s

/-- The store of one lane (R201, R207, R226): kept and sent to its home on an HC line, written dirty into the L1 on an SC or CP line. A
team that holds its updates holds those of every class, and a full L1 sends the bytes on (DEDUCED: log 76). What a service team stores to
host memory after link loss is discarded (R354). -/
def State.storeLane (s : State) (a : LaneLoad) (data : List Byte) : State :=
  if target a.pa = .host ∧ s.hostGone then s
  else
  let r := s.rat s.ctx a.va
  let line := lineOf a.pa
  let s := s.signStore a data
  let u := s.newUpdate a.va a.pa (.bytes data) true
  if r.cls = 0 ∨ s.team.holds then s.emit u
  else match s.makeRoom line with
    | none => s.emit u
    | some s =>
      let l := (s.core.line? line).getD (s.emptyLine line a.va r.cls)
      ({ s with core := s.core.setLine ((l.write (a.pa % 128) data true).writtenBy l.dirty (s.team.handle, s.warp.idx)) } : State).noteHost
        [(s.team.handle, s.warp.idx)] a.pa

/-- A line is written back by the warp in focus and stays clean (R208). A team that holds its updates has no dirty line of its own, so that a
write-back is never held (R363; DEDUCED: log 76). -/
def State.writeBackLine (s : State) (l : L1Line) : State :=
  match s.backPa l with
  | none => s
  | some pa =>
    ({ ((s.markDirty l).getD s).noteHost l.writers pa with core := s.core.setLine { l with dirty := 0, pinned := false } } : State).sendOwn
      (s.backUpdate l pa)

/-- How far the write-back of a list of lines has come. -/
inductive WriteBack where
  | done (s : State)
  | stall (s : State)
  | raise (s : State) (r : Raise)

/-- The lines of a list are written back. A line of a write-blocked range stalls the instruction before any is written (R252); lines
without permission are pinned, and the lowest one faults with COHERENCE (R212). -/
def State.writeBackAll (s : State) (ls : List L1Line) : WriteBack :=
  if ls.any s.backBlocked then .stall s
  else
    let bad := ls.filter fun l => (s.backPa l).isNone
    let t := (ls.filter fun l => (s.backPa l).isSome).foldl State.writeBackLine s
    match bad with
    | [] => .done t
    | b :: rest =>
      let low := rest.foldl (fun m l => if l.va < m then l.va else m) b.va
      .raise { t with core := bad.foldl (fun c l => c.setLine { l with pinned := true }) t.core }
        { code := Code.coherence, lanes := t.mask, addr := low }

/-- An update of the warp in focus itself, or one that every warp of its team waits for. -/
def State.mine (s : State) (u : Update) : Bool :=
  u.team == s.team.handle && u.who == 0 && (u.warp == s.warp.idx || u.warp == anyWarp)

/-- An update of the warp in focus is still to be performed or, of those that its team held, to be sent, or a peer access of it to be
acknowledged. -/
def State.outstanding (s : State) : Bool :=
  (s.team.out.any s.mine) ||
  (s.home.any fun h => h.pend.any s.mine) ||
  s.pkg.peers.any fun p => match p.what with
    | .update u => s.mine u
    | _ => p.team == s.team.handle && p.warp == s.warp.idx

/-- Every earlier load of the warp has been performed. -/
def Warp.loadsDone (w : Warp) : Bool := w.slots.toList.all fun x => x.todo.isEmpty

end Sys2Proof.Machine
end

