-- ==== Sys2Proof/Machine/Loads.lean ====
section
/-! DEFINITION. Decoupled loads (R219 to R221), SLD (R127), LDS and STS with the range scoreboard (R130 to R134, R268), and the
service of load requests by the homes (R198, R202). -/

namespace Sys2Proof.Machine

/-! ## Scratchpad -/

/-- Row length in scratchpad bytes (R266). -/
def CopyDesc.rowBytes (d : CopyDesc) (red : Bool) : Nat :=
  if d.stag == d.dtag || red then d.len
  else (d.len * Tag.width (if d.dir then d.stag else d.dtag) + 7) / 8

/-- The hull of a copy: first byte and the byte after its last (R266). It is empty if there is nothing to move. -/
def CopyDesc.hull (d : CopyDesc) (red : Bool) : Nat × Nat :=
  if d.rows = 0 ∨ d.len = 0 then (0, 0) else (d.soff, d.soff + (d.rows - 1) * d.sstride + d.rowBytes red)

def CopyOp.hull (c : CopyOp) : Nat × Nat := c.desc.hull c.red

/-- A word of the scratchpad meets a hull. -/
def meets (h : Nat × Nat) (a : Nat) : Bool := h.1 < a + 4 && a < h.2

/-- The range scoreboard holds an access to a word (R133). -/
def CopyOp.holds (c : CopyOp) (store : Bool) (a : Nat) : Bool :=
  c.range && meets c.hull a && (if c.desc.dir then store && !c.srcRead else !c.moved)

def State.scoreboard (s : State) (store : Bool) (a b : VOp) : Bool :=
  s.active.any fun L => s.team.copies.any fun c => c.holds store (s.scratchAddr a b L).toNat

/-- LDS (R130): the words are read at issue, and the result is produced later (R134). -/
def execLds (d a b : VOp) (k : BitVec 4) (s : State) : Host.Outcome State Fault Refusal :=
  s.issueNext
    (fun s => { legal := (Instr.lds d a b k).wellFormed, srcs := [{ op := a }, { op := b }], dsts := [{ op := d }],
                tagsOk := s.offsetTag b, specific := s.scratchCheck a b, retry := s.scoreboard false a b })
    (fun s => s.settle [] (s.resultEntry
      { dst := d, tag := .i32, lo := lanesOf fun L => s.team.scratchWord (s.scratchAddr a b L).toNat, long := true, look := some k }))

/-- STS (R130): the highest active lane that writes a word leaves its value. -/
def execSts (d a b : VOp) (s : State) : Host.Outcome State Fault Refusal :=
  s.issueNext
    (fun s => { legal := (Instr.sts d a b).wellFormed, srcs := [{ op := d }, { op := a }, { op := b }],
                tagsOk := s.offsetTag b, specific := s.scratchCheck a b, retry := s.scoreboard true a b })
    (fun s =>
      let t := s.active.foldl (fun t L => t.setScratch (s.scratchAddr a b L).toNat (lane (s.vec d) L)) s.team
      ({ s with team := t } : State).enterInvalid)

/-! ## Forking a load -/

/-- The register number that a slot records: an absolute main-file register, a scalar, or 256 plus a VT row; an SLD's D may also be the literal
register, the scalar cc or void (R49, log 112). -/
def slotDest : Place → Nat
  | .reg r => r
  | .scalar r => r
  | .row r => 256 + r
  | .lit => litNo
  | .scc => sccNo
  | _ => voidNo

def Warp.setSlot (w : Warp) (k : Nat) (x : Slot) : Warp := { w with slots := put w.slots k x }

def Warp.land (w : Warp) (k : Nat) : Slot := look w.slots Slot.blank k

/-- A destination of the scalar side becomes PENDING (R63, R127). -/
def Warp.awaitScalar (w : Warp) (r : Nat) : Warp := { w with spend := r :: w.spend.filter (· != r) }

/-- A decoupled load names a main-file register: its live results stop being live and it becomes PENDING (R53, R63). A row of the VT view is not
marked; R63 speaks of registers (DESIGN CHOICE: log 85). -/
def Warp.awaitLoad (w : Warp) (p : Place) : Warp :=
  match p with
  | .reg r => (w.killReg r).setPending r true
  | .scalar r => w.awaitScalar r
  | .lit => w.awaitScalar litNo
  | .scc => w.awaitScalar sccNo
  | _ => w

/-- The tile of a destination that is a row of the VT view (R47). -/
def State.slotTile (s : State) : Place → Nat
  | .row _ => s.warp.vtsel
  | _ => 0

/-- The helper Landing: slot k waits for the data of lanes (R63). -/
def State.landing (s : State) (k : Nat) (kind : SlotKind) (ps : List Place) (lanes : List LaneLoad) : State :=
  let w := ps.foldl Warp.awaitLoad s.warp
  let slot : Slot :=
    { (w.land k) with
      state := .inflight, kind := kind, dest := slotDest (ps.headD .void), mask := s.mask, todo := lanes, addrs := lanes,
      poisoned := 0, lost := 0, order := s.nextId, tile := s.slotTile (ps.headD .void) }
  { s with warp := w.setSlot k slot, nextId := s.nextId + 1 }

/-- Loads of the peer window are sent to the peer, one for each line (R202, R360). -/
def State.sendLoads (s : State) (k : Nat) (lanes : List LaneLoad) : State :=
  ((lanes.filter fun l => target l.pa == .peer).map fun l => lineOf l.pa).dedup.foldl (fun s line =>
    match lanes.find? fun l => lineOf l.pa == line with
    | some l => s.sendPeer (l.va &&& ~~~0x7F#64) (128 * line) (.load k)
    | none => s) s

/-- Base plus per-lane offset (R216). -/
def State.based (s : State) (a b : VOp) (L : Nat) : BitVec 64 := s.pair a s.firstLane + (lane (s.vec b) L).setWidth 64

/-- The operands of a load of n registers. -/
def loadUses (i : Instr) (d a b : VOp) (n k : Nat) : Uses :=
  { legal := i.wellFormed, srcs := [{ op := a, count := 2 }, { op := b }], dsts := [{ op := d, count := n }], slot := some k }

/-- LDG of n registers a lane into slot k (R220). -/
def State.load (s : State) (i : Instr) (opcode : Nat) (d a b : VOp) (n k : Nat) (kind : SlotKind) :
    Host.Outcome State Fault Refusal :=
  s.attempt (fun _ => loadUses i d a b n k) fun s =>
    let addrs := s.active.map fun L => (L, s.based a b L)
    let c := s.check .load (4 * n) addrs
    match c.2 with
    | .raise r => .raise s r
    | .stall => .wait c.1 false
    | .ok lanes =>
      let ps := (List.range n).map fun j => s.place d j
      .done ((((c.1.landing k kind ps lanes).sendLoads k lanes).sample opcode .load (addrs.map (·.2))).enterInvalid.advance)

/-- LDG.W. -/
def execLdgW (d a b : VOp) (k : BitVec 4) (s : State) : Host.Outcome State Fault Refusal :=
  s.load (.ldgW d a b k) 0x70 d a b 1 k.toNat .w

/-- LDG.D. -/
def execLdgD (d a b : VOp) (k : BitVec 4) (s : State) : Host.Outcome State Fault Refusal :=
  s.load (.ldgD d a b k) 0x71 d a b 2 k.toNat .d

/-- LDG.Q. -/
def execLdgQ (d a b : VOp) (k : BitVec 4) (s : State) : Host.Outcome State Fault Refusal :=
  s.load (.ldgQ d a b k) 0x72 d a b 4 k.toNat .q

/-- The address of SLD and SST. -/
def State.sbased (s : State) (a b : SOp) : BitVec 64 := s.scPair a + (s.sc b).setWidth 64

/-- SLD (R127): one lane of LDG.W. Its word stands in the slot for the lowest lane active at issue, which is also the faulting lane of a COMMIT
that finds it poisoned or lost; the spec does not say which lane (DESIGN CHOICE: log 116). -/
def execSld (d a b : SOp) (k : BitVec 4) (s : State) : Host.Outcome State Fault Refusal :=
  s.attempt
    (fun _ => { legal := (Instr.sld d a b k).wellFormed, ssrcs := [{ op := a, count := 2 }, { op := b }], sdsts := [{ op := d }],
                slot := some k.toNat })
    fun s =>
      let addrs := [(s.firstLane, s.sbased a b)]
      let c := s.check .load 4 addrs
      match c.2 with
      | .raise r => .raise s { r with lanes := s.mask }
      | .stall => .wait c.1 false
      | .ok lanes =>
        .done ((((c.1.landing k.toNat .scalar [s.splace d] lanes).sendLoads k.toNat lanes).sample 0x37 .load (addrs.map (·.2))).enterInvalid.advance)

/-! ## Serving loads -/

/-- Bytes of a lane of a slot by kind. -/
def SlotKind.bytes : SlotKind → Nat
  | .d => 8
  | .q | .trace => 16
  | _ => 4

/-- Data of one lane of a slot. -/
def Slot.put (x : Slot) (L : Nat) (data : List Byte) : Slot :=
  let word (j : Nat) : Word := BitVec.ofNat 32 (leNat ((data.drop (4 * j)).take 4));
  { x with
    data := ⟨((List.range 4).map fun j =>
      let old := look x.data (splat 0) j
      if 4 * j < data.length then lanesOf fun M => if M = L then word j else lane old M else old).toArray, by simp⟩
    todo := x.todo.filter fun l => l.lane != L }

/-- A reduction, of a warp or at its home. -/
def Update.isRed (u : Update) : Bool :=
  match u.kind with
  | .red _ _ | .reds _ _ => true
  | _ => false

/-- An ATOM or RED that warp w of team h issued before a stamp, on one of the lines, is still to be performed. What the warp forks after
it observes it (R8), also once the warp has departed. -/
def State.owes (s : State) (h w stamp : Nat) (on : Nat → Bool) : Bool :=
  ((s.core :: s.cores).any fun c => c.atoms.any fun a =>
    a.team == h && (a.warp == w || a.warp == anyWarp) && a.who == 0 && decide (a.id < stamp) && a.lanes.any fun l => on (lineOf l.pa)) ||
  (s.home.any fun x => on x.line && x.pend.any fun u =>
    u.team == h && u.warp == w && u.who == 0 && decide (u.uid < stamp) && u.isRed && (decide (s.gtc < u.tw) || x.excl.isSome)) ||
  s.pkg.peers.any fun p => p.team == h && p.warp == w && decide (p.id < stamp) && on (lineOf p.pa) && p.update?.any fun u => u.isRed && u.who == 0

/-- The loads of a line that slot k still waits for, if it is INFLIGHT. -/
def Slot.on (x : Slot) (line : Nat) : List LaneLoad :=
  if x.state = .inflight ∧ x.kind ≠ .trace then x.todo.filter fun l => lineOf l.pa == line else []

/-- The slots of a warp that wait for a line, in the order of their loads (R203). -/
def Warp.slotsOn (w : Warp) (line : Nat) : List Nat :=
  sortBy (fun a b => (w.land a).order ≤ (w.land b).order) ((List.range 16).filter fun k => !((w.land k).on line).isEmpty)

/-- Every lane of slot k of the warp in focus that reads a line is served by one answer d (R202); the lanes of a poisoned line are marked
poisoned (R221). The warp has then seen the stores of the core that were kept for the line, and those that other teams hold (R205). -/
def State.landLine (s : State) (k line : Nat) (d : Vector Byte 128) : State :=
  let x := s.warp.land k
  let mine := x.on line
  let m := maskOf fun L => mine.any fun l => l.lane == L
  let x := mine.foldl (fun (x : Slot) (l : LaneLoad) => x.put l.lane (lineBytes d (l.pa % 128) x.kind.bytes)) x
  let x := { x with poisoned := if s.poison.contains line then x.poisoned ||| m else x.poisoned }
  let w := s.warp.setSlot k x
  let others := (s.heldUpdates line).filter fun u => u.team != s.team.handle
  { s with warp := { w with
      seenHeld := w.seenHeld ++ (others.map (·.uid)).filter fun n => !w.seenHeld.contains n
      seen := ((s.homeLine line).pend.filter fun u => u.kept && u.core == s.core.num).foldl (fun t u => max t u.tw) w.seen
      seenPeer := (s.pkg.peers.filter fun p => p.core == s.core.num && lineOf p.pa == line && p.update?.any (·.kept)).foldl
        (fun t p => max t p.id) w.seenPeer } }

/-- The lanes of slot k that read a line get no data: the host link is lost (R221). -/
def State.loseLine (s : State) (k line : Nat) : State :=
  let x := s.warp.land k
  let m := maskOf fun L => (x.on line).any fun l => l.lane == L
  { s with warp := s.warp.setSlot k { x with todo := x.todo.filter fun l => !m.getLsbD l.lane, lost := x.lost ||| m } }

/-- One slot of the warp in focus is served for a line; none while the home cannot answer, while only a peer can, and while an earlier ATOM
or RED of the warp on the line is still to be performed (R8). -/
def State.serveLine (s : State) (k line : Nat) : Option State :=
  match (s.warp.land k).on line with
  | [] => some s
  | first :: _ =>
    let s := s.settleHome line
    if s.owes s.team.handle s.warp.idx (s.warp.land k).order (· == line) then none
    else if target first.pa = .host ∧ s.hostGone then some (s.loseLine k line)
    else (s.readLine line first.va (!s.privileged)).map fun r => r.1.landLine k line r.2

/-- The slots of a list are served for a line in turn. -/
def State.serveSlots (s : State) (line : Nat) : List Nat → Option State
  | [] => some s
  | k :: rest => match s.serveLine k line with
    | none => none
    | some s => s.serveSlots line rest

/-- Slot k is served for a line, after the earlier loads of the line by its warp (R203). -/
def State.serveUpTo (s : State) (k line : Nat) : Option State :=
  s.serveSlots line ((s.warp.slotsOn line).filter fun j => (s.warp.land j).order ≤ (s.warp.land k).order)

/-- Every line that slot k still waits for is served. -/
def State.serveSlot (s : State) (k : Nat) : List Nat → Option State
  | [] => some s
  | line :: rest => match s.serveUpTo k line with
    | none => none
    | some s => s.serveSlot k rest

/-- The oldest load of a line by a warp is served, if it has one and the home can answer. -/
def State.serveWarp (s : State) (line : Nat) (w : Warp) : Option State :=
  match (w.slotsOn line).head?, s.focusOn w.team w.idx with
  | some k, some t => t.serveLine k line
  | _, _ => none

/-- HOME_LOAD_SERVE (R198): the home of a line answers a core; the oldest load of the line by one of its warps is served. -/
def execHomeLoadServe (core line : Nat) (s : State) : Host.Outcome State Fault Refusal :=
  match (s.coreWarps core).findSome? (s.serveWarp line) with
  | some t => .next t.wake
  | none => .fault .cannotHappen

/-- LOAD_LANDING (R62): all data of slot arrives, and it becomes LANDED. -/
def execLoadLanding (h w : Nat) (slot : BitVec 4) (s : State) : Host.Outcome State Fault Refusal :=
  match s.focusOn h w with
  | none => .fault .cannotHappen
  | some s =>
    let x := s.warp.land slot.toNat
    if x.state = .inflight ∧ x.kind ≠ .trace then
      match s.serveSlot slot.toNat (x.todo.map fun l => lineOf l.pa).dedup with
      | none => .fault .cannotHappen
      | some s => .next ({ s with
          warp := s.warp.setSlot slot.toNat { s.warp.land slot.toNat with state := .landed }
          ctx := { s.ctx with lastBusy := s.gtc } } : State).wake
    else .fault .cannotHappen

/-! ## Cancelling slots (R64) -/

/-- The registers that a slot's COMMIT would write. -/
def Slot.dests (x : Slot) : List Nat :=
  match x.kind with
  | .w | .scalar => [x.dest]
  | .d => [x.dest, x.dest + 1]
  | .q | .trace => [x.dest, x.dest + 1, x.dest + 2, x.dest + 3]

/-- PENDING is cleared on the destinations of a slot. -/
def Warp.unpend (w : Warp) (x : Slot) : Warp :=
  match x.kind with
  | .scalar => { w with spend := w.spend.filter fun r => !(x.dests.contains r) }
  | _ => x.dests.foldl (fun w r => if r < 256 then w.setPending r false else w) w

/-- Slot k is emptied: its destinations keep their old values and tags, and a TRACE's walks stop (R64, R329). -/
def Warp.cancelSlot (w : Warp) (k : Nat) : Warp :=
  let x := w.land k
  if x.state = .empty then w
  else
    let w := w.unpend x
    { (w.setSlot k { x with state := .empty, todo := [] }) with trslot := w.trslot &&& ~~~(1#16 <<< k) }

/-- Every slot is cancelled. -/
def Warp.cancelAll (w : Warp) : Warp := (List.range 16).foldl Warp.cancelSlot w

/-- The slots that hold a lane of a mask are cancelled. -/
def Warp.cancelSlots (w : Warp) (m : Mask) : Warp :=
  (List.range 16).foldl (fun w k => if (w.land k).mask &&& m != 0 then w.cancelSlot k else w) w

end Sys2Proof.Machine
end

