-- ==== Sys2Proof/Machine/MatState.lean ====
section
/-! DEFINITION. Matrix state of a team: operand classes (Table 19-2), magnitudes (R90, R300), convergence registers and the
issue of an operation (R291 to R293). -/

namespace Sys2Proof.Machine

/-- Operand classes of Table 19-2. -/
inductive MatClass where
  | narrow | fp32 | fp64 | integer
deriving DecidableEq, Repr

def matClass (t : Tag) : Option MatClass :=
  if [Tag.fp19, .fp16, .bf16, .fp8a, .fp8b, .fp6a, .fp6b, .fp4, .ix4, .ix8].contains t then some .narrow
  else if t = .fp32 then some .fp32
  else if t = .fp64 then some .fp64
  else if [Tag.i16, .n16, .i8, .n8, .i4, .n4, .i2, .n1].contains t || residueTags.contains t then some .integer
  else none

def MatClass.tile : MatClass → Tag
  | .narrow | .fp32 => .fp32
  | .fp64 => .fp64
  | .integer => .rw

/-- The tile tag that two operand formats require; none outside Table 19-2 (R285). -/
def pairing (a b : Tag) : Option Tag :=
  match matClass a, matClass b with
  | some x, some y => if x = y then some x.tile else none
  | _, _ => none

/-- The largest magnitude of an integer or residue format (R90, R300). -/
def Tag.magnitude (t : Tag) : Nat :=
  if Tag.isInt t then (if Tag.signed t then 2 ^ (Tag.width t - 1) else 2 ^ Tag.width t - 1)
  else max (Tag.residueRange t).1.natAbs (Tag.residueRange t).2.natAbs

/-- Element size in bytes where the width is a whole number of bytes, else 1 (R292). -/
def Tag.alignment (t : Tag) : Nat :=
  match t with
  | .fp64 | .rw => 8
  | .fp32 | .i32 | .n32 => 4
  | .fp16 | .bf16 | .i16 | .n16 | .rs16 | .rp16 => 2
  | _ => 1

def popcount16 (x : BitVec 16) : Nat := ((List.range 16).filter fun i => x.getLsbD i).length

def Team.tileAt (t : Team) (i : Nat) : Tile := t.tiles.getD i default

/-- Operations on a tile that have issued and not completed (Table 19-1). -/
def Team.pend (t : Team) (i : Nat) : Nat := (t.mops.filter fun o => o.d == i && o.phase != .done).length

def Team.conv (t : Team) (k : Nat) : Conv := look t.convs Conv.blank k

def Team.setConv (t : Team) (k : Nat) (c : Conv) : Team := { t with convs := put t.convs k c }

/-- The bound that D takes when register k issues: B of C + n·a·b (R90). -/
def Team.boundOf (t : Team) (c : Conv) : Nat :=
  (t.tileAt c.c).bound + popcount16 c.depm * Tag.magnitude c.afmt * Tag.magnitude c.bfmt

/-- Largest bound that RANGE admits. -/
def boundLimit : Nat := 140737488322559

def MatOp.blank : MatOp :=
  { id := 0, kind := .mzero, c := 0, d := 0, warp := 0, signers := 0, owner := 0, pc := 0, base := 0, stride := 0, tag := .raw, rowm := 0,
    colm := 0, rs := Vector.replicate 16 one64, cs := Vector.replicate 16 one64, phase := .queued, rows := 0, charge := 0,
    passed := 0, flags := 0, tw := 0, status := 0, counted := 0, holder := none }

/-- The operation of register k issues (R292): PEND of D rises, D takes the depth of C plus n and, on an RW tile, its bound. -/
def Team.issueConv (t : Team) (k id : Nat) : Team :=
  let c := t.conv k
  let n := popcount16 c.depm
  let d := t.tileAt c.d
  let d' : Tile := { d with
    depth := min (2 ^ 32 - 1) ((t.tileAt c.c).depth + n)
    bound := if d.tag = .rw then t.boundOf c else d.bound }
  { t.setConv k { c with state := .queued, rp := 0, charge := 0 } with
    tiles := modifyAt (fun _ => d') c.d t.tiles
    mops := t.mops ++ [{ MatOp.blank with
      id := id, kind := .mma k, c := c.c, d := c.d, signers := c.signed, owners := c.owners, origin := c.origin, rowm := c.rowm, colm := c.colm }] }

/-- A register cleared by a delivery is DONE with STATUS 1, and each signer's MWAIT counts it once (R291, R315). -/
def Team.clearConv (t : Team) (k id : Nat) : Team :=
  let c := t.conv k
  { t.setConv k { c with state := .done, status := 1 } with
    mops := if c.signed = 0 then t.mops else t.mops ++ [{ MatOp.blank with
      id := id, kind := .mma k, c := c.c, d := c.d, signers := c.signed, owners := c.owners, phase := .done, status := 1 }] }

/-- A warp departs: it is a member of no OPEN register any more; a register whose last unsigned member it was issues, or is FREE
if none has signed (R291, R293). The second component is the next free id. -/
def Team.leaveConvs (t : Team) (w next : Nat) : Team × Nat :=
  (List.range 16).foldl (fun p k =>
    let c := p.1.conv k
    if c.state = .open ∧ c.members.getLsbD w then
      let m := c.members &&& ~~~(1#32 <<< w)
      if m &&& ~~~c.signed ≠ 0 then (p.1.setConv k { c with members := m }, p.2)
      else if c.signed = 0 then (p.1.setConv k { c with members := m, state := .free }, p.2)
      else ((p.1.setConv k { c with members := m }).issueConv k p.2, p.2 + 1)
    else p) (t, next)

/-- Register k, or the engine, is at work for a warp mask: unsigned members of an OPEN register (R173). -/
def Team.namedOpen (t : Team) (w : Nat) : Bool :=
  (List.range 16).any fun k => (t.conv k).state == .open && (t.conv k).members.getLsbD w

/-- No operation of a list in issue order is to complete, FAULTED ones apart and those QUEUED behind one on a tile of it, which cannot start
before it is resumed or abandoned (R296, R302). -/
def idleFrom (tiles : List Nat) : List MatOp → Bool
  | [] => true
  | o :: rest =>
    if o.phase = .done then idleFrom tiles rest
    else if o.phase = .faulted ∨ (o.phase = .queued ∧ (tiles.contains o.c ∨ tiles.contains o.d)) then idleFrom (o.c :: o.d :: tiles) rest
    else false

/-- No operation of the team is issued and incomplete, FAULTED ones apart (Table 9-3, step 7). -/
def Team.matrixIdle (t : Team) : Bool := idleFrom [] t.mops

/-- The largest magnitude in the first rows of an RW tile, VOID read as zero (R90). -/
def Tile.largest (t : Tile) (rows : Nat) : Nat :=
  (t.slots.toList.take (16 * rows)).foldl (fun m x => max m (relem .rw x.toNat).1.natAbs) 0

/-- The tiles whose bounds, as later operations have formed them at their issue, come from what an MLD loads. -/
def Team.boundHeirs (t : Team) (o : MatOp) : List Nat :=
  ((t.mops.dropWhile fun x => x.id != o.id).drop 1).foldl (fun ds x => match x.kind with
    | .mma _ => if ds.contains x.c then (if ds.contains x.d then ds else x.d :: ds) else ds.filter fun d => d != x.d
    | .mld | .mzero => ds.filter fun d => d != x.d
    | .mst => ds) [o.d]

/-- What the end of an MLD that has loaded some rows adds to its tile's bound, and to the bounds that come from it: B took 0 at the issue, when the
elements are not yet known (R90, R311; DESIGN CHOICE: log 19). -/
def Team.loadBound (t : Team) (o : MatOp) (rows : Nat) : Team :=
  match o.kind with
  | .mld =>
    let n := (t.tileAt o.d).largest rows
    (t.boundHeirs o).foldl (fun t i => { t with tiles := modifyAt (fun (d : Tile) =>
      if d.tag = .rw then { d with bound := min (2 ^ 48 - 1) (d.bound + n) } else d) i t.tiles }) t
  | _ => t

/-- An operation ends with a status: DONE, and its register with it (R291, R296). An MLD that is abandoned leaves the rows that it has loaded
(R305), and the bound takes the largest magnitude in them. -/
def Team.endOp (t : Team) (id status : Nat) : Team :=
  match t.mops.find? fun o => o.id == id with
  | none => t
  | some o =>
    let t := if status = 2 then t.loadBound o o.rows else t
    let t := { t with mops := t.mops.map fun x => if x.id = id then { x with phase := .done, status := status, holder := none } else x }
    match o.kind with
    | .mma k => t.setConv k { t.conv k with state := .done, status := status }
    | _ => t

/-- FAULTED operations are abandoned, whoever holds their park (R178, R296). -/
def Team.abandonAll (t : Team) : Team := (t.mops.filter fun o => o.phase == .faulted).foldl (fun t o => t.endOp o.id 2) t

/-- A FAULTED operation is abandoned (R296). -/
def Team.endFaulted (t : Team) (id : Nat) : Team :=
  if t.mops.any fun o => o.id == id && o.phase == .faulted then t.endOp id 2 else t

/-- A FAULTED operation returns to QUEUED (R296). -/
def Team.requeueOp (t : Team) (id : Nat) : Team :=
  match t.mops.find? fun o => o.id == id && o.phase == .faulted with
  | none => t
  | some o =>
    let t := { t with mops := t.mops.map fun x => if x.id = id then { x with phase := .queued, holder := none, passed := 0 } else x }
    match o.kind with
    | .mma k => t.setConv k { t.conv k with state := .queued }
    | _ => t

/-! ## Attributed faults (R296) -/

/-- A delivery is open that reaches the warp in focus. -/
def State.delivering (s : State) : Bool :=
  s.deliveries.any fun d => match d.level with
    | 0 => d.team == s.team.handle && d.warp == s.warp.idx
    | 1 => d.team == s.team.handle
    | _ => d.launch == s.launch.id

/-- The warp in focus takes, at its boundary, what p describes: a fault that came while a park held it (log 129), an injected throw, or an attributed
fault: DOUBLE in a trap routine (R186), a throw from its lowest live lane where the innermost region has F = 1, which abandons the operation, or
else a park (R296). -/
def State.attribute (s : State) (p : Park) : State :=
  let L := (lowest s.warp.live).getD 0
  if 2 ≤ p.second then
    if p.lanes &&& s.warp.live = 0 then s else s.takeFault { code := p.code, lanes := p.lanes &&& s.warp.live, addr := p.addr } p.pc
  else if p.second ≠ 0 then s.hardwareThrow p.code (p.lanes &&& s.warp.live) p.pc p.addr
  else if s.warp.tdepth then
    { s with warp := { s.warp with double := some { p with code := Code.double, second := p.code, addr := p.code.setWidth 64, since := s.gtc } } }
  else match s.innermost L with
    | some r =>
      if r.region.f then ({ s with team := s.team.endFaulted p.op } : State).throwAll [(some r, s.thrower L p.code p.pc p.addr)]
      else { s with warp := { s.warp with park := some { p with since := s.gtc } } }
    | none => { s with warp := { s.warp with park := some { p with since := s.gtc } } }

/-- The pending faults of the warp in focus that it can take now, in order; n bounds their number. An injected throw, and a fault of the program,
wait for the end of the trap routine (R179). -/
def State.takePending (s : State) : Nat → State
  | 0 => s
  | n + 1 =>
    if s.warp.parked || s.delivering then s
    else match s.warp.pendFault.find? fun p => !(s.warp.tdepth && (p.second == 1 || p.second == 2)) with
      | none => s
      | some p =>
        (({ s with warp := { s.warp with pendFault := s.warp.pendFault.erase p } } : State).attribute p).takePending n

def State.settlePending (s : State) : State := s.takePending s.warp.pendFault.length

/-- The warps of a list take the attributed faults that they can take. -/
def State.settleAll (s : State) (l : List Warp) : State :=
  if l.all fun w => w.pendFault.isEmpty then s
  else (l.foldl (fun s w => (s.focusOn w.team w.idx).elim s State.settlePending) s).backTo s

end Sys2Proof.Machine
end

