-- ==== Sys2Proof/Machine/Image.lean ====
section
/-! DEFINITION. Saved images: what a checkpoint (R365) and a save area (R38, R190) hold of a team, as a list of numbers that the hardware lays out
in its own way (DESIGN CHOICE: log 109). -/

namespace Sys2Proof.Machine

def flagNat (b : Bool) : Nat := if b then 1 else 0

/-- Data, tag and stale mark of a register. -/
def VReg.image (r : VReg) : List Nat := (Tag.code r.tag).toNat :: flagNat r.stale :: r.data.toList.map (·.toNat)

def Barrier.image (b : Barrier) : List Nat := [b.gen, b.arrived.toNat, b.copies, b.tw, b.next, b.nextTw, b.past]

def Region.image (r : Region) : List Nat :=
  r.catchPc.toNat :: flagNat r.f :: r.mask.toNat :: r.stamp :: r.ended.length :: r.ended.flatMap fun e => [e.1, e.2]

/-- Slots, tag, depth count and bound of a tile. -/
def Tile.image (t : Tile) : List Nat := (Tag.code t.tag).toNat :: t.depth :: t.bound :: t.slots.toList.map (·.toNat)

def Conv.image (c : Conv) : List Nat :=
  [(match c.state with | .free => 0 | .open => 1 | .queued => 2 | .running => 3 | .faulted => 4 | .done => 5), c.c, c.d, c.rp, c.status,
    c.members.toNat, c.signed.toNat, c.aaddr.toNat, c.baddr.toNat, c.charge, (Tag.code c.afmt).toNat, (Tag.code c.bfmt).toNat, flagNat c.btrans,
    c.astride.toNat, c.bstride.toNat, c.rowm.toNat, c.colm.toNat, c.depm.toNat]

/-- Code, lanes, PC and address of a park. -/
def Park.image (p : Park) : List Nat := [p.code.toNat, p.second.toNat, p.lanes.toNat, p.pc.toNat, p.addr.toNat, p.seq.getD 0xFFFF]

def MonLane.image (l : MonLane) : List Nat := [l.lane, l.va.toNat, l.pa, l.cmp.toNat, flagNat l.armed]

/-- The registers of a warp's allocation and its try stack. -/
def Warp.guardImage (w : Warp) : List Nat :=
  w.idx :: w.vvg :: (w.bank.toList.take (8 * w.vvg)).flatMap VReg.image ++ w.tries.length :: w.tries.flatMap Region.image

/-- What R365 lists. -/
def Team.guardImage (t : Team) (ws : List Warp) : List Nat :=
  ws.flatMap Warp.guardImage ++ t.scratch.flatMap (fun c => [c.1, c.2.toNat]) ++ t.tiles.flatMap Tile.image ++
    t.bars.toList.flatMap Barrier.image ++ t.tries.flatMap Region.image

/-- The matrix state of a team (R288). -/
def Team.matrixImage (t : Team) : List Nat :=
  [t.mfmt.toNat, t.mastr.toNat, t.mbstr.toNat, t.rowm.toNat, t.colm.toNat, t.depm.toNat] ++ t.mrs.toList.map (·.toNat) ++
    t.mcs.toList.map (·.toNat) ++ t.mcb4.map (·.toNat) ++ t.mcb8.map (·.toNat)

/-- What R190 lists: scratchpad, named barriers, try stacks, tiles, convergence registers, park records and monitors, with the matrix state (R288)
and the traversal roots (R321), which the WGU saves with the team; R378 reads it there. -/
def Team.saveImage (t : Team) (ws : List Warp) : List Nat :=
  t.scratch.flatMap (fun c => [c.1, c.2.toNat]) ++ t.bars.toList.flatMap Barrier.image ++ t.tries.flatMap Region.image ++
    (ws.flatMap fun w => w.idx :: w.tries.flatMap Region.image) ++ t.tiles.flatMap Tile.image ++ t.convs.toList.flatMap Conv.image ++
    t.matrixImage ++ [t.trroot0.toNat, t.trroot1.toNat] ++
    (ws.flatMap fun w => (w.park.elim [] Park.image) ++ w.monws.flatMap fun o => o.lanes.flatMap MonLane.image)

/-- What R38 adds for a team that is swapped out: registers, tags, latches and operand caches. -/
def Warp.swapImage (w : Warp) : List Nat :=
  let copy (c : Copy) : List Nat := (Tag.code c.tag).toNat :: flagNat c.valid :: c.data.toList.map (·.toNat);
  w.guardImage ++ w.sregs.toList.map (·.toNat) ++ w.latchCopies.toList.flatMap copy ++ w.shadow.toList.flatMap copy ++ w.oc.toList.flatMap copy

/-- n bytes of an image are written at a physical address. -/
def State.putImage (s : State) (pa n : Nat) (image : List Nat) : State := s.putBytes pa ((List.range n).map (Config.imageByte image))

/-- The state of a team goes to its place in its context's save area. -/
def State.saveTeam (s : State) (h : Nat) (image : List Nat) : State :=
  let p := Config.saveArea (s.teamOf h).ctx h
  s.putImage p.1 p.2 image

end Sys2Proof.Machine
end

