-- ==== Sys2Proof/Machine/Barriers.lean ====
section
/-! DEFINITION. Named barriers (R170, R171), paired and guarded teams at their completion (R362 to R366), the grid barrier (R42),
ENDTRY closures (R166), REGROUP (R331, R332) and a warp's departure (R36). -/

namespace Sys2Proof.Machine

/-! ## Reaching teams and warps that are not in focus -/

def State.launchOf (s : State) (id : Nat) : Launch :=
  if s.launch.id = id then s.launch else (s.launches.find? fun l => l.id == id).getD Launch.blank

def State.onLaunch (s : State) (id : Nat) (f : Launch → Launch) : State :=
  { s with
    launch := if s.launch.id = id then f s.launch else s.launch
    launches := s.launches.map fun l => if l.id = id then f l else l }

/-- The BLK priorities of a team's code. -/
def State.prOf (s : State) (t : Team) : BitVec 64 → Option (BitVec 8) := s.blkPrio (s.ctxOf t.ctx) (s.launchOf t.launch)

/-- The warp's wait ends and the entries whose wait it was go on at the next word, and merge there (R26). -/
def Warp.passOn (pr : BitVec 64 → Option (BitVec 8)) (w : Warp) : Warp :=
  { w with
    hold := .none
    frontier := w.frontier.foldl (fun fr e =>
      placeEntry pr w.lastEntry (if w.barWaits e then { e with pc := e.pc + 4, wait := if e.wait = .bar then .ready else e.wait } else e) fr) [] }

/-! ## Named barriers -/

def Team.bar (t : Team) (b : Nat) : Barrier := look t.bars Barrier.blank b

def Team.setBar (t : Team) (b : Nat) (x : Barrier) : Team := { t with bars := put t.bars b x }

def popcount32 (m : Mask) : Nat := (maskLanes m).length

/-- Arrivals in the current generation. -/
def Barrier.arrivals (b : Barrier) : Nat := popcount32 b.arrived + b.copies

/-- Member warps plus the copies tied to the current generation (R170, R269). -/
def State.expected (s : State) (t : Team) (b : Nat) : Nat :=
  (s.teamWarps t.handle).length + (t.bar b).copies + (t.copies.filter fun c => c.tie == some (b, (t.bar b).gen)).length

def State.barFull (s : State) (t : Team) (b : Nat) : Bool :=
  (t.bar b).arrivals != 0 && (t.bar b).arrivals == s.expected t b

/-- Warp w counts as arrived in the current generation. -/
def Team.arriveWarp (t : Team) (b w : Nat) : Team :=
  t.setBar b { t.bar b with arrived := (t.bar b).arrived ||| (1#32 <<< w) }

/-- What the completion of generation g of barrier b does to a wait: a second arrival is made in g + 1, a wait ends. -/
inductive BarEnd where
  | untouched | passes
  | arrives (wait : Bool)
deriving DecidableEq

def Hold.barEnd (b g : Nat) : Hold → BarEnd
  | .bar b' g' again wait => if b' = b ∧ g' = g then (if again then .arrives wait else .passes) else .untouched
  | _ => .untouched

/-- A warp at the completion of generation g of barrier b, whose arrivals bring tw into the WCT of a released waiter (R270); a
wait that a trap routine interrupted is marked as ended. -/
def Warp.barDone (pr : BitVec 64 → Option (BitVec 8)) (b g tw : Nat) (w : Warp) : Warp :=
  let w := match w.hold.barEnd b g with
    | .untouched => w
    | .passes => { w.passOn pr with wct := max w.wct tw }
    | .arrives wait =>
      let w := { w with barGen := put w.barGen b (some (g + 1)) }
      if wait then { w with hold := .bar b (g + 1) false true } else w.passOn pr
  match w.savedHold.barEnd b g with
  | .untouched => w
  | .passes => { w with savedHold := .released, wct := max w.wct tw }
  | .arrives wait => { w with barGen := put w.barGen b (some (g + 1)), savedHold := if wait then .bar b (g + 1) false true else .released }

/-- The warps that arrive in the next generation when this one completes. -/
def Warp.arrivesNext (b g : Nat) (w : Warp) : Bool :=
  match w.hold.barEnd b g, w.savedHold.barEnd b g with
  | .arrives _, _ | _, .arrives _ => true
  | _, _ => false

/-- The current generation of barrier b of a team completes. -/
def State.releaseGen (s : State) (h b : Nat) : State :=
  let t := s.teamOf h
  let g := (t.bar b).gen
  let next := (s.teamWarps h).foldl (fun m w => if w.arrivesNext b g then m ||| (1#32 <<< w.idx) else m) (0#32)
  let s := s.onTeamWarps h (Warp.barDone (s.prOf t) b g (t.bar b).tw)
  s.onTeam h fun t => t.setBar b
    { gen := g + 1, arrived := next, copies := (t.bar b).next, tw := (t.bar b).nextTw, next := 0, nextTw := 0,
      past := max (t.bar b).past (t.bar b).tw }

/-- An update of a team that has been sent has no tw yet: a peer has still to acknowledge it (R360), or it waits at the home of a line under an
exclusive lease (R206). -/
def State.unreturned (s : State) (h : Nat) : Bool :=
  (s.pkg.peers.any fun p => p.update?.any fun u => u.team == h) || s.home.any fun x => x.excl.isSome && x.pend.any fun u => u.team == h

/-- The greatest tw of the updates of a team that are still to be performed. -/
def State.sentTw (s : State) (h : Nat) : Nat :=
  ((s.home.flatMap (·.pend)).filter fun u => u.team == h).foldl (fun m u => max m u.tw) 0

/-- A held update leaves its team, as after the tw of those that have left it before: an earlier one may stand before a release of a later one's
warp (R205). The tw of a copy's or a matrix operation's update enters the WCT of every warp of the team, since any
of them may have joined it (R9, R270); that of a warp's own enters its own. A warp of another team that has observed it takes it into its
releases (R205). -/
def State.sendHeld (s : State) (u : Update) : State :=
  let u : Update := { u with tw := s.sentTw u.team }
  let a := s.sendUpdate (if u.who = 0 then u else { u with who := 0, warp := anyWarp })
  let fold (w : Warp) : Warp := { w with wct := max w.wct a.2 }
  let see (w : Warp) : Warp :=
    if w.seenHeld.contains u.uid then { w with seen := max w.seen a.2, seenHeld := w.seenHeld.filter (· != u.uid) } else w
  (if u.who = 0 then a.1.onWarp u.team u.warp fold else a.1.onTeamWarps u.team fold).mapWarps see

/-- The updates that a team has ceased to hold are sent in their order, each once those before it have their tw; n bounds their number. -/
def State.sendOut (s : State) (h : Nat) : Nat → State
  | 0 => s
  | n + 1 =>
    match (s.teamOf h).out with
    | [] => s
    | u :: rest =>
      if s.unreturned h then s
      else
        let home := s.core.num
        ((((s.onTeam h fun t => { t with out := rest }).focusCore (s.teamOf h).core).sendHeld u).focusCore home).sendOut h n

/-- The next updates that a team has ceased to hold are sent; none while an earlier one has no tw. -/
def State.sendNext (s : State) (h : Nat) : Option State :=
  if (s.teamOf h).out.isEmpty || s.unreturned h then none else some (s.sendOut h (s.teamOf h).out.length).wake

/-- Held updates of a team are performed at their homes (R363, R365): in the order in which they were made, so that no agent sees a later one
without those before it (R205; DEDUCED: log 125). Until it is sent, one is seen as a held one is. -/
def State.releaseHeld (s : State) (h : Nat) : State :=
  let s := s.onTeam h fun t => { t with out := t.out ++ t.held, held := [] }
  s.sendOut h (s.teamOf h).out.length

/-- XOR of the warps' signatures (R362). -/
def State.signature (s : State) (h : Nat) : Dword :=
  let l := (s.teamOf h).sig ++ (s.teamWarps h).flatMap (·.sig)
  (l.map (·.owner)).dedup.foldl (fun x o => x ^^^ signatureOf o l) 0

/-- A hardware throw at team level or above from lanes of the warps of a team (Table 9-2): a throw that no region takes dooms
the team. -/
def State.teamThrow (s : State) (h : Nat) (code : BitVec 16) (lanes : Warp → Mask) (pc : Option (BitVec 64)) (addr : BitVec 64) : State :=
  ((s.teamWarps h).foldl (fun s w =>
    if lanes w = 0 then s
    else match s.focusOn h w.idx with
      | none => s
      | some s =>
        let pcs := pcsOf s.warp.frontier
        s.throwAll ((maskLanes (lanes w)).map fun L =>
          (s.teamRegion, { s.thrower L code (pc.getD (look pcs 0 L)) addr with own := false }))) s).backTo s

/-- A team of a paired launch holds more lines than R364 allows: both twins take SIGMISMATCH. -/
def State.heldLimit (s : State) : State :=
  let h := s.team.handle
  match s.team.twin with
  | some q =>
    if s.team.paired && 8192 < (s.team.held.map fun u => lineOf u.pa).dedup.length then
      let s := (s.onTeam h fun t => { t with held := [] }).onTeam q fun t => { t with held := [] }
      (s.teamThrow q Code.sigmismatch (·.live) none 0).teamThrow h Code.sigmismatch (·.live) none 0
    else s
  | none => s

/-- SIGNATURE_COMPARE (R363): equal signatures perform the primary's held updates and drop the secondary's; else both twins
take SIGMISMATCH and drop theirs. The answer tells whether they matched. -/
def State.compareTwins (s : State) (a b : Nat) : State × Bool :=
  let p := if (s.teamOf a).primary then a else b
  let q := if p = a then b else a
  if s.signature a = s.signature b then
    let s := (s.releaseHeld p).onTeam q fun t => { t with held := [] }
    let s := (s.onTeam a fun t => { t with sig := [] }).onTeam b fun t => { t with sig := [] }
    ((s.onTeamWarps a fun w => { w with sig := [] }).onTeamWarps b fun w => { w with sig := [] }, true)
  else
    let s := (s.onTeam a fun t => { t with held := [] }).onTeam b fun t => { t with held := [] }
    ((s.teamThrow a Code.sigmismatch (·.live) none 0).teamThrow b Code.sigmismatch (·.live) none 0, false)

/-- The checkpoint of a guarded team is written to its part of the context's guard area (R365): what it holds stands there in the hardware's own
layout (DESIGN CHOICE: log 109). -/
def State.writeCheckpoint (s : State) (h b : Nat) : State :=
  let t := s.teamOf h
  let c : Checkpoint :=
    { warps := s.teamWarps h, scratch := t.scratch, tiles := t.tiles, bars := t.bars, tries := t.tries, convs := t.convs, mops := t.mops,
      regroups := t.regroups, mflags := t.mflags, barrier := b }
  let x := s.ctxOf t.ctx
  let p := Config.guardPart x.guardsz.toNat h
  let n := min p.2 (x.guardsz.toNat - p.1)
  (s.onTeam h fun t => { t with checkpoint := some c, rollbacks := 0, sideEffects := false }).putImage (x.guardb.toNat + p.1) n
    (t.guardImage (s.teamWarps h))

/-- GUARD_CHECKPOINT (R365): the checkpoint is written, then the held updates are performed. -/
def State.takeCheckpoint (s : State) (h b : Nat) : State := (s.writeCheckpoint h b).releaseHeld h

/-- BARRIER_COMPLETE: the current generation of barrier b completes if it may; the answer tells whether it has. Twins that are guarded as well
write their checkpoints before the primary's held updates are performed (R363, R365). -/
def State.tryComplete (s : State) (h b : Nat) : State × Bool :=
  let t := s.teamOf h
  if !s.barFull t b then (s, false)
  else match t.twin with
    | some q =>
      let u := s.teamOf q
      if t.paired && (u.bar b).gen == (t.bar b).gen then
        if s.barFull u b then
          let same := t.guarded && s.signature h == s.signature q
          let c := (if same then (s.writeCheckpoint h b).writeCheckpoint q b else s).compareTwins h q
          if c.2 then ((c.1.releaseGen h b).releaseGen q b, true) else (c.1, false)
        else (s, false)
      else (s, false)
    | none => if t.guarded then ((s.takeCheckpoint h b).releaseGen h b, true) else (s.releaseGen h b, true)

/-- Every generation that is complete completes (R36); n bounds the completions. -/
def State.completeBars (s : State) (h : Nat) : Nat → State
  | 0 => s
  | n + 1 =>
    let r := (List.range 16).foldl (fun (p : State × Bool) b => let q := p.1.tryComplete h b; (q.1, p.2 || q.2)) (s, false)
    if r.2 then r.1.completeBars h n else r.1

def State.completeAll (s : State) (h : Nat) : State := s.completeBars h 66

/-! ## The grid barrier (R42) -/

/-- The live warps of every team of a launch, as pairs of team and warp. -/
def State.gridMembers (s : State) (l : Nat) : List (Nat × Nat) :=
  (s.allWarps.filter fun w => (s.teamOf w.team).launch == l && (s.teamOf w.team).handle == w.team && w.team != 0).map fun w => (w.team, w.idx)

def Warp.gridDone (pr : BitVec 64 → Option (BitVec 8)) (g : Nat) (w : Warp) : Warp :=
  let w := if w.hold = .grid g then w.passOn pr else w
  if w.savedHold = .grid g then { w with savedHold := .released } else w

/-- A generation of the grid barrier completes when every expected warp has arrived. -/
def State.completeGrid (s : State) (l : Nat) : State :=
  let x := s.launchOf l
  let ms := s.gridMembers l
  if x.gridArrived.isEmpty || !(ms.all fun m => x.gridArrived.contains m) then s
  else
    let s := (x.gridArrived.map (·.1)).dedup.foldl
      (fun s h => s.onTeamWarps h (Warp.gridDone (s.prOf (s.teamOf h)) x.gridGen)) s
    s.onLaunch l fun x => { x with gridGen := x.gridGen + 1, gridArrived := [] }

/-! ## ENDTRY closures (R166) -/

def Warp.endtryDone (pr : BitVec 64 → Option (BitVec 8)) (level : Nat) (w : Warp) : Warp :=
  let w := if w.hold = .endtry level then w.passOn pr else w
  let w := if w.savedHold = .endtry level then { w with savedHold := .released } else w
  if level = 1 then { w with jt := w.jt - 1 } else { w with jg := w.jg - 1 }

/-- The top team region closes once every current member has executed ENDTRY.TEAM or has left. -/
def State.closeTeam (s : State) (h : Nat) : State :=
  let t := s.teamOf h
  match t.tries with
  | [] => s
  | r :: rest =>
    if !r.ended.isEmpty && (s.teamWarps h).all fun w => r.ended.contains (h, w.idx) then
      (s.onTeam h fun t => { t with tries := rest }).onTeamWarps h (Warp.endtryDone (s.prOf t) 1)
    else s

/-- The top grid region likewise, over every member of the grid. -/
def State.closeGrid (s : State) (l : Nat) : State :=
  let x := s.launchOf l
  match x.gtries with
  | [] => s
  | r :: rest =>
    let ms := s.gridMembers l
    if !r.ended.isEmpty && ms.all fun m => r.ended.contains m then
      (ms.map (·.1)).dedup.foldl (fun s h => s.onTeamWarps h (Warp.endtryDone (s.prOf (s.teamOf h)) 2))
        (s.onLaunch l fun x => { x with gtries := rest })
    else s

/-! ## REGROUP (R331) -/

/-- A register of a warp, or a row of the VT view, by its number (R47): its lanes and its tag. -/
def Team.fileReg (t : Team) (w : Warp) (r : Nat) : Lanes × Tag :=
  if r < 256 then ((w.bankReg r).data, (w.bankReg r).tag)
  else
    let x := t.tiles.getD ((r - 256) / 16) default
    (x.row ((r - 256) % 16), x.tag)

/-- Lane L of a register or row of a warp. -/
def Team.fileLane (t : Team) (w : Warp) (r L : Nat) : Word := lane (t.fileReg w r).1 L

/-- Row r of the VT view by its number takes lanes. -/
def Team.setRow (t : Team) (r : Nat) (y : Lanes) (m : Mask) : Team :=
  { t with tiles := modifyAt (fun x => x.writeRow ((r - 256) % 16) y m) ((r - 256) / 16) t.tiles }

/-- The members' slots in ascending tid, as pairs of warp index and lane. -/
def slotsOf (ws : List Warp) : List (Nat × Nat) :=
  (sortBy (fun a b => a.idx ≤ b.idx) ws).flatMap fun w => (maskLanes w.live).map fun L => (w.idx, L)

/-- The permutation: slot p receives the carried registers of the p-th thread in order of key, then tid. Rows of the VT view, which several members
may show, are written in ascending tid (R47, R331). -/
def State.permute (s : State) (h : Nat) (t : Team) : State :=
  let ws := s.teamWarps h
  let warpOf (i : Nat) : Warp := (ws.find? fun w => w.idx == i).getD Warp.blank
  let issue (i : Nat) : RegroupIssue := (t.regroups.find? fun r => r.warp == i).getD { warp := i, key := 0, first := 0, n := 0 }
  let slots := slotsOf ws
  let key (p : Nat × Nat) : Nat := bits (t.fileLane (warpOf p.1) (issue p.1).key p.2) 0 16
  let sorted := sortBy (fun a b => key a ≤ key b) slots
  let from' (i L j : Nat) : Word :=
    match slots.findIdx? fun p => p == (i, L) with
    | some p => let q := sorted.getD p (i, L); t.fileLane (warpOf q.1) ((issue q.1).first + j) q.2
    | none => 0
  let n := ((t.regroups.head?).map (·.n)).getD 0
  let moved (w : Warp) (j : Nat) : Lanes :=
    lanesOf fun L => if w.live.getLsbD L then from' w.idx L j else t.fileLane w ((issue w.idx).first + j) L
  let move (w : Warp) : Warp :=
    (List.range n).foldl (fun v j =>
      let r := (issue w.idx).first + j
      if r < 256 then v.setBank r { v.bankReg r with data := moved w j, stale := false } else v) w
  let rows (x : Team) (w : Warp) : Team :=
    (List.range n).foldl (fun x j =>
      let r := (issue w.idx).first + j
      if r < 256 then x else x.setRow r (moved w j) w.live) x
  (s.onTeamWarps h move).onTeam h fun x => (sortBy (fun (a b : Warp) => a.idx ≤ b.idx) ws).foldl rows x

/-- Every member gave the same n and the same tag for each carried position. -/
def State.regroupAgrees (s : State) (h : Nat) (t : Team) : Bool :=
  let tags (r : RegroupIssue) : List Tag :=
    let w := ((s.teamWarps h).find? fun w => w.idx == r.warp).getD Warp.blank
    (List.range r.n).map fun j => (t.fileReg w (r.first + j)).2
  match t.regroups with
  | [] => true
  | a :: rest => rest.all fun b => a.n == b.n && tags a == tags b

def Warp.regroupDone (pr : BitVec 64 → Option (BitVec 8)) (w : Warp) : Warp :=
  let w := if w.hold = .regroup then w.passOn pr else w
  if w.savedHold = .regroup then { w with savedHold := .released } else w

/-- The warp in focus, whose wait in REGROUP is over, faults with MISMATCH at it. -/
def State.regroupFault (s : State) : State :=
  let w := { s.warp.unwait with hold := .none }
  ({ s with warp := w } : State).takeFault { code := Code.mismatch, lanes := w.live, addr := 0 }
    (((w.frontier.find? s.warp.barWaits).map (·.pc)).getD 0)

/-- REGROUP_PERMUTE: when every member has issued, the carried registers move, or every member faults with MISMATCH at its REGROUP: one
whose wait a trap routine has interrupted does so when the routine returns. -/
def State.completeRegroup (s : State) (h : Nat) : State :=
  let t := s.teamOf h
  let ws := s.teamWarps h
  if t.regroups.isEmpty || !(ws.all fun w => t.regroups.any fun r => r.warp == w.idx) then s
  else if s.regroupAgrees h t then
    ((s.permute h t).onTeam h fun t => { t with regroups := [] }).onTeamWarps h (Warp.regroupDone (s.prOf t))
  else
    let s := (s.onTeam h fun t => { t with regroups := [] }).onTeamWarps h fun w =>
      { w with savedHold := if w.savedHold = .regroup then .mismatch else w.savedHold }
    ((ws.filter fun w => w.hold == .regroup).foldl (fun s w => match s.focusOn h w.idx with
      | none => s
      | some s => s.regroupFault) s).backTo s

/-! ## Departure (R36) -/

/-- The ATOMs that a departing warp has in flight go on without it (R11). -/
def Core.orphan (h i : Nat) (c : Core) : Core :=
  { c with atoms := (c.atoms.map fun a =>
      if a.team = h ∧ a.warp = i ∧ a.who = 0 then { a with warp := anyWarp, held := false } else a).filter fun a =>
        !(a.team == h && a.warp == anyWarp && a.who == 0 && a.lanes.isEmpty) }

/-- The warp in focus leaves its team, in one event: its slots are cancelled, its arrivals taken back, and every barrier,
collective and region that waited for it alone completes. The team of the last warp ends (R11). -/
def State.depart (s : State) : State :=
  let h := s.team.handle
  let i := s.warp.idx
  let l := s.team.launch
  let w := s.warp.cancelAll
  let c := s.team.leaveConvs i s.nextId
  let bit : Mask := 1#32 <<< i
  let t : Team := { c.1 with
    bars := c.1.bars.map fun b => { b with arrived := b.arrived &&& ~~~bit }
    tries := c.1.tries.map fun r => { r with ended := r.ended.filter fun e => e != (h, i) }
    regroups := c.1.regroups.filter fun r => r.warp != i
    sig := c.1.sig ++ s.warp.sig
    mops := c.1.mops.map fun o => { o with counted := o.counted ||| bit } }
  let s : State := { s with
    nextId := c.2
    core := s.core.orphan h i
    cores := s.cores.map (Core.orphan h i)
    warp := { w with gone := true, frontier := [], tries := [], live := 0, hold := .none, park := none, double := none, pendFault := [], monws := [] }
    team := t
    launch := { s.launch with
      gridArrived := s.launch.gridArrived.filter fun e => e != (h, i)
      gtries := s.launch.gtries.map fun r => { r with ended := r.ended.filter fun e => e != (h, i) } } }
  if (s.teamWarps h).isEmpty then
    ((s.onTeam h fun t => { t with life := .ending }).closeGrid l).completeGrid l
  else ((((s.completeRegroup h).closeTeam h).closeGrid l).completeAll h).completeGrid l

end Sys2Proof.Machine
end

