-- ==== Sys2Proof/Machine/CopyMove.lean ====
section
/-! DEFINITION. Global accesses of the engines (R213, R279, R280) and the movement of copies (R266, R274, R277). -/

namespace Sys2Proof.Machine

/-! ## Global accesses of an engine -/

/-- A run of bytes cut at line boundaries: virtual addresses and lengths. -/
def piecesOf : Nat → Nat → Nat → List (BitVec 64 × Nat)
  | 0, _, _ => []
  | f + 1, va, n =>
    let k := min n (128 - va % 128)
    if n = 0 then [] else (BitVec.ofNat 64 va, k) :: piecesOf f (va + k) (n - k)

def pieces (va : BitVec 64) (n : Nat) : List (BitVec 64 × Nat) := piecesOf (n + 1) va.toNat n

/-- Engines use the warp's translation without its trap privilege, through the cached translations of their own load pipe (R213, R244): 1 the
matrix engine's, 2 the copy engine's, 3 the traversal engine's. -/
def State.engineXlate (s : State) (pipe : Nat) (k : Access) (vas : List (BitVec 64)) : State × List Xlated :=
  (s.useRat s.ctx).translateAll k s.team.service (vas.map fun a => (0, a)) pipe

/-- The line of an access is poisoned. -/
def State.xlatPoison (s : State) (x : Xlated) : Bool :=
  match x.out with
  | .ok pa => s.poison.contains (lineOf pa)
  | _ => false

/-- The code of the row of Table 12-2 that an engine's access fails (R280): a service team's write to host memory does not fail for link loss
(R354). -/
def State.engineFails (s : State) (k : Access) (x : Xlated) (row : Nat) : Option (BitVec 16 × BitVec 64) :=
  s.failsUnspared (s.team.service && k.writes) 1 x row

/-- The addresses whose access fails (R280): a row of Table 12-2, or poisoned source data. -/
def State.engineBad (s : State) (k : Access) (xs : List Xlated) : List (BitVec 64) :=
  (xs.filter fun x =>
    (([2, 3, 4, 5] : List Nat).any fun row => (s.engineFails k x row).isSome) || (k == .load && s.xlatPoison x)).map (·.va)

/-- TRANSIT, WBLOCK of a write, or a walk that waits stalls the access (R210, R243, R279). -/
def engineStalls (k : Access) (xs : List Xlated) : Bool :=
  xs.any fun x => x.out == .wait || x.rat.transit || (k.writes && x.rat.wblock)

/-- How an engine's accesses stand: the addresses that fail, whether one stalls, and whether a failure is poisoned source data. -/
structure Probe where
  bad : List (BitVec 64)
  stalls : Bool
  poisoned : Bool
deriving DecidableEq, Repr

/-- The accesses that an engine is about to make. -/
def State.probe (s : State) (pipe : Nat) (k : Access) (vas : List (BitVec 64)) : Probe :=
  let x := s.engineXlate pipe k vas
  { bad := x.1.engineBad k x.2, stalls := engineStalls k x.2, poisoned := k == .load && x.2.any x.1.xlatPoison }

/-- Nothing keeps the accesses from being made. -/
def Probe.clear (p : Probe) : Bool := p.bad.isEmpty && !p.stalls

/-- The requester of a load pipe in a slice log entry (Table 25-4). -/
def pipeRequester (pipe : Nat) : Nat := ([0, 2, 1, 3] : List Nat).getD pipe 0

/-- n free bytes (log 6). -/
def State.freeBytes (s : State) (n : Nat) : State × List Byte :=
  ({ s with free := s.free + n }, (List.range n).map fun i => (Config.freeDword (s.free + i)).setWidth 8)

/-- A line that an engine reads, through the L1 of its core; what the peer window's hold besides is free (log 6). none while the home cannot
answer. -/
def State.engineLine (s : State) (pipe pa : Nat) (va : BitVec 64) : Option (State × Vector Byte 128) :=
  if target pa = .peer then
    match s.l1Hit (lineOf pa) with
    | some d => some (s, d)
    | none => let x := s.freeLine; some (x.1.fillFrom (lineOf pa) va (s.rat s.ctx va) x.2)
  else s.readLine (lineOf pa) va (!s.team.service) (pipeRequester pipe)

/-- The bytes at one piece. -/
def State.enginePiece (s : State) (pipe : Nat) (p : BitVec 64 × Nat) : Option (State × List Byte) :=
  let x := (s.useRat s.ctx).translate s.ctx .load s.team.service p.1 pipe
  match x.2 with
  | .ok pa => (x.1.engineLine pipe pa p.1).map fun r => (r.1, lineBytes r.2 (pa % 128) p.2)
  | _ => none

/-- The bytes of a list of pieces. -/
def State.engineRead (s : State) (pipe : Nat) : List (BitVec 64 × Nat) → Option (State × List Byte)
  | [] => some (s, [])
  | p :: rest => match s.enginePiece pipe p with
    | none => none
    | some (s, l) => (s.engineRead pipe rest).map fun r => (r.1, l ++ r.2)

/-- What an engine has written for a warp with number owner is one group of its signature, at the place of the fork (R362). -/
def State.signEngine (s : State) (owner stamp : Nat) (va : BitVec 64) (data : List Byte) : State :=
  if s.team.paired then
    let g : SigGroup := { owner := owner, stamp := stamp, key := va.toNat, va := va, data := data }
    if (s.teamWarps s.team.handle).any fun w => w.uid == owner then
      s.onTeamWarps s.team.handle fun w => if w.uid = owner then { w with sig := w.sig ++ [g] } else w
    else { s with team := { s.team with sig := s.team.sig ++ [g] } }
  else s

/-- An update of an engine of the team in focus, for the warp with an index: kept by the core (R201, R213), and held with its team's (R363,
R365), or sent. The answer is its tw, 0 where it has none yet: a tied copy arrives while its team holds its updates, and their tw enter the
team's WCT when they are sent, since R270 does not speak of held updates (DESIGN CHOICE: log 103). What reaches host memory after link loss is
discarded (R354). -/
def State.engineUpdate (s : State) (pipe who warp : Nat) (va : BitVec 64) (pa : Nat) (kind : UpdateKind) : State × Nat :=
  let u : Update := { s.newUpdate va pa kind true with
    warp := warp, who := who, asker := pipeRequester pipe, counted := countsMiss (s.rat s.ctx va) pa s.team.service }
  if target pa = .host ∧ s.hostGone then (s, 0)
  else if s.team.holds then (s.holdUpdate u, 0)
  else s.sendUpdate u

/-- An update of an operation to the peer window has not been acknowledged (R360). -/
def State.peerWaits (s : State) (h who : Nat) : Bool :=
  s.pkg.peers.any fun p => p.team == h && p.update?.any fun u => u.who == who

/-! ## Operations of CPRED (Table 17-5) -/

/-- The tags of an operation of CPRED (Table 17-5). -/
def combineTags (op : Nat) : List Tag :=
  match op with
  | 0 | 1 => [.i32, .n32, .raw]
  | 2 => [.rw]
  | 3 => [.fp32]
  | 4 => [.fp16]
  | _ => []

/-- Element bytes of an operation of CPRED. -/
def combineBytes (op : Nat) : Nat := if op = 1 ∨ op = 2 then 8 else 4

/-- The RED operation that performs an element (Table 17-5). -/
def combineRed (op : Nat) : Nat := ([0, 10, 11, 8, 9] : List Nat).getD op 0

/-! ## Movement -/

/-- Bytes of a row on the global side. -/
def CopyOp.globalBytes (c : CopyOp) : Nat :=
  let d := c.desc
  if d.stag = d.dtag ∨ c.red then d.len else (d.len * Tag.width (if d.dir then d.dtag else d.stag) + 7) / 8

/-- Element j of a row in stream layout (R74). -/
def streamElem (t : Tag) (row : List Byte) (j : Nat) : Nat := leNat row / 2 ^ (j * Tag.width t) % 2 ^ Tag.width t

/-- A destination row from a source row: bytes, or elements each delivered by RoundNE, padded with zero bits (R266). A VOID
element is read as zero. -/
def CopyOp.convert (c : CopyOp) (row : List Byte) : List Byte :=
  let d := c.desc
  if d.stag = d.dtag ∨ c.red then row
  else
    let book (l : List (BitVec 16)) (i : Nat) : Nat := (l.getD i 0).toNat
    let w := Tag.width d.dtag
    let out := (List.range d.len).map fun j =>
      (convertTo d.dtag 0 (sourceOf (book c.cb4) (book c.cb8) d.stag (streamElem d.stag row j))).1 % 2 ^ w * 2 ^ (j * w)
    leBytes out.sum ((d.len * w + 7) / 8)

/-- The global address of row r and its scratchpad offset. -/
def CopyOp.rowAt (c : CopyOp) (r : Nat) : BitVec 64 × Nat :=
  (c.g0 + BitVec.ofNat 64 (r * c.desc.gstride.toNat), c.desc.soff + r * c.desc.sstride)

def CopyOp.rows (c : CopyOp) : List Nat := if c.range ∨ c.desc.len ≠ 0 then List.range c.desc.rows else []

/-- The access of a copy to its global side. -/
def CopyOp.access (c : CopyOp) : Access := if c.red then .both else if c.desc.dir then .store else .load

/-- A part of a copy, which moves at once: the bytes from off on of a row, at the global pieces (R266; DEDUCED: log 59). -/
structure Part where
  row : Nat
  off : Nat
  pieces : List (BitVec 64 × Nat)
deriving DecidableEq, Repr

def partsOf (row : Nat) : Nat → List (BitVec 64 × Nat) → List Part
  | _, [] => []
  | off, p :: rest => { row := row, off := off, pieces := [p] } :: partsOf row (off + p.2) rest

/-- The parts of a row: its global pieces, or all of it where its elements are converted on their way to the scratchpad. -/
def CopyOp.rowParts (c : CopyOp) (r : Nat) : List Part :=
  let ps := Machine.pieces (c.rowAt r).1 c.globalBytes
  if c.desc.dir || c.desc.stag == c.desc.dtag then partsOf r 0 ps else [{ row := r, off := 0, pieces := ps }]

def CopyOp.parts (c : CopyOp) : List Part := c.rows.flatMap c.rowParts

/-- The parts of a copy that have not moved, with their places. -/
def CopyOp.left (c : CopyOp) : List (Nat × Part) :=
  if c.moved then [] else ((List.range c.parts.length).zip c.parts).filter fun p => !c.done.contains p.1

/-- Which bytes a movement covers: all of them, or, for a copy that stops early, those that free bits name (R277, R280). -/
def State.chosen (s : State) (partly : Bool) (data : List Byte) : State × List (Option Byte) :=
  if partly then
    ({ s with free := s.free + data.length },
      (data.zip (List.range data.length)).map fun p => if Config.freeBit (s.free + p.2) then some p.1 else none)
  else (s, data.map some)

def State.setCopy (s : State) (uid : Nat) (f : CopyOp → CopyOp) : State :=
  { s with team := { s.team with copies := s.team.copies.map fun c => if c.uid = uid then f c else c } }

/-- The scratchpad bytes of a row of a copy's source: what was read ahead, or what stands there now. -/
def State.copySource (s : State) (c : CopyOp) (r : Nat) : List Byte :=
  match c.source with
  | some l => (l.drop (r * c.desc.sstride)).take (c.desc.rowBytes c.red)
  | none => Memory.readBytes s.team.scratch (c.rowAt r).2 (c.desc.rowBytes c.red)

/-- A part from global memory to the scratchpad. -/
def State.loadPart (s : State) (c : CopyOp) (partly : Bool) (p : Part) : Option State :=
  match s.engineRead 2 p.pieces with
  | none => none
  | some (s, row) =>
    let x := s.chosen partly (c.convert row)
    some { x.1 with team := { x.1.team with scratch := Memory.writeMasked x.1.team.scratch ((c.rowAt p.row).2 + p.off) x.2 } }

/-- The bytes of a run that a mask keeps, as writes of consecutive bytes. -/
def runsOf (va : BitVec 64) : List (Option Byte) → List (BitVec 64 × List Byte)
  | [] => []
  | none :: rest => runsOf (va + 1) rest
  | some b :: rest => match runsOf (va + 1) rest with
    | (a, l) :: more => if a = va + 1 then (va, b :: l) :: more else (va, [b]) :: (a, l) :: more
    | [] => [(va, [b])]

/-- The updates of one piece for an operation: its number, the index and the number of its warp, its place in program order; the greatest
tw. -/
def State.writePiece (s : State) (pipe who warp owner stamp : Nat) (va : BitVec 64) (data : List (Option Byte)) : State × Nat :=
  (runsOf va data).foldl (fun (p : State × Nat) (x : BitVec 64 × List Byte) =>
    let t := (p.1.useRat p.1.ctx).translate p.1.ctx .store p.1.team.service x.1 pipe
    match t.2 with
    | .ok pa => let u := (t.1.signEngine owner stamp x.1 x.2).engineUpdate pipe who warp x.1 pa (.bytes x.2); (u.1, max p.2 u.2)
    | _ => p) (s, 0)

/-- A part from the scratchpad to global memory. -/
def State.storePart (s : State) (c : CopyOp) (partly : Bool) (p : Part) : State :=
  let x := s.chosen partly (((c.convert (s.copySource c p.row)).drop p.off).take (p.pieces.map (·.2)).sum)
  match p.pieces with
  | q :: _ =>
    let u := x.1.writePiece 2 c.uid c.warp c.owner c.stamp q.1 x.2
    u.1.setCopy c.uid fun c => { c with tw := max c.tw u.2 }
  | [] => x.1

/-- A contribution covers bytes off .. of its line. -/
def lineData (off : Nat) (data : List (Option Byte)) : List (Option Byte) :=
  List.replicate off none ++ data ++ List.replicate (128 - off - data.length) none

/-- The bytes of an element move together. -/
def wholeElems (n : Nat) : Nat → List (Option Byte) → List (Option Byte)
  | 0, _ => []
  | f + 1, l =>
    let e := l.take n
    if l.isEmpty then [] else (if e.all Option.isSome then e else e.map fun _ => none) ++ wholeElems n f (l.drop n)

/-- The contribution of one part, which lies in one line (R275); after link loss one to host memory is discarded (R354). -/
def State.contributePart (s : State) (c : CopyOp) (partly : Bool) (p : Part) : State :=
  match p.pieces with
  | q :: _ =>
    let x := s.chosen partly (((s.copySource c p.row).drop p.off).take q.2)
    let data := wholeElems (combineBytes c.desc.op) (q.2 + 1) x.2
    let t := (x.1.useRat x.1.ctx).translate x.1.ctx .both x.1.team.service q.1 2
    match t.2 with
    | .ok pa =>
      if data.all Option.isNone ∨ (target pa = .host ∧ t.1.hostGone) then t.1
      else
        let a := t.1.rat t.1.ctx q.1
        let k : Contribution :=
          { id := t.1.nextId, team := s.team.handle, copy := c.uid, core := s.core.num, ctx := s.ctx.id, line := lineOf pa, va := q.1,
            op := c.desc.op, anyorder := c.anyorder, host := target pa == .host, route := a.route, fallback := a.fallback,
            data := lineData (pa % 128) data }
        ({ t.1 with nextId := t.1.nextId + 1, contributions := t.1.contributions ++ [k] } : State).setCopy c.uid
          fun c => { c with pending := c.pending + 1 }
    | _ => t.1
  | [] => s

/-- Part n has moved; a copy whose parts have all moved has read its source. -/
def CopyOp.pass (n : Nat) (c : CopyOp) : CopyOp :=
  let all := c.parts.length ≤ c.done.length + 1
  { c with begun := true, done := n :: c.done, moved := all, srcRead := c.srcRead || all }

/-- The line requests of a part of a copy, which are marked as they are sent: reads before what they fetch has arrived, writes once they have
their stamps (R376). -/
def State.samplePart (s : State) (c : CopyOp) (p : Part) (reads : Bool) : State :=
  if (c.access == .load) == reads then s.sampleFor c.origin c.access (p.pieces.map (·.1)) c.red else s

/-- Part n of a copy of the team in focus moves; partly tells that the copy then stops. none while its access fails or stalls, or a home
cannot answer. -/
def State.movePart (s : State) (c : CopyOp) (partly : Bool) (n : Nat) (p : Part) : Option State :=
  if !(s.probe 2 c.access (p.pieces.map (·.1))).clear then none
  else
    let s := s.samplePart c p true
    (if c.red then some (s.contributePart c partly p)
      else if c.desc.dir then some (s.storePart c partly p)
      else s.loadPart c partly p).map fun t => ((t.samplePart c p false).setCopy c.uid (CopyOp.pass n)).heldLimit

/-- Parts of a copy move, in ascending order. -/
def State.moveParts (s : State) (c : CopyOp) : List (Nat × Part) → Option State
  | [] => some s
  | p :: rest => (s.movePart c false p.1 p.2).bind fun s => s.moveParts c rest

/-- What warp w of the team, with number owner, did before a fork has been performed, so that the engine observes it (R8). -/
def State.forkSeen (s : State) (h w owner stamp : Nat) : Bool :=
  !s.owes h w stamp (fun _ => true) &&
  (s.teamWarps h).all fun x => x.uid != owner || x.slots.toList.all fun y => y.todo.isEmpty || decide (stamp ≤ y.order)

/-- The engine of the core in focus may work on a copy: it begins copies in fork order (R263). -/
def State.mayBegin (s : State) (c : CopyOp) : Bool :=
  c.begun ||
    (s.forkSeen s.team.handle c.warp c.owner c.stamp &&
      (s.coreTeams s.core.num).all fun t => t.copies.all fun x => x.begun || x.moved || decide (c.stamp ≤ x.stamp))

/-- A copy of the team in focus stops: of each part that could move now, free bits say which bytes have moved; a write that WBLOCK or
TRANSIT stalls is dropped (R277, R280, R282). -/
def State.stopCopy (s : State) (c : CopyOp) : State :=
  if s.mayBegin c then c.left.foldl (fun s p => (s.movePart c true p.1 p.2).getD s) s else s

/-- Copies of a team are cancelled: they move nothing more, their ranges are free, and their contributions that no switch
holds are dropped (R277, Table 9-3 step 5). -/
def State.cancelCopies (s : State) (h : Nat) (p : CopyOp → Bool) : State :=
  match s.focusTeam h with
  | none => s
  | some s =>
    let gone := s.team.copies.filter p
    let s := gone.foldl State.stopCopy s
    { s with
      team := { s.team with copies := s.team.copies.filter fun c => !p c }
      contributions := s.contributions.filter fun c => !(c.team == h && gone.any fun g => g.uid == c.copy) }

/-- Contributions of a copy have been performed at tw. -/
def State.returnTw (s : State) (team copy tw : Nat) : State :=
  s.onTeam team fun t => { t with copies := t.copies.map fun c =>
    if c.uid = copy then { c with pending := c.pending - 1, tw := max c.tw tw } else c }

/-- The tw of an update of a copy or a matrix operation: the operation takes it, or, where that is over, every warp of the team, since any of
them may have joined it (R9, R213). -/
def State.foldWho (s : State) (h who tw : Nat) : State :=
  let t := s.teamOf h
  if t.copies.any fun c => c.uid == who then
    s.onTeam h fun t => { t with copies := t.copies.map fun c => if c.uid = who then { c with tw := max c.tw tw } else c }
  else if t.mops.any fun o => o.id == who then
    s.onTeam h fun t => { t with mops := t.mops.map fun o => if o.id = who then { o with tw := max o.tw tw } else o }
  else s.onTeamWarps h fun w => { w with wct := max w.wct tw }

/-- The tw of an update that has got a later one than it had at first, or whose peer has acknowledged it (R200, R206, R360). -/
def State.foldTw (s : State) (u : Update) (tw : Nat) : State :=
  let fold (w : Warp) : Warp := { w with wct := max w.wct tw }
  if !u.copies.isEmpty then u.copies.foldl (fun s c => s.foldWho c.1 c.2 tw) s
  else if u.who ≠ 0 then s.foldWho u.team u.who tw
  else if u.warp = anyWarp then s.onTeamWarps u.team fold
  else s.onWarp u.team u.warp fold

/-! ## COPYFAULT (R280) -/

/-- The thrower of a failed copy of the team in focus, by the number of the forking warp: warp and lane; none when no warp is left. -/
def State.copyThrower (s : State) (owner : Nat) : Option (Nat × Nat) :=
  let ws := sortBy (fun (a b : Warp) => a.idx ≤ b.idx) (s.teamWarps s.team.handle)
  let w := match ws.find? fun w => w.uid == owner with
    | some w => some w
    | none => ws.head?
  w.map fun w => (w.idx, (lowest w.live).getD 0)

/-- The delivery that a thrower has opened or joined counts one copy more. -/
def State.countCopy (s : State) (r : Holder) : State :=
  { s with deliveries := s.deliveries.map fun (d : Delivery) => if d.isFor r then { d with ncopy := d.ncopy + 1 } else d }

/-- What a CPRED of a primary twin has come to goes to its secondary (R364). -/
def State.tellTwin (s : State) (c : CopyOp) (failed : Option (BitVec 64)) : State :=
  match s.team.twin, c.nth with
  | some q, some n =>
    if s.team.primary then s.onTeam q fun t => { t with predEnds := t.predEnds ++ [{ warp := c.warp, nth := n, tw := c.tw, failed := failed }] }
    else s
  | _, _ => s

/-- A failed copy ends, with its atomic operations that are not being emulated and with its tie, so that it arrives nowhere: R280 does not say
when the tie is withdrawn (DESIGN CHOICE: log 104). COPYFAULT is thrown at team level, or at grid level where no team region is open. -/
def State.failCopy (s : State) (c : CopyOp) (addr : BitVec 64) : State :=
  let h := s.team.handle
  let s := (s.tellTwin c (some addr)).cancelCopies h fun x => x.uid == c.uid
  let mine (a : AtomOp) : Bool := a.who == c.uid && a.lanes.all fun l => l.route == .host
  let s : State := { s with core := { s.core with atoms := s.core.atoms.filter fun a => !mine a } }
  match s.copyThrower c.owner with
  | none => s.doom Code.copyfault c.pc addr
  | some (w, L) => match s.focusOn h w with
    | none => s
    | some s =>
      let r := s.teamRegion
      let s := s.throwAll [(r, { s.thrower L Code.copyfault c.pc addr with own := false })]
      match r with
      | some r => s.countCopy r
      | none => s

end Sys2Proof.Machine
end

