-- ==== Sys2Proof/Machine/Delivery.lean ====
section
/-! DEFINITION. Delivery of a throw (R178 to R182, Table 9-3), the record (R180), CATCH_ENTRY, events of a context (R348, R349)
and the rollback of a guarded team (R366). -/

namespace Sys2Proof.Machine

/-! ## Events -/

/-- An event record of 32 bytes reaches the event queue of a context, or is lost and counted (R348, R349, R354). -/
def State.postEvent (s : State) (ctx kind code launch : Nat) (addr : BitVec 64) (why : Nat) : State :=
  let c := s.ctxOf ctx
  let r : State × Ctx :=
    if !c.evq.room || (c.evq.inHost && s.hostGone) then (s, { c with evqdrop := saturate32 c.evqdrop })
    else
      let p := s.postTo c.evq (word4 (kind + 2 ^ 16 * code) ++ word4 launch ++ word8 addr.toNat ++ word8 s.gtc ++ word4 why ++ word4 0)
      (p.1, { c with evq := p.2 })
  if r.1.ctx.id = ctx then { r.1 with ctx := r.2 } else { r.1 with ctxs := r.2 :: r.1.ctxs.filter (fun x => x.id != ctx) }

/-! ## SVC batches -/

/-- The batches of a warp that hold a lane of a mask are marked CANCEL in their ring entries (R347). -/
def State.cancelBatches (s : State) (h i : Nat) (m : Mask) : State :=
  let d := (s.teamOf h).die
  let die := s.dieAt d
  let doomed (b : Batch) : Bool := b.team == h && b.warp == i && b.mask &&& m != 0
  let mine := die.batches.filter doomed
  let s := mine.foldl (fun (s : State) b =>
    let a := die.svcq.base.toNat + 576 * b.index
    if die.svcq.inHost && s.hostGone then s else s.setBits a 64) s
  (s.setDie d { die with batches := die.batches.map fun b => if doomed b then { b with cancel := true } else b }).onWarp h i
    (Warp.reissueSvc (mine.map (·.index)))

/-! ## The record (Table 9-4) -/

/-- Rank of R181: team index at grid level, then warp, then lane. -/
def Thrower.before (grid : Bool) (a b : Thrower) : Bool :=
  let ta := if grid then a.teamIndex else 0
  let tb := if grid then b.teamIndex else 0
  ta < tb || (ta == tb && (a.warp < b.warp || (a.warp == b.warp && a.lane < b.lane)))

def firstThrower (grid : Bool) : List Thrower → Option Thrower
  | [] => none
  | t :: ts => match firstThrower grid ts with
    | none => some t
    | some u => some (if t.before grid u then t else u)

/-- The region id of R164: catch PC[33:2]. -/
def regionId (pc : BitVec 64) : Word := BitVec.ofNat 32 (bits pc 2 32)

/-- Stop PC of a lane of a warp: that of its THROW where it threw in its warp's trap routine, and else where the delivery stopped it (R179). -/
def Delivery.stopPc (d : Delivery) (h i L : Nat) : Option (BitVec 64) :=
  (d.stopped.find? fun x => x.team == h && x.warp == i && x.lanes.getLsbD L).map fun x =>
    (d.throwers.findSome? fun u => if u.team = h ∧ u.warp = i ∧ u.lane = L then u.stopAt else none).getD (look x.pcs 0 L)

/-- The PC that the record gives of a thrower: its stop PC, which the throw itself names, but for SIGMISMATCH, which takes lanes wherever they
stop (R179, R180, R192). -/
def Delivery.throwerPc (d : Delivery) (t : Thrower) : BitVec 64 :=
  if !t.own && t.code == Code.sigmismatch then (d.stopPc t.team t.warp t.lane).getD t.pc else t.pc

/-- The sixteen words of the record. -/
def Delivery.record (d : Delivery) : Vector Word 16 :=
  match firstThrower (d.level == 2) d.throwers with
  | none => Vector.replicate 16 0
  | some t =>
    let n := min 255 (d.throwers.map fun u => (u.team, u.warp, u.lane)).dedup.length
    let lanes := maskOf fun L => d.throwers.any fun u => u.team == t.team && u.warp == t.warp && u.lane == L
    let warps := maskOf fun w => d.throwers.any fun u => u.warp == w
    let orcode := d.throwers.foldl (fun c u => c ||| u.code) (0#16)
    let w0 := t.code.toNat + 2 ^ 16 * d.level + (if t.f then 2 ^ 18 else 0) + 2 ^ 24 * n
    let pc := d.throwerPc t
    #v[BitVec.ofNat 32 w0, t.tid, pc.setWidth 32, (pc >>> 32).setWidth 32, t.addr.setWidth 32, (t.addr >>> 32).setWidth 32,
      warps, lanes, BitVec.ofNat 32 (orcode.toNat + 2 ^ 16 * min 65535 d.ncopy), d.barmask.setWidth 32, regionId d.region.catchPc, 0,
      BitVec.ofNat 32 d.gtc, BitVec.ofNat 32 (d.gtc / 2 ^ 32), 0, 0]

/-! ## Steps 2 to 7 -/

/-- The member warps of a delivery. -/
def State.deliveryWarps (s : State) (d : Delivery) : List Warp :=
  match d.level with
  | 0 => (s.teamWarps d.team).filter fun w => w.idx == d.warp
  | 1 => s.teamWarps d.team
  | _ => s.allWarps.filter fun w => (s.gridMembers d.launch).contains (w.team, w.idx)

/-- The teams that a delivery at team or grid level reaches. -/
def State.deliveryTeams (s : State) (d : Delivery) : List Nat :=
  match d.level with
  | 0 => []
  | 1 => [d.team]
  | _ => ((s.allTeams.filter fun t => t.launch == d.launch && (t.life == .resident || t.life == .preempting || t.life == .ending)).map (·.handle))

def Delivery.holder (d : Delivery) : Holder := { level := d.level, region := d.region }

/-- The pending faults of a warp without those of lanes that a delivery has stopped before they were taken (R179). -/
def Park.without (m : Mask) (l : List Park) : List Park :=
  (l.map fun p => if 2 ≤ p.second then { p with lanes := p.lanes &&& ~~~m } else p).filter fun p => p.second < 2 || p.lanes != 0

/-- Steps 2 and 3 in one member warp: its members leave the frontier at their stop PCs, its waits end, its slots are
cancelled, a park is withdrawn (R179). A wait of the whole warp, whose entry holds a member lane, ends at warp level too. An arrival at the grid
barrier that this wait stood for stays counted unless the delivery is of the grid, so that BAR GRID SYNC repeated makes no second one; R42 and
Table 9-3 are silent on it (DESIGN CHOICE: log 98). -/
def Warp.sweep (d : Delivery) (w : Warp) : Warp × Stopped :=
  let all := d.holder.members w
  let st := w.stopLanes all
  let w : Warp :=
    if d.level = 0 then
      if st.2.lanes = 0 then { st.1 with park := none }
      else { st.1.unwait with park := none, hold := .none, pendFault := Park.without st.2.lanes st.1.pendFault }
    else { st.1.release with pendFault := [] }
  let w := if d.level = 0 then w.cancelSlots all else w.cancelAll
  (w, st.2)

/-- Barriers with arrivals or waiters (step 6). -/
def State.barMask (s : State) (h : Nat) : BitVec 16 :=
  let t := s.teamOf h
  let waits (b : Nat) (w : Warp) : Bool := match w.hold with
    | .bar b' _ _ _ => b' == b
    | _ => false
  BitVec.ofNat 16 (((List.range 16).map fun b =>
    if (t.bar b).arrivals != 0 || (s.teamWarps h).any (waits b) then 2 ^ b else 0).sum)

/-- Steps 5 to 7 in one team at team or grid level. The end flags of regions that stay open stay as they are, also that of a warp which the
delivery releases from its ENDTRY; R166 is silent on it (DESIGN CHOICE: log 81). -/
def State.sweepTeam (s : State) (d : Delivery) (h : Nat) : State × Nat :=
  let doomed (c : CopyOp) : Bool := d.region.stamp < c.stamp || c.tie.isSome
  let n := ((s.teamOf h).copies.filter doomed).length
  let s := s.cancelCopies h doomed
  let clear (p : Team × Nat) (k : Nat) : Team × Nat :=
    if (p.1.conv k).state = .open then (p.1.clearConv k p.2, p.2 + 1) else p
  let t := s.teamOf h
  let t := { t with bars := t.bars.map fun (b : Barrier) => { Barrier.blank with gen := b.gen + 1, past := b.past }, regroups := [] }
  let r := (List.range 16).foldl clear (t.abandonAll, s.nextId)
  ({ s.onTeam h fun _ => r.1 with nextId := r.2 }, n)

/-- Step 7 of a warp-level delivery: OPEN registers that name the warp, and the FAULTED operation op that its park stands for; the warp's
REGROUP is withdrawn (R332). -/
def State.sweepOwn (s : State) (h i op : Nat) : State :=
  let clear (p : Team × Nat) (k : Nat) : Team × Nat :=
    if (p.1.conv k).state = .open ∧ (p.1.conv k).members.getLsbD i then (p.1.clearConv k p.2, p.2 + 1) else p
  let t := (s.teamOf h).endFaulted op
  let r := (List.range 16).foldl clear ({ t with regroups := t.regroups.filter fun r => r.warp != i }, s.nextId)
  { s.onTeam h fun _ => r.1 with nextId := r.2 }

/-- Steps 2 to 7 of a delivery. -/
def State.sweepAll (s : State) (d : Delivery) : State × Delivery :=
  let ts := s.deliveryTeams d
  let mask := ts.foldl (fun m h => m ||| s.barMask h) d.barmask
  let op := (((s.deliveryWarps d).head?.bind (·.park)).map (·.op)).getD 0
  let swept := (s.deliveryWarps d).map fun w => ((w.team, w.idx), w.sweep d)
  let s := swept.foldl (fun s p => (s.onWarp p.1.1 p.1.2 fun _ => p.2.1).cancelBatches p.1.1 p.1.2 p.2.2.lanes) s
  let r := ts.foldl (fun (p : State × Nat) h => let q := p.1.sweepTeam d h; (q.1, p.2 + q.2)) (s, d.ncopy)
  let s := if d.level = 0 then r.1.sweepOwn d.team d.warp op else r.1
  let s := if d.level = 2 then s.onLaunch d.launch fun x => { x with gridGen := x.gridGen + 1, gridArrived := [] } else s
  (s, { d with stopped := swept.map (·.2.2) ++ d.stopped, ncopy := r.2, barmask := mask, swept := true })

/-! ## Step 9 -/

/-- A member warp enters the catch: a yield point, with one entry for its members and the record (R168, R178). -/
def Warp.enterCatch (pr : BitVec 64 → Option (BitVec 8)) (d : Delivery) (id : Nat) (w : Warp) : Warp :=
  let m := maskOf fun L => (d.stopPc w.team w.idx L).isSome
  let w := w.yieldPoint.replace pr
  let tries := w.tries.filter fun r => r.stamp < d.region.stamp
  { w with
    frontier := if m = 0 then w.frontier
      else placeEntry pr none { id := id, prio := 0, pc := d.region.catchPc, mask := m, wait := .ready } w.frontier
    lastEntry := none
    tries := tries
    record := d.record
    caught := true
    stopPc := ⟨((List.range 32).map fun L => (d.stopPc w.team w.idx L).getD 0).toArray, by simp⟩
    threw := maskOf fun L => d.throwers.any fun u => u.team == w.team && u.warp == w.idx && u.lane == L }

/-- The stacks of a warp's team and grid hold nt and ng regions after a catch: jt and jg count no region that has been popped (R165). A wait in
ENDTRY for a popped region, which is one of a warp that the delivery does not reach, ends as when the region closes (DESIGN CHOICE: log
107). -/
def Warp.regionsPopped (pr : BitVec 64 → Option (BitVec 8)) (nt ng : Nat) (w : Warp) : Warp :=
  let ended (x : Hold) : Bool := (x == .endtry 1 && decide (nt < w.jt)) || (x == .endtry 2 && decide (ng < w.jg))
  let v := if ended w.hold then w.passOn pr else w
  { v with jt := min w.jt nt, jg := min w.jg ng, savedHold := if ended w.savedHold then .released else w.savedHold }

/-- The team and grid stacks lose the catching region and the regions nested inside it, those that were opened after it while it was open, be
it a warp's own; jt and jg follow (R165, R174). -/
def State.popRegions (s : State) (d : Delivery) : State :=
  let keep (l : List Region) : List Region := l.filter fun r => r.stamp < d.region.stamp
  let hs := if d.level = 0 then [d.team] else s.deliveryTeams d
  let s := hs.foldl (fun s h => s.onTeam h fun t => { t with tries := keep t.tries }) s
  let s := s.onLaunch d.launch fun x => { x with gtries := keep x.gtries }
  let n := (s.launchOf d.launch).gtries.length
  (hs ++ (s.gridMembers d.launch).map (·.1)).dedup.foldl (fun s h =>
    let t := s.teamOf h
    s.onTeamWarps h (Warp.regionsPopped (s.prOf t) t.tries.length n)) s

/-- A warp is STALLED at an ATOM or RED on a host route that has begun (R229, R232). -/
def State.holdsAtom (s : State) (h w : Nat) : Bool :=
  (s.core :: s.cores).any fun c => c.atoms.any fun a => a.team == h && a.warp == w && a.held

/-- Every member can be stopped: its team is on a core, it runs no trap routine, and its long operations have produced their
results (R134, R179, R229). -/
def State.stoppable (s : State) (d : Delivery) : Bool :=
  (s.deliveryWarps d).all fun w =>
    !w.tdepth && w.unproduced.isEmpty && !s.holdsAtom w.team w.idx &&
      ((s.teamOf w.team).life == .resident || (s.teamOf w.team).life == .preempting || (s.teamOf w.team).life == .ending)

/-- A delivery under way at a region nested inside that of d, which reaches its members first: each region delivers separately (R176,
log 9). -/
def Delivery.nested (d e : Delivery) : Bool :=
  d.region.stamp < e.region.stamp &&
    (match max d.level e.level with
      | 0 => e.team == d.team && e.warp == d.warp
      | 1 => e.team == d.team
      | _ => e.launch == d.launch)

/-- A line of a core that is to be written back at device scope: a dirty SC line that has permission (R207, R212). -/
def State.toWriteBack (s : State) (l : L1Line) : Bool := l.cls == 1 && l.dirty != 0 && (s.backPa l).isSome

/-- The dirty SC lines of the core in focus are written back, but for those of write-blocked ranges. -/
def State.flushCore (s : State) : State :=
  (s.core.lines.filter fun l => s.toWriteBack l && !s.backBlocked l).foldl (fun s l =>
    ({ s with core := s.core.setLine { l with dirty := 0, pinned := false } } : State).sendBack l) s

/-- The cores of the member teams of a grid-level delivery. -/
def State.deliveryCores (s : State) (d : Delivery) : List Nat :=
  if d.level = 2 then ((s.deliveryTeams d).map fun h => (s.teamOf h).core).dedup else []

/-- Step 4 at grid level: the members' stores in their L1s are written back. -/
def State.performStores (s : State) (d : Delivery) : State :=
  let home := s.core.num
  ((s.deliveryCores d).foldl (fun s n => (s.focusCore n).flushCore) s).focusCore home

/-- A core holds a line that is still to be written back. -/
def State.coreDirty (s : State) (n : Nat) : Bool :=
  let t := s.focusCore n
  t.core.lines.any t.toWriteBack

/-- An update of a team, or a write-back of one of the cores, is still to be performed or acknowledged. -/
def State.updateLeft (s : State) (hs cores : List Nat) : Bool :=
  let mine (u : Update) : Bool := hs.contains u.team || (u.team == 0 && cores.contains u.core)
  (s.allTeams.any fun t => hs.contains t.handle && !t.out.isEmpty) || (s.home.any fun x => x.pend.any mine) || s.pkg.peers.any fun p => p.update?.any mine

/-- What step 9 waits for: issued matrix operations on the teams' tiles (step 7), and at grid level every store of the
members at device scope (step 4). -/
def State.waitsOver (s : State) (d : Delivery) : Bool :=
  let hs := if d.level = 0 then [d.team] else s.deliveryTeams d
  let cores := s.deliveryCores d
  (hs.all fun h => (s.teamOf h).matrixIdle) && (d.level != 2 || (!s.updateLeft hs cores && !cores.any s.coreDirty))

/-- The L1 lines of a core. -/
def State.coreLines (s : State) (n : Nat) : List L1Line := (s.focusCore n).core.lines

/-- A FAULTED operation that step 7 of a team-level or grid-level delivery finds after its sweep (R178, R296). -/
def State.lateFault (s : State) (d : Delivery) : Bool :=
  (s.deliveryTeams d).any fun h => (s.teamOf h).mops.any fun o => o.phase == .faulted

/-- Step 7 abandons the operations that have become FAULTED since the sweep: no warp parks or throws for them any more. -/
def State.abandonLate (s : State) (d : Delivery) : State :=
  (s.deliveryTeams d).foldl (fun s h =>
    let ids := ((s.teamOf h).mops.filter fun o => o.phase == .faulted).map (·.id)
    (s.onTeam h Team.abandonAll).onTeamWarps h fun w => { w with pendFault := w.pendFault.filter fun p => !ids.contains p.op }) s

/-- CATCH_ENTRY (R178): the members of a delivery are stopped, and, once what step 9 waits for is over, and the long operations that other
entries have issued meanwhile have produced their results (R134), enter the catch. -/
def execCatchEntry (delivery : Nat) (s : State) : Host.Outcome State Fault Refusal :=
  match s.deliveries.find? fun d => d.id == delivery with
  | none => .fault .cannotHappen
  | some d =>
    if d.swept && s.lateFault d then .next (s.abandonLate d).wake
    else if d.swept && !s.waitsOver d then
      let t := s.performStores d
      if (s.deliveryCores d).any fun n => (s.coreLines n).any fun l => l.dirty != 0 && !(t.coreLines n).contains l then .next t.wake
      else .fault .cannotHappen
    else if !s.stoppable d || (!d.swept && s.deliveries.any d.nested) then .fault .cannotHappen
    else
      let r := if d.swept then (s, d) else let q := s.sweepAll d; (q.1.performStores d, q.2)
      let s := { r.1 with deliveries := r.1.deliveries.map fun (x : Delivery) => if x.id = d.id then r.2 else x }
      if s.waitsOver r.2 then
        let d := r.2
        let pr := s.prOf (s.teamOf d.team)
        let s := (s.deliveryWarps d).foldl (fun s w => s.onWarp w.team w.idx (Warp.enterCatch pr d s.nextId)) s
        let s := s.popRegions d
        let s : State := { s with nextId := s.nextId + 1, deliveries := s.deliveries.filter fun x => x.id != d.id }
        .next (s.settleAll (s.deliveryWarps d)).wake
      else .next s.wake

/-! ## Rollback (R366) -/

/-- ROLLBACK: a guarded team that consumed POISON returns to its checkpoint, whose barrier then completes; it is killed instead after side
effects, at the fourth rollback, or with no checkpoint to return to (DESIGN CHOICE: log 17). WCT never decreases (R200). The warps and the
matrix operations go back whole (DESIGN CHOICE: log 94), but for landing slots, which are cancelled; the signatures of twins start anew
(R363). -/
def State.rollback (s : State) (h : Nat) (pc addr : BitVec 64) : State :=
  let t := s.teamOf h
  match t.checkpoint with
  | none => s.onTeam h fun t => { t with doomed := some (Code.poison, pc, addr) }
  | some c =>
    if t.sideEffects || 3 ≤ t.rollbacks then s.onTeam h fun t => { t with doomed := some (Code.poison, pc, addr) }
    else
      let s := (s.teamWarps h).foldl (fun s w => s.cancelBatches h w.idx (maskOf fun _ => true)) (s.cancelCopies h fun _ => true)
      let now := s.teamWarps h
      let back := c.warps.map fun w => match now.find? fun x => x.idx == w.idx with
        | some x => { w.cancelAll with
          sig := []
          slot := x.slot, resident := x.resident, preempt := x.preempt, wct := max w.wct x.wct, seen := max w.seen x.seen,
          seenPeer := max w.seenPeer x.seenPeer, hostWritten := x.hostWritten, lostLines := x.lostLines }
        | none => { w.cancelAll with sig := [] }
      let s := s.onTeamWarps h fun w => { w with gone := true }
      let s : State := { s with
        warp := if s.warp.team = h then (back.find? fun w => w.idx == s.warp.idx).getD s.warp else s.warp
        warps := (back.filter fun w => !(s.warp.team == h && s.warp.idx == w.idx)) ++ s.warps.filter fun w => w.team != h }
      let s := s.onTeam h fun t => { t with
        scratch := c.scratch, tiles := c.tiles, bars := c.bars, tries := c.tries, convs := c.convs, mops := c.mops, mflags := c.mflags, held := [], sig := [], regroups := c.regroups, rollbacks := t.rollbacks + 1 }
      let s := { s with deliveries := s.deliveries.filter fun d => !(d.team == h && d.level != 2) }
      (s.releaseGen h c.barrier).postEvent t.ctx 3 Code.rollback.toNat (s.launchOf t.launch).name (s.launchOf t.launch).compl 0

end Sys2Proof.Machine
end

