-- ==== Sys2Proof/Machine/Commit.lean ====
section
/-! DEFINITION. COMMIT and COMMIT.ALL (R222 to R224). -/

namespace Sys2Proof.Machine

/-- The tags that a slot's destinations take (R224; the hit record's, whose TRSLOT bit is set, are those of Table 22-5); none is TAG. -/
def Slot.tags (x : Slot) (g : Tag) (traced : Bool) : Option (List Tag) :=
  if traced then some [.fp32, .fp16, .n32, .n32]
  else match x.kind with
  | .w => if g = .fp64 ∨ g = .rw then none else some [g]
  | .d => some [g, g]
  | .q | .trace => some [g, g, g, g]
  | .scalar => some [.raw]

/-- One destination register of a slot: the lanes of the load's mask are written, the tag is given, PENDING is cleared. -/
def Warp.commitReg (w : Warp) (x : Slot) (j r : Nat) (t : Tag) : Warp :=
  let old := w.bankReg r
  w.setBank r { data := mergeLanes x.mask (look x.data (splat 0) j) old.data, tag := t, stale := false, pending := false }

/-- The destinations of slot k are written, and it is EMPTY. A slot whose destination is a row of the VT view writes the tile
that the load named (R47); a number past the scalar registers names none of them, so that void is discarded (R49). -/
def State.commitData (s : State) (k : Nat) (ts : List Tag) : State :=
  let x := s.warp.land k
  let empty := s.warp.setSlot k { x with state := .empty, todo := [] }
  let cleared : Warp := { empty with trslot := empty.trslot &&& ~~~(1#16 <<< k) }
  match x.kind with
  | .scalar =>
    let v := lane (look x.data (splat 0) 0) ((lowest x.mask).getD 0)
    let w := { cleared with spend := cleared.spend.filter fun r => r != x.dest }
    { s with warp :=
        if x.dest = litNo then { w with lit := v } else if x.dest = sccNo then { w with ccs := v != 0 } else w.setScalar x.dest v }
  | _ =>
    (ts.zip (List.range ts.length)).foldl (fun (s : State) p =>
      if 256 ≤ x.dest then s.lateWrite (.vtRow x.tile (x.dest - 256 + p.2) (look x.data (splat 0) p.2) x.mask)
      else { s with warp := s.warp.commitReg x p.2 (x.dest + p.2) p.1 }) { s with warp := cleared }

/-- Slot k is EMPTY and its destinations keep their old values (R223). -/
def State.commitBad (s : State) (k : Nat) : State := { s with warp := s.warp.cancelSlot k }

/-- The lanes of a slot whose data is poisoned or lost. -/
def Slot.marked (x : Slot) : Mask := x.poisoned ||| x.lost

/-- The fault that marked lanes raise: POISON, or HOSTLOST where none is poisoned. -/
def Slot.fault (x : Slot) : Raise :=
  { code := if x.poisoned = 0 then Code.hostlost else Code.poison
    lanes := x.marked
    addr := ((x.addrs.find? fun l => some l.lane == lowest x.marked).map (·.va)).getD 0 }

/-- What COMMIT does with one slot. -/
inductive CommitStep where
  | pass (s : State)
  | wait (s : State)
  | raise (s : State) (r : Raise)
  | rollback (s : State) (addr : BitVec 64)

/-- The slot's destination is a row of a tile on which an operation is issued and incomplete: access to it through the VT view waits, STALLED
(R303). -/
def State.rowWaits (s : State) (x : Slot) : Bool := x.kind != .scalar && decide (256 ≤ x.dest) && s.team.pend x.tile != 0

/-- COMMIT of slot k of the warp in focus. -/
def State.commitSlot (s : State) (g : Tag) (k : Nat) : CommitStep :=
  let x := s.warp.land k
  if x.state = .empty then .pass s
  else match x.tags g (s.warp.trslot.getLsbD k) with
    | none => .raise s { code := Code.tag, lanes := s.mask, addr := 0 }
    | some ts =>
      if x.state = .inflight || s.rowWaits x then .wait s
      else if x.marked ≠ 0 then
        if s.team.guarded && x.poisoned != 0 then .rollback s x.fault.addr else .raise (s.commitBad k) x.fault
      else .pass (s.commitData k ts)

/-- The slots of a list in turn; a fault or a wait leaves the later ones untouched. -/
def State.commitSlots (s : State) (g : Tag) : List Nat → CommitStep
  | [] => .pass s
  | k :: rest => match s.commitSlot g k with
    | .pass s => s.commitSlots g rest
    | other => other

/-- Slots that are not EMPTY. -/
def Warp.slotsUsed (w : Warp) : Nat := (w.slots.toList.filter fun x => x.state != .empty).length

/-- COMMIT and COMMIT.ALL. A POISON that a guarded team consumes rolls it back (R366). -/
def State.commitBy (s : State) (i : Instr) (g : Tag) (slots : List Nat) : Host.Outcome State Fault Refusal :=
  s.attempt (fun _ => { legal := i.wellFormed }) fun s =>
    match s.commitSlots g slots with
    | .pass t => .done t.enterInvalid.advance
    | .wait t => .wait t (t.warp.slotsUsed != s.warp.slotsUsed)
    | .raise t r => .raise t r
    | .rollback t a => .done (t.rollback t.team.handle t.entry.pc a)

/-- COMMIT. -/
def execCommit (g : Tag) (slot : BitVec 4) (s : State) : Host.Outcome State Fault Refusal :=
  s.commitBy (.commit g slot) g [slot.toNat]

/-- COMMIT.ALL. -/
def execCommitAll (g : Tag) (s : State) : Host.Outcome State Fault Refusal :=
  s.commitBy (.commitAll g) g (List.range 16)

end Sys2Proof.Machine
end

