-- ==== Sys2Proof/Machine/Stores.lean ====
section
/-! DEFINITION. STG and SST (R128, R225 to R227), FENCE (R204, R234), CFLUSH, CINV, PREF (R238, R239), TLBINV (R248), the
performance of updates (R200), evictions (R199, R207), host snoops and round trips (R211). -/

namespace Sys2Proof.Machine

/-! ## Stores -/

/-- Lane stores in ascending lane order, each of the bytes f gives (R226). -/
def State.storeLanes (s : State) (f : Nat → List Byte) (lanes : List LaneLoad) : State :=
  lanes.foldl (fun s l => s.storeLane l (f l.lane)) s

/-- Bytes of a lane by the form's selector (Table 12-5). -/
def stgWidth (w : BitVec 2) : Nat := ([4, 8, 16, 1] : List Nat).getD w.toNat 4

/-- Registers of the data operand. -/
def stgRegs (w : BitVec 2) : Nat := ([1, 2, 4, 1] : List Nat).getD w.toNat 1

/-- The bytes that lane L of a data operand stores. -/
def State.storeData (s : State) (d : VOp) (w : BitVec 2) (L : Nat) : List Byte :=
  ((List.range (stgRegs w)).flatMap fun j => word4 (lane (s.vec d j) L).toNat).take (stgWidth w)

/-- An ATOM of the warp in focus on one of the lines has not reached the line yet: a later update of the warp must not overtake it
(R200). -/
def State.atomAhead (s : State) (lanes : List LaneLoad) : Bool :=
  s.core.atoms.any fun a => a.team == s.team.handle && a.warp == s.warp.idx && a.who == 0 &&
    a.lanes.any fun l => l.route != .home && l.route != .peer && lanes.any fun x => lineOf x.pa == lineOf l.pa

/-- STG (R226). -/
def execStg (d a b : VOp) (w : BitVec 2) (s : State) : Host.Outcome State Fault Refusal :=
  s.attempt
    (fun _ => { legal := (Instr.stg d a b w).wellFormed,
                srcs := [{ op := d, count := stgRegs w }, { op := a, count := 2 }, { op := b }] })
    fun s =>
      let addrs := s.active.map fun L => (L, s.based a b L)
      let c := s.check .store (stgWidth w) addrs
      match c.2 with
      | .raise r => .raise s r
      | .stall => .wait c.1 false
      | .ok lanes =>
        if c.1.atomAhead lanes then .wait c.1 false
        else
        let t := (c.1.storeLanes (s.storeData d w) lanes).sample 0x73 .store (addrs.map (·.2))
        .done (t.enterInvalid.advance.heldLimit)

/-- SST and SST.D (R128): one lane of STG. -/
def execSst (d a b : SOp) (w : BitVec 2) (s : State) : Host.Outcome State Fault Refusal :=
  let n := if w = 1 then 2 else 1
  s.attempt
    (fun _ => { legal := (Instr.sst d a b w).wellFormed, ssrcs := [{ op := d, count := n }, { op := a, count := 2 }, { op := b }] })
    fun s =>
      let addrs := [(s.firstLane, s.sbased a b)]
      let c := s.check .store (4 * n) addrs
      match c.2 with
      | .raise r => .raise s { r with lanes := s.mask }
      | .stall => .wait c.1 false
      | .ok lanes =>
        if c.1.atomAhead lanes then .wait c.1 false
        else
        let data := (List.range n).flatMap fun j => word4 (s.sc d j).toNat
        let t := (c.1.storeLanes (fun _ => data) lanes).sample 0x38 .store (addrs.map (·.2))
        .done (t.enterInvalid.advance.heldLimit)

/-- HOME_UPDATE_PERFORM (R200): the first update of a line is performed at its tw. -/
def execHomeUpdatePerform (line : Nat) (s : State) : Host.Outcome State Fault Refusal :=
  match (s.homeLine line).pend with
  | u :: _ => if u.tw ≤ s.gtc ∧ (s.homeLine line).excl = none then .next (s.performFirst line).wake else .fault .cannotHappen
  | [] => .fault .cannotHappen

/-! ## FENCE -/

/-- Lines with a pending update of the warp in focus. -/
def State.pendingLines (s : State) : List Nat :=
  (s.home.filter fun h => h.pend.any fun u => u.team == s.team.handle && u.warp == s.warp.idx).map (·.line)

/-- Every update that is due at the lines where the warp waits is performed. -/
def State.settleOwn (s : State) : State := s.pendingLines.foldl State.settleHome s

/-- An ATOM or RED of a warp is in flight. -/
def State.atomsOf (s : State) (h w : Nat) : List AtomOp :=
  ((s.core :: s.cores).flatMap (·.atoms)).filter fun a => a.team == h && a.warp == w && a.who == 0

/-- Every earlier access of the warp in focus has been performed or kept (R204, warp and team rows). -/
def State.accessesDone (s : State) : Bool :=
  s.warp.loadsDone && (s.atomsOf s.team.handle s.warp.idx).isEmpty && !s.owes s.team.handle s.warp.idx s.nextId fun _ => true

/-- The dirty SC lines of the core in focus, pinned ones included (R207, R212). -/
def Core.dirtyLines (c : Core) : List L1Line := c.lines.filter fun l => l.cls == 1 && l.dirty != 0

/-- How far a release has come (Table 11-2). -/
inductive Release where
  | done (s : State)
  | wait (s : State) (changed : Bool)
  | raise (s : State) (r : Raise)

/-- An update is a line's write-back. -/
def Update.isBack (u : Update) : Bool :=
  match u.kind with
  | .masked _ => true
  | _ => false

/-- The tw of the write-backs of the core in focus that are not performed yet, whoever began them (R204). -/
def State.backTw (s : State) : Nat :=
  ((s.home.flatMap (·.pend)).filter fun u => u.isBack && u.core == s.core.num).foldl (fun t u => max t u.tw) 0

/-- The peer has still to acknowledge a write-back of the core in focus, or a store that the warp in focus has observed (R205, R361). -/
def State.peerOwes (s : State) : Bool :=
  s.pkg.peers.any fun p => p.core == s.core.num && p.update?.any fun u => u.isBack || (u.kept && decide (p.id ≤ s.warp.seenPeer))

/-- Another team of the core still holds a store that the warp in focus has observed, or has still to send it (R205, R363). -/
def State.observesHeld (s : State) : Bool :=
  (s.coreTeams s.core.num).any fun t => t.handle != s.team.handle && (t.out ++ t.held).any fun u => s.warp.seenHeld.contains u.uid

/-- A device-scope release of the warp in focus: team release, write-back of dirty SC lines, every tw returned, GTC ≥ WCT. The warp waits
as well for the stores of other warps that it has observed (R205). A team that holds its updates passes without those that it still holds, which
no rule lets it perform before its barrier (R363, R365); they keep their order when they are sent (DESIGN CHOICE: log 120). -/
def State.releaseDevice (s : State) : Release :=
  if !s.accessesDone then .wait s false
  else if !s.warp.lostLines.isEmpty then
    let low := s.warp.lostLines.foldl (fun m a => if a < m then a else m) (s.warp.lostLines.headD 0)
    .raise { s with warp := { s.warp with lostLines := [] } } { code := Code.hostlost, lanes := s.mask, addr := low }
  else
    let dirty := s.core.dirtyLines
    match s.writeBackAll dirty with
    | .raise t r => .raise t r
    | .stall t => .wait t false
    | .done t =>
      let u := t.settleOwn
      let u := u.foldWct u.backTw
      if u.outstanding || u.peerOwes || u.observesHeld || u.gtc < max u.warp.wct u.warp.seen then .wait u (!dirty.isEmpty) else .done u

/-- A system-scope release: a device release, then a round trip where the warp has written to the host (R211). -/
def State.releaseSystem (s : State) : Release :=
  match s.releaseDevice with
  | .done t => if t.warp.hostWritten then .wait t false else .done t
  | other => other

/-- The release of a scope. -/
def State.release (s : State) (scope : Nat) : Release :=
  if scope < 2 then (if s.accessesDone then .done s else .wait s false)
  else if scope = 2 then s.releaseDevice
  else s.releaseSystem

/-- What a system-scope acquire drops: L1 copies of host lines reached over PCIe; SC and CP copies stay (R208, R209). -/
def State.dropHostCopies (s : State) : State :=
  if Config.strapCxl then s
  else { s with core := { s.core with lines := s.core.lines.filter fun l => !(l.cls == 0 && target (128 * l.line) == .host) } }

/-- The acquire of a scope: every earlier load of the warp is performed before any later one. A fence whose next load is to be
performed at a later GTC needs no more, since each issue advances GTC. -/
def State.acquire (s : State) (scope : Nat) : Release :=
  if scope ≥ 2 ∧ s.warp.lostLines ≠ [] then
    let low := s.warp.lostLines.foldl (fun m a => if a < m then a else m) (s.warp.lostLines.headD 0)
    .raise { s with warp := { s.warp with lostLines := [] } } { code := Code.hostlost, lanes := s.mask, addr := low }
  else if !s.accessesDone then .wait s false
  else .done (if scope = 3 then s.dropHostCopies else s)

/-- A fence: 0 full, 1 release, 2 acquire. -/
def State.fenceBy (s : State) (kind scope : Nat) : Release :=
  if kind = 1 then s.release scope
  else if kind = 2 then s.acquire scope
  else match s.release scope with
    | .done t => t.acquire scope
    | other => other

/-- FENCE. -/
def execFence (k scope : BitVec 2) (s : State) : Host.Outcome State Fault Refusal :=
  s.attempt (fun _ => { legal := (Instr.fence k scope).wellFormed }) fun s =>
    match s.fenceBy k.toNat scope.toNat with
    | .done t => .done t.enterInvalid.advance.heldLimit
    | .wait t changed => .wait t changed
    | .raise t r => .raise t r

/-- A write to the host that the round trip of the warp in focus is to cover is still to be performed: its own, one of an engine of its team, or a
write-back of a line with a store of its (R204, R211). -/
def State.hostPending (s : State) : Bool :=
  let covers (u : Update) : Bool :=
    (u.team == s.team.handle && (u.who != 0 || u.warp == s.warp.idx || u.warp == anyWarp)) ||
      u.writers.contains (s.team.handle, s.warp.idx) || u.copies.any fun c => c.1 == s.team.handle
  (s.home.any fun h => h.pend.any fun u => target u.pa == .host && covers u) || s.team.out.any fun u => target u.pa == .host && covers u

/-- ROUND_TRIP_COMPLETION (R211): the round trip of a system-scope release ends. -/
def execRoundTripCompletion (h w : Nat) (s : State) : Host.Outcome State Fault Refusal :=
  match s.focusOn h w with
  | none => .fault .cannotHappen
  | some s =>
    let s := s.settleOwn
    if s.warp.hostWritten && !s.outstanding && !s.hostPending && !s.hostGone then
      .next ({ s with warp := { s.warp with hostWritten := false } } : State).wake
    else .fault .cannotHappen

/-! ## CFLUSH, CINV and PREF -/

/-- The line that starts at va meets [base, base + n), or holds base where n is 0 (R239). -/
def lineMeets (va base n : Nat) : Bool := decide (base / 128 * 128 ≤ va) && decide (va < base + max n 1)

/-- Lines of the issuing context in the core's L1 that a range covers. -/
def State.rangeLines (s : State) (base n : Nat) : List L1Line :=
  s.core.lines.filter fun l => l.ctx == s.ctx.id && lineMeets l.va.toNat base n

/-- Operands of CFLUSH, CINV, PREF and TLBINV. -/
def rangeUses (i : Instr) (a b : SOp) (priv : Bool) : Uses :=
  { legal := i.wellFormed, privileged := priv, ssrcs := [{ op := a, count := 2 }, { op := b }] }

/-- A write-back of the warp in focus to a peer has not returned its tw (R239). -/
def State.backOut (s : State) : Bool :=
  s.pkg.peers.any fun p => p.team == s.team.handle && p.warp == s.warp.idx && p.update?.any Update.isBack

/-- The dirty lines of a range are written back (CFLUSH), and its lines are dropped if the instruction is CINV; lines of unmapped pages are
passed over. The instruction waits for the tw of what it has written back. CFLUSH leaves a line clean and, as R239 says, in the L1, where an SC
copy stays valid, though Table 11-3 has it valid until CFLUSH (DESIGN CHOICE: log 121). -/
def State.flushRange (s : State) (i : Instr) (a b : SOp) (drop : Bool) : Host.Outcome State Fault Refusal :=
  s.attempt (fun _ => rangeUses i a b false) fun s =>
    let mine := (s.rangeLines (s.scPair a).toNat (s.sc b).toNat).filter s.backMapped
    match s.writeBackAll (mine.filter fun l => l.dirty != 0) with
    | .raise t r => .raise t r
    | .stall t => .wait t false
    | .done t =>
      let u : State := if drop then { t with core := mine.foldl (fun c l => c.dropLine l.line) t.core } else t
      if u.backOut then .wait u true else .done u.enterInvalid.advance.heldLimit

/-- CFLUSH. -/
def execCflush (a b : SOp) (s : State) : Host.Outcome State Fault Refusal := s.flushRange (.cflush a b) a b false

/-- CINV. -/
def execCinv (a b : SOp) (s : State) : Host.Outcome State Fault Refusal := s.flushRange (.cinv a b) a b true

/-- CINV.DISCARD: the lines are dropped without being written back, those of unmapped pages too, since none is translated (DEDUCED:
log 77). -/
def execCinvDiscard (a b : SOp) (s : State) : Host.Outcome State Fault Refusal :=
  s.issueNext (fun _ => rangeUses (.cinvDiscard a b) a b true) fun s =>
    let mine := s.rangeLines (s.scPair a).toNat (s.sc b).toNat
    ({ s with core := mine.foldl (fun c l => c.dropLine l.line) s.core } : State).enterInvalid

/-- A line that PREF fetches, at a physical address whose checks it has passed: into the L1, or into its home slice only; none while its home
cannot give it (R206). The request is marked before it fills anything (R376). A line of the peer window has no home slice here, and what the peer
holds is free (log 6). -/
def State.prefetchLine (s : State) (r : PrefReq) (pa : Nat) : Option State :=
  let line := lineOf pa
  let x := s.rat s.ctx r.va
  let m := s.sampleFor r.origin .load [r.va]
  if target pa = .peer then
    some (if r.l2 then s else if (s.l1Hit line).isSome then m else (m.freeLine.1.fillFrom line r.va x m.freeLine.2).1)
  else if r.l2 then m.homeServe line x r.va (!r.priv)
  else (m.readLine line r.va (!r.priv)).map (·.1)

/-- A PREF's request for one line, of the team in focus: what is left of it, if it waits: for a walk, for TRANSIT or at its home. A line that fails
a check of Table 12-2 is skipped (R239). -/
def State.prefetch (s : State) (r : PrefReq) : State × Option PrefReq :=
  let x := (s.useRat s.ctx).translateAll .load r.priv [(0, r.va)]
  if x.2.any fun x => x.out == .wait then (x.1, some r)
  else if (x.1.accessRaise 1 x.2).isSome then (x.1, none)
  else match x.2 with
    | [y] => match y.out with
      | .ok pa => if y.rat.transit then (x.1, some r) else match x.1.prefetchLine r pa with
        | some t => (t, none)
        | none => (x.1, some r)
      | _ => (x.1, none)
    | _ => (x.1, none)

/-- The lines of a PREF in ascending order; requests that wait stay with the core, since PREF never stalls. -/
def State.prefetchAll (s : State) (l2 : Bool) (vas : List (BitVec 64)) : State :=
  vas.foldl (fun s va =>
    let q := s.prefetch { team := s.team.handle, va := va, l2 := l2, priv := s.privileged, origin := s.originOf 0x7E }
    { q.1 with core := { q.1.core with prefs := q.1.core.prefs ++ q.2.toList } }) s

/-- The request of a PREF at a place among those of a core that wait goes on; none where it waits still. One whose team is no more is dropped. -/
def State.retryPref (s : State) (core n : Nat) : Option State :=
  let home := s.core.num
  let f := s.focusCore core
  match f.core.prefs[n]? with
  | none => none
  | some r =>
    let left := f.core.prefs.eraseIdx n
    match s.focusTeam r.team with
    | some t =>
      if t.core.num = core then
        let q := ({ t with core := { t.core with prefs := left } } : State).prefetch r
        if q.2.isSome then none else some (q.1.backTo s).wake
      else some (({ f with core := { f.core with prefs := left } } : State).focusCore home).wake
    | none => some (({ f with core := { f.core with prefs := left } } : State).focusCore home).wake

/-- PREF and PREF.L2. -/
def execPref (a b : SOp) (l2 : BitVec 1) (s : State) : Host.Outcome State Fault Refusal :=
  s.issueNext (fun _ => rangeUses (.pref a b l2) a b false) fun s =>
    let base := (s.scPair a).toNat
    let first := base / 128
    let count := (base + max (s.sc b).toNat 1 - 1) / 128 - first + 1
    let vas := (List.range count).map fun i => BitVec.ofNat 64 (128 * (first + i))
    (s.prefetchAll (l2 == 1) vas).enterInvalid

/-! ## TLBINV -/

/-- A range of 4 KiB pages, or the whole context. -/
structure PageRange where
  all : Bool
  lo : Nat
  hi : Nat

def PageRange.of (base n : Nat) : PageRange :=
  { all := false, lo := base / 4096 * 4096, hi := (base + max n 1 + 4095) / 4096 * 4096 }

def PageRange.whole : PageRange := { all := true, lo := 0, hi := 0 }

/-- Bytes [a, b) meet the range. -/
def PageRange.meets (r : PageRange) (a b : Nat) : Bool := r.all || (decide (a < r.hi) && decide (r.lo < b))

def PageRange.holds (r : PageRange) (va : BitVec 64) : Bool := r.meets va.toNat (va.toNat + 1)

/-- The context on which TLBINV acts (R248). -/
def State.targetCtx (s : State) : Nat := if s.team.service then s.warp.tgtctx.toNat else s.ctx.id

/-- A RAT copy with the entries that intersect a range read from memory again (R246; DEDUCED: at the TLBINV itself, log 18). -/
def refreshRat (now old : List Rat) (r : PageRange) : List Rat :=
  ((List.range now.length).map fun i =>
    let n := now.getD i Rat.default
    match old[i]? with
    | none => n
    | some o => if r.meets o.base o.limit || r.meets n.base n.limit then n else o) ++
  (old.drop now.length).map fun o => if r.meets o.base o.limit then { o with limit := 0 } else o

/-- A refreshed entry newly has WBLOCK or TRANSIT (R248). -/
def newlyBlocked (old new : List Rat) : Bool :=
  (List.range new.length).any fun i =>
    let n := new.getD i Rat.default
    match old[i]? with
    | some o => (n.wblock && !o.wblock) || (n.transit && !o.transit)
    | none => n.wblock || n.transit

/-- The line must leave the L1: its class has changed, or it is dirty and some refreshed entry newly has WBLOCK or TRANSIT, so that every dirty line
of the range leaves (R210, R248). -/
def mustLeave (old new : List Rat) (r : PageRange) (l : L1Line) : Bool :=
  let n := (new.find? fun x => x.covers l.va.toNat).getD Rat.default
  r.holds l.va && (n.cls != l.cls || (l.dirty != 0 && newlyBlocked old new))

/-- The line cannot be written back: it stays, dirty and pinned (R212). -/
def State.stuck (s : State) (l : L1Line) : Bool := l.dirty != 0 && (s.backPa l).isNone

/-- The lines of a context that must leave the L1 of the core in focus. -/
def State.leavingLines (s : State) (c : Nat) (r : PageRange) : List L1Line :=
  match s.core.rats.find? fun x => x.1 == c with
  | none => []
  | some old => s.core.lines.filter fun l => l.ctx == c && mustLeave old.2 (refreshRat (s.ratTable (s.ctxOf c)) old.2 r) r l

/-- A dirty line that must leave the L1 of core n waits for the walk of its write-back. -/
def State.leavingWaits (s : State) (c : Nat) (r : PageRange) (n : Nat) : Bool :=
  let t := s.focusCore n
  (t.leavingLines c r).any fun l => l.dirty != 0 && !t.stuck l && t.backWaits l

/-- One core drops what TLBINV names. -/
def State.invalidateCore (s : State) (c : Nat) (r : PageRange) (core : Nat) : State :=
  let home := s.core.num
  let s := s.focusCore core
  let s : State := { s with core := { s.core with tlb := s.core.tlb.filter fun t => !(t.ctx == c && r.meets t.va (t.va + t.size)) } }
  let t : State := match s.core.rats.find? fun x => x.1 == c with
    | none => s
    | some old =>
      let new := refreshRat (s.ratTable (s.ctxOf c)) old.2 r
      let leaving := s.leavingLines c r
      let t := (leaving.filter fun l => !s.stuck l).foldl State.evictLine s
      { t with core := { t.core with
          rats := (c, new) :: t.core.rats.filter (fun x => x.1 != c)
          lines := t.core.lines.map fun l => if leaving.any fun x => x.line == l.line then { l with pinned := true } else l } }
  t.focusCore home

/-- Accesses of a context to a range that are still to be performed. A MONW has none: each of its reads is performed where it is made, through a
translation of its own (R236, R252). The request of a PREF that waits has none either: it is translated again when it goes on. -/
def State.inFlight (s : State) (c : Nat) (r : PageRange) : Bool :=
  (s.allWarps.any fun w => (s.teamOf w.team).ctx == c && w.slots.toList.any fun x => x.todo.any fun l => r.holds l.va) ||
  (s.home.any fun h => h.pend.any fun u => u.ctx == c && r.holds u.va) ||
  (s.allTeams.any fun t => t.ctx == c && (t.out ++ t.held).any fun u => r.holds u.va) ||
  ((s.core :: s.cores).any fun k => k.atoms.any fun a => (s.teamOf a.team).ctx == c && a.lanes.any fun l => r.holds l.va) ||
  (s.contributions.any fun k => k.ctx == c && r.meets k.va.toNat (k.va.toNat + 128)) ||
  (s.switchEntries.any fun e => e.ctx == c && r.meets e.va.toNat (e.va.toNat + 128)) ||
  (s.pkg.peers.any fun p => (p.update?.elim (s.teamOf p.team).ctx (·.ctx)) == c && r.holds p.va)

/-- Updates of the context that are due are performed. -/
def State.settleRange (s : State) (c : Nat) : State :=
  ((s.home.filter fun h => h.pend.any fun u => u.ctx == c).map (·.line)).foldl State.settleHome s

/-- Some core caches a translation of the range. -/
def State.cachesRange (s : State) (c : Nat) (r : PageRange) : Bool :=
  (s.core :: s.cores).any fun k => k.tlb.any fun t => t.ctx == c && r.meets t.va (t.va + t.size)

/-- The access counters of the context's 64 KiB pages that a range meets are freed (R250). -/
def Die.freeCounters (c : Nat) (r : PageRange) (d : Die) : Die :=
  { d with counters := d.counters.filter fun k => !(k.ctx == c && r.meets k.va.toNat (k.va.toNat + 65536)) }

/-- TLBINV over a range: every core drops its cached translations and refreshes its RAT copy, and access counters are freed; the warp waits
for the homes of what this reads, and then for the accesses of the context to the range. -/
def State.invalidate (s : State) (r : PageRange) : Attempt :=
  let c := s.targetCtx
  let s := s.settleDue
  let all := (s.core :: s.cores).map (·.num)
  if !s.ratOpen (s.ctxOf c) || all.any (s.leavingWaits c r) then .wait s false
  else
  let s : State := { s with dies := s.dies.map (Die.freeCounters c r) }
  let cached := s.cachesRange c r
  let t := (all.foldl (fun s n => s.invalidateCore c r n) s).settleRange c
  if t.inFlight c r then .wait t cached else .done t.enterInvalid.advance

/-- TLBINV. -/
def execTlbinv (a b : SOp) (s : State) : Host.Outcome State Fault Refusal :=
  s.attempt (fun _ => rangeUses (.tlbinv a b) a b true) fun s =>
    s.invalidate (PageRange.of (s.scPair a).toNat (s.sc b).toNat)

/-- TLBINV.ALL. -/
def execTlbinvAll (s : State) : Host.Outcome State Fault Refusal :=
  s.attempt (fun _ => { legal := Instr.tlbinvAll.wellFormed, privileged := true }) fun s => s.invalidate PageRange.whole

/-! ## Evictions and snoops -/

/-- L2_EVICT (R199): the slice forgets a line; its Lmax enters the slice's evicted maximum. -/
def execL2Evict (line : Nat) (s : State) : Host.Outcome State Fault Refusal :=
  let s := s.settleHome line
  match s.home.find? fun h => h.line == line with
  | none => .fault .cannotHappen
  | some h => .next (s.forgetLine h).wake

/-- L1_EVICT (R207): a core gives up a line, writing back its dirty bytes; a line that cannot be written back now stays (R212, R252). The
write-back is an update of no warp. -/
def execL1Evict (core line : Nat) (s : State) : Host.Outcome State Fault Refusal :=
  let home := s.core.num
  let s := s.focusCore core
  match s.core.line? line with
  | none => .fault .cannotHappen
  | some l =>
    if s.canEvict l then .next ((s.evictLine l).focusCore home).wake else .fault .cannotHappen

/-- HOST_SNOOP (R211): the host takes ownership of a host line over CXL once GTC has reached Lmax and every update is
performed; the slice keeps its data no longer. -/
def execHostSnoop (line : Nat) (s : State) : Host.Outcome State Fault Refusal :=
  let s := s.settleHome line
  let h := s.homeLine line
  if target (128 * line) = .host ∧ Config.strapCxl ∧ !s.hostGone ∧ h.lmax ≤ s.gtc ∧ h.pend = [] ∧ h.excl = none then
    .next (s.setHomeLine { h with cached := false }).wake
  else .fault .cannotHappen

end Sys2Proof.Machine
end

