-- ==== Sys2Proof/Machine/Atomics.lean ====
section
/-! DEFINITION. ATOM and RED (R206, R228 to R231), their host routes (R232, R233), and the production of results that come
later (R52, R60). -/

namespace Sys2Proof.Machine

/-! ## Producing a result -/

/-- The entry with sequence number seq gets its result: its flags and late writes take effect; an entry that has already left
the window writes its live results to their banks. -/
def State.produce (s : State) (seq : Nat) (f : WinEntry → WinEntry) : State :=
  match (s.warp.window ++ s.warp.outs).find? fun e => e.seq == seq && !e.produced with
  | none => s
  | some e =>
    let e := { f e with produced := true }
    let s := e.late.foldl State.lateWrite { s with warp := s.warp.orFlags e.flags }
    if s.warp.window.any fun x => x.seq == seq then
      { s with warp := { s.warp with window := s.warp.window.map fun x => if x.seq = seq then { e with late := [] } else x } }
    else
      let w := s.warp.writeBackAll e
      { s with warp := { w with outs := w.outs.filter fun x => x.seq != seq } }

/-- A late write with data for the lanes of a mask. -/
def LateWrite.fill (m : Mask) (y : Lanes) : LateWrite → LateWrite
  | .cache n _ _ t => .cache n y m t
  | .lit _ => .lit (lane y ((lowest m).getD 0))
  | .laneCc _ _ => .laneCc m (maskOf fun L => lane y L != 0)
  | .scalar r _ => .scalar r (lane y ((lowest m).getD 0))
  | .scalarCc b => .scalarCc b
  | .vtRow tile row _ _ => .vtRow tile row y m

/-- An entry whose destination words, low and high, take their lanes of a mask. -/
def WinEntry.fill (m : Mask) (lo hi : Lanes) (e : WinEntry) : WinEntry :=
  let word (j : Nat) : Lanes := if j = 0 then lo else hi;
  { e with
    latch := mergeLanes m lo (splat 0)
    regs := (e.regs.zip (List.range e.regs.length)).map fun p => { p.1 with image := mergeLanes m (word p.2) p.1.image }
    late := (e.late.zip (List.range e.late.length)).map fun p => p.1.fill m (word p.2) }

/-! ## Operands -/

/-- Registers of B and D. -/
def atomRegs (k : Nat) : Nat := if 13 ≤ k then 2 else 1

/-- The tag of the result of an ATOM (Table 12-6); none is TAG. An untagged B takes the tag its form needs (R228). R228 gives an untagged D of a
CAS no tag: with a tagged B it passes, and with an untagged one both take I32 (DESIGN CHOICE: log 124). -/
def State.atomTag (s : State) (k : Nat) (d b : VOp) : Option Tag :=
  let tb := s.srcTag b
  let td := s.srcTag d
  let wide := tb == s.srcTag b 1
  let int : Option Tag := match tb with
    | none => some .i32
    | some t => if t = .raw ∨ t = .i32 ∨ t = .n32 then some t else none
  let narrow (t : Tag) : Option Tag := if t = .fp64 ∨ t = .rw then none else some t
  match k with
  | 8 => narrow (tb.getD .i32)
  | 9 => match tb, td with
    | none, none => some .i32
    | none, some t => narrow t
    | some t, some u => if t = u then narrow t else none
    | some t, none => narrow t
  | 11 => if tb.getD .fp32 = .fp32 then some .fp32 else none
  | 12 => if tb.getD .fp16 = .fp16 then some .fp16 else none
  | 13 => if wide then int else none
  | 14 => if wide && tb == td && td == s.srcTag d 1 then tb else none
  | 15 => if wide then tb else none
  | _ => int

/-- The tag check of a RED (Table 12-7). -/
def State.redTagOk (s : State) (k : Nat) (b : VOp) : Bool :=
  if redAtom k = 16 then s.srcTag b == some .rw && s.srcTag b 1 == some .rw else (s.atomTag (redAtom k) b b).isSome

/-- The operand of lane L, one or two words. -/
def State.operand (s : State) (b : VOp) (n L : Nat) : Dword :=
  if n = 2 then s.pair b L else (lane (s.vec b) L).setWidth 64

/-- The address of a direct operand (R216). -/
def State.direct (s : State) (a : VOp) (L : Nat) : BitVec 64 := s.pair a L

/-- The lanes on which an ATOM or RED acts: the active ones, but of those that parked at it with ATOMUNSUP only the faulting lanes of
their record (R233). -/
def State.atomMask (s : State) : Mask :=
  match s.warp.reissue with
  | some (pc, m, owners) => if pc = s.entry.pc then s.mask &&& (m ||| ~~~owners) else s.mask
  | none => s.mask

/-- The ATOM or RED that the warp in focus has issued again after ATOMUNSUP is over. -/
def State.endReissue (s : State) : State :=
  match s.warp.reissue with
  | some (pc, _, owners) =>
    if pc = s.entry.pc ∧ s.mask &&& owners ≠ 0 then { s with warp := { s.warp with reissue := none } } else s
  | none => s

/-! ## Routes -/

/-- ATOM k has an AtomicOp (Table 12-8): FetchAdd, Swap or CAS. -/
def hasAtomicOp (k : Nat) : Bool := ([0, 8, 9, 13, 14, 15] : List Nat).contains k

/-- The route of one lane (R206, R232, R360). -/
def State.routeOf (s : State) (k : Nat) (red : Bool) (l : LaneLoad) : AtomRoute :=
  let r := s.rat s.ctx l.va
  match target l.pa with
  | .peer => .peer
  | .host =>
    if r.route = 0 then (if r.cls = 1 ∨ red then .home else .lease)
    else if r.route = 1 then (if red then (if k = 0 ∨ k = 10 then .host else .emulate) else if hasAtomicOp k then .host else .emulate)
    else .emulate
  | _ => if r.cls = 1 ∨ red then .home else .lease

/-- The issuing L1 writes a line back and drops it before an ATOM or RED that is performed past it: on its SC range (R206), or, on a host route, on a
range of any class but HC (R232; DEDUCED: log 127). none while its write-back stalls. -/
def State.giveUpLine (s : State) (a : AtomLane) : Option State :=
  match s.core.line? (lineOf a.pa) with
  | some l =>
    if l.cls = 0 ∨ s.stuck l then some s else if l.dirty ≠ 0 ∧ s.backBlocked l then none else some (s.evictLine l)
  | none => some s

/-- The update that performs one lane at its home. -/
def State.atomUpdate (s : State) (red : Bool) (k id : Nat) (a : AtomLane) : Update :=
  s.newUpdate a.va a.pa (if red then .red k a.b else .atomic k a.b a.d id a.lane) false

/-- A lane on a CP range executes in the owner's L1 with no lease (R206); where the L1 is full, its result is sent on like a store's. The
answer is the old value; none while the line cannot be fetched. -/
def State.ownAtom (s : State) (red : Bool) (k : Nat) (a : AtomLane) : Option (State × Nat) :=
  match s.readLine (lineOf a.pa) a.va (!s.privileged) with
  | none => none
  | some r =>
    let n := if red then redWidth k else atomWidth k
    let old := leNat (lineBytes r.2 (a.pa % 128) n)
    let new := if red then redNew k old a.b.toNat else atomNew k old a.b.toNat a.d.toNat
    match r.1.core.line? (lineOf a.pa) with
    | none => some (r.1.emit (r.1.newUpdate a.va a.pa (.bytes (leBytes new n)) true), old)
    | some l =>
      let l' := (l.write (a.pa % 128) (leBytes new n) true).writtenBy l.dirty (s.team.handle, s.warp.idx)
      some (({ r.1 with core := r.1.core.setLine l' } : State).noteHost [(s.team.handle, s.warp.idx)] a.pa, old)

/-- One lane begins: a home or peer lane is sent, a RED's in the order of its team's held updates; a CP lane is done; a lease or emulated
lane waits. The answer holds what is left of the lane and its result. -/
def State.beginLane (s : State) (red : Bool) (k id : Nat) (a : AtomLane) : Option (State × List AtomLane × List (Nat × Dword)) :=
  let left : List AtomLane := if red then [] else [{ a with begun := true }]
  if (s.rat s.ctx a.va).cls = 2 && (a.route == .lease || a.route == .home) then
    (s.ownAtom red k a).map fun r => (r.1, [], [(a.lane, BitVec.ofNat 64 r.2)])
  else match a.route with
    | .home => (s.giveUpLine a).map fun s =>
      let u := s.atomUpdate red k id a
      (if red then s.emit u else s.sendOwn u, left, [])
    | .peer =>
      some (if red then s.emit (s.atomUpdate red k id a) else s.sendPeer a.va a.pa (.atomic id a.lane (atomWidth k == 8)), left, [])
    | .lease => some (s, [{ a with begun := true }], [])
    | .host | .emulate => (s.giveUpLine a).map fun s => (s, [{ a with begun := true }], [])

/-- The lanes of an operation begin in ascending order, up to the first one of the AtomicOp route, which is sent once every lane below it
is done; it and the lanes above it stay as they are (R229, R232). A lane that has begun is on its way and stays so. -/
def State.beginLanes (s : State) (red : Bool) (k id : Nat) : List AtomLane → Option (State × List AtomLane × List (Nat × Dword))
  | [] => some (s, [], [])
  | a :: rest =>
    if a.route = .host then (s.giveUpLine a).map fun s => (s, a :: rest, [])
    else if a.begun then (s.beginLanes red k id rest).map fun t => (t.1, a :: t.2.1, t.2.2)
    else match s.beginLane red k id a with
      | none => none
      | some (s, l, r) => (s.beginLanes red k id rest).map fun t => (t.1, l ++ t.2.1, r ++ t.2.2)

/-- The record that sends lanes of operation id of a warp of the team in focus to service emulation (R232, R233). -/
def State.emulationNotice (s : State) (id w : Nat) (m : Mask) (pc addr : BitVec 64) : State :=
  let d := s.dieAt (dieOfCore s.core.num)
  s.setDie (dieOfCore s.core.num) { d with notices := d.notices ++
    [{ code := Code.atomunsup, ctx := s.ctx.id, core := s.core.num, warp := w, team := s.team.handle, lanes := m, pc := pc, addr := addr,
       op := id }] }

/-- The emulated lanes that have just begun get their record. An instruction that goes to emulation whole has one (R232); where lanes on the
AtomicOp route stand between emulated ones, those below and those above have one each (DESIGN CHOICE: log 123). -/
def State.noticeLanes (s : State) (id w : Nat) (pc : BitVec 64) (lanes : List AtomLane) : State :=
  match lanes.filter fun a => a.route == .emulate && a.begun with
  | [] => s
  | a :: rest => s.emulationNotice id w (maskOf fun L => (a :: rest).any fun x => x.lane == L) pc a.va

/-- An ATOM or RED begins: the operation with its lanes; none while a line cannot be fetched. -/
def State.beginAtom (s : State) (red : Bool) (k : Nat) (d : VOp) (tag : Tag) (lanes : List AtomLane) : Option (State × AtomOp) :=
  let id := s.nextId
  let s : State := { s with nextId := id + 1 }
  (s.beginLanes red k id lanes).map fun r =>
    (r.1.noticeLanes id s.warp.idx s.entry.pc r.2.1,
      { id := id, team := s.team.handle, warp := s.warp.idx, seq := 0, red := red, op := k,
        held := r.2.1.any fun a => a.route == .host || a.route == .emulate, lanes := r.2.1, results := r.2.2,
        mask := maskOf fun L => lanes.any fun a => a.lane == L, pc := s.entry.pc, dest := d, tag := tag, entry := s.mask })

def State.addAtom (s : State) (a : AtomOp) : State := { s with core := { s.core with atoms := s.core.atoms ++ [a] } }

def State.dropAtom (s : State) (id : Nat) : State :=
  { s with core := { s.core with atoms := s.core.atoms.filter fun a => a.id != id } }

def State.setAtom (s : State) (a : AtomOp) : State :=
  { s with core := { s.core with atoms := s.core.atoms.map fun x => if x.id = a.id then a else x } }

/-- The lanes of an operation above an AtomicOp lane that has completed begin; none while a line cannot be fetched. -/
def State.resumeAtom (s : State) (id : Nat) : Option State :=
  match s.core.atoms.find? fun a => a.id == id with
  | none => some s
  | some op => match s.beginLanes op.red op.op id op.lanes with
    | none => none
    | some (t, left, done) =>
      let fresh := left.filter fun l => !op.lanes.any fun x => x.lane == l.lane && x.begun
      some ((t.noticeLanes id op.warp op.pc fresh).setAtom { op with lanes := left, results := done ++ op.results })

/-- The held operation that the issuing entry of the warp in focus waits for. -/
def State.heldAtom (s : State) : Option AtomOp :=
  s.core.atoms.find? fun a => a.team == s.team.handle && a.warp == s.warp.idx && a.held && a.pc == s.entry.pc && a.entry &&& s.mask != 0

/-- The old values of an operation, as low and high words. -/
def AtomOp.words (a : AtomOp) : Lanes × Lanes :=
  let v (L : Nat) : Dword := ((a.results.find? fun r => r.1 == L).map (·.2)).getD 0
  (lanesOf fun L => (v L).setWidth 32, lanesOf fun L => (v L >>> 32).setWidth 32)

/-! ## Paired launches (R364) -/

/-- The results of the primary's instruction go to its twin, the lanes' values in order. -/
def State.sendTwin (s : State) (data : List Dword) : State :=
  match s.team.twin with
  | some q => if s.team.paired && s.team.primary then s.onTeam q fun t => { t with inbox := t.inbox ++ [(s.warp.idx, data)] } else s
  | none => s

/-- The warp in focus belongs to a secondary twin. -/
def State.secondary (s : State) : Bool := s.team.paired && !s.team.primary

/-- What the primary has executed for the warp in focus, if anything yet. -/
def State.fromTwin (s : State) : Option (State × List Dword) :=
  match s.team.inbox.find? fun x => x.1 == s.warp.idx with
  | none => none
  | some x =>
    let t := { s.team with inbox := (s.team.inbox.takeWhile fun y => y.1 != s.warp.idx) ++ (s.team.inbox.dropWhile fun y => y.1 != s.warp.idx).tail }
    some ({ s with team := t }, x.2)

/-- The 32 old values of an operation. -/
def AtomOp.values (a : AtomOp) : List Dword :=
  (List.range 32).map fun L => ((a.results.find? fun r => r.1 == L).map (·.2)).getD 0

/-- An effect that a rollback cannot undo (R366). -/
def State.sideEffect (s : State) : State := { s with team := { s.team with sideEffects := s.team.sideEffects || s.team.guarded } }

/-! ## ATOM -/

/-- The window entry of an ATOM whose results lo and hi are those of the lanes of m. -/
def State.atomEntry (s : State) (k : Nat) (d : VOp) (t : Tag) (m : Mask) (lo hi : Lanes) (long : Bool) : WinEntry :=
  let keep (y : Lanes) (j : Nat) : Lanes := mergeLanes m y (s.vec d j)
  let e := s.resultEntry
    { dst := d, tag := t, lo := keep lo 0, hi := if 13 ≤ k then some (keep hi 1, t) else none, long := long }
  { e with latch := mergeLanes m lo (splat 0) }

/-- An ATOM or RED ends without the lanes of m: D takes what the other lanes have returned, and a held one acts again on the lanes of m
(R233). -/
def State.partAtom (s : State) (op : AtomOp) (m : Mask) : State :=
  let done := op.mask &&& ~~~m
  let y := op.words
  let s := s.dropAtom op.id
  let s := if op.red then s
    else if op.held then s.enter (s.atomEntry op.op op.dest op.tag done y.1 y.2 false)
    else s.produce op.seq (WinEntry.fill done y.1 y.2)
  { s with warp := { s.warp with reissue := if op.held then some (op.pc, m, op.entry) else s.warp.reissue } }

/-- The fault of an operation whose host lanes link loss has ended, once its other lanes are done (R176, R354). -/
def AtomOp.lostRaise (op : AtomOp) : Option Raise := op.lost.map fun x => { code := Code.hostlost, lanes := x.1, addr := x.2 }

/-- A held ATOM or RED of the warp in focus is over: the lanes of the entry that issued it go on, and lanes that have joined them at its PC
meanwhile stay there. -/
def State.endHeld (s : State) (a : AtomOp) (e : WinEntry) : State :=
  (((s.dropAtom a.id).sendTwin a.values).endReissue.enter e).split
    [(s.mask &&& a.entry, s.entry.pc + 4), (s.mask &&& ~~~a.entry, s.entry.pc)]

/-- The lanes of an ATOM or RED with their operands, once the checks have passed. -/
def State.atomLanes (s : State) (red : Bool) (k n : Nat) (b d : VOp) (lanes : List LaneLoad) : List AtomLane :=
  lanes.map fun l =>
    { lane := l.lane, va := l.va, pa := l.pa, b := s.operand b n l.lane, d := s.operand d n l.lane, route := s.routeOf k red l,
      fallback := (s.rat s.ctx l.va).fallback }

/-- The values of the primary's lanes as low and high words. -/
def wordsOf (l : List Dword) : Lanes × Lanes :=
  (lanesOf fun L => (l.getD L 0).setWidth 32, lanesOf fun L => (l.getD L 0 >>> 32).setWidth 32)

/-- The updates of some lines that the team in focus holds are sent before an ATOM or RED that cannot be held acts on them, so that each lane's
updates of a line arrive in program order (R200; DESIGN CHOICE between that rule and R363: log 105). -/
def State.sendHeldOn (s : State) (lines : List Nat) : State :=
  let on (u : Update) : Bool := lines.contains (lineOf u.pa)
  (s.team.held.filter on).foldl State.sendHeld { s with team := { s.team with held := s.team.held.filter fun u => !on u } }

/-- An update that the team in focus has ceased to hold is still to be sent to one of the lines, so that an ATOM or RED on it waits (R200). -/
def State.outAhead (s : State) (lanes : List LaneLoad) : Bool :=
  s.team.out.any fun u => lanes.any fun l => lineOf l.pa == lineOf u.pa

/-- The lines of an ATOM's lanes, or of those of a RED's that are no updates at their homes. -/
def State.linesNow (s : State) (red : Bool) (lanes : List AtomLane) : List Nat :=
  ((lanes.filter fun a => !red || !(a.route == .home || a.route == .peer) || (s.rat s.ctx a.va).cls == 2).map fun a => lineOf a.pa).dedup

/-- An ATOM or RED begins, after the updates that its team holds for its lines. -/
def State.beginAfter (s : State) (red : Bool) (opcode k : Nat) (d : VOp) (tag : Tag) (lanes : List AtomLane) : Option (State × AtomOp) :=
  ((s.sendHeldOn (s.linesNow red lanes)).beginAtom red k d tag lanes).map fun r =>
    (r.1.sideEffect.sample opcode .both (lanes.map (·.va)), r.2)

/-- ATOM (R228, R229). -/
def execAtom (d a b : VOp) (k : BitVec 4) (s : State) : Host.Outcome State Fault Refusal :=
  let n := atomRegs k.toNat
  let cas := k == 9 || k == 14
  s.attempt
    (fun s => { legal := (Instr.atom d a b k).wellFormed,
                srcs := [{ op := a, count := 2 }, { op := b, count := n }] ++ (if cas then [{ op := d, count := n }] else []),
                dsts := [{ op := d, count := n }], tagsOk := (s.atomTag k.toNat d b).isSome })
    fun s =>
      let t := (s.atomTag k.toNat d b).getD .i32
      match s.heldAtom with
      | some op =>
        if op.lanes.isEmpty then
          match op.lostRaise with
          | some r => .raise (s.partAtom op r.lanes) r
          | none =>
            let y := op.words
            .done (s.endHeld op (s.atomEntry k.toNat d t op.mask y.1 y.2 false))
        else .wait s false
      | none =>
        let addrs := (maskLanes s.atomMask).map fun L => (L, s.direct a L)
        let c := s.check .both (atomWidth k.toNat) addrs
        match c.2 with
        | .raise r => .raise s r
        | .stall => .wait c.1 false
        | .ok lanes =>
          if s.secondary then
            match c.1.fromTwin with
            | none => .wait s false
            | some (u, l) =>
              let y := wordsOf l
              .done (u.enter (s.atomEntry k.toNat d t s.mask y.1 y.2 false)).advance
          else if c.1.outAhead lanes || c.1.atomAhead (lanes.filter fun l => c.1.routeOf k.toNat false l != .lease) then .wait c.1 false
          else
            match c.1.beginAfter false 0x76 k.toNat d t (c.1.atomLanes false k.toNat n b d lanes) with
            | none => .wait s false
            | some (u, op) =>
              if op.held then .wait (u.addAtom op) true
              else
                let op := { op with seq := u.nextId }
                .done (((u.endReissue.enter (s.atomEntry k.toNat d t op.mask (splat 0) (splat 0) true)).addAtom op).advance)

/-- An ATOM whose last lane's old value has returned gets its result (R229). -/
def State.produceAtom (s : State) (a : AtomOp) : State :=
  let y := a.words
  ((s.dropAtom a.id).produce a.seq (WinEntry.fill a.mask y.1 y.2)).sendTwin a.values

/-! ## RED -/

/-- The lanes of a RED that are sent, with B's elements: VOID ones of RW are read as R87 states. After link loss those that reach host memory are
discarded, which a service team's alone do (R354). -/
def State.redLanes (s : State) (k : Nat) (b : VOp) (lanes : List LaneLoad) : List AtomLane :=
  let n := if k ≥ 10 then 2 else 1
  s.atomLanes true k n b b (lanes.filter fun l => !(target l.pa == .host && s.hostGone))

/-- The lanes whose RW element is VOID, and the flag that they set (R87). -/
def State.redVoids (s : State) (k : Nat) (b : VOp) : Mask := if redAtom k = 16 then s.rwVoid b else 0

/-- RED (R230, R231). -/
def execRed (a b : VOp) (k : BitVec 4) (s : State) : Host.Outcome State Fault Refusal :=
  let n := if 10 ≤ k.toNat then 2 else 1
  s.attempt
    (fun s => { legal := (Instr.red a b k).wellFormed, srcs := [{ op := a, count := 2 }, { op := b, count := n }],
                tagsOk := s.redTagOk k.toNat b, voids := s.redVoids k.toNat b })
    fun s =>
      let e : WinEntry := { WinEntry.blank with flags := if s.redVoids k.toNat b = 0 then 0 else Flag.void }
      match s.heldAtom with
      | some op =>
        if op.lanes.isEmpty then
          match op.lostRaise with
          | some r => .raise (s.partAtom op r.lanes) r
          | none => .done (s.endHeld op e).heldLimit
        else .wait s false
      | none =>
        let addrs := (maskLanes s.atomMask).map fun L => (L, s.direct a L)
        let c := s.check .both (redWidth k.toNat) addrs true
        match c.2 with
        | .raise r => .raise s r
        | .stall => .wait c.1 false
        | .ok lanes =>
          if s.secondary then
            match c.1.fromTwin with
            | none => .wait s false
            | some (u, _) => .done (u.enter e).advance
          else if c.1.outAhead lanes || c.1.atomAhead lanes then .wait c.1 false
          else
            match c.1.beginAfter true 0x77 k.toNat .void .raw (c.1.redLanes k.toNat b lanes) with
            | none => .wait s false
            | some (u, op) =>
              if op.held then .wait (u.addAtom op) true
              else .done (((u.sendTwin []).endReissue.enter e).advance.heldLimit)

/-! ## Leases (R206) -/

/-- An operation of the core in focus has a lane that needs a lease of a line. -/
def AtomOp.wants (line : Nat) (a : AtomOp) : Bool := a.lanes.any fun l => l.begun && l.route == .lease && lineOf l.pa == line

/-- The attributes under which a core's ATOMs want a line: those of the first lane. -/
def State.leaseRat (s : State) (line : Nat) : Rat :=
  match s.core.atoms.findSome? fun a =>
      (a.lanes.find? fun l => l.begun && l.route == .lease && lineOf l.pa == line).map fun l => (a.team, l.va) with
  | some x => s.rat (s.ctxOf (s.teamOf x.1).ctx) x.2
  | none => Rat.default

/-- The warp of an operation is privileged: one of a service team, or one in its trap routine. -/
def State.atomPrivileged (s : State) (a : AtomOp) : Bool :=
  (s.teamOf a.team).service || (s.teamWarps a.team).any fun w => w.idx == a.warp && w.tdepth

/-- The request of a lease that has missed in the slice is counted as that of the first ATOM which wants the line (R249). -/
def State.countLease (s : State) (line : Nat) (r : Rat) (hit : Bool) : State :=
  match s.core.atoms.find? (AtomOp.wants line) with
  | some a =>
    match a.lanes.find? fun l => lineOf l.pa == line with
    | some l => if !hit && countsMiss r (128 * line) (s.atomPrivileged a) then s.countMiss (s.teamOf a.team).ctx (128 * line) l.va s.core.num else s
    | none => s
  | none => s

/-- ATOM_LEASE_GRANT: the home grants the exclusive lease, for LEASE ns at most, once GTC has reached Lmax and the tw of every pending
update. -/
def execAtomLeaseGrant (core line : Nat) (s : State) : Host.Outcome State Fault Refusal :=
  let home := s.core.num
  let s := (s.settleHome line).focusCore core
  let h := s.homeLine line
  if h.excl = none ∧ h.pend = [] ∧ max h.lmax h.lastTw ≤ s.gtc ∧ s.core.atoms.any (AtomOp.wants line) then
    let r := s.leaseRat line
    let t := if sliceKeeps r (128 * line) then s.cacheLine line else s
    let t := (t.setHomeLine { t.homeLine line with excl := some (core, s.gtc + r.lease) }).slog line 2 h.cached (logCore core) 0
    .next ((t.countLease line r h.cached).focusCore home).wake
  else .fault .cannotHappen

/-- One lane executes in the L1 under the lease; the home performs its result. -/
def State.leaseLane (s : State) (op : AtomOp) (a : AtomLane) : State :=
  let n := if op.red then redWidth op.op else atomWidth op.op
  let old := Memory.readNat s.mem a.pa n
  let new := if op.red then redNew op.op old a.b.toNat else atomNew op.op old a.b.toNat a.d.toNat
  (({ s with mem := Memory.writeNat s.mem a.pa n new } : State).fire (lineOf a.pa)).atomAnswer op.id a.lane old

/-- The run of one instruction on a line, in ascending lane order; its warp's WCT takes the tw. -/
def State.leaseRun (s : State) (line : Nat) (op : AtomOp) : State :=
  let s := (op.lanes.filter fun l => l.begun && l.route == .lease && lineOf l.pa == line).foldl (fun s a => s.leaseLane op a) s
  s.onWarp op.team op.warp fun w => { w with wct := max w.wct s.gtc }

/-- The requests that waited at the home take their tw (R206, step 5). -/
def State.reopen (s : State) (line : Nat) : State :=
  let h := s.homeLine line
  let s' := s.setHomeLine { h with
    excl := none, lastTw := max h.lastTw s.gtc, pend := h.pend.map fun u => { u with tw := max u.tw s.gtc } }
  h.pend.foldl (fun t u => t.foldTw u (max u.tw s.gtc)) s'

/-- ATOM_LEASE_RETURN: every ATOM of the core for the line has executed, the L1 returns the line, and the home performs the
results. -/
def execAtomLeaseReturn (core line : Nat) (s : State) : Host.Outcome State Fault Refusal :=
  let home := s.core.num
  let s := s.focusCore core
  match (s.homeLine line).excl with
  | some (c, _) =>
    if c = core then
      let s := (s.core.atoms.filter (AtomOp.wants line)).foldl (fun s op => s.leaseRun line op) s
      .next (((s.reopen line).settleHome line).focusCore home).wake
    else .fault .cannotHappen
  | none => .fault .cannotHappen

/-! ## Host routes (R232, R233) -/

/-- The L1 of the core in focus drops a clean copy of an SC or CP line that has been written past it. -/
def State.dropClean (s : State) (line : Nat) : State :=
  match s.core.line? line with
  | some l => if l.cls ≠ 0 ∧ l.dirty = 0 then { s with core := s.core.dropLine line } else s
  | none => s

/-- One lane is performed in host memory, after every update that the home has placed on the port, and like any write of the line once GTC has
reached Lmax, so that no leased copy stays behind it (R199, R211); none while the home cannot perform it. -/
def State.hostLane (s : State) (op : AtomOp) (a : AtomLane) : Option State :=
  let line := lineOf a.pa
  let s := s.settleHome line
  let h := s.homeLine line
  if h.pend.isEmpty && h.excl.isNone && decide (max h.lmax h.lastTw ≤ s.gtc) && !s.hostGone then
    let t := (s.leaseLane op a).dropClean line
    some (t.setHomeLine { t.homeLine line with lastTw := s.gtc })
  else none

def State.hostLanes (s : State) (op : AtomOp) : List AtomLane → Option State
  | [] => some s
  | a :: rest => match s.hostLane op a with
    | none => none
    | some s => s.hostLanes op rest

/-- The warp of an operation comes into focus, or the team of a copy's. -/
def State.focusAtom (s : State) (core id : Nat) : Option (State × AtomOp) :=
  match ((s.focusCore core).core.atoms).find? fun a => a.id == id with
  | none => none
  | some op => match if op.who = 0 ∧ op.warp ≠ anyWarp then s.focusOn op.team op.warp else s.focusTeam op.team with
    | none => none
    | some s => some (s, op)

/-- A copy's operation whose elements have all been performed returns its tw (R275). -/
def State.endElements (s : State) (id : Nat) : State :=
  match s.core.atoms.find? fun a => a.id == id with
  | some op => if op.who ≠ 0 ∧ op.lanes.isEmpty then (s.dropAtom id).returnTw op.team op.who s.gtc else s
  | none => s

/-- The lane of an operation whose AtomicOp is at the completer: the lowest that is left, every lane below it being done (R232). -/
def AtomOp.atCompleter (a : AtomOp) : Option AtomLane :=
  match a.lanes with
  | l :: _ => if l.route = .host then some l else none
  | [] => none

/-- ATOMICOP_COMPLETION: the lane whose AtomicOp is at the completer is done, and those above it begin. -/
def execAtomicopCompletion (core id : Nat) (s : State) : Host.Outcome State Fault Refusal :=
  match s.focusAtom core id with
  | none => .fault .cannotHappen
  | some (s, op) =>
    match op.atCompleter with
    | none => .fault .cannotHappen
    | some a => match (s.hostLane op a).bind fun t => t.resumeAtom id with
      | some t => .next (t.endElements id).wake
      | none => .fault .cannotHappen

/-- The remaining lanes of an operation go to service emulation. -/
def AtomOp.emulateRest (a : AtomOp) : AtomOp :=
  { a with lanes := a.lanes.map fun l => { l with route := .emulate, begun := true } }

/-- ATOMICOP_UR: the completer answers the lowest lane that is left with Unsupported Request. With FALLBACK it and every later lane go
to emulation; else the warp parks with ATOMUNSUP, an ATOM's D keeps what the lanes below have returned, and a resume acts
on the remaining lanes alone; a copy then fails (R275). -/
def execAtomicopUr (core id : Nat) (s : State) : Host.Outcome State Fault Refusal :=
  match s.focusAtom core id with
  | none => .fault .cannotHappen
  | some (s, op) =>
    match op.atCompleter with
    | some a =>
      let m := maskOf fun L => op.lanes.any fun l => l.lane == L
      if a.fallback then .next ((s.emulationNotice id op.warp m op.pc a.va).setAtom op.emulateRest).wake
      else if op.who ≠ 0 then
        match s.team.copies.find? fun c => c.uid == op.who with
        | some c => .next (s.failCopy c a.va).wake
        | none => .next (s.dropAtom id).wake
      else
        .next ((s.partAtom op m).takeFault { code := Code.atomunsup, lanes := m, addr := a.va } op.pc).wake
    | none => .fault .cannotHappen

/-- The emulation records of a die's service queue that are to be done, in queue order: their operations and lanes (R232). A killed team's,
and those that link loss has ended, have no lane left to do. -/
def State.emulations (s : State) (d : Nat) : List (Nat × Mask) :=
  (s.dieAt d).emul.filter fun x => (s.core :: s.cores).any fun c => c.atoms.any fun a =>
    a.id == x.1 && a.lanes.any fun l => x.2.getLsbD l.lane && l.route == .emulate

/-- The first emulation record is done. -/
def State.endEmulated (s : State) (d : Nat) : State := s.setDie d { s.dieAt d with emul := (s.emulations d).tail }

/-- EMULATION_RETURN: the service team has performed the lanes of the next emulation record of its queue as one run, and the lanes above
them begin. -/
def execEmulationReturn (core id : Nat) (s : State) : Host.Outcome State Fault Refusal :=
  match s.focusAtom core id with
  | none => .fault .cannotHappen
  | some (s, op) =>
    let d := dieOfCore s.core.num
    match (s.emulations d).head? with
    | none => .fault .cannotHappen
    | some x =>
      if x.1 ≠ id then .fault .cannotHappen
      else match ((s.endEmulated d).hostLanes op (op.lanes.filter fun l => x.2.getLsbD l.lane)).bind fun t => t.resumeAtom id with
        | some t => .next (t.endElements id).wake
        | none => .fault .cannotHappen

/-! ## RESULT_PRODUCED -/

/-- The results of the warp in focus that may be produced: all but those of ATOMs whose lanes have not all returned. -/
def State.ripe (s : State) (e : WinEntry) : Bool :=
  match s.core.atoms.find? fun a => a.seq == e.seq && !a.held with
  | some a => a.lanes.isEmpty
  | none => true

/-- RESULT_PRODUCED (R60): the result at a place among those not yet produced, oldest last, gets its value. -/
def execResultProduced (h w index : Nat) (s : State) : Host.Outcome State Fault Refusal :=
  match s.focusOn h w with
  | none => .fault .cannotHappen
  | some s => match s.warp.unproduced[index]? with
    | none => .fault .cannotHappen
    | some e =>
      if s.ripe e then
        match s.core.atoms.find? fun a => a.seq == e.seq && !a.held with
        | some a => match a.lostRaise with
          | some r => .next ((s.partAtom a r.lanes).takeFault r a.pc).wake
          | none => .next (s.produceAtom a).wake
        | none => .next (s.produce e.seq id).wake
      else .fault .cannotHappen

end Sys2Proof.Machine
end

