-- ==== Sys2Proof/Machine/Monw.lean ====
section
/-! DEFINITION. MONW (R235 to R237): the reads at the homes, monitors, polls, MONTO, and the completion. -/

namespace Sys2Proof.Machine

/-! ## Reads at the home -/

/-- The word at an address as its home gives it. A word that only another package or a lost host holds is a free value
(log 6). -/
def State.homeWord (s : State) (pa : Nat) : State × Word :=
  if target pa = .peer ∨ (target pa = .host ∧ s.hostGone) then
    ({ s with free := s.free + 1 }, (Config.freeDword s.free).setWidth 32)
  else
    let s := s.settleHome (lineOf pa)
    (s, s.memWord pa)

/-- A word that the warp in focus reads at its home for a MONW: the request is logged, and counts where it misses (R249, R377). -/
def State.monServe (s : State) (va : BitVec 64) (pa : Nat) : State × Word :=
  let r := s.homeWord pa
  if target pa = .peer then r
  else
    let hit := (r.1.homeLine (lineOf pa)).cached
    let t := r.1.slog (lineOf pa) 4 hit (logCore r.1.core.num) 0
    (if !hit && countsMiss (s.rat s.ctx va) pa s.privileged then t.countMiss s.ctx.id pa va s.core.num else t, r.2)

/-- Another agent holds the line exclusively, so that its home answers no request (R206). -/
def State.homeShut (s : State) (pa : Nat) : Bool := s.lineHeld (lineOf pa)

/-- Monitors in use at a slice. -/
def State.monitors (s : State) (slice : Nat) : Nat :=
  ((s.allWarps.flatMap (·.monws)).flatMap fun o =>
    if o.held.isSome then [] else o.lanes.filter fun l => l.armed && l.value.isNone && sliceNo (lineOf l.pa) == slice).length

/-- One lane of a MONW at issue: it is satisfied by the word it reads, or a monitor is armed where the slice has a free one, or
it will read again in 256 ns (R237). used counts the monitors that earlier lanes have armed at each slice. -/
def State.monLane (s : State) (cond : Nat) (cmp : Word) (l : LaneLoad) (used : List Nat) : State × MonLane :=
  let r := s.monServe l.va l.pa
  let hit := monwHolds cond r.2 cmp
  let slice := sliceNo (lineOf l.pa)
  let room := decide (s.monitors slice + (used.filter (· == slice)).length < 64) && target l.pa != .peer
  (r.1,
    { lane := l.lane, va := l.va, pa := l.pa, cmp := cmp, armed := !hit && room, nextPoll := s.gtc + 256,
      value := if hit then some r.2 else none })

def State.monLanes (s : State) (cond : Nat) (cmp : Nat → Word) : List LaneLoad → List Nat → State × List MonLane
  | [], _ => (s, [])
  | l :: rest, used =>
    let r := s.monLane cond (cmp l.lane) l used
    let t := r.1.monLanes cond cmp rest (if r.2.armed then sliceNo (lineOf l.pa) :: used else used)
    (t.1, r.2 :: t.2)

/-! ## Completion -/

/-- The values and the satisfied lanes of a MONW that is over. -/
def Monw.result (o : Monw) : Option (Lanes × Mask) :=
  match o.held with
  | some r => some r
  | none =>
    if o.lanes.all fun l => l.value.isSome then
      some (lanesOf fun L => ((o.lanes.find? fun l => l.lane == L).bind (·.value)).getD 0, o.mask)
    else none

/-- The MONW of a warp that can complete: its outcome is known, its team is on a core, its entry waits, which that of the program does not
while a trap routine runs, and no park holds it (R26, R39, R188), and every earlier load and ATOM of the warp is performed, so that its
completion is an acquire (R205, R236). -/
def State.monwReady (s : State) (w : Warp) : Option Monw :=
  let t := s.teamOf w.team
  if !w.gone && !w.parked && w.loadsDone && (s.atomsOf w.team w.idx).isEmpty && (t.life == .resident || t.life == .preempting) then
    w.monws.find? fun o => o.result.isSome && w.frontier.any fun e => e.wait == .monw o.id
  else none

/-- The latch of a completed MONW whose entry is still in the window, with the registers that it wrote. -/
def Warp.monwLatch (w : Warp) (o : Monw) (y : Lanes) (regs : List WinReg) : Warp :=
  { w with window := w.window.map fun e =>
      if e.seq = o.id then { e with valid := true, latch := mergeLanes o.mask y (splat 0), tag := .raw, regs := regs } else e }

/-- D of a completed MONW: live in its window entry where that is still in the window, else in its bank; a row of the VT view is none of the
warp's registers (R47). -/
def Warp.monwWrite (w : Warp) (o : Monw) (y : Lanes) : Warp :=
  let image := mergeLanes o.mask y (w.regData o.dest)
  if 256 ≤ o.dest then w.monwLatch o y []
  else
  let w := w.killReg o.dest
  if w.window.any fun e => e.seq == o.id then
    (w.setStale o.dest false).monwLatch o y [{ reg := o.dest, image := image, tag := .raw, life := .live }]
  else w.setBank o.dest { data := image, tag := .raw, stale := false, pending := (w.bankReg o.dest).pending }

/-- A MONW completes (R236): D and cc are written, its monitors are disarmed, and its entry goes on at the next word. -/
def Warp.completeMonw (pr : BitVec 64 → Option (BitVec 8)) (o : Monw) (y : Lanes) (m : Mask) (w : Warp) : Warp :=
  let w := w.monwWrite o y
  let waiting := w.frontier.filter fun e => e.wait == .monw o.id
  let rest := w.frontier.filter fun e => e.wait != .monw o.id
  { w with
    ccl := (w.ccl &&& ~~~o.mask) ||| (m &&& o.mask)
    monws := w.monws.filter fun x => x.id != o.id
    frontier := waiting.foldl (fun fr e => placeEntry pr w.lastEntry { e with pc := e.pc + 4, wait := .ready } fr) rest }

/-- The data that the primary's MONW sends to its twin: 32 values and the satisfied lanes. -/
def monwData (y : Lanes) (m : Mask) : List Dword := ((List.range 32).map fun L => (lane y L).setWidth 64) ++ [m.setWidth 64]

/-- The MONW o of warp w of the machine completes. -/
def State.finishMonw (s : State) (w : Warp) (o : Monw) : State :=
  match o.result with
  | none => s
  | some (y, m) =>
    let t := s.teamOf w.team
    let s := s.onWarp w.team w.idx (Warp.completeMonw (s.prOf t) o y m)
    let s := if 256 ≤ o.dest then s.onTeam w.team fun t => t.setRow o.dest y o.mask else s
    match t.twin with
    | some q =>
      if t.paired && t.primary then s.onTeam q fun u => { u with inbox := u.inbox ++ [(w.idx, monwData y m)] } else s
    | none => s

/-- A warp of the machine has a MONW that can complete, with that MONW. -/
def State.nextMonw (s : State) : Option (Warp × Monw) := s.allWarps.findSome? fun w => (s.monwReady w).map fun o => (w, o)

/-! ## MONW -/

/-- D and cc of a secondary twin's MONW, which its primary has executed (R364). -/
def State.monwFromTwin (s : State) (d : VOp) (l : List Dword) : State :=
  let y := (wordsOf l).1
  let m : Mask := (l.getD 32 0).setWidth 32
  let s := { s with warp := s.warp.yieldPoint }
  s.enter { s.resultEntry { dst := d, tag := .raw, lo := y, cc := some m } with flags := 0 }

/-- MONW (R235, R236). -/
def execMonw (d a b : VOp) (k : BitVec 4) (s : State) : Host.Outcome State Fault Refusal :=
  s.attempt
    (fun s => { legal := (Instr.monw d a b k).wellFormed, srcs := [{ op := a, count := 2 }, { op := b }], dsts := [{ op := d }],
                tagsOk := (commonTag [.i32, .n32] true [s.srcTag b]).isSome, ccAwait := true, drains := true })
    fun s =>
      let addrs := s.active.map fun L => (L, s.direct a L)
      let c := s.check .monw 4 addrs
      match c.2 with
      | .raise r => .raise s r
      | .stall => .wait c.1 false
      | .ok lanes =>
        if s.secondary then
          match c.1.fromTwin with
          | none => .wait s false
          | some (u, l) => .done (u.monwFromTwin d l).advance
        else if lanes.any fun l => s.homeShut l.pa then .wait s false
        else
          let r := (c.1.sample 0x7A .monw (addrs.map (·.2))).monLanes k.toNat (fun L => lane (s.vec b) L) lanes []
          let t : State := { r.1 with warp := r.1.warp.yieldPoint }
          let id := t.nextId
          let e := s.entry
          let o : Monw :=
            { id := id, cond := k.toNat, dest := s.fileNo (s.place d), mask := s.mask, lanes := r.2, since := s.gtc, held := none,
              deadline := if t.warp.monto = 0 then none else some (s.gtc + t.warp.monto.toNat) }
          let t := t.enterInvalid
          .done { t with warp := { t.warp with
            monws := t.warp.monws ++ [o]
            frontier := t.warp.frontier.map fun x => if x.id = e.id then { x with wait := .monw id } else x } }

/-! ## Timeouts and polls -/

/-- How a later read of a lane's word stands: its address, through the cached or a newly walked translation (R252); that it waits, for a walk or
for TRANSIT (R210); or that its page is not there any more. -/
inductive MonRead where
  | at (pa : Nat)
  | waits
  | gone

/-- The translation of a lane's word for a read that its MONW makes now. -/
def State.monRead (s : State) (l : MonLane) : State × MonRead :=
  let x := (s.useRat s.ctx).translate s.ctx .monw s.privileged l.va
  let r := x.1.rat s.ctx l.va
  match x.2 with
  | .ok pa => (x.1, if r.transit || x.1.homeShut pa then .waits else .at pa)
  | .wait => (x.1, .waits)
  | _ => (x.1, .gone)

/-- A lane's word now. Where its page is not there any more the rules state no value: it is free (DESIGN CHOICE: log 108). none while the read
waits. -/
def State.monWord (s : State) (l : MonLane) : Option (State × Word) :=
  let x := s.monRead l
  match x.2 with
  | .at pa => some (x.1.monServe l.va pa)
  | .waits => none
  | .gone => some ({ x.1 with free := x.1.free + 1 }, (Config.freeDword x.1.free).setWidth 32)

/-- The words of the lanes of a list that are not satisfied yet, by lane; none while a read waits. -/
def State.monWords (s : State) : List MonLane → Option (State × List (Nat × Word))
  | [] => some (s, [])
  | l :: rest => match l.value with
    | some v => (s.monWords rest).map fun r => (r.1, (l.lane, v) :: r.2)
    | none => (s.monWord l).bind fun p => (p.1.monWords rest).map fun r => (r.1, (l.lane, p.2) :: r.2)

/-- MONTO_EXPIRY (R236, R237): the MONW ends unsatisfied, with the word's value at the expiry in each unsatisfied lane. -/
def execMontoExpiry (h w id : Nat) (s : State) : Host.Outcome State Fault Refusal :=
  match s.focusOn h w with
  | none => .fault .cannotHappen
  | some s => match s.warp.monws.find? fun o => o.id == id with
    | none => .fault .cannotHappen
    | some o =>
      if o.result.isSome || !(match o.deadline with | some t => decide (t ≤ s.gtc) | none => false) then .fault .cannotHappen
      else match s.monWords o.lanes with
      | none => .fault .cannotHappen
      | some r =>
        let y := lanesOf fun L => ((r.2.find? fun p => p.1 == L).map (·.2)).getD 0
        let m := maskOf fun L => o.lanes.any fun l => l.lane == L && l.value.isSome
        .next ({ r.1 with warp := { r.1.warp with
          monws := r.1.warp.monws.map fun x => if x.id = id then { x with held := some (y, m) } else x } } : State).wake

/-- MONITOR_POLL (R237): a lane without a monitor reads its word again, unless its page is not there any more (log 108). -/
def execMonitorPoll (h w id : Nat) (lane : BitVec 5) (s : State) : Host.Outcome State Fault Refusal :=
  match s.focusOn h w with
  | none => .fault .cannotHappen
  | some s => match (s.warp.monws.find? fun o => o.id == id && o.held.isNone).bind fun o =>
      (o.lanes.find? fun l => l.lane == lane.toNat && !l.armed && l.value.isNone).map fun l => (o, l) with
    | none => .fault .cannotHappen
    | some (o, l) =>
      if s.gtc < l.nextPoll ∨ (s.monRead l).2 matches .gone then .fault .cannotHappen
      else match s.monWord l with
      | none => .fault .cannotHappen
      | some r =>
        let fix (x : MonLane) : MonLane :=
          if x.lane = l.lane then
            { x with nextPoll := s.gtc + 256, value := if monwHolds o.cond r.2 x.cmp then some r.2 else none }
          else x
        .next ({ r.1 with warp := { r.1.warp with
          monws := r.1.warp.monws.map fun x => if x.id = id then { x with lanes := x.lanes.map fix } else x } } : State).wake

end Sys2Proof.Machine
end

