-- ==== Sys2Proof/Machine/Control.lean ====
section
/-! DEFINITION. EXIT, TRY, ENDTRY, THROW, RETHROW and XGET (R163 to R168, R183), BAR (R41, R169 to R171), ATTACH and DETACH
(R34 to R37, R172, R173), and warp slots (R21). -/

namespace Sys2Proof.Machine

/-! ## EXIT -/

/-- The lanes of the issuing entry leave the frontier and every warp-level region. -/
def State.exitLanes (s : State) : State :=
  let e := s.entry
  let w := s.enterInvalid.warp
  { s.enterInvalid with warp := { w with
      live := w.live &&& ~~~e.mask
      frontier := removeEntry e.id w.frontier
      tries := w.tries.map fun r => { r with mask := r.mask &&& ~~~e.mask } } }

/-- EXIT (R19, R163): every live value of the window reaches its bank, and the warp departs when no live lane remains (R36). -/
def execExit (s : State) : Host.Outcome State Fault Refusal :=
  s.issue (fun _ => { legal := Instr.exit.wellFormed, drains := true }) fun s =>
    let t := (s.withWarp s.warp.drain).exitLanes
    if t.warp.live = 0 then t.depart else t

/-! ## Try regions -/

def Raise.all (s : State) (c : BitVec 16) : Raise := { code := c, lanes := s.mask, addr := 0 }

/-- The faults of TRY beyond rows 1 to 11. -/
def State.tryCheck (s : State) (l : Nat) : Option Raise :=
  if l = 0 then (if 8 ≤ s.warp.tries.length then some (Raise.all s Code.illegal) else none)
  else if l = 1 then
    (if s.warp.jt = s.team.tries.length ∧ 4 ≤ s.team.tries.length then some (Raise.all s Code.illegal) else none)
  else if !s.launch.coop then some (Raise.all s Code.gridsync)
  else if s.warp.jg = s.launch.gtries.length ∧ 2 ≤ s.launch.gtries.length then some (Raise.all s Code.illegal) else none

/-- The region that a TRY opens. -/
def State.newRegion (s : State) (f : BitVec 1) (disp : BitVec 17) : Region :=
  { catchPc := s.branchTarget disp, f := f == 1, mask := s.mask, stamp := s.nextId, ended := [] }

/-- TRY opens a region, or joins the next region of its level that is open (R164, R165). -/
def State.openTry (s : State) (f : BitVec 1) (l : Nat) (disp : BitVec 17) : State :=
  let r := s.newRegion f disp
  let s : State := { s with nextId := s.nextId + 1 }
  match l with
  | 0 => { s with warp := { s.warp with tries := r :: s.warp.tries } }
  | 1 =>
    let s : State := if s.warp.jt < s.team.tries.length then s else { s with team := { s.team with tries := r :: s.team.tries } }
    { s with warp := { s.warp with jt := s.warp.jt + 1 } }
  | _ =>
    let s : State := if s.warp.jg < s.launch.gtries.length then s else { s with launch := { s.launch with gtries := r :: s.launch.gtries } }
    { s with warp := { s.warp with jg := s.warp.jg + 1 } }

/-- TRY. -/
def execTryRegion (f : BitVec 1) (l : BitVec 2) (disp : BitVec 17) (s : State) : Host.Outcome State Fault Refusal :=
  s.issueNext
    (fun s => { legal := (Instr.tryRegion f l disp).wellFormed, uniform := l == 0 || s.wholeWarp, specific := s.tryCheck l.toNat })
    (fun s => (s.openTry f l.toNat disp).enterInvalid)

/-- The warp's count of open regions at a level. -/
def Warp.openRegions (w : Warp) (l : Nat) : Nat := if l = 0 then w.tries.length else if l = 1 then w.jt else w.jg

/-- The entry of an ENDTRY holds what it must. -/
def State.endUniform (s : State) (l : Nat) : Bool :=
  if l = 0 then
    match s.warp.tries with
    | r :: _ => r.mask &&& s.warp.live &&& ~~~s.mask == 0
    | [] => true
  else s.wholeWarp

/-- The end flag of the warp in focus on region number n of a stack, counted from the bottom. -/
def markEnd (who : Nat × Nat) (n : Nat) (l : List Region) : List Region :=
  modifyAt (fun r => { r with ended := who :: r.ended.filter (· != who) }) (l.length - n) l

/-- ENDTRY at team or grid level: the warp waits, and the region closes once every member has ended it (R166). The warp's flag goes to the
newest region that it has joined, number jt or jg from the bottom, and the top region of the stack alone can close; R166 does not say which region
ends in a warp that has joined fewer than are open (DESIGN CHOICE: log 82). -/
def State.endRegion (s : State) (l : Nat) : State :=
  let who := (s.team.handle, s.warp.idx)
  let s := s.enterInvalid.holdAs (.endtry l)
  if l = 1 then ({ s with team := { s.team with tries := markEnd who s.warp.jt s.team.tries } } : State).closeTeam who.1
  else ({ s with launch := { s.launch with gtries := markEnd who s.warp.jg s.launch.gtries } } : State).closeGrid s.team.launch

/-- ENDTRY. -/
def execEndtry (l : BitVec 2) (s : State) : Host.Outcome State Fault Refusal :=
  s.issue
    (fun s => { legal := (Instr.endtry l).wellFormed, uniform := s.endUniform l.toNat,
                specific := if s.warp.openRegions l.toNat = 0 then some (Raise.all s Code.illegal) else none })
    fun s =>
      if l = 0 then ({ s.enterInvalid with warp := { s.enterInvalid.warp with tries := s.warp.tries.tail } } : State).advance
      else s.endRegion l.toNat

/-! ## Throws -/

/-- The code that lane L throws. -/
def State.throwCode (s : State) (a : VOp) (L : Nat) : BitVec 16 := (lane (s.vec a) L).setWidth 16

/-- THROW (R167). -/
def execThrowCode (a : VOp) (da : BitVec 1) (s : State) : Host.Outcome State Fault Refusal :=
  let src : Src := { op := a, dead := da == 1 }
  s.issue
    (fun s => { legal := (Instr.throwCode a da).wellFormed, srcs := [src],
                specific := if s.active.any fun L => (s.throwCode a L).toNat < Code.software then some (Raise.all s Code.throwcode) else none })
    fun s =>
      let ts := s.active.map fun L => (s.innermost L, s.thrower L (s.throwCode a L) s.entry.pc 0)
      (s.settle [src] WinEntry.blank).throwHere ts

/-- RETHROW (R167, R183): each active lane throws what the current record holds, to the level above the record's. -/
def execRethrow (s : State) : Host.Outcome State Fault Refusal :=
  s.issue
    (fun s => { legal := Instr.rethrow.wellFormed, specific := if s.warp.caught then none else some (Raise.all s Code.illegal) })
    fun s =>
      let rec0 (i : Nat) : Word := look s.warp.record 0 i
      let level := bits (rec0 0) 16 2
      let pc := rec0 3 ++ rec0 2
      let addr := rec0 5 ++ rec0 4
      let ts := s.active.map fun L =>
        (if level = 2 then none else s.innermostFrom (level + 1) L,
          { s.thrower L ((rec0 0).setWidth 16) pc addr with f := (rec0 0).getLsbD 18 })
      s.enterInvalid.throwHere ts

/-- What XGET selector n gives in lane L (Table 8-10). -/
def Warp.recordWord (w : Warp) (n L : Nat) : Word :=
  if n < 16 then look w.record 0 n
  else if n = 0x10 then (look w.stopPc 0 L).setWidth 32
  else if n = 0x11 then (look w.stopPc 0 L >>> 32).setWidth 32
  else if w.threw.getLsbD L then 1 else 0

/-- XGET (R168). -/
def execXget (d : VOp) (sel : BitVec 10) (s : State) : Host.Outcome State Fault Refusal :=
  s.issueNext (fun _ => { legal := (Instr.xget d sel).wellFormed, dsts := [{ op := d }] })
    (fun s => s.settle [] (s.resultEntry { dst := d, tag := .raw, lo := lanesOf (s.warp.recordWord sel.toNat) }))

/-! ## Named barriers -/

/-- The warp in focus has arrived in the current generation. -/
def State.hasArrived (s : State) (b : Nat) : Bool := (s.team.bar b).arrived.getLsbD s.warp.idx

/-- The warp arrives in the current generation of barrier b. -/
def State.arriveBar (s : State) (b : Nat) : State :=
  { s with
    team := s.team.arriveWarp b s.warp.idx
    warp := { s.warp with barGen := put s.warp.barGen b (some (s.team.bar b).gen) } }

/-- ARRIVE, and SYNC where wait is true (R170). A warp that has arrived already waits for the generation to complete. -/
def State.barrier (s : State) (b : Nat) (wait : Bool) : State :=
  let g := (s.team.bar b).gen
  if s.hasArrived b then s.holdAs (.bar b g true wait)
  else
    let s := s.arriveBar b
    (if wait then s.holdAs (.bar b g false true) else s.advance).completeAll s.team.handle

/-- A whole-warp instruction (R28). -/
def State.wholeUses (s : State) (i : Instr) (drains : Bool) : Uses :=
  { legal := i.wellFormed, uniform := s.wholeWarp, drains := drains }

/-- BAR ARRIVE: the arrival is made once the warp's earlier loads are performed (R171). -/
def execBarArrive (b : BitVec 4) (s : State) : Host.Outcome State Fault Refusal :=
  s.attempt (fun s => s.wholeUses (.barArrive b) false) fun s =>
    if s.accessesDone then .done (s.enterInvalid.barrier b.toNat false) else .wait s false

/-- BAR WAIT: a yield point, and an acquire (R171): the warp's earlier loads are performed before it. A generation that throw delivery has
reset counts as completed (DESIGN CHOICE: log 80). -/
def execBarWait (b : BitVec 4) (s : State) : Host.Outcome State Fault Refusal :=
  s.attempt (fun s => s.wholeUses (.barWait b) true) fun s =>
    if s.accessesDone then
      let s := s.withWarp s.warp.yieldPoint
      let t := s.enterInvalid
      match look t.warp.barGen none b.toNat with
      | some g =>
        if g < (t.team.bar b.toNat).gen then .done (t.foldWct (t.team.bar b.toNat).past).advance
        else .done (t.holdAs (.bar b.toNat g false true))
      | none => .done t.advance
    else .wait s false

/-- BAR SYNC: a yield point. -/
def execBarSync (b : BitVec 4) (s : State) : Host.Outcome State Fault Refusal :=
  s.attempt (fun s => s.wholeUses (.barSync b) true) fun s =>
    if s.accessesDone then .done ((s.withWarp s.warp.yieldPoint).enterInvalid.barrier b.toNat true) else .wait s false

/-- BAR COUNT. -/
def execBarCount (d : VOp) (b : BitVec 4) (s : State) : Host.Outcome State Fault Refusal :=
  s.issueNext
    (fun s => { s.wholeUses (.barCount d b) false with dsts := [{ op := d }] })
    (fun s =>
      let x := s.team.bar b.toNat
      let v := x.arrivals % 256 + 2 ^ 8 * (s.expected s.team b.toNat % 256) + 2 ^ 16 * (x.gen % 2 ^ 16)
      s.settle [] (s.resultEntry { dst := d, tag := .i32, lo := splat (BitVec.ofNat 32 v) }))

/-- BAR GRID SYNC (R41, R42): the arrival is a device-scope release. -/
def execBarGridSync (s : State) : Host.Outcome State Fault Refusal :=
  s.attempt
    (fun s => { s.wholeUses .barGridSync true with specific := if s.launch.coop then none else some (Raise.all s Code.gridsync) })
    fun s => match s.releaseDevice with
      | .wait t changed => .wait t changed
      | .raise t r => .raise t r
      | .done t =>
        let t := (t.withWarp t.warp.yieldPoint).enterInvalid.holdAs (.grid t.launch.gridGen)
        let t : State := { t with launch := { t.launch with gridArrived := (t.team.handle, t.warp.idx) :: t.launch.gridArrived } }
        .done (t.completeGrid t.launch.id)

/-! ## Warp slots (R21) -/

/-- Occupied warp slots of a core, 16 to a partition. -/
def State.usedSlots (s : State) (core : Nat) : List Nat := (s.coreWarps core).map (·.slot)

/-- Free slots of partition p. -/
def freeOf (used : List Nat) (p : Nat) : List Nat := ((List.range 16).map fun i => 16 * p + i).filter fun n => !used.contains n

/-- The slot of a warp with index i: in partition (p0 + i) mod 4, or in the next one that has a free slot. -/
def slotFor (used : List Nat) (p0 i : Nat) : Option Nat :=
  (([0, 1, 2, 3] : List Nat).findSome? fun j => (freeOf used ((p0 + i + j) % 4)).head?)

/-- Slots for warps with the given indices, in order; none where they run out. -/
def slotsFor (used : List Nat) (p0 : Nat) : List Nat → Option (List Nat)
  | [] => some []
  | i :: rest => match slotFor used p0 i with
    | none => none
    | some n => (slotsFor (n :: used) p0 rest).map fun l => n :: l

/-- A new warp in the state of R23, with n live lanes at pc. -/
def newWarp (pr : BitVec 64 → Option (BitVec 8)) (h idx role slot vvg stamp : Nat) (live : Mask) (pc : BitVec 64) : Warp :=
  { Warp.blank with
    uid := stamp
    team := h, idx := idx, role := role, slot := slot, live := live, vvg := vvg, resident := stamp
    frontier := placeEntry pr none { id := stamp, prio := 0, pc := pc, mask := live, wait := .ready } [] }

/-! ## ATTACH and DETACH -/

/-- A throw at team or grid level is open for the team in focus (R37). -/
def State.unwinding (s : State) : Bool :=
  s.deliveries.any fun d => (d.level == 1 && d.team == s.team.handle) || (d.level == 2 && d.launch == s.launch.id)

/-- The budget of a role, in granules (R24). -/
def Team.budget (t : Team) (r : Nat) : Nat := if r = 0 then t.budget0 else if r = 1 then t.budget1 else 0

/-- Free warp indices of the team in focus, ascending. -/
def State.freeIndices (s : State) : List Nat :=
  (List.range 32).filter fun i => !((s.teamWarps s.team.handle).any fun w => w.idx == i)

/-- How many of c requested warps of a role ATTACH grants (R35). -/
def State.attachGrant (s : State) (c r : Nat) : Nat :=
  let b := s.team.budget r
  let free := 64 - (s.usedSlots s.core.num).length
  let granules := if (s.poolQueue s.core.num).isEmpty then s.freeGranules s.core.num else 0
  if b = 0 then 0 else min (min c s.freeIndices.length) (min free (granules / b))

/-- The granted warps join the team; no MWAIT of theirs has counted an operation yet, or taken the flags of one that the others have joined. -/
def State.addWarps (s : State) (g r : Nat) (pc : BitVec 64) : State :=
  let idxs := s.freeIndices.take g
  let slots := (slotsFor (s.usedSlots s.core.num) s.team.p0 idxs).getD []
  let new := ((idxs.zip slots).zip (List.range g)).map fun x =>
    { newWarp s.pr s.team.handle x.1.1 r x.1.2 (s.team.budget r) (s.nextId + x.2) (maskOf fun L => L < s.team.lanefill) pc with
      jt := s.team.tries.length, jg := s.launch.gtries.length, mowed := maskOf fun _ => true }
  let bits : Mask := maskOf fun L => idxs.contains L
  { s with
    warps := s.warps ++ new
    team := { s.team with mops := s.team.mops.map fun o => { o with counted := o.counted &&& ~~~bits } }
    nextId := s.nextId + g }

/-- ATTACH (R35, R172). -/
def execAttach (c : SOp) (disp : BitVec 17) (s : State) : Host.Outcome State Fault Refusal :=
  s.issue
    (fun s => { s.wholeUses (.attach c disp) false with ssrcs := [{ op := c }], sdsts := [{ op := c }] })
    fun s =>
      if s.unwinding then s.holdAs .att
      else
        let s := s.arbitrate
        let v := s.sc c
        let g := s.attachGrant (bits v 0 5) (bits v 8 2)
        ((s.addWarps g (bits v 8 2) (s.branchTarget disp)).status c (BitVec.ofNat 32 g)).advance

/-- DETACH (R36, R173): not performed while a throw at team or grid level is open (R37). -/
def execDetach (s : State) : Host.Outcome State Fault Refusal :=
  s.attempt
    (fun s => { s.wholeUses .detach false with specific := if s.team.namedOpen s.warp.idx then some (Raise.all s Code.mismatch) else none })
    fun s => if s.unwinding then .wait s false else .done s.enterInvalid.depart

end Sys2Proof.Machine
end

