-- ==== Sys2Proof/Machine/Copy.lean ====
section
/-! DEFINITION. The copy engine: descriptors (R264 to R266), CPSTAGE, CPGO, CPRED, CPCANCEL and CPQ (R267, R268 to R278), the
movement and the end of a copy (R263, R270, R279, R280), and combining switches (R274 to R276). -/

namespace Sys2Proof.Machine

/-! ## Descriptors -/

/-- The descriptor that eight words hold (Table 17-2); stage and gstep are those of a schedule entry. -/
def CopyDesc.ofWords (w : Nat → Word) (scheduled : Bool) : CopyDesc :=
  { gaddr := w 1 ++ w 0, gstride := w 2, soff := bits (w 3) 0 19, len := bits (w 4) 0 16, rows := bits (w 4) 16 16,
    sstride := bits (w 5) 0 19, dir := (w 6).getLsbD 0, bar := bits (w 6) 1 4, barOn := (w 6).getLsbD 5, cid := bits (w 6) 6 6,
    stag := Tag.ofCode ((w 6).extractLsb' 12 5), dtag := Tag.ofCode ((w 6).extractLsb' 17 5), op := bits (w 6) 22 4,
    stage := bits (w 7) 0 6, gstep := (w 7).extractLsb' 8 24,
    mbz := bits (w 3) 19 13 != 0 || bits (w 5) 19 13 != 0 || bits (w 6) 26 6 != 0 ||
      (if scheduled then bits (w 7) 6 2 != 0 else w 7 != 0) }

/-- Tag pairs of Table 17-3. -/
def CopyDesc.tagsOk (d : CopyDesc) (red : Bool) : Bool :=
  if red then d.stag == d.dtag && (combineTags d.op).contains d.stag
  else d.stag == d.dtag ||
    (d.stag != .raw && d.stag != .rw && !([Tag.raw, .ix4, .ix8, .rw].contains d.dtag))

/-- What every field of Table 17-3 must be a multiple of. -/
def CopyDesc.unit (d : CopyDesc) (red : Bool) : Nat :=
  if red then combineBytes d.op else if d.stag = d.dtag then 4 else 1

/-- The checks of R265 in order: the code and the fault address of the first that fails. -/
def CopyDesc.bad (d : CopyDesc) (red : Bool) (scratch : Nat) : Option (BitVec 16 × BitVec 64) :=
  let n := d.unit red
  let soff := BitVec.ofNat 64 d.soff
  if d.mbz || d.cid == 63 || (if red then !d.dir else d.op != 0) || !d.tagsOk red then some (Code.illegal, 0)
  else if d.gaddr.toNat % n ≠ 0 ∨ d.gstride.toNat % n ≠ 0 then some (Code.align, d.gaddr)
  else if d.soff % n ≠ 0 then some (Code.align, soff)
  else if d.len % n ≠ 0 then some (Code.align, d.gaddr)
  else if d.sstride % n ≠ 0 then some (Code.align, soff)
  else if scratch < (d.hull red).2 then some (Code.access, soff)
  else none

/-! ## Forking -/

/-- Scoreboard ranges in use (R268). -/
def Team.ranges (t : Team) : Nat := (t.copies.filter (·.range)).length

/-- The generation to which a copy of the warp in focus ties itself (R269). -/
def State.tieOf (s : State) (d : CopyDesc) : Option (Nat × Nat) :=
  if d.barOn then some (d.bar, (s.team.bar d.bar).gen + if s.hasArrived d.bar then 1 else 0) else none

/-- An arrival of a copy on a generation, with its tw. -/
def Team.arriveCopy (t : Team) (b g tw : Nat) : Team :=
  let x := t.bar b
  if g = x.gen then t.setBar b { x with copies := x.copies + 1, tw := max x.tw tw }
  else t.setBar b { x with next := x.next + 1, nextTw := max x.nextTw tw }

/-- A copy that has completed: CPQ joins its tw (R278). -/
def Team.noteCopy (t : Team) (id tw : Nat) : Team :=
  { t with copyTw := (id, max tw (((t.copyTw.find? fun x => x.1 == id).map (·.2)).getD 0)) :: t.copyTw.filter fun x => x.1 != id }

/-- A copy is forked: one with an empty hull arrives, or completes, at once (R266). -/
def State.fork (s : State) (d : CopyDesc) (g0 : BitVec 64) (red anyorder idle : Bool) : State :=
  let tie := s.tieOf d
  let range := (d.hull red).1 != (d.hull red).2
  if !range then
    match tie with
    | some (b, g) => { s with team := (s.team.arriveCopy b g 0).noteCopy d.cid 0 }
    | none => { s with team := s.team.noteCopy d.cid 0 }
  else
    let c : CopyOp :=
      { uid := s.nextId, desc := d, g0 := g0, red := red, anyorder := anyorder, warp := s.warp.idx, owner := s.warp.uid, pc := s.entry.pc,
        tie := tie, range := true, begun := idle, done := [], source := none, srcRead := false, moved := idle, pending := 0, tw := 0, stamp := s.nextId, cb4 := s.team.mcb4,
        cb8 := s.team.mcb8, origin := s.originOf 0x7B, nth := if red && s.team.paired then some (look s.team.preds 0 s.warp.idx) else none }
    { s with
      nextId := s.nextId + 1
      team := { s.team with
        copies := s.team.copies ++ [c]
        preds := if c.nth.isSome then put s.team.preds s.warp.idx (look s.team.preds 0 s.warp.idx + 1) else s.team.preds } }

/-- The entries that CPSTAGE forks. -/
def Team.stageEntries (t : Team) : List CopyDesc :=
  if t.sched.isEmpty then [] else t.sched.filter fun d => d.stage == t.stage.toNat % t.period

/-- Global row 0 of a schedule entry (R266). -/
def Team.stageBase (t : Team) (d : CopyDesc) : BitVec 64 :=
  d.gaddr + 16 * d.gstep.signExtend 64 * BitVec.ofNat 64 (t.stage.toNat / t.period)

/-- CPSTAGE (R272). -/
def execCpstage (s : State) : Host.Outcome State Fault Refusal :=
  s.issueNext
    (fun s => { legal := Instr.cpstage.wellFormed, retry := 16 < s.team.ranges + s.team.stageEntries.length })
    (fun s =>
      let h := s.team.handle
      let t := s.team.stageEntries.foldl (fun u d => u.fork d (s.team.stageBase d) false false false) s
      (({ t with team := { t.team with stage := t.team.stage + 1 } } : State).completeAll h).enterInvalid)

/-- The descriptor in scalar registers A to A + 7. -/
def State.descriptor (s : State) (a : SOp) : CopyDesc := CopyDesc.ofWords (fun k => s.sc a k) false

/-- What CPGO and CPRED ask of the checks at issue. -/
def State.copyUses (s : State) (i : Instr) (a : SOp) (red : Bool) : Uses :=
  let d := s.descriptor a
  let empty := (d.hull red).1 == (d.hull red).2
  { legal := i.wellFormed, ssrcs := [{ op := a, count := 8 }],
    specific := (d.bad red s.team.scratchSize).map fun r => { code := r.1, lanes := s.mask, addr := r.2 },
    retry := !empty && 16 ≤ s.team.ranges }

/-- CPGO (R273). -/
def execCpgo (a : SOp) (s : State) : Host.Outcome State Fault Refusal :=
  s.issueNext (fun s => s.copyUses (.cpgo a) a false)
    (fun s =>
      let d := s.descriptor a
      ((s.fork d d.gaddr false false false).completeAll s.team.handle).enterInvalid)

/-- CPRED (R274): in a paired team only the primary's copy acts, and the secondary's takes what it comes to (R364). -/
def execCpred (a : SOp) (any : BitVec 1) (s : State) : Host.Outcome State Fault Refusal :=
  s.issueNext (fun s => s.copyUses (.cpred a any) a true)
    (fun s =>
      let d := s.descriptor a
      ((s.sideEffect.fork d d.gaddr true (any == 1) s.secondary).completeAll s.team.handle).enterInvalid)

/-! ## Cancelling and querying -/

/-- A copy has the queried id, or any id for 63. -/
def CopyOp.named (n : Nat) (c : CopyOp) : Bool := n == 63 || c.desc.cid == n

/-- CPQ (R278): the join of the copies that have completed, when none with the id is in flight. -/
def execCpq (d : SOp) (id : BitVec 6) (s : State) : Host.Outcome State Fault Refusal :=
  s.issueNext (fun _ => { legal := (Instr.cpq d id).wellFormed, sdsts := [{ op := d }] })
    (fun s =>
      let n := (s.team.copies.filter (CopyOp.named id.toNat)).length
      let v := n + 2 ^ 8 * (16 - s.team.ranges) + 2 ^ 16 * s.team.stage.toNat
      let tw := ((s.team.copyTw.filter fun x => id == 63 || x.1 == id.toNat).map (·.2)).foldl max 0
      (if n = 0 then s.foldWct tw else s).status d (BitVec.ofNat 32 v))

/-! ## The end of copies -/

/-- A copy of a team, brought into focus. -/
def State.focusCopy (s : State) (h id : Nat) : Option (State × CopyOp) :=
  match s.focusTeam h with
  | none => none
  | some s => (s.team.copies.find? fun c => c.uid == id).map fun c => (s, c)

/-- A team whose engines may work: it is on a core. -/
def Team.works (t : Team) : Bool := t.life == .resident || t.life == .preempting || t.life == .ending

/-- CPCANCEL (R277): each copy stops with some of its bytes moved, its tie is withdrawn, and a generation that is then
complete completes. -/
def execCpcancel (id : BitVec 6) (s : State) : Host.Outcome State Fault Refusal :=
  s.issueNext (fun _ => { legal := (Instr.cpcancel id).wellFormed })
    (fun s =>
      let h := s.team.handle
      ((s.cancelCopies h (CopyOp.named id.toNat)).completeAll h).enterInvalid)

/-- The movement of part n of a copy (R263): bytes of copies in flight move in any order, once the engine has begun their copy. One whose
access stalls or fails has begun. -/
def execCopyMove (h id n : Nat) (s : State) : Host.Outcome State Fault Refusal :=
  match s.focusCopy h id with
  | none => .fault .cannotHappen
  | some (s, c) =>
    if !s.team.works || !s.mayBegin c then .fault .cannotHappen
    else match c.left.find? fun p => p.1 == n with
      | none => .fault .cannotHappen
      | some p => match s.movePart c false n p.2 with
        | some t => .next t.wake
        | none => if c.begun then .fault .cannotHappen else .next (s.setCopy id fun c => { c with begun := true }).wake

/-- COPY_SOURCE_RANGE_READ (R268): the scratchpad hull of a copy to global memory has been read, whatever its writes still wait for. -/
def execCopySourceRangeRead (h id : Nat) (s : State) : Host.Outcome State Fault Refusal :=
  match s.focusCopy h id with
  | none => .fault .cannotHappen
  | some (s, c) =>
    if !s.team.works || !c.desc.dir || c.srcRead || !s.mayBegin c then .fault .cannotHappen
    else
      let hull := c.desc.hull c.red
      let l := Memory.readBytes s.team.scratch hull.1 (hull.2 - hull.1)
      .next (s.setCopy id fun c => { c with begun := true, srcRead := true, source := some l }).wake

/-- What the primary's CPRED has come to, for a secondary twin's. -/
def Team.predEnd (t : Team) (c : CopyOp) : Option PredEnd := t.predEnds.find? fun p => p.warp == c.warp && c.nth == some p.nth

/-- The copy is a CPRED of a secondary twin (R364). -/
def Team.mirrors (t : Team) (c : CopyOp) : Bool := t.paired && !t.primary && c.nth.isSome

/-- The end of a copy that has moved everything and whose updates have all returned their tw. -/
def State.endCopy (s : State) (c : CopyOp) : State :=
  let s := s.tellTwin c none
  let t := { s.team with copies := s.team.copies.filter fun x => x.uid != c.uid }
  let t := t.noteCopy c.desc.cid c.tw
  let t := match c.tie with
    | some (b, g) => t.arriveCopy b g c.tw
    | none => t
  ({ s with team := t, ctx := { s.ctx with lastBusy := s.gtc } } : State).completeAll t.handle

/-- An update of a copy waits at the home of a line under an exclusive lease, and has no tw yet (R206, R270). -/
def State.updateShut (s : State) (h id : Nat) : Bool :=
  s.home.any fun x => x.excl.isSome && x.pend.any fun u => u.team == h && u.who == id

/-- Every update of a copy has returned its tw. Those of a reduction, which no L1 keeps, have been performed as well, so that its joiners see
them (R9, R270; DEDUCED: log 106). -/
def State.copyWritten (s : State) (h : Nat) (c : CopyOp) : Bool :=
  c.pending == 0 && !s.peerWaits h c.uid && !s.updateShut h c.uid && (!c.red || decide (c.tw ≤ s.gtc))

/-- The copy of an event with its last parts moved; none while it cannot end: while a part cannot move, or an update has no tw yet. A secondary
twin's CPRED ends as its primary's has ended (R364). -/
def State.readyCopy (s : State) (h id : Nat) : Option (State × CopyOp) :=
  match s.focusCopy h id with
  | none => none
  | some (s, c) =>
    if s.team.mirrors c then
      if !s.team.works then none
      else match (s.team.predEnd c).filter fun p => p.failed.isNone with
        | none => none
        | some p => some (s, { c with tw := p.tw })
    else if !s.team.works || !s.mayBegin c then none
    else match s.moveParts c c.left with
      | none => none
      | some s => match s.team.copies.find? fun c => c.uid == id with
        | some c => if s.copyWritten h c then some (s, c) else none
        | none => none

/-- COPY_ARRIVE (R270): a tied copy arrives on its generation. -/
def execCopyArrive (h id : Nat) (s : State) : Host.Outcome State Fault Refusal :=
  match s.readyCopy h id with
  | none => .fault .cannotHappen
  | some (s, c) => if c.tie.isSome then .next (s.endCopy c).wake else .fault .cannotHappen

/-- COPY_COMPLETE (R263): a copy that is tied to no barrier completes. -/
def execCopyComplete (h id : Nat) (s : State) : Host.Outcome State Fault Refusal :=
  match s.readyCopy h id with
  | none => .fault .cannotHappen
  | some (s, c) => if c.tie.isNone then .next (s.endCopy c).wake else .fault .cannotHappen

/-! ## COPYFAULT (R280) -/

/-- The lowest of a list of addresses. -/
def lowestVa (l : List (BitVec 64)) : BitVec 64 := l.foldl (fun m a => if a < m then a else m) (l.headD 0)

/-- COPYFAULT: an access of the copy fails, or that of the primary's for a secondary twin's CPRED. A guarded team that has read poison rolls
back. -/
def execCopyfault (h id : Nat) (s : State) : Host.Outcome State Fault Refusal :=
  match s.focusCopy h id with
  | none => .fault .cannotHappen
  | some (s, c) =>
    let ps := c.left.map fun p => s.probe 2 c.access (p.2.pieces.map (·.1))
    let bad := if s.team.mirrors c then (((s.team.predEnd c).bind (·.failed)).map fun a => [a]).getD [] else ps.flatMap (·.bad)
    if !s.team.works || (!s.team.mirrors c && !s.mayBegin c) || bad.isEmpty then .fault .cannotHappen
    else if s.team.guarded && ps.any (·.poisoned) then .next (s.rollback h c.pc (lowestVa bad)).wake
    else .next (s.failCopy c (lowestVa bad)).wake

/-! ## Combining switches (R275, R276) -/

/-- The cluster of the home slice of a line. -/
def homeCluster (line : Nat) : Nat := homeSlice line / 16

/-- One element of a line's data. -/
def elemAt (data : List (Option Byte)) (off n : Nat) : Option Nat :=
  let e := (data.drop off).take n
  if e.length = n ∧ e.all Option.isSome then some (leNat (e.map fun b => b.getD 0)) else none

/-- Element offsets of an operation within a line. -/
def elemOffsets (op : Nat) : List Nat := (List.range (128 / combineBytes op)).map fun i => i * combineBytes op

/-- A contribution combined into an entry, element by element. -/
def combineData (op : Nat) (old new : List (Option Byte)) : List (Option Byte) :=
  (elemOffsets op).flatMap fun off =>
    let n := combineBytes op
    match elemAt old off n, elemAt new off n with
    | some a, some b => (leBytes (redNew (combineRed op) a b) n).map some
    | none, some b => (leBytes b n).map some
    | some a, none => (leBytes a n).map some
    | none, none => List.replicate n none

/-- The elements of a line's data, with their offsets. -/
def elemsOf (op : Nat) (data : List (Option Byte)) : List (Nat × Nat) :=
  (elemOffsets op).filterMap fun off => (elemAt data off (combineBytes op)).map fun x => (off, x)

/-- The elements of a line are sent to its home, or to the peer, as one update of copies (R275): of one of team h, or of an entry's, which is of
no team. Its tw is returned to each of them: now, or with the peer's acknowledgement. -/
def State.deliverLine (s : State) (h who ctx core line : Nat) (va : BitVec 64) (op : Nat) (data : List (Option Byte))
    (copies : List (Nat × Nat)) : State :=
  let pa := 128 * line
  let wrote (s : State) (c : Nat × Nat) : State := s.onTeamWarps c.1 fun w => { w with hostWritten := true }
  let s := if target pa = .host then copies.foldl wrote s else s
  let r := s.dispatch
    { uid := 0, core := core, team := h, warp := anyWarp, ctx := ctx, pa := pa, va := va &&& ~~~0x7F#64
      kind := .reds (combineRed op) ((elemsOf op data).map fun e => (e.1, BitVec.ofNat 64 e.2)), kept := false, tw := 0, who := who, asker := 1
      alloc := sliceKeeps (s.rat (s.ctxOf ctx) va) pa, copies := copies
      counted := countsMiss (s.rat (s.ctxOf ctx) va) pa (s.teamOf h).service }
  if target pa = .peer then r.1 else copies.foldl (fun s c => s.returnTw c.1 c.2 r.2) r.1

/-- A contribution to host memory of which no element is an update at the home (R232, R275). -/
def Contribution.routed (k : Contribution) : Bool := k.host && k.route != 0

/-- The elements of a contribution to host memory follow the atomic route of their range (R232, R275): they are one operation, whose lanes
are the places of the elements in the line. -/
def State.routeElems (s : State) (k : Contribution) : State :=
  match s.focusTeam k.team with
  | none => s
  | some s => match s.team.copies.find? fun c => c.uid == k.copy with
    | none => s
    | some c =>
      let atomic := k.route == 1 && decide (k.op ≤ 1)
      let n := combineBytes k.op
      let lanes : List AtomLane := (elemsOf k.op k.data).map fun e =>
        { lane := e.1 / n, va := (k.va &&& ~~~0x7F#64) + BitVec.ofNat 64 e.1, pa := 128 * k.line + e.1, b := BitVec.ofNat 64 e.2, d := 0,
          route := if atomic then .host else .emulate, fallback := k.fallback, begun := !atomic }
      let m := maskOf fun L => lanes.any fun a => a.lane == L
      let op : AtomOp :=
        { id := s.nextId, team := k.team, warp := c.warp, seq := 0, red := true, op := combineRed k.op, held := false, lanes := lanes,
          results := [], mask := m, pc := c.pc, dest := .void, tag := .raw, who := k.copy }
      let s := ({ s with nextId := s.nextId + 1 } : State).addAtom op
      if atomic then s else s.emulationNotice op.id c.warp m c.pc ((lanes.head?.map (·.va)).getD k.va)

/-- A contribution is delivered uncombined: to its home, to the peer, or by its atomic route. -/
def State.deliverAlone (s : State) (k : Contribution) : State :=
  if k.routed then s.routeElems k else s.deliverLine k.team k.copy k.ctx k.core k.line k.va k.op k.data [(k.team, k.copy)]

/-- The GTC at which an entry of a switch is delivered: CMBWIN after its opening. -/
def State.dueAt (s : State) (e : SwitchEntry) : Nat := e.opened + (s.dieAt e.die).cmbwin.toNat

/-- COMBINE_CONTRIBUTION: a contribution reaches the switch of its line's cluster; an entry combines until it is delivered. -/
def execCombineContribution (id : Nat) (s : State) : Host.Outcome State Fault Refusal :=
  match s.contributions.find? fun k => k.id == id with
  | none => .fault .cannotHappen
  | some k =>
    if s.lineHeld k.line then .fault .cannotHappen
    else
    let s : State := { s with contributions := s.contributions.filter fun x => x.id != id }
    let d := homeDie k.line
    let die := s.dieAt d
    let here (e : SwitchEntry) : Bool := e.die == d && e.cluster == homeCluster k.line
    let joins (e : SwitchEntry) : Bool := here e && e.ctx == k.ctx && e.line == k.line && e.op == k.op && decide (s.gtc < s.dueAt e)
    if k.host || (3 ≤ k.op && !k.anyorder) || die.cmbwin == 0#12 then .next (s.deliverAlone k).wake
    else if s.switchEntries.any joins then
      let join (e : SwitchEntry) : SwitchEntry :=
        if joins e then
          { e with data := combineData k.op e.data k.data, copies := e.copies ++ [(k.team, k.copy)] }
        else e
      .next ((({ s with switchEntries := s.switchEntries.map join } : State).setDie d { die with cmbhit := saturate32 die.cmbhit }).wake)
    else if (s.switchEntries.filter here).length < 64 then
      let e : SwitchEntry :=
        { id := s.nextId, die := d, cluster := homeCluster k.line, ctx := k.ctx, line := k.line, va := k.va, op := k.op,
          opened := s.gtc, data := k.data, copies := [(k.team, k.copy)] }
      .next ({ s with nextId := s.nextId + 1, switchEntries := s.switchEntries ++ [e] } : State).wake
    else .next (((s.deliverAlone k).setDie d { (s.deliverAlone k).dieAt d with cmbovf := saturate32 die.cmbovf }).wake)

/-- COMBINE_DELIVER: an entry is delivered to the home CMBWIN after its opening, or as soon as the home then answers (R206). -/
def execCombineDeliver (id : Nat) (s : State) : Host.Outcome State Fault Refusal :=
  match s.switchEntries.find? fun e => e.id == id with
  | none => .fault .cannotHappen
  | some e =>
    if s.gtc < s.dueAt e || s.lineHeld e.line then .fault .cannotHappen
    else
      let s : State := { s with switchEntries := s.switchEntries.filter fun x => x.id != id }
      .next (s.deliverLine 0 0 e.ctx 0x1FF e.line e.va e.op e.data e.copies).wake

end Sys2Proof.Machine
end

