-- ==== Sys2Proof/Machine/Graph.lean ====
section
/-! DEFINITION. Node queues and batches (R341), ENQ, ENQC and QSTAT (R342 to R345), SVC, its batches and SVCDONE (R346 to R348). -/

namespace Sys2Proof.Machine

/-! ## Node queues -/

/-- Granules of a die's node store (R341). -/
def nodeStore : Nat := 65536

/-- Node n of the launch in focus. -/
def Launch.node? (l : Launch) (n : Nat) : Option NodeDef := l.nodes[n]?

/-- The node that EDGE e of the issuing team's node names (R342): none where the team is of no graph, or the edge is unconnected. -/
def State.edge (s : State) (e : Nat) : Option Nat :=
  if !s.launch.graph then none
  else match s.team.node.bind s.launch.node? with
    | none => none
    | some d => let t := (d.edges.getD e 0xFF).toNat; if t = 0xFF then none else some t

/-- Record words of the node that EDGE e names, or 1. -/
def State.edgeWords (s : State) (e : Nat) : Nat := (((s.edge e).bind s.launch.node?).map (·.recw)).getD 1

/-- Records leave the front of a node queue as one batch team in the pool of a die (R338, R341). -/
def State.formBatch (s : State) (d n k : Nat) : State :=
  let q := s.launch.queues.getD n []
  let serial := s.launch.serials.getD n 0
  let batch : Pooled :=
    { prio := s.launch.prio, admitted := s.launch.admitted, index := serial, launch := s.launch.id, node := some n, serial := serial,
      records := q.take k, saved := none }
  let die := s.dieAt d
  { s.setDie d { die with pool := die.pool ++ [batch] } with
    launch := { s.launch with
      queues := modifyAt (fun _ => q.drop k) n s.launch.queues
      serials := modifyAt (· + 1) n s.launch.serials } }

/-- A record enters the queue of node n; a full batch leaves it in the same event (R341). -/
def State.accept (s : State) (n : Nat) (words : List Word) : State :=
  let d := s.team.die
  let die := s.dieAt d
  let s : State := { s.setDie d { die with nodeUsed := die.nodeUsed + 1 } with
    team := { s.team with fed := if s.team.fed.contains n then s.team.fed else n :: s.team.fed }
    launch := { s.launch with queues := modifyAt (fun q => q ++ [words]) n s.launch.queues } }
  let b := ((s.launch.node? n).map (·.batch)).getD 64
  if b ≤ (s.launch.queues.getD n []).length then s.formBatch d n b else s

/-- The retirement flush of a team that has ended (R341): the team and its launch are in focus. -/
def State.flush (s : State) : State :=
  s.team.fed.foldl (fun s n =>
    let k := (s.launch.queues.getD n []).length
    if k = 0 then s else s.formBatch s.team.die n k) s

/-- Records are accepted while the node store has room; the answer counts them. -/
def State.acceptAll (s : State) (n : Nat) : List (Nat × List Word) → State × List Nat
  | [] => (s, [])
  | (L, ws) :: rest =>
    if nodeStore ≤ (s.dieAt s.team.die).nodeUsed then (s, [])
    else let r := (s.accept n ws).acceptAll n rest; (r.1, L :: r.2)

/-! ## ENQ and ENQC -/

/-- The end of an ENQ or ENQC that has its release: its records are accepted, or it waits for a granule. A blocking ENQ that waits
keeps those that it has already accepted (R343). -/
def State.enqueue (s : State) (n : Nat) (b : SOp) (blocking : Bool) (recs : List (Nat × List Word)) (total : Nat) : Attempt :=
  let r := s.sideEffect.acceptAll n recs
  if r.2.length < recs.length && blocking then
    let m := s.atomMask &&& ~~~(maskOf fun L => r.2.contains L)
    .wait { r.1 with warp := { r.1.warp with
      reissue := if r.2.isEmpty then r.1.warp.reissue else some (s.entry.pc, m, s.mask) } } (!r.2.isEmpty)
  else
    let acc := if blocking then total else r.2.length
    let t := r.1.sendTwin [BitVec.ofNat 64 acc]
    .done ((t.endReissue.status b (BitVec.ofNat 32 acc)).advance)

/-- An ENQ or ENQC whose checks have passed (R343, R364). -/
def State.enq (s : State) (e : Nat) (b : SOp) (blocking : Bool) (recs : State → List (Nat × List Word)) (total : Nat) : Attempt :=
  match s.edge e with
  | none => .raise s { Raise.all s Code.access with addr := BitVec.ofNat 64 e }
  | some n =>
    if s.secondary then
      match s.fromTwin with
      | none => .wait s false
      | some (t, l) => .done ((t.status b ((l.headD 0).setWidth 32)).advance)
    else match s.releaseDevice with
      | .wait t changed => .wait t changed
      | .raise t r => .raise t r
      | .done t => t.enqueue n b blocking (recs t) total

/-- The fault of an instruction that names an edge (R342). -/
def State.edgeCheck (s : State) (e : Nat) : Option Raise :=
  if (s.edge e).isSome then none else some { Raise.all s Code.access with addr := BitVec.ofNat 64 e }

/-- ENQ: one record for each active lane, in ascending order. -/
def execEnq (a : VOp) (b : SOp) (blocking : BitVec 1) (e : BitVec 4) (s : State) : Host.Outcome State Fault Refusal :=
  let first : Nat := match a with | .v n => n.toNat | _ => 0
  s.attempt
    (fun s => { legal := (Instr.enq a b blocking e).wellFormed, window := decide (first + s.edgeWords e.toNat ≤ 0x40),
                srcs := [{ op := a, count := s.edgeWords e.toNat }], sdsts := [{ op := b }], specific := s.edgeCheck e.toNat })
    fun s => s.enq e.toNat b (blocking == 1)
      (fun t => (maskLanes t.atomMask).map fun L => (L, (List.range (t.edgeWords e.toNat)).map fun k => lane (t.vec a k) L))
      s.active.length

/-- ENQC: one record. -/
def execEnqc (a : SOp) (b : SOp) (blocking : BitVec 1) (e : BitVec 4) (s : State) : Host.Outcome State Fault Refusal :=
  let first : Nat := match a with | .s n => n.val | _ => 0
  s.attempt
    (fun s => { legal := (Instr.enqc a b blocking e).wellFormed, window := decide (first + s.edgeWords e.toNat ≤ 0x78),
                ssrcs := [{ op := a, count := s.edgeWords e.toNat }], sdsts := [{ op := b }], specific := s.edgeCheck e.toNat })
    fun s => s.enq e.toNat b (blocking == 1)
      (fun t => [(t.firstLane, (List.range (t.edgeWords e.toNat)).map fun k => t.sc a k)]) 1

/-- The value of QSTAT (R345). -/
def State.queueStat (s : State) (sel : BitVec 2) (e : Nat) : Nat :=
  let mine (l : Nat) (n : Option Nat) : Bool := l == s.launch.id && n == s.team.node
  if sel = 0 then (((s.edge e).map fun n => (s.launch.queues.getD n []).length)).getD 0
  else if sel = 1 then
    (s.allTeams.filter fun t => mine t.launch t.node).length +
      (s.dies.toList.map fun d => (d.pool.filter fun p => p.saved.isNone && mine p.launch p.node).length).sum
  else nodeStore - (s.dieAt s.team.die).nodeUsed

/-- QSTAT. -/
def execQstat (a : SOp) (sel : BitVec 2) (e : BitVec 4) (s : State) : Host.Outcome State Fault Refusal :=
  s.issueNext
    (fun s => { legal := (Instr.qstat a sel e).wellFormed, sdsts := [{ op := a }],
                specific := if sel = 0 then s.edgeCheck e.toNat else none })
    (fun s => s.status a (BitVec.ofNat 32 (s.queueStat sel e.toNat)))

/-! ## SVC -/

/-- Word k of a warp's argument registers; numbers from 256 on are rows of the VT view, 16 for each tile. -/
def State.argLanes (s : State) (reg k : Nat) : Lanes :=
  if 256 ≤ reg then (s.tile ((reg - 256) / 16)).row ((reg - 256) % 16 + k) else s.warp.regData (reg + k)

/-- An SVC ring entry (R348). -/
def State.svcEntry (s : State) (fn reg seq : Nat) (e : Entry) : List Byte :=
  word4 (fn + 2 ^ 16 * seq) ++ word4 (s.ctx.id + 2 ^ 16 * s.core.num + 2 ^ 25 * s.warp.idx) ++ word4 s.team.handle ++
    word4 e.mask.toNat ++ word8 e.pc.toNat ++ word8 s.gtc ++ List.replicate 32 0 ++
    laneNos.flatMap fun L => (List.range 4).flatMap fun k => word4 (lane (s.argLanes reg k) L).toNat

/-- The SVC of an entry of the warp in focus posts its batch, if its ring has room (R346, R348). -/
def State.postSvc (s : State) (e : Entry) (fn reg : Nat) : Option State :=
  let d := dieOfCore s.core.num
  let die := s.dieAt d
  if !die.svcq.room then none
  else
    let index := die.svcq.tail.toNat
    let p := s.postTo die.svcq (s.svcEntry fn reg die.svcSeq.toNat e)
    let b : Batch := { index := index, team := s.team.handle, warp := s.warp.idx, mask := e.mask, reg := reg, cancel := false }
    let s := p.1.setDie d { die with
      svcq := p.2, svcSeq := die.svcSeq + 1, batches := b :: die.batches.filter fun x => x.index != index }
    some { s with warp := { s.warp with
      frontier := s.warp.frontier.map fun x => if x.id = e.id then { x with wait := .svc fn reg (some index) } else x } }

/-- The four result registers of an SVC in the lanes of a mask, tagged RAW. -/
def State.svcResults (s : State) (reg : Nat) (m : Mask) (y : Nat → Lanes) : State :=
  (List.range 4).foldl (fun (s : State) k =>
    if 256 ≤ reg then s.lateWrite (.vtRow ((reg - 256) / 16) ((reg - 256) % 16 + k) (y k) m)
    else
      let y := mergeLanes m (y k) (s.warp.regData (reg + k))
      s.withWarp ((s.warp.killReg (reg + k)).setBank (reg + k) { s.warp.bankReg (reg + k) with data := y, tag := .raw, stale := false })) s

/-- The argument registers' number as a batch names it. -/
def State.svcReg (s : State) (a : VOp) : Nat :=
  match s.place a with
  | .reg r => r
  | .row r => 256 + 16 * s.warp.vtsel + r
  | _ => 0

/-- SVC. -/
def execSvc (a : VOp) (fn : BitVec 6) (s : State) : Host.Outcome State Fault Refusal :=
  s.attempt
    (fun s => { legal := (Instr.svc a fn).wellFormed && !s.team.service, srcs := [{ op := a, count := 4 }], dsts := [{ op := a, count := 4 }],
                drains := true })
    fun s =>
      if s.secondary then
        match s.fromTwin with
        | none => .wait s false
        | some (t, l) =>
          let t := (t.withWarp t.warp.yieldPoint).enterInvalid
          .done ((t.svcResults (t.svcReg a) t.mask fun k => lanesOf fun L => (l.getD (4 * L + k) 0).setWidth 32).advance)
      else match s.releaseDevice with
        | .wait t changed => .wait t changed
        | .raise t r => .raise t r
        | .done t =>
          let t := ((t.sideEffect.withWarp t.warp.yieldPoint).enterInvalid)
          let e := t.entry
          let t : State := { t with warp := { t.warp with
            frontier := t.warp.frontier.map fun x => if x.id = e.id then { x with wait := .svc fn.toNat (t.svcReg a) none } else x } }
          .done ((t.postSvc e fn.toNat (t.svcReg a)).getD t)

/-- The first entry of a warp whose SVC waits for room in its ring. -/
def Warp.unposted (w : Warp) : Option (Entry × Nat × Nat) :=
  w.frontier.findSome? fun e => match e.wait with
    | .svc fn reg none => some (e, fn, reg)
    | _ => none

/-- SVC_BATCH_POST: the SVC that has waited longest on the die posts its batch. -/
def execSvcBatchPost (die : BitVec 2) (s : State) : Host.Outcome State Fault Refusal :=
  let waiting := s.allWarps.filter fun w => dieOfCore (s.teamOf w.team).core == die.toNat && w.unposted.isSome
  match sortBy (fun (a b : Warp) => a.issued ≤ b.issued) waiting with
  | [] => .fault .cannotHappen
  | w :: _ => match s.focusOn w.team w.idx with
    | none => .fault .cannotHappen
    | some s => match s.warp.unposted with
      | none => .fault .cannotHappen
      | some (e, fn, reg) => match s.postSvc e fn reg with
        | none => .fault .cannotHappen
        | some t => .next t.wake

/-- The address of the results in an SVC ring entry. -/
def Ring.results (r : Ring) (index : Nat) : Nat := r.base.toNat + 576 * index + 0x40

/-- The homes answer for the results in an entry of a die's SVC ring (R206). -/
def State.resultsOpen (s : State) (d index : Nat) : Bool := s.linesOpen ((s.dieAt d).svcq.results index) 512

/-- Word k of lane L of a ring entry. -/
def State.ringWord (s : State) (r : Ring) (index L k : Nat) : Word :=
  BitVec.ofNat 32 (Memory.readNat s.mem (r.results index + 16 * L + 4 * k) 4)

/-- An entry waits for the batch at a ring index. -/
def Entry.inSvc (index : Nat) (e : Entry) : Bool :=
  match e.wait with
  | .svc _ _ i => i == some index
  | _ => false

/-- The waiting entry of a completed batch goes on at the next word with the lanes of the batch; lanes that have joined it since are ready to
issue the SVC (log 79). -/
def State.resumeSvc (s : State) (index : Nat) (m : Mask) : State :=
  let w := s.warp
  let step (fr : List Entry) (e : Entry) : List Entry :=
    let fr := if e.mask &&& m = 0 then fr
      else placeEntry s.pr w.lastEntry { e with pc := e.pc + 4, mask := e.mask &&& m, wait := .ready } fr
    if e.mask &&& ~~~m = 0 then fr
    else placeEntry s.pr w.lastEntry { e with id := s.nextId, mask := e.mask &&& ~~~m, wait := .ready } fr
  { s.withWarp { w with frontier := (w.frontier.filter (Entry.inSvc index)).foldl step (w.frontier.filter fun e => !e.inSvc index) } with
    nextId := s.nextId + 1 }

/-- A done batch of the warp in focus ends its SVC: its lanes take their words and go on (R346). -/
def State.endSvc (s : State) (x : SvcEnd) : State :=
  let y (k : Nat) : Lanes := x.words.getD k (splat 0)
  let s := s.withWarp { s.warp with svcEnds := s.warp.svcEnds.erase x }
  ((s.svcResults x.reg x.mask y).resumeSvc x.index x.mask).sendTwin
    (laneNos.flatMap fun L => (List.range 4).map fun k => (lane (y k) L).setWidth 64)

/-- The warp in focus can take a done batch: no long operation is to write its registers, and, for the device-scope acquire, its earlier
accesses are performed (R60, R346). -/
def State.svcReady (s : State) (x : SvcEnd) : Bool :=
  s.accessesDone && (if 256 ≤ x.reg then !s.warp.awaitsRows else (List.range 4).all fun k => !s.warp.awaitsReg (x.reg + k))

/-- A warp that can take a done SVC batch takes it; a park holds every entry (R26, R184). -/
def State.nextSvc (s : State) : Option State :=
  (s.allWarps.filter fun w => !w.svcEnds.isEmpty && !w.parked).findSome? fun w =>
    (s.focusOn w.team w.idx).bind fun t => (t.warp.svcEnds.find? t.svcReady).map t.endSvc

/-- A write of INDEX to SVCDONE of a die (R347, R348): the outstanding batch is done, with the words that its ring entry holds. A
cancelled batch has no effect, nor has one whose entry a trap has taken from its wait (log 90). -/
def State.svcDone (s : State) (d index : Nat) : State :=
  let s := s.settleDue
  let die := s.dieAt d
  match die.batches.find? fun b => b.index == index with
  | none => s
  | some b =>
    let s := s.setDie d { die with batches := die.batches.filter fun x => x.index != index }
    if b.cancel then s
    else match s.focusOn b.team b.warp with
      | none => s
      | some t =>
        if t.warp.frontier.any (Entry.inSvc index) then
          let x : SvcEnd := { index := index, reg := b.reg, mask := b.mask,
                              words := (List.range 4).map fun k => lanesOf fun L => t.ringWord die.svcq index L k }
          { t with warp := { t.warp with svcEnds := t.warp.svcEnds ++ [x] }, ctx := { t.ctx with lastBusy := t.gtc } }
        else t

/-- The parts of the focus: team and warp. -/
def State.focusOf (s : State) : Nat × Nat := (s.team.handle, s.warp.idx)

/-- The focus comes back to a warp that had it, unless it has left. -/
def State.refocus (s : State) (f : Nat × Nat) : State := (s.focusOn f.1 f.2).getD s

/-- SVCDONE. It waits while an agent holds a line of the results exclusively (R206). -/
def execSvcdone (die : BitVec 2) (index : BitVec 16) (s : State) : Host.Outcome State Fault Refusal :=
  if s.resultsOpen die.toNat index.toNat then .next ((s.svcDone die.toNat index.toNat).wake) else .fault .cannotHappen

end Sys2Proof.Machine
end

