-- ==== Sys2Proof/Machine/MatOps.lean ====
section
/-! DEFINITION. Matrix operations at work: operand fetch (R295, R296), arithmetic (R297 to R300, R307), readout (R92, R298), MLD,
MST and MZERO (R311, R312, R314), charges and starting (R301, R302), faults (R296, R305). -/

namespace Sys2Proof.Machine

/-! ## Elements in memory -/

/-- Where element k of a stream-layout row stands: its bytes, and the bit at which it starts in the first of them (R74). -/
def elemSpan (t : Tag) (row : BitVec 64) (k : Nat) : BitVec 64 × Nat × Nat :=
  let lo := k * Tag.width t
  (row + BitVec.ofNat 64 (lo / 8), (lo + Tag.width t + 7) / 8 - lo / 8, lo % 8)

/-- The pieces of memory that hold an element. -/
def elemPieces (t : Tag) (row : BitVec 64) (k : Nat) : List (BitVec 64 × Nat) :=
  let e := elemSpan t row k
  pieces e.1 e.2.1

/-- The bits of an element, read through the core's L1. -/
def State.fetchElem (s : State) (t : Tag) (row : BitVec 64) (k : Nat) : Option (State × Nat) :=
  let e := elemSpan t row k
  (s.engineRead 1 (pieces e.1 e.2.1)).map fun r => (r.1, leNat r.2 / 2 ^ e.2.2 % 2 ^ Tag.width t)

/-- The elements of a list, each with a line request of its own, which a home counts where it misses (R249 does not say whether a fetch asks for
a line once or for each element of it; DESIGN CHOICE: log 97). -/
def State.fetchElems (s : State) : List (Tag × BitVec 64 × Nat) → Option (State × List Nat)
  | [] => some (s, [])
  | (t, row, k) :: rest => match s.fetchElem t row k with
    | none => none
    | some (s, x) => (s.fetchElems rest).map fun r => (r.1, x :: r.2)

/-- What a fetch of pieces meets: the first failing code with its lowest address, if any. -/
def State.fetchFault (s : State) (k : Access) (vas : List (BitVec 64)) (pipe : Nat := 1) : Option (BitVec 16 × BitVec 64) :=
  let x := s.engineXlate pipe k vas
  let low (l : List (BitVec 64)) : BitVec 64 := l.foldl (fun m a => if a < m then a else m) (l.headD 0)
  match ([2, 3, 4, 5] : List Nat).findSome? fun row =>
      match x.2.filterMap fun y => x.1.engineFails k y row with
      | [] => none
      | f :: fs => some (f.1, low ((f :: fs).map (·.2))) with
  | some f => some f
  | none =>
    if k.writes then none
    else match (x.2.filter x.1.xlatPoison).map (·.va) with
      | [] => none
      | l => some (Code.poison, low l)

/-- The access has to wait for TRANSIT or WBLOCK. -/
def State.fetchStalls (s : State) (k : Access) (vas : List (BitVec 64)) (pipe : Nat := 1) : Bool := engineStalls k (s.engineXlate pipe k vas).2

/-! ## The operands of an MMA -/

/-- Columns that an operation on tile tag t may write (R297). -/
def colsOf (t : Tag) (colm : BitVec 16) : List Nat :=
  (List.range (if t = .fp64 then 8 else 16)).filter fun j => colm.getLsbD j

def bitsOf16 (m : BitVec 16) : List Nat := (List.range 16).filter fun i => m.getLsbD i

/-- Row and place of b(k, j) (R295). -/
def Conv.bAt (c : Conv) (k j : Nat) : Tag × BitVec 64 × Nat :=
  if c.btrans then (c.bfmt, c.baddr + BitVec.ofNat 64 (j * c.bstride.toNat), k)
  else (c.bfmt, c.baddr + BitVec.ofNat 64 (k * c.bstride.toNat), j)

/-- Row and place of a(i, k). -/
def Conv.aAt (c : Conv) (i k : Nat) : Tag × BitVec 64 × Nat := (c.afmt, c.aaddr + BitVec.ofNat 64 (i * c.astride.toNat), k)

/-- The unmasked elements (k, j) of B, by row: row k, or with BTRANS row j (R295, R301). -/
def Conv.bElems (c : Conv) (t : Tag) : List (Nat × Nat) :=
  if c.rowm = 0 then []
  else if c.btrans then (colsOf t c.colm).flatMap fun j => (bitsOf16 c.depm).map fun k => (k, j)
  else (bitsOf16 c.depm).flatMap fun k => (colsOf t c.colm).map fun j => (k, j)

/-- The unmasked elements of a row of A. -/
def Conv.aElems (c : Conv) (t : Tag) : List Nat := if (colsOf t c.colm).isEmpty then [] else bitsOf16 c.depm

def elemVas (l : List (Tag × BitVec 64 × Nat)) : List (BitVec 64) :=
  l.flatMap fun e => (elemPieces e.1 e.2.1 e.2.2).map (·.1)

/-- The elements of a part of the operands: B, or row i of A. -/
def Conv.part (c : Conv) (t : Tag) : Option Nat → List (Tag × BitVec 64 × Nat)
  | none => (c.bElems t).map fun p => c.bAt p.1 p.2
  | some i => (c.aElems t).map fun k => c.aAt i k

/-- Bits in which two encodings differ. -/
def hamming (a b : Nat) : Nat := popcount (BitVec.ofNat 64 a ^^^ BitVec.ofNat 64 b)

/-- Hamming distances along a sequence that starts from zero (R301). -/
def toggles : Nat → List Nat → Nat
  | _, [] => 0
  | p, x :: xs => hamming p x + toggles x xs

/-! ## Arithmetic -/

/-- One step of a float chain: the encoding and its flags (R93, R299). p is none for an invalid product. -/
def chainStep (t : Tag) (x : Nat) (p : Option FVal) : Nat × Word :=
  let f := fmt t
  match p with
  | none => (f.nanBits, Flag.nv)
  | some v => match FVal.add 0 (f.decode x) v with
    | none => (f.nanBits, Flag.nv)
    | some .nan => (f.nanBits, Flag.nv)
    | some y => f.round 0 y

/-- The exact product of two operand elements. -/
def product (a b : Source) : Option FVal :=
  match a, b with
  | .float x, .float y => if x.isNan || y.isNan then none else x.mul y
  | _, _ => none

/-- A masked depth position adds +0: −0 becomes +0, every other encoding stays, and no flag is set (R297). -/
def maskedStep (t : Tag) (x : Nat) : Nat := if x = 2 ^ (Tag.width t - 1) then 0 else x

/-- A chain over products in order; none stands for a masked position. -/
def chain (t : Tag) (x : Nat) (ps : List (Option (Option FVal))) : Nat × Word :=
  ps.foldl (fun p v => match v with
    | none => (maskedStep t p.1, p.2)
    | some v => let r := chainStep t p.1 v; (r.1, p.2 ||| r.2)) (x, 0)

/-- The integer an operand element enters as, and its VOID flag (R300). -/
def Source.toInt : Source → Int × Word
  | .int v => (v, 0)
  | .void => (0, Flag.void)
  | .float _ => (0, 0)

/-- Slot (i, j) of a tile. -/
def Tile.slot (t : Tile) (i j : Nat) : Dword := look t.slots 0 (16 * i + j)

def Tile.setSlot (t : Tile) (i j : Nat) (x : Dword) : Tile := { t with slots := put t.slots (16 * i + j) x }

/-- The elements of an MMA at (i, j), by depth position: a and b where the position is unmasked. -/
abbrev DepthPairs := List (Option (Source × Source))

/-- One element of D from that of C (R307), and its flags. -/
def matElement (t : Tag) (c : Tile) (i j : Nat) (ps : DepthPairs) : List (Nat × Dword) × Word :=
  let prods : List (Option (Option FVal)) := ps.map fun p => p.map fun x => product x.1 x.2
  let alternate (par : Nat) : List (Option (Option FVal)) :=
    ((prods.zip (List.range prods.length)).filter fun p => p.2 % 2 == par).map (·.1)
  match t with
  | .fp64 =>
    let r := chain .fp64 (c.slot i (2 * j)).toNat prods
    ([(2 * j, BitVec.ofNat 64 r.1), (2 * j + 1, 0)], r.2)
  | .fp32 =>
    let x := c.slot i j
    let e := chain .fp32 (x.setWidth 32).toNat (alternate 0)
    let o := chain .fp32 ((x >>> 32).setWidth 32).toNat (alternate 1)
    ([(j, BitVec.ofNat 64 (e.1 + 2 ^ 32 * o.1))], e.2 ||| o.2)
  | _ =>
    let x := relem .rw (c.slot i j).toNat
    let terms := ps.map fun p => match p with
      | some (a, b) => (a.toInt.1 * b.toInt.1, a.toInt.2 ||| b.toInt.2)
      | none => (0, 0)
    ([(j, BitVec.ofNat 64 (rencode .rw (x.1 + (terms.map (·.1)).sum)))], terms.foldl (fun f p => f ||| p.2) x.2)

/-- The codebooks as element values (R289). -/
def Team.source (t : Team) (g : Tag) (x : Nat) : Source := sourceOf (t.book false) (t.book true) g x

/-- A number of a list of elements found by their places. -/
def pick {α : Type} [DecidableEq α] (keys : List α) (vals : List Nat) (k : α) : Nat :=
  match keys.idxOf? k with
  | some i => vals.getD i 0
  | none => 0

/-- Row i of D: every unmasked element (i, j), with b and a as fetched. -/
def Team.matRow (t : Team) (o : MatOp) (c : Conv) (i : Nat) (b : Nat → Nat → Nat) (a : Nat → Nat) : Team × Word :=
  let tag := (t.tileAt o.d).tag
  let src := t.tileAt o.c
  let pairs (j : Nat) : DepthPairs := (List.range 16).map fun k =>
    if c.depm.getLsbD k then some (t.source c.afmt (a k), t.source c.bfmt (b k j)) else none
  let r := (colsOf tag c.colm).map fun j => matElement tag src i j (pairs j)
  let writes := r.flatMap (·.1)
  let d := writes.foldl (fun d w => d.setSlot i w.1 w.2) (t.tileAt o.d)
  ({ t with tiles := modifyAt (fun _ => d) o.d t.tiles }, r.foldl (fun f x => f ||| x.2) 0)

/-! ## Rows of an operation -/

def State.matOp (s : State) (id : Nat) : Option MatOp := s.team.mops.find? fun o => o.id == id

def State.setMatOp (s : State) (id : Nat) (f : MatOp → MatOp) : State :=
  { s with team := { s.team with mops := s.team.mops.map fun o => if o.id = id then f o else o } }

/-- Row progress: rows of the operation, and of its register (Table 19-4). -/
def State.setRows (s : State) (o : MatOp) (n : Nat) (flags : Word) : State :=
  let s := s.setMatOp o.id fun x => { x with rows := n, flags := x.flags ||| flags }
  match o.kind with
  | .mma k => { s with team := s.team.setConv k { s.team.conv k with rp := n } }
  | _ => s

/-- Row i of an MMA, with its operands fetched (R307). -/
def State.mmaRow (s : State) (o : MatOp) (c : Conv) (i : Nat) : State :=
  let tag := (s.team.tileAt o.d).tag
  let av := ((o.avals.find? fun p => p.1 == i).map (·.2)).getD []
  let r := s.team.matRow o c i (fun k j => pick (c.bElems tag) (o.bvals.getD []) (k, j)) (pick (c.aElems tag) av)
  ({ s with team := r.1 } : State).setRows o (i + 1) r.2

/-- Row i of an MLD (R311): slots as they stand in memory. -/
def State.mldRow (s : State) (o : MatOp) (i : Nat) : Option State :=
  let ps := pieces (o.base + BitVec.ofNat 64 (i * o.stride.toNat)) 128
  match (s.sampleFor o.origin .load (ps.map (·.1))).engineRead 1 ps with
  | none => none
  | some (s, row) =>
    let tag := (s.team.tileAt o.d).tag
    let word (j : Nat) : Dword := BitVec.ofNat 64 (leNat ((row.drop (8 * j)).take 8))
    let image (j : Nat) : Dword := if tag = .fp64 ∧ j % 2 = 1 then 0 else word j
    let d := (List.range 16).foldl (fun d j => d.setSlot i j (image j)) (s.team.tileAt o.d)
    let void := tag == .rw && (List.range 16).any fun j => isVoid .rw (word j).toNat
    some (({ s with team := { s.team with tiles := modifyAt (fun _ => d) o.d s.team.tiles } } : State).setRows o (i + 1)
      (if void then Flag.void else 0))

/-! ## Readout (R92, R312) -/

/-- A value times an FP64 scale, rounded to nearest even. -/
def scaleBy (x : FVal) (scale : Dword) : FVal × Word :=
  let f := fmt .fp64
  match x.mul (f.decode scale.toNat) with
  | none => (.nan, Flag.nv)
  | some .nan => (.nan, Flag.nv)
  | some y => let r := f.round 0 y; (f.decode r.1, r.2)

/-- The value of element (i, j) before scaling, with its flags. -/
def Tile.value (t : Tile) (i j : Nat) : FVal × Word :=
  match t.tag with
  | .fp64 => ((fmt .fp64).decode (t.slot i (2 * j)).toNat, 0)
  | .fp32 =>
    let x := t.slot i j
    let r := chainStep .fp32 (x.setWidth 32).toNat (some ((fmt .fp32).decode ((x >>> 32).setWidth 32).toNat))
    ((fmt .fp32).decode r.1, r.2)
  | _ =>
    let x := relem .rw (t.slot i j).toNat
    (.num (decide (x.1 < 0)) x.1.natAbs 0 false, x.2)

/-- Element (i, j) delivered to format g with row scale rs and column scale cs. -/
def Tile.readout (t : Tile) (i j : Nat) (rs cs : Dword) (g : Tag) : Nat × Word :=
  let v := t.value i j
  let a := scaleBy v.1 rs
  let b := scaleBy a.1 cs
  let r := convertTo g 0 (.float b.1)
  (r.1, v.2 ||| a.2 ||| b.2 ||| r.2)

/-- The bits and the mask of one MST row as numbers, with its flags. -/
def MatOp.storeRow (o : MatOp) (t : Tile) (i : Nat) : Nat × Nat × Word :=
  let w := if o.tag = .raw then 64 else Tag.width o.tag
  let js : List Nat :=
    if o.tag = .raw then
      (List.range 16).filter fun j => o.colm.getLsbD (if t.tag = .fp64 then j / 2 else j)
    else colsOf t.tag o.colm
  let elem (j : Nat) : Nat × Word :=
    if o.tag = .raw then ((t.slot i j).toNat, 0) else t.readout i j (look o.rs 0 i) (look o.cs 0 j) o.tag
  ((js.map fun j => (elem j).1 % 2 ^ w * 2 ^ (j * w)).sum, (js.map fun j => (2 ^ w - 1) * 2 ^ (j * w)).sum,
    js.foldl (fun f j => f ||| (elem j).2) 0)

/-- Bytes of an MST row. -/
def MatOp.rowBytes (o : MatOp) (t : Tile) : Nat :=
  if o.tag = .raw then 128 else ((if t.tag = .fp64 then 8 else 16) * Tag.width o.tag + 7) / 8

/-- The updates of bytes with their masks from va on, in ascending address order: runs of whole bytes within a line, and a bitwise merge for
each byte that is shared with a masked element (R298). The third component is a merge's mask. -/
def mstWrites (va : BitVec 64) : List (Byte × Byte) → List (BitVec 64 × List Byte × Option Byte)
  | [] => []
  | (b, m) :: rest =>
    if m = 0 then mstWrites (va + 1) rest
    else if m ≠ 0xFF then (va, [b &&& m], some m) :: mstWrites (va + 1) rest
    else match mstWrites (va + 1) rest with
      | (a, l, none) :: more =>
        if a = va + 1 ∧ a.toNat % 128 ≠ 0 then (va, b :: l, none) :: more else (va, [b], none) :: (a, l, none) :: more
      | more => (va, [b], none) :: more

/-- One update of an MST, and its tw (R213, R362). -/
def State.mstWrite (s : State) (o : MatOp) (x : BitVec 64 × List Byte × Option Byte) : State × Nat :=
  let t := (s.useRat s.ctx).translate s.ctx .store s.team.service x.1 1
  match t.2 with
  | .ok pa =>
    (t.1.signEngine o.owner o.id x.1 x.2.1).engineUpdate 1 o.id o.warp x.1 pa
      (match x.2.2 with | none => .bytes x.2.1 | some m => .merge (x.2.1.headD 0) m)
  | _ => (t.1, 0)

/-- The addresses that row i of an MST writes. -/
def State.mstVas (s : State) (o : MatOp) (i : Nat) : List (BitVec 64) :=
  let t := s.team.tileAt o.d
  let mask := leBytes (o.storeRow t i).2.1 (o.rowBytes t)
  let row := o.base + BitVec.ofNat 64 (i * o.stride.toNat)
  ((mask.zip (List.range mask.length)).filter fun p => p.1 != 0).map fun p => row + BitVec.ofNat 64 p.2

/-- Row i of an MST: updates of its whole bytes, and merges of the bytes that it shares with masked elements. -/
def State.mstRow (s : State) (o : MatOp) (i : Nat) : State :=
  let t := s.team.tileAt o.d
  let x := o.storeRow t i
  let n := o.rowBytes t
  let row := o.base + BitVec.ofNat 64 (i * o.stride.toNat)
  let a := (mstWrites row ((leBytes x.1 n).zip (leBytes x.2.1 n))).foldl (fun (p : State × Nat) y =>
    let u := p.1.mstWrite o y
    (u.1, max p.2 u.2)) (s, 0)
  (((a.1.sampleFor o.origin .store (s.mstVas o i)).setMatOp o.id fun x => { x with tw := max x.tw a.2 }).setRows o (i + 1) x.2.2).heldLimit

/-! ## Progress -/

/-- The rows that an operation applies, from its first row that is not complete. -/
def MatOp.todo (o : MatOp) : List Nat :=
  (List.range 16).filter fun i => decide (o.rows ≤ i) && (match o.kind with | .mld => true | _ => o.rowm.getLsbD i)

/-- The parts of its operands that an MMA has not fetched: B, then rows of A (R296). -/
def MatOp.missing (o : MatOp) : List (Option Nat) :=
  match o.kind with
  | .mma _ => (if o.bvals.isSome then [] else [none]) ++ (o.todo.filter fun i => !(o.avals.any fun p => p.1 == i)).map some
  | _ => []

/-- A part of the operands has been fetched. -/
def MatOp.take (p : Option Nat) (l : List Nat) (o : MatOp) : MatOp :=
  match p with
  | none => { o with bvals := some l }
  | some i => { o with avals := o.avals ++ [(i, l)] }

/-- The elements of a part of the operands of an operation. -/
def State.partOf (s : State) (o : MatOp) (p : Option Nat) : List (Tag × BitVec 64 × Nat) :=
  match o.kind with
  | .mma k => (s.team.conv k).part (s.team.tileAt o.d).tag p
  | _ => []

/-- Parts of the operands are fetched in order, up to the first that fails, stalls or finds a home that cannot answer (R295, R296). -/
def State.fetchParts (s : State) (o : MatOp) : List (Option Nat) → State
  | [] => s
  | p :: rest =>
    let l := s.partOf o p
    if (s.probe 1 .load (elemVas l)).clear then
      match (s.sampleFor o.origin .load (elemVas l)).fetchElems l with
      | some r => (r.1.setMatOp o.id (MatOp.take p r.2)).fetchParts o rest
      | none => s
    else s

/-- The charge of an operation whose operands have been fetched (R301). -/
def MatOp.charged (o : MatOp) : Nat :=
  match o.kind with
  | .mma _ => 1 + (toggles 0 (o.avals.flatMap (·.2)) + toggles 0 (o.bvals.getD []) + 255) / 256
  | _ => 1

/-- The operation and its register take the charge once every operand has been fetched. -/
def State.setCharge (s : State) (id : Nat) : State :=
  match s.matOp id with
  | none => s
  | some o =>
    if !o.missing.isEmpty then s
    else
      let s := s.setMatOp id fun x => { x with charge := o.charged }
      match o.kind with
      | .mma k => { s with team := s.team.setConv k { s.team.conv k with charge := o.charged } }
      | _ => s

/-- What each fork of the operation comes after has been performed, so that the engine observes it (R8): the signatures of an MMA, or the
instruction itself. -/
def State.forksSeen (s : State) (o : MatOp) : Bool :=
  match o.kind with
  | .mma k =>
    let c := s.team.conv k
    (maskLanes c.signed).all fun w => s.forkSeen s.team.handle w (look c.owners 0 w) o.id
  | _ => s.forkSeen s.team.handle o.warp o.owner o.id

/-- The engine may fetch for an operation, or start it. -/
def State.mayFetch (s : State) (o : MatOp) : Bool := o.phase == .queued && s.team.works && s.forksSeen o

/-- The operands of an operation of the team in focus are fetched, as far as they can be. -/
def State.fetchOp (s : State) (o : MatOp) : State :=
  if s.mayFetch o then (s.fetchParts o o.missing).setCharge o.id else s

/-- The fetch of a matrix operation's operands (R301): one happening of log 1. -/
def execMatrixFetch (h id : Nat) (s : State) : Host.Outcome State Fault Refusal :=
  match s.focusTeam h with
  | none => .fault .cannotHappen
  | some s => match s.matOp id with
    | none => .fault .cannotHappen
    | some o =>
      let t := s.fetchOp o
      if ((t.matOp id).map MatOp.missing) == some o.missing then .fault .cannotHappen else .next t.wake

/-- What stops row i of an MLD or MST: the code and the address. -/
def State.rowFault (s : State) (o : MatOp) (i : Nat) : Option (BitVec 16 × BitVec 64) :=
  match o.kind with
  | .mld => s.fetchFault .load ((pieces (o.base + BitVec.ofNat 64 (i * o.stride.toNat)) 128).map (·.1))
  | .mst => s.fetchFault .store (s.mstVas o i)
  | _ => none

/-- What an operation meets next: nothing, or a fault at the first part that an MMA has not fetched, or at a row of an MLD or MST. -/
def State.opFault (s : State) (o : MatOp) : Option (BitVec 16 × BitVec 64) :=
  match o.missing with
  | p :: _ => s.fetchFault .load (elemVas (s.partOf o p))
  | [] => o.todo.findSome? fun i => s.rowFault o i

/-- The rows that can be applied before what the operation meets next. -/
def State.readyRows (s : State) (o : MatOp) : List Nat :=
  match o.kind with
  | .mma _ => if o.bvals.isSome then o.todo.takeWhile fun i => o.avals.any fun p => p.1 == i else []
  | .mzero => []
  | _ => o.todo.takeWhile fun i => (s.rowFault o i).isNone

/-- TRANSIT or WBLOCK stalls one of the rows of an MLD or MST (R303). -/
def State.rowsStall (s : State) (o : MatOp) (rows : List Nat) : Bool :=
  match o.kind with
  | .mld => rows.any fun i => s.fetchStalls .load ((pieces (o.base + BitVec.ofNat 64 (i * o.stride.toNat)) 128).map (·.1))
  | .mst => rows.any fun i => s.fetchStalls .store (s.mstVas o i)
  | _ => false

/-- Rows of an operation are applied in ascending order. none while a home cannot answer. -/
def State.applyRows (s : State) (o : MatOp) (rows : List Nat) : Option State :=
  let s := s.useRat s.ctx
  match o.kind with
  | .mma k => some (rows.foldl (fun s i => s.mmaRow o (s.team.conv k) i) s)
  | .mld => rows.foldl (fun s i => s.bind fun s => s.mldRow o i) (some s)
  | .mst => some (rows.foldl (fun s i => s.mstRow o i) s)
  | .mzero =>
    let d := { s.team.tileAt o.d with slots := Vector.replicate 256 0 }
    some { s with team := { s.team with tiles := modifyAt (fun _ => d) o.d s.team.tiles } }

/-! ## Starting (R301, R302) -/

/-- No operation that has issued earlier is incomplete on tile C or tile D, either of which it may have as its own C or D (R10, R302). -/
def Team.inTurn (t : Team) (o : MatOp) : Bool :=
  (t.mops.takeWhile fun x => x.id != o.id).all fun x => x.phase == .done || (x.d != o.d && x.d != o.c && x.c != o.d && x.c != o.c)

/-- The operation may start: its operands have been fetched and it is its turn. -/
def State.startable (s : State) (h : Nat) (o : MatOp) : Bool :=
  match s.focusTeam h with
  | none => false
  | some s => s.mayFetch o && o.missing.isEmpty && s.team.inTurn o && (s.opFault o).isNone && !s.rowsStall o o.todo

/-- Every operation of the teams of a core fetches what it can. -/
def State.fetchAll (s : State) (core : Nat) : State :=
  ((s.coreTeams core).flatMap fun t => t.mops.map fun o => (t.handle, o.id)).foldl (fun s x =>
    match s.focusTeam x.1 with
    | none => s
    | some s => (s.matOp x.2).elim s s.fetchOp) s

/-- The operations of a core that may start, with team, charge and issue order. -/
def State.candidates (s : State) (core : Nat) : List (Nat × MatOp × Nat) :=
  (s.coreTeams core).flatMap fun t => (t.mops.filter fun o => s.startable t.handle o).map fun o => (t.handle, o, o.charged)

/-- a starts before b. -/
def startsBefore (a b : Nat × MatOp × Nat) : Bool :=
  let late (x : Nat × MatOp × Nat) : Bool := decide (4 ≤ x.2.1.passed)
  if late a || late b then (late a && (!late b || a.2.1.id < b.2.1.id))
  else a.2.2 < b.2.2 || (a.2.2 == b.2.2 && a.2.1.id < b.2.1.id)

def chooseStart : List (Nat × MatOp × Nat) → Option (Nat × MatOp × Nat)
  | [] => none
  | x :: xs => match chooseStart xs with
    | none => some x
    | some y => some (if startsBefore y x then y else x)

/-- A sum that saturates at 32 bits. -/
def addSat (x : Word) (n : Nat) : Word := BitVec.ofNat 32 (min (2 ^ 32 - 1) (x.toNat + n))

/-- The power budget of the window is used up. -/
def Core.exhausted (c : Core) : Bool := c.mpblim != 0 && decide (c.mpblim.toNat ≤ c.charged)

/-- MATRIX_START: the engine of a core starts the operation that R302 chooses among those whose operands it has fetched. -/
def execMatrixStart (core : Nat) (s : State) : Host.Outcome State Fault Refusal :=
  let s := s.fetchAll core
  let all := s.candidates core
  match chooseStart all with
  | none => .fault .cannotHappen
  | some (h, o, charge) => match s.focusTeam h with
    | none => .fault .cannotHappen
    | some s =>
      if s.core.exhausted then .fault .cannotHappen
      else
        let passed (t : Team) : Team := { t with mops := t.mops.map fun x =>
          if x.id != o.id && (all.any fun y => y.1 == t.handle && y.2.1.id == x.id) then { x with passed := x.passed + 1 } else x }
        let s := s.mapTeams passed
        let s := s.setMatOp o.id fun x => { x with phase := .running, charge := charge }
        let s := match o.kind with
          | .mma k => { s with team := s.team.setConv k { s.team.conv k with state := .running, charge := charge } }
          | _ => s
        .next ({ s with
          core := { s.core with charged := s.core.charged + charge, mpbcore := addSat s.core.mpbcore charge }
          team := { s.team with mpbteam := addSat s.team.mpbteam charge } } : State).wake

/-- MPB_WINDOW_EXPIRY: the window of a core ends; the cycles in which LIMIT held an operation back are a free value. -/
def execMpbWindowExpiry (core : Nat) (s : State) : Host.Outcome State Fault Refusal :=
  let home := s.core.num
  let held := !((s.fetchAll core).candidates core).isEmpty
  let s := s.focusCore core
  let stall := if s.core.exhausted && held then (Config.freeDword s.free).toNat % 1025 else 0
  .next ((({ s with
    free := if s.core.exhausted && held then s.free + 1 else s.free
    core := { s.core with charged := 0, mpbstall := addSat s.core.mpbstall stall } } : State).focusCore home).wake)

/-- MATRIX_COMPLETE: the last element of a running operation is written, and it is DONE; an MST whose last rows have gone to the peer window
ends once they are acknowledged (R213, R360). -/
def execMatrixComplete (h id : Nat) (s : State) : Host.Outcome State Fault Refusal :=
  match s.focusTeam h with
  | none => .fault .cannotHappen
  | some s => match s.matOp id with
    | none => .fault .cannotHappen
    | some o =>
      if o.phase != .running || !s.team.works || (s.opFault o).isSome || s.rowsStall o o.todo then .fault .cannotHappen
      else match s.applyRows o o.todo with
        | none => .fault .cannotHappen
        | some s =>
          if s.peerWaits h id then (if o.todo.isEmpty then .fault .cannotHappen else .next s.wake)
          else .next ({ s with team := (s.team.loadBound o 16).endOp id 0, ctx := { s.ctx with lastBusy := s.gtc } } : State).wake

/-! ## Faults (R296, R305) -/

/-- Warp and PC to which the fault of an operation goes: the lowest-indexed member that is still live, or the issuing warp; else the
lowest-indexed live warp of the team, with the PC of the lowest-indexed signer or of the instruction. -/
def State.faultedWarp (s : State) (o : MatOp) : Option Nat × BitVec 64 :=
  let ws := sortBy (fun (a b : Warp) => a.idx ≤ b.idx) (s.teamWarps s.team.handle)
  let first := (ws.head?).map (·.idx)
  match o.kind with
  | .mma k =>
    let c := s.team.conv k
    match ws.find? fun w => c.members.getLsbD w.idx && look c.owners 0 w.idx == w.uid with
    | some w => (some w.idx, look c.pcs 0 w.idx)
    | none => (first, look c.pcs 0 ((maskLanes c.signed).headD 0))
  | _ => (((ws.find? fun w => w.uid == o.owner).map (·.idx)).orElse fun _ => first, o.pc)

/-- The operation is FAULTED, and its register with it. -/
def State.markFaulted (s : State) (o : MatOp) (holder : Option Nat) : State :=
  let s := s.setMatOp o.id fun x => { x with phase := .faulted, holder := holder }
  match o.kind with
  | .mma k => { s with team := s.team.setConv k { s.team.conv k with state := .faulted } }
  | _ => s

/-- MATRIX_FETCH_FAULT: rows before the failing one are applied, the operation is FAULTED, and its warp takes the fault at its next
boundary: at once, or when a park or a delivery that holds it is over (DEDUCED: log 20). A guarded team that reads POISON rolls back. -/
def execMatrixFetchFault (h id : Nat) (s : State) : Host.Outcome State Fault Refusal :=
  match s.focusTeam h with
  | none => .fault .cannotHappen
  | some s => match s.matOp id with
    | none => .fault .cannotHappen
    | some o =>
      let s := s.fetchOp o
      let o := (s.matOp id).getD o
      if !(o.phase == .queued || o.phase == .running) || !s.team.works || !s.team.inTurn o || !s.forksSeen o then .fault .cannotHappen
      else match s.opFault o with
        | none => .fault .cannotHappen
        | some (code, addr) =>
          let before := s.readyRows o
          if s.rowsStall o before then .fault .cannotHappen
          else match s.applyRows o before with
          | none => .fault .cannotHappen
          | some s =>
            let who := s.faultedWarp o
            if s.team.guarded && s.team.doomed.isNone && code == Code.poison then .next (s.rollback h who.2 addr).wake
            else match who.1 with
              | none => .next ((({ s with team := s.team.endOp id 2 } : State).doom code who.2 addr).wake)
              | some w => match s.focusOn h w with
                | none => .fault .cannotHappen
                | some s =>
                  let p : Park := { code := code, second := 0, lanes := bitMask ((lowest s.warp.live).getD 0), pc := who.2, addr := addr,
                                    seq := none, since := s.gtc, op := id }
                  let s := s.markFaulted o (some w)
                  .next (State.settlePending { s with warp := { s.warp with pendFault := s.warp.pendFault ++ [p] } }).wake

end Sys2Proof.Machine
end

