-- ==== Sys2Proof/Machine/Matrix.lean ====
section
/-! DEFINITION. The matrix family (R304 to R317). -/

namespace Sys2Proof.Machine

/-- The checks and waits of a matrix instruction with scalar operands. -/
def State.matUses (i : Instr) (srcs : List SSrc) (specific : Option Raise) (retry : Bool := false) : Uses :=
  { legal := i.wellFormed, ssrcs := srcs, specific := specific, retry := retry }

/-- A matrix instruction that enters the window as an invalid entry and acts on the team (R304). -/
def State.matInstr (s : State) (uses : State → Uses) (act : State → Team) : Host.Outcome State Fault Refusal :=
  s.issueNext uses fun s => ({ s with team := act s } : State).enterInvalid

/-- A tile number at or above VAT faults with WINDOW (R284). -/
def State.tileCheck (s : State) (t : Nat) : Option Raise :=
  if t < s.team.tiles.length then none else some (Raise.all s Code.window)

/-- The first fault of a list. -/
def firstFault (l : List (Option Raise)) : Option Raise := l.findSome? id

def State.require (s : State) (ok : Bool) (code : BitVec 16) (addr : BitVec 64 := 0) : Option Raise :=
  if ok then none else some { Raise.all s code with addr := addr }

/-- The warp indices of the team, as a mask. -/
def State.teamMask (s : State) : Mask := (s.teamWarps s.team.handle).foldl (fun m w => m ||| bitMask w.idx) 0

/-! ## Declaring and signing -/

/-- The register that MCONV leaves: OPEN with the snapshot of R289 (R306). -/
def Team.declare (t : Team) (old : Conv) (members : Mask) (c d : Nat) : Conv :=
  { old with
    state := .open, members := members, signed := 0, c := c, d := d, rp := 0
    afmt := t.mfmt.setWidth 5 |> Tag.ofCode, bfmt := (t.mfmt >>> 5).setWidth 5 |> Tag.ofCode, btrans := t.mfmt.getLsbD 10
    astride := t.mastr, bstride := t.mbstr, rowm := t.rowm, colm := t.colm, depm := t.depm }

/-- MCONV (R306). -/
def execMconv (a b : SOp) (k : BitVec 4) (s : State) : Host.Outcome State Fault Refusal :=
  let c (s : State) : Nat := bits (s.sc b) 0 5
  let d (s : State) : Nat := bits (s.sc b) 8 5
  let members (s : State) : Mask := s.sc a &&& s.teamMask
  let busy (s : State) : Bool := [ConvState.queued, .running, .faulted].contains (s.team.conv k.toNat).state
  s.matInstr
    (fun s => State.matUses (.mconv a b k) [{ op := a }, { op := b }]
      (firstFault [s.tileCheck (c s), s.tileCheck (d s), s.require (members s != 0) Code.mismatch,
        s.require ((s.team.conv k.toNat).state != .open) Code.mismatch]) (busy s))
    (fun s => s.team.setConv k.toNat (s.team.declare (s.team.conv k.toNat) (members s) (c s) (d s)))

/-- The bound of a tile waits for what an MLD in flight loads. -/
def Team.loading (t : Team) (i : Nat) : Bool :=
  t.mops.any fun o => o.kind == .mld && o.phase != .done && (t.boundHeirs o).contains i

/-- The signature waits for the bound of C, which RANGE needs (R90, R292; DESIGN CHOICE: log 19). -/
def State.signWaits (s : State) (k : Nat) : Bool :=
  let c := s.team.conv k
  (s.team.tileAt c.d).tag == .rw && s.team.loading c.c

/-- The checks of R292 on a signature with A and B addresses. -/
def State.signCheck (s : State) (k : Nat) (a b : BitVec 64) : Option Raise :=
  let c := s.team.conv k
  let me := s.warp.idx
  let td := (s.team.tileAt c.d).tag
  let tagOk := pairing c.afmt c.bfmt == some td && (s.team.tileAt c.c).tag == td
  let ea := Tag.alignment c.afmt
  let eb := Tag.alignment c.bfmt
  firstFault [
    s.require (c.state == .open && c.members.getLsbD me && !c.signed.getLsbD me &&
      (c.signed == 0 || (a == c.aaddr && b == c.baddr))) Code.mismatch,
    s.require tagOk Code.tag,
    s.require (a.toNat % ea == 0) Code.align a,
    s.require (b.toNat % eb == 0) Code.align b,
    s.require (c.astride.toNat % ea == 0) Code.align a,
    s.require (c.bstride.toNat % eb == 0) Code.align b,
    s.require (td != .rw || s.signWaits k || decide (s.team.boundOf c ≤ boundLimit)) Code.range]

/-- A signature is recorded; the operation issues with the last one (R292). -/
def State.sign (s : State) (k : Nat) (a b : BitVec 64) : State :=
  let c := s.team.conv k
  let me := s.warp.idx
  let c := { c with
    aaddr := if c.signed = 0 then a else c.aaddr, baddr := if c.signed = 0 then b else c.baddr
    signed := c.signed ||| bitMask me, pcs := put c.pcs me s.entry.pc, owners := put c.owners me s.warp.uid, origin := s.originOf 0x7C }
  let t := s.team.setConv k c
  { s with team := if c.members &&& ~~~c.signed = 0 then t.issueConv k s.nextId else t, nextId := s.nextId + 1 }

/-- MMA (R292, R307). -/
def execMma (a b : SOp) (k : BitVec 4) (s : State) : Host.Outcome State Fault Refusal :=
  s.issueNext
    (fun s => { State.matUses (.mma a b k) [{ op := a, count := 2 }, { op := b, count := 2 }]
        (s.signCheck k.toNat (s.scPair a) (s.scPair b)) (s.signWaits k.toNat) with uniform := s.wholeWarp })
    (fun s => (s.sign k.toNat (s.scPair a) (s.scPair b)).enterInvalid)

/-! ## Matrix state -/

/-- Tiles whose tag MSET.TAG may give (R308). -/
def tileTags : List Tag := [.fp32, .fp64, .rw]

/-- MSET.TAG: a tag, every element zero, d and B 0. -/
def Team.retag (t : Team) (i : Nat) (g : Tag) : Team :=
  { t with tiles := modifyAt (fun _ => { Tile.blank with tag := g }) i t.tiles }

/-- A register that names an IX format is at work, so that a codebook may not change (R289). -/
def Team.booksBusy (t : Team) : Bool :=
  t.convs.toList.any fun c => [ConvState.open, .queued, .running, .faulted].contains c.state &&
    ([Tag.ix4, .ix8].contains c.afmt || [Tag.ix4, .ix8].contains c.bfmt)

/-- The bytes of pieces whose addresses have been checked, through the L1; those of the peer window are free values. A privileged
warp's requests are not counted (R249). -/
def State.readPieces (s : State) : List (Nat × LaneLoad) → Option (State × List Byte)
  | [] => some (s, [])
  | (n, p) :: rest =>
    let one : Option (State × List Byte) :=
      if target p.pa = .peer then some (s.freeBytes n)
      else (s.readLine (lineOf p.pa) p.va (!s.privileged)).map fun r => (r.1, lineBytes r.2 (p.pa % 128) n)
    match one with
    | none => none
    | some (s, l) => (s.readPieces rest).map fun r => (r.1, l ++ r.2)

/-- A codebook's entries, 16 bits each. -/
def bookOf (l : List Byte) (n : Nat) : List (BitVec 16) := (List.range n).map fun i => BitVec.ofNat 16 (leNat ((l.drop (2 * i)).take 2))

/-- MSET.CB4 and MSET.CB8 after their checks (R289, R308). -/
def State.loadBook (s : State) (wide : Bool) (va : BitVec 64) : Attempt :=
  let ps := pieces va (if wide then 512 else 32)
  let c := s.check .load 1 (ps.map fun p => (s.firstLane, p.1))
  match c.2 with
  | .raise r => .raise s { r with lanes := s.mask }
  | .stall => .wait c.1 false
  | .ok lanes =>
    if c.1.team.booksBusy then .wait s false
    else match lanes.find? fun l => c.1.poison.contains (lineOf l.pa) with
      | some l => .raise s { Raise.all s Code.poison with addr := l.va }
      | none => match (c.1.sample 0x7C .load (ps.map (·.1))).readPieces ((ps.map (·.2)).zip lanes) with
        | none => .wait s false
        | some (t, data) =>
          let t : State := { t with team :=
            if wide then { t.team with mcb8 := bookOf data 256 } else { t.team with mcb4 := bookOf data 16 } }
          .done (t.enterInvalid.advance)

/-- MSET (R308). -/
def execMset (a b : SOp) (n : BitVec 6) (s : State) : Host.Outcome State Fault Refusal :=
  let i : Instr := .mset a b n
  if n = 0x04 ∨ n = 0x05 then
    s.attempt
      (fun s => State.matUses i [{ op := a, count := 2 }] (s.require ((s.scPair a).toNat % 32 == 0) Code.align (s.scPair a)))
      fun s => s.loadBook (n == 0x05) (s.scPair a)
  else if n = 0x02 then
    let t (s : State) : Nat := bits (s.sc b) 0 5
    let g (s : State) : Tag := Tag.ofCode ((s.sc a).setWidth 5)
    s.matInstr
      (fun s => State.matUses i [{ op := a }, { op := b }]
        (firstFault [s.tileCheck (t s), s.require (tileTags.contains (g s)) Code.tag]) (s.team.pend (t s) != 0))
      (fun s => s.team.retag (t s) (g s))
  else
    let srcs : List SSrc :=
      if n = 0x00 then [{ op := a }] else if n = 0x01 then [{ op := a }, { op := b }]
      else if n = 0x03 then [] else [{ op := a, count := 2 }]
    s.matInstr (fun _ => State.matUses i srcs none) fun s =>
      if n = 0x00 then { s.team with mfmt := (s.sc a).setWidth 11 }
      else if n = 0x01 then { s.team with mastr := s.sc a, mbstr := s.sc b }
      else if n = 0x03 then { s.team with mrs := Vector.replicate 16 one64, mcs := Vector.replicate 16 one64 }
      else if n.toNat < 0x20 then { s.team with mrs := put s.team.mrs (n.toNat % 16) (s.scPair a) }
      else { s.team with mcs := put s.team.mcs (n.toNat % 16) (s.scPair a) }

/-- MMASK (R309). -/
def execMmask (a : SOp) (n : BitVec 6) (s : State) : Host.Outcome State Fault Refusal :=
  s.matInstr (fun _ => State.matUses (.mmask a n) (if n = 2 then [] else [{ op := a }]) none) fun s =>
    if n = 0 then { s.team with rowm := (s.sc a).setWidth 16, colm := (s.sc a >>> 16).setWidth 16 }
    else if n = 1 then { s.team with depm := (s.sc a).setWidth 16 }
    else { s.team with rowm := 0xFFFF, colm := 0xFFFF, depm := 0xFFFF }

/-! ## Loads, stores and readout -/

/-- A matrix operation of the warp in focus issues: it forks and counts in PEND of its tile (R305). -/
def State.forkMat (s : State) (kind : MatKind) (t : Nat) (f : MatOp → MatOp) : Team :=
  { s.team with mops := s.team.mops ++ [f { MatOp.blank with
      id := s.nextId, kind := kind, c := t, d := t, warp := s.warp.idx, owner := s.warp.uid, signers := bitMask s.warp.idx, pc := s.entry.pc,
      origin := s.originOf 0x7C }] }

/-- The depth and the bound of a tile restart at 0 (R311, R314). -/
def Team.restart (t : Team) (i : Nat) : Team :=
  { t with tiles := modifyAt (fun (d : Tile) => { d with depth := 0, bound := 0 }) i t.tiles }

/-- Base and stride are multiples of n bytes; the fault address of a stride is the base (R311, R312). -/
def State.alignCheck (s : State) (base : BitVec 64) (stride : Word) (n : Nat) : List (Option Raise) :=
  [s.require (base.toNat % n == 0) Code.align base, s.require (stride.toNat % n == 0) Code.align base]

/-- MLD (R305, R311). -/
def execMld (a b : SOp) (t : BitVec 5) (s : State) : Host.Outcome State Fault Refusal :=
  s.matInstr
    (fun s => State.matUses (.mld a b t) [{ op := a, count := 2 }, { op := b }]
      (firstFault (s.tileCheck t.toNat :: s.alignCheck (s.scPair a) (s.sc b) 8)))
    (fun s => (s.forkMat .mld t.toNat fun o => { o with base := s.scPair a, stride := s.sc b }).restart t.toNat)

/-- Tags that CVT accepts as a target (R152). -/
def Tag.cvtTarget (g : Tag) : Bool := !([Tag.raw, .ix4, .ix8, .rw].contains g)

/-- MST (R305, R312). -/
def execMst (a b : SOp) (t : BitVec 5) (s : State) : Host.Outcome State Fault Refusal :=
  let g (s : State) : Tag := Tag.ofCode ((s.sc b 1).setWidth 5)
  s.matInstr
    (fun s => State.matUses (.mst a b t) [{ op := a, count := 2 }, { op := b, count := 2 }]
      (firstFault (s.tileCheck t.toNat :: s.require (g s == .raw || Tag.cvtTarget (g s)) Code.tag ::
        s.alignCheck (s.scPair a) (s.sc b) (if g s = .raw then 8 else Tag.alignment (g s)) ++
        [s.require (g s == .raw || (s.team.tileAt t.toNat).tag != .raw) Code.tag])))
    (fun s => s.forkMat .mst t.toNat fun o =>
      { o with base := s.scPair a, stride := s.sc b, tag := g s, rowm := s.team.rowm, colm := s.team.colm,
               rs := s.team.mrs, cs := s.team.mcs })

/-- MZERO (R305, R314). -/
def execMzero (t : BitVec 5) (s : State) : Host.Outcome State Fault Refusal :=
  s.matInstr (fun s => State.matUses (.mzero t) [] (s.tileCheck t.toNat))
    (fun s => (s.forkMat .mzero t.toNat id).restart t.toNat)

/-- Tags that MCVT accepts (R313). -/
def mcvtTags : List Tag :=
  [.fp32, .fp16, .bf16, .fp8a, .fp8b, .i32, .n32, .i16, .n16, .i8, .n8, .rs8, .rp8, .rs16, .rp16]

/-- A register's 128 bytes as a number, lane 0 lowest. -/
def lanesNat (y : Lanes) : Nat := (laneNos.map fun L => (lane y L).toNat * 2 ^ (32 * L)).sum

def natLanes (x : Nat) : Lanes := lanesOf fun L => BitVec.ofNat 32 (x / 2 ^ (32 * L))

/-- MCVT's register: row i of a tile in the stream layout of g, with the old bits of masked elements and zero past the row's
end. The flags are those of elements delivered to active lanes (R58, R79). -/
def State.mcvtRow (s : State) (t i : Nat) (g : Tag) (old : Lanes) : Lanes × Word :=
  let tile := s.team.tileAt t
  let n := if tile.tag = .fp64 then 8 else 16
  let w := Tag.width g
  let shown (j : Nat) : Bool := s.team.rowm.getLsbD i && s.team.colm.getLsbD j
  let elem (j : Nat) : Nat × Word := tile.readout i j (look s.team.mrs 0 i) (look s.team.mcs 0 j) g
  let js := List.range n
  let x := (js.map fun j => (if shown j then (elem j).1 % 2 ^ w else lanesNat old / 2 ^ (j * w) % 2 ^ w) * 2 ^ (j * w)).sum
  (natLanes x, (js.filter fun j => shown j && s.mask.getLsbD (j * w / 32)).foldl (fun f j => f ||| (elem j).2) 0)

/-- MCVT (R313). -/
def execMcvt (a : VOp) (b : SOp) (s : State) : Host.Outcome State Fault Refusal :=
  let t (s : State) : Nat := bits (s.sc b) 0 5
  let i (s : State) : Nat := bits (s.sc b) 8 4
  let g (s : State) : Tag := Tag.ofCode ((s.sc b >>> 16).setWidth 5)
  s.issueNext
    (fun s => { State.matUses (.mcvt a b) [{ op := b }]
        (firstFault [s.require (mcvtTags.contains (g s)) Code.tag,
          s.require (decide (s.team.tiles.length ≤ t s) || (s.team.tileAt (t s)).tag != .raw) Code.tag, s.tileCheck (t s)])
        (s.team.pend (t s) != 0) with dsts := [{ op := a }] })
    (fun s =>
      let y := s.mcvtRow (t s) (i s) (g s) (s.vec a)
      s.settle [] (s.resultEntry { dst := a, tag := g s, lo := y.1, flags := y.2, long := true }))

/-! ## Waiting and progress -/

/-- The tiles an MWAIT covers. -/
def State.covers (s : State) (a : SOp) (all : BitVec 1) (t : Nat) : Bool := all == 1 || (s.sc a).getLsbD t

/-- Something that the MWAIT covers is not DONE (R294). -/
def State.mwaitBusy (s : State) (a : SOp) (all : BitVec 1) : Bool :=
  (s.team.mops.any fun o => s.covers a all o.d && o.phase != .done) ||
    s.team.convs.toList.any fun c => c.state == .open && s.covers a all c.d && c.signed.getLsbD s.warp.idx && look c.owners 0 s.warp.idx == s.warp.uid

/-- The operations that the MWAIT joins for the first time. -/
def State.joined (s : State) (a : SOp) (all : BitVec 1) : List MatOp :=
  s.team.mops.filter fun o => s.covers a all o.d && !o.counted.getLsbD s.warp.idx

/-- The status word of MWAIT (R315): operations that the warp signed or issued, by the status in which they ended. -/
def State.mwaitStatus (s : State) (a : SOp) (all : BitVec 1) : Word :=
  let mine := (s.joined a all).filter fun o =>
    o.signers.getLsbD s.warp.idx && (o.owner == s.warp.uid || look o.owners 0 s.warp.idx == s.warp.uid)
  let count (n : Nat) : Nat := min 255 (mine.filter fun o => o.status == n).length
  BitVec.ofNat 32 (count 0 + 2 ^ 8 * count 1 + 2 ^ 16 * count 2)

/-- The flags of MMAs that every warp then present had joined before the warp in focus was attached, and that its MWAIT covers (R294, R315). -/
def State.owedFlags (s : State) (a : SOp) (all : BitVec 1) : Word :=
  ((List.range 32).filter fun t => s.covers a all t && s.warp.mowed.getLsbD t).foldl (fun f t => f ||| look s.team.mflags 0 t) 0

/-- The flags that the joining warp takes: those of an MMA, and those of an MLD, MST or MZERO that it issued (R294). -/
def State.mwaitFlags (s : State) (a : SOp) (all : BitVec 1) : Word :=
  (s.joined a all).foldl (fun f o => match o.kind with
    | .mma _ => f ||| o.flags
    | _ => if o.owner = s.warp.uid then f ||| o.flags else f) (s.owedFlags a all)

/-- The flags of an MMA that is forgotten stay with its tile. -/
def keepFlags (v : Vector Word 32) (o : MatOp) : Vector Word 32 :=
  match o.kind with
  | .mma _ => put v o.d (look v 0 o.d ||| o.flags)
  | _ => v

/-- The joins of an MWAIT: tw and flags. An operation that every warp of the team has joined is forgotten, but for its tw and an MMA's flags, which
the MWAIT of a warp attached later takes (R294). -/
def State.joinAll (s : State) (a : SOp) (all : BitVec 1) : State :=
  let tw := ((s.team.mops.filter fun o => s.covers a all o.d).map (·.tw)).foldl max s.team.mtw
  let me := bitMask s.warp.idx
  let live := s.teamMask
  let mops := s.team.mops.map fun o => if s.covers a all o.d then { o with counted := o.counted ||| me, joined := true } else o
  let joinedByAll (o : MatOp) : Bool := o.phase == .done && live &&& ~~~o.counted == 0
  let s : State := { s with
    warp := { s.warp.orFlags (s.mwaitFlags a all) with mowed := s.warp.mowed &&& ~~~maskOf (s.covers a all) }
    team := { s.team with
      mops := mops.filter fun o => !joinedByAll o
      mtw := ((mops.filter joinedByAll).map (·.tw)).foldl max s.team.mtw
      mflags := (mops.filter joinedByAll).foldl keepFlags s.team.mflags } }
  s.foldWct tw

/-- MWAIT (R294, R315). -/
def execMwait (a b : SOp) (all : BitVec 1) (s : State) : Host.Outcome State Fault Refusal :=
  let past (s : State) : Bool := all == 0 && (List.range 32).any fun t => (s.sc a).getLsbD t && s.team.tiles.length ≤ t
  s.issueNext
    (fun s => { State.matUses (.mwait a b all) (if all = 1 then [] else [{ op := a }]) (s.require (!past s) Code.window) (s.mwaitBusy a all) with
        sdsts := [{ op := b }] })
    (fun s => (s.joinAll a all).status b (s.mwaitStatus a all))

def ConvState.code : ConvState → Nat
  | .free => 0 | .open => 1 | .queued => 2 | .running => 3 | .faulted => 4 | .done => 5

/-- Word MCV0 of a convergence register (Table 19-4). -/
def Conv.mcv0 (c : Conv) : Word :=
  BitVec.ofNat 32 (c.state.code + 2 ^ 3 * c.c + 2 ^ 8 * c.d + 2 ^ 13 * c.rp + 2 ^ 18 * c.status)

/-- MPROG (R316). -/
def execMprog (a : SOp) (k : BitVec 4) (s : State) : Host.Outcome State Fault Refusal :=
  s.issueNext (fun _ => { State.matUses (.mprog a k) [] none with sdsts := [{ op := a }] })
    (fun s => s.status a (s.team.conv k.toNat).mcv0)

/-! ## Allocating and freeing tiles -/

/-- MALLOC (R317). -/
def execMalloc (a : SOp) (blocking : BitVec 1) (c : BitVec 5) (s : State) : Host.Outcome State Fault Refusal :=
  s.issue (fun _ => { State.matUses (.malloc a blocking c) [] none with sdsts := [{ op := a }] }) fun s =>
    if c = 0 then (s.status a 0).advance
    else if 32 < s.team.tiles.length + c.toNat then (s.status a 2).advance
    else s.request a (.malloc a c.toNat) (blocking == 1)

/-- MFREE (R317). -/
def execMfree (c : BitVec 5) (s : State) : Host.Outcome State Fault Refusal :=
  let kept (s : State) : Nat := s.team.tiles.length - c.toNat
  let named (s : State) : Bool :=
    s.team.convs.toList.any fun x => x.state == .open && (decide (kept s ≤ x.c) || decide (kept s ≤ x.d))
  let busy (s : State) : Bool := s.team.mops.any fun o => o.phase != .done && decide (kept s ≤ o.d)
  s.matInstr
    (fun s => State.matUses (.mfree c) []
      (firstFault [s.require (decide (c.toNat ≤ s.team.tiles.length)) Code.window,
        s.require (c == 0 || !named s) Code.mismatch]) (c != 0 && busy s))
    (fun s => { s.team with tiles := s.team.tiles.take (kept s) })

end Sys2Proof.Machine
end

