-- ==== Sys2Proof/Machine/Csr.lean ====
section
/-! DEFINITION. The CSRs of Table 25-1: which instance an access reaches (R371, R378), what a read gives and what a write does, field
by field from the tables that lay them out. -/

namespace Sys2Proof.Machine

/-! ## Instances -/

/-- The instances that an access reaches. own is the service warp whose TGTCTX, PARKTGT and PARKCMD it reaches. -/
structure Reach where
  w : Option Warp
  t : Option Team
  ctx : Nat
  core : Nat
  die : Nat
  own : Option Warp

def State.warpOf (s : State) (h i : Nat) : Option Warp := s.allWarps.find? fun w => w.team == h && w.idx == i

def State.teamAt (s : State) (h : Nat) : Option Team := s.allTeams.find? fun t => t.handle == h

/-- Instances of the warp in focus (R371). A service warp reaches those that TGTCTX, PARKTGT and PARKCMD.WARP name. -/
def State.ownReach (s : State) : Reach :=
  if s.team.service then
    let h := s.warp.parktgt.toNat
    { w := s.warpOf h (bits s.warp.parkcmd 2 5), t := s.teamAt h, ctx := s.warp.tgtctx.toNat, core := s.core.num,
      die := dieOfCore s.core.num, own := some s.warp }
  else { w := some s.warp, t := some s.team, ctx := s.ctx.id, core := s.core.num, die := dieOfCore s.core.num, own := none }

/-- The team at a place of a core. -/
def State.teamInPlace (s : State) (core place : Nat) : Option Team := (s.coreTeams core).find? fun t => t.place == place

/-- The instances that DBGSEL and DBGCTL.WARP name (R378). -/
def State.hostReach (s : State) : Reach :=
  let core := bits s.pkg.dbgsel 16 9
  let t := s.teamInPlace core (bits s.pkg.dbgsel 25 4)
  let w := t.bind fun t => s.warpOf t.handle s.pkg.dbgwarp.toNat
  { w := w, t := t, ctx := bits s.pkg.dbgsel 0 16, core := core, die := core / 96 % 4,
    own := if (t.map (·.service)).getD false then w else none }

def State.putCtx (s : State) (c : Ctx) : State :=
  if s.ctx.id = c.id then { s with ctx := c } else { s with ctxs := c :: s.ctxs.filter fun x => x.id != c.id }

def State.coreOf (s : State) (n : Nat) : Core :=
  if s.core.num = n then s.core else (s.cores.find? fun c => c.num == n).getD (Core.blank n)

def State.putCore (s : State) (c : Core) : State :=
  if s.core.num = c.num then { s with core := c } else { s with cores := c :: s.cores.filter fun x => x.num != c.num }

/-! ## Fields -/

/-- The halves of a 64-bit register. -/
def half (x : Dword) (hi : Bool) : Word := if hi then (x >>> 32).setWidth 32 else x.setWidth 32

def setHalf (x : Dword) (hi : Bool) (v : Word) : Dword := if hi then v ++ x.setWidth 32 else (x >>> 32).setWidth 32 ++ v

/-- A half written, with the low n bits of the register fixed at zero. -/
def setAligned (n : Nat) (x : Dword) (hi : Bool) (v : Word) : Dword := setHalf x hi v &&& ~~~(BitVec.ofNat 64 (2 ^ n - 1))

/-- RW1C. -/
def w1c (old v : Word) : Word := old &&& ~~~v

def widen {n : Nat} (x : BitVec n) : Word := x.setWidth 32

/-- The row of Table 3-2 in which a warp stands; a park that waits for room in its queue is STALLED (R348). A warp whose first eligible entry is
held is marked stalled when its state is to be read (State.observed), and one that rests after its YIELD is not READY (R33), so STALLED. Where
several rows fit, R30 does not say which a warp is in: that of a park in a trap routine comes before TRAPPED, and TRAPPED before what the trap
routine waits for (DESIGN CHOICE: log 114). -/
def State.warpState (s : State) (w : Warp) : Nat :=
  let life := ((s.teamAt w.team).map (·.life)).getD .gone
  let held (p : Park) : Nat := if p.seq.isSome then 6 else 1
  if life == .swapped then 8
  else if w.tdepth then (w.double.map held).getD 7
  else match w.park with
  | some p => held p
  | none => match w.hold with
    | .pool _ => 4
    | .att => 5
    | .bar _ _ _ _ | .grid _ | .endtry _ | .regroup => 2
    | _ =>
      if !w.frontier.isEmpty && w.frontier.all fun e => (match e.wait with | .monw _ => true | _ => false) then 3
      else if w.stalled || w.rest || w.firstEntry.isNone then 1 else 0

/-- TAGS k: bits of the tag stream of the registers from WB on, by their tags in the banks (R70, R80). -/
def Warp.tagStream (w : Warp) (k : Nat) : Word :=
  let x := ((List.range 64).map fun n => (Tag.code (w.bankReg (w.wb + n)).tag).toNat * 2 ^ (5 * n)).sum
  BitVec.ofNat 32 (x / 2 ^ (32 * k))

/-- A tag given to register r in its bank. -/
def Warp.giveTag (w : Warp) (r : Nat) (t : Tag) : Warp := w.setBank r { w.bankReg r with tag := t }

/-- A write of TAGS k: every tag of which it holds a bit. -/
def Warp.setTagStream (w : Warp) (k : Nat) (v : Word) : Warp :=
  let bit (n j : Nat) : Bool :=
    let p := 5 * n + j
    if p / 32 = k then v.getLsbD (p % 32) else (Tag.code (w.bankReg (w.wb + n)).tag).getLsbD j
  (List.range 64).foldl (fun u n =>
    if (5 * n + 4) / 32 < k ∨ k < 5 * n / 32 then u
    else u.giveTag (w.wb + n) (Tag.ofCode (BitVec.ofNat 5 (((List.range 5).map fun j => if bit n j then 2 ^ j else 0).sum)))) w

def Warp.staleBits (w : Warp) (hi : Bool) : Word :=
  maskOf fun n => (w.bankReg (w.wb + n + if hi then 32 else 0)).stale

def Warp.setStaleBits (w : Warp) (hi : Bool) (v : Word) : Warp :=
  (List.range 32).foldl (fun u n => u.setStale (w.wb + n + if hi then 32 else 0) (v.getLsbD n)) w

def validBits {n : Nat} (v : Vector Copy n) : Nat := ((List.range n).map fun i => if (look v Copy.blank i).valid then 2 ^ i else 0).sum

def setValidBits {n : Nat} (v : Vector Copy n) (x : Word) : Vector Copy n :=
  (List.range n).foldl (fun v i => put v i { look v Copy.blank i with valid := x.getLsbD i }) v

def Warp.rgnstat (w : Warp) : Word :=
  BitVec.ofNat 32 (w.rgn.length + (if w.rgnOvf then 32 else 0) + if w.rgnUnd then 64 else 0)

/-- A write of d to RGNSTAT.DEPTH (R373): the bottom of the stack stays. -/
def Warp.setDepth (w : Warp) (d : Nat) : Warp :=
  let d := min d 16
  { w with rgn := if d ≤ w.rgn.length then w.rgn.drop (w.rgn.length - d) else List.replicate (d - w.rgn.length) 0 ++ w.rgn }

/-- A write of FSHN (R188): entries at or above the new count are discarded. -/
def Warp.setFshn (w : Warp) (n : Nat) : Warp :=
  let n := min n 32
  { w with fshn := n, fsh := ⟨((List.range 32).map fun i => if i < n then look w.fsh default i else default).toArray, by simp⟩ }

def Warp.shadowSel (w : Warp) : ShadowEntry := look w.fsh default w.fshsel.toNat

def Warp.setShadow (w : Warp) (e : ShadowEntry) : Warp := { w with fsh := put w.fsh w.fshsel.toNat e }

def Team.view (t : Team) (w : Warp) : Word :=
  BitVec.ofNat 32 (w.vvg + 2 ^ 6 * (w.wb / 8) + 2 ^ 11 * (w.swb / 8) + 2 ^ 17 * t.tiles.length + (if w.vton then 2 ^ 23 else 0) +
    2 ^ 24 * w.vtsel)

/-! ## Reads -/

/-- Warp CSRs. -/
def State.warpCsr (s : State) (w : Warp) (t : Team) (c : Nat) : Word :=
  if c = 0x000 then BitVec.ofNat 32 (w.role + 4 * s.warpState w)
  else if c = 0x001 then t.view w
  else if c = 0x002 then w.frm
  else if c = 0x003 then w.lit
  else if c = 0x004 then w.ccl
  else if c = 0x005 then (if w.ccs then 1 else 0)
  else if c = 0x006 then w.monto
  else if c = 0x007 then w.tcause
  else if c = 0x008 ∨ c = 0x009 then half w.tepc (c == 0x009)
  else if c = 0x00A then (if w.tdepth then 1 else 0)
  else if c = 0x00B then widen w.trslot
  else if c < 0x01A then w.tagStream (c - 0x010)
  else if c = 0x01A ∨ c = 0x01B then w.staleBits (c == 0x01B)
  else if c = 0x01C then BitVec.ofNat 32 (validBits w.shadow)
  else if c = 0x01D then BitVec.ofNat 32 (validBits w.oc)
  else if c = 0x01E ∨ c = 0x01F then half (BitVec.ofNat 64 w.wct) (c == 0x01F)
  else if c = 0x020 then w.rgnstat
  else if c = 0x021 then BitVec.ofNat 32 w.fshn
  else if c = 0x022 then widen w.fshsel
  else if c = 0x023 ∨ c = 0x024 then half w.shadowSel.pc (c == 0x024)
  else if c = 0x025 then w.shadowSel.mask
  else if c = 0x026 then BitVec.ofNat 32 (w.shadowSel.prio.toNat + 2 ^ 8 * w.shadowSel.wait.toNat)
  else w.rgn.getD (c - 0x030) 0

/-- MCVn of a convergence register. -/
def Conv.word (c : Conv) (n : Nat) : Word :=
  if n = 0 then c.mcv0 else if n = 1 then c.members else if n = 2 then c.signed
  else if n = 3 ∨ n = 4 then half c.aaddr (n == 4) else if n = 5 ∨ n = 6 then half c.baddr (n == 6)
  else BitVec.ofNat 32 (c.charge % 2 ^ 16)

def pairWord (l : List (BitVec 16)) (i : Nat) : Word := l.getD (2 * i + 1) 0 ++ l.getD (2 * i) 0

/-- Team CSRs; vtsel is VIEW.VTSEL of the warp reached. Where it names no tile, MTMETA0 to MTMETA3 read zero and take no write; R287 does not
say (DESIGN CHOICE: log 113). -/
def State.teamCsr (_s : State) (t : Team) (vtsel c : Nat) : Word :=
  let x := t.tiles.getD vtsel default
  let held := decide (vtsel < t.tiles.length)
  if c < 0x104 then
    if !held then 0
    else if c = 0x100 then BitVec.ofNat 32 ((Tag.code x.tag).toNat + 2 ^ 5 * min 31 (t.pend vtsel))
    else if c = 0x101 then BitVec.ofNat 32 x.depth
    else half (BitVec.ofNat 64 x.bound) (c == 0x103)
  else if c = 0x104 then widen t.mfmt
  else if c = 0x105 then t.mastr
  else if c = 0x106 then t.mbstr
  else if c = 0x107 then t.colm ++ t.rowm
  else if c = 0x108 then widen t.depm
  else if c < 0x130 then half (look t.mrs 0 ((c - 0x110) / 2)) (c % 2 == 1)
  else if c < 0x150 then half (look t.mcs 0 ((c - 0x130) / 2)) (c % 2 == 1)
  else if c < 0x158 then pairWord t.mcb4 (c - 0x150)
  else if c < 0x160 then 0
  else if c < 0x1E0 then pairWord t.mcb8 (c - 0x160)
  else if c < 0x260 then (t.conv ((c - 0x1E0) / 8)).word (c % 8)
  else if c < 0x264 then half (if c < 0x262 then t.trroot0 else t.trroot1) (c % 2 == 1)
  else t.mpbteam

/-- Register j of a ring (Table 23-6): BL, BH, SZ, HD, TL. -/
def Ring.word (r : Ring) (j : Nat) : Word :=
  if j < 2 then half r.base (j == 1) else if j = 2 then widen r.size else if j = 3 then widen r.head else widen r.tail

/-- Context CSRs. -/
def Ctx.csr (x : Ctx) (c : Nat) : Word :=
  if c < 0x302 then half x.tvb (c == 0x301)
  else if c < 0x304 then half (x.root.setWidth 64) (c == 0x303)
  else if c < 0x306 then half x.ratb (c == 0x305)
  else if c = 0x306 then widen x.ratn
  else if c = 0x307 then x.hangth
  else if c = 0x308 then x.sampn
  else if c < 0x30E then x.evq.word (c - 0x309)
  else if c = 0x30E then x.evqdrop
  else if c < 0x311 then half x.guardb (c == 0x310)
  else if c = 0x311 then x.guardsz
  else if c = 0x312 then x.rgnbrk
  else if c < 0x315 then half x.hangg (c == 0x314)
  else x.hanggsz

def Die.selLog (d : Die) : SliceLog := (d.logs.find? fun l => l.slice == bits d.slsel 0 8).getD { slice := 0, next := 0, entries := [] }

/-- Die CSRs. -/
def Die.csr (d : Die) (c : Nat) : Word :=
  if c = 0x500 then widen d.pacthr
  else if c < 0x506 then d.acnq.word (c - 0x501)
  else if c = 0x506 then d.acndrop
  else if c = 0x507 then widen d.cmbwin
  else if c = 0x508 then d.cmbhit
  else if c = 0x509 then d.cmbovf
  else if c < 0x515 then d.svq.word (c - 0x510)
  else if c < 0x51D then d.svcq.word (c - 0x518)
  else if c = 0x51D then widen d.svcDone
  else if c < 0x525 then d.smpq.word (c - 0x520)
  else if c = 0x525 then d.smpdrop
  else if c = 0x530 then BitVec.ofNat 32 ((if d.slEn then 1 else 0) + 2 * d.slOps.toNat)
  else if c < 0x533 then half d.slflo (c == 0x532)
  else if c < 0x535 then half d.slfhi (c == 0x534)
  else if c = 0x535 then BitVec.ofNat 32 (d.slsel.toNat + 2 ^ 20 * d.selLog.next)
  else look (((d.selLog.entries.find? fun e => e.1 == bits d.slsel 8 12).map (·.2)).getD (Vector.replicate 4 0)) 0 (c - 0x536)

def Pkg.hostctl (p : Pkg) : Word :=
  BitVec.ofNat 32 ((if p.linkLost then 1 else 0) + (if p.linkUp then 4 else 0) + (if Config.strapCxl then 8 else 0) +
    if p.linkUp then 16 * p.width.toNat else 0)

/-- Package CSRs. -/
def State.pkgCsr (s : State) (c : Nat) : Word :=
  let p := s.pkg
  if c < 0x602 then half p.qtbl (c == 0x601)
  else if c = 0x602 then p.hostctl
  else if c = 0x603 then p.dberr
  else if c = 0x604 then widen p.pwrcap
  else if c < 0x607 then half (BitVec.ofNat 64 s.gtc) (c == 0x606)
  else if c = 0x608 then widen p.dbgsel
  else if c = 0x609 then widen p.dbgwarp
  else
    let q := look p.ports Port.blank ((c - 0x610) / 4)
    if c % 4 = 0 then BitVec.ofNat 32 (q.rate.toNat + 8 * q.lanethr.toNat)
    else if c % 4 = 1 then BitVec.ofNat 32 (q.cur.toNat + 4 * q.lanes.toNat)
    else q.replay

/-- Core CSRs. -/
def Core.csr (x : Core) (c : Nat) : Word := if c = 0x400 then widen x.mpblim else if c = 0x401 then x.mpbcore else x.mpbstall

/-- The value of a CSR in the instances reached; none where no instance is. -/
def State.csrValue (s : State) (r : Reach) (c : Nat) : Option Word :=
  if 0x040 ≤ c ∧ c ≤ 0x042 then r.own.map fun w => if c = 0x040 then widen w.tgtctx else if c = 0x041 then w.parktgt else w.parkcmd
  else if c < 0x100 then match r.w, r.t with
    | some w, some t => some (s.warpCsr w t c)
    | _, _ => none
  else if c < 0x300 then r.t.map fun t => s.teamCsr t ((r.w.map (·.vtsel)).getD 0) c
  else if c < 0x400 then some ((s.ctxOf r.ctx).csr c)
  else if c < 0x500 then some ((s.coreOf r.core).csr c)
  else if c < 0x600 then some ((s.dieAt r.die).csr c)
  else some (s.pkgCsr c)

/-- A read: a free value where no instance is reached (log 22). -/
def State.readCsr (s : State) (r : Reach) (c : Nat) : State × Word :=
  match s.csrValue r c with
  | some v => (s, v)
  | none => ({ s with free := s.free + 1 }, (Config.freeDword s.free).setWidth 32)

/-! ## Writes -/

/-- CSRs with a field marked privileged: a CSRW outside privilege faults (R371). Those that no map lays out field by field (QTBL, PWRCAP, SLFLO,
SLFHI, GUARDB, GUARDSZ, SMPDROP, HANGTH) are taken as privileged (DESIGN CHOICE: log 100). -/
def csrPrivileged (c : Nat) : Bool :=
  !([0x000, 0x002, 0x006, 0x00A, 0x01E, 0x01F, 0x020, 0x022, 0x30D, 0x505, 0x514, 0x51C, 0x524, 0x605, 0x606].contains c) &&
  !(decide (0x030 ≤ c) && decide (c ≤ 0x03F)) && !(decide (0x104 ≤ c) && decide (c ≤ 0x264)) &&
  !(decide (0x536 ≤ c) && decide (c ≤ 0x539)) && !(decide (0x610 ≤ c) && c % 4 == 1)

/-- Writes of warp CSRs. A privileged write of VIEW is taken as written, WBQ and SWBQ outside the limits of WINB and SWINB too; R51 gives it no
outcome (DESIGN CHOICE: log 86). -/
def Warp.csrWrite (w : Warp) (c : Nat) (v : Word) : Warp :=
  if c = 0x001 then
    { w with wb := 8 * bits v 6 5, swb := 8 * bits v 11 6, vton := v.getLsbD 23, vtsel := bits v 24 5 }
  else if c = 0x002 then { w with frm := frmWrite w.frm v }
  else if c = 0x003 then { w with lit := v }
  else if c = 0x004 then { w with ccl := v }
  else if c = 0x005 then { w with ccs := v.getLsbD 0 }
  else if c = 0x006 then { w with monto := v }
  else if c = 0x007 then { w with tcause := v &&& 0x007FFFFF }
  else if c = 0x008 ∨ c = 0x009 then { w with tepc := setHalf w.tepc (c == 0x009) v }
  else if c = 0x00B then { w with trslot := v.setWidth 16 }
  else if 0x010 ≤ c ∧ c < 0x01A then w.setTagStream (c - 0x010) v
  else if c = 0x01A ∨ c = 0x01B then w.setStaleBits (c == 0x01B) v
  else if c = 0x01C then { w with shadow := setValidBits w.shadow v }
  else if c = 0x01D then { w with oc := setValidBits w.oc v }
  else if c = 0x020 then
    { (w.setDepth (bits v 0 5)) with rgnOvf := w.rgnOvf && !v.getLsbD 5, rgnUnd := w.rgnUnd && !v.getLsbD 6 }
  else if c = 0x021 then w.setFshn (bits v 0 6)
  else if c = 0x022 then { w with fshsel := v.setWidth 5 }
  else if c = 0x023 ∨ c = 0x024 then w.setShadow { w.shadowSel with pc := setHalf w.shadowSel.pc (c == 0x024) v }
  else if c = 0x025 then w.setShadow { w.shadowSel with mask := v }
  else if c = 0x026 then w.setShadow { w.shadowSel with prio := v.setWidth 8, wait := (v >>> 8).setWidth 3 }
  else w

/-- Writes of team CSRs: tile metadata and TRROOT; the rest is read-only here. -/
def Team.csrWrite (t : Team) (vtsel c : Nat) (v : Word) : Team :=
  let onTile (f : Tile → Tile) : Team := { t with tiles := modifyAt f vtsel t.tiles }
  if c = 0x100 then onTile fun x => { x with tag := Tag.ofCode (v.setWidth 5) }
  else if c = 0x101 then onTile fun x => { x with depth := v.toNat }
  else if c = 0x102 then onTile fun x => { x with bound := x.bound / 2 ^ 32 * 2 ^ 32 + v.toNat }
  else if c = 0x103 then onTile fun x => { x with bound := x.bound % 2 ^ 32 + 2 ^ 32 * bits v 0 16 }
  else if c = 0x260 ∨ c = 0x261 then { t with trroot0 := setAligned 6 t.trroot0 (c == 0x261) v }
  else if c = 0x262 ∨ c = 0x263 then { t with trroot1 := setAligned 6 t.trroot1 (c == 0x263) v }
  else t

/-- A write of register j of a ring whose base has n low bits fixed at zero. -/
def Ring.write (r : Ring) (n j : Nat) (v : Word) : Ring :=
  if j < 2 then { r with base := setAligned n r.base (j == 1) v }
  else if j = 2 then { r with size := v.setWidth 16 }
  else if j = 3 then { r with head := v.setWidth 16 }
  else r

/-- Writes of context CSRs. -/
def Ctx.csrWrite (x : Ctx) (c : Nat) (v : Word) : Ctx :=
  if c < 0x302 then { x with tvb := setAligned 2 x.tvb (c == 0x301) v }
  else if c < 0x304 then { x with root := (setHalf (x.root.setWidth 64) (c == 0x303) v).setWidth 44 }
  else if c < 0x306 then { x with ratb := setAligned 5 x.ratb (c == 0x305) v }
  else if c = 0x306 then { x with ratn := v.setWidth 11 }
  else if c = 0x307 then { x with hangth := v }
  else if c = 0x308 then { x with sampn := v }
  else if c < 0x30E then { x with evq := x.evq.write 6 (c - 0x309) v }
  else if c = 0x30E then { x with evqdrop := w1c x.evqdrop v }
  else if c < 0x311 then { x with guardb := setHalf x.guardb (c == 0x310) v }
  else if c = 0x311 then { x with guardsz := v }
  else if c = 0x312 then { x with rgnbrk := v }
  else if c < 0x315 then { x with hangg := setAligned 5 x.hangg (c == 0x314) v }
  else { x with hanggsz := v }

/-- Writes of core CSRs. -/
def Core.csrWrite (x : Core) (c : Nat) (v : Word) : Core :=
  if c = 0x400 then { x with mpblim := v.setWidth 16 }
  else if c = 0x401 then { x with mpbcore := w1c x.mpbcore v }
  else { x with mpbstall := w1c x.mpbstall v }

/-- Writes of die CSRs, SVCDONE's effect apart. -/
def Die.csrWrite (d : Die) (c : Nat) (v : Word) : Die :=
  if c = 0x500 then { d with pacthr := v.setWidth 16 }
  else if c < 0x506 then { d with acnq := d.acnq.write 5 (c - 0x501) v }
  else if c = 0x506 then { d with acndrop := w1c d.acndrop v }
  else if c = 0x507 then { d with cmbwin := v.setWidth 12 }
  else if c = 0x508 then { d with cmbhit := w1c d.cmbhit v }
  else if c = 0x509 then { d with cmbovf := w1c d.cmbovf v }
  else if c < 0x515 then { d with svq := d.svq.write 6 (c - 0x510) v }
  else if c < 0x51D then { d with svcq := d.svcq.write 6 (c - 0x518) v }
  else if c = 0x51D then { d with svcDone := v.setWidth 16 }
  else if c < 0x525 then { d with smpq := d.smpq.write 6 (c - 0x520) v }
  else if c = 0x525 then { d with smpdrop := w1c d.smpdrop v }
  else if c = 0x530 then { d with slEn := v.getLsbD 0, slOps := (v >>> 1).setWidth 7 }
  else if c < 0x533 then { d with slflo := setHalf d.slflo (c == 0x532) v }
  else if c < 0x535 then { d with slfhi := setHalf d.slfhi (c == 0x534) v }
  else if c = 0x535 then { d with slsel := v.setWidth 20 }
  else d

/-- HOSTCTL.REARM = 1 while the link is up clears LOST (R355). -/
def Pkg.rearm (p : Pkg) : Pkg := if p.linkUp then { p with linkLost := false } else p

def Pkg.setPort (p : Pkg) (n : Nat) (x : Port) : Pkg := { p with ports := put p.ports n x }

/-- A port retrains at a rate; rate 3 holds it down (R359, Table 24-6). -/
def Port.retrain (x : Port) (rate : BitVec 2) : Port :=
  if rate = 3 then { x with cur := 3, lanes := 0, retraining := false } else { x with cur := rate, retraining := true }

def Port.csrWrite (x : Port) (j : Nat) (v : Word) : Port :=
  if j = 0 then
    let x := { x with rate := v.setWidth 2, lanethr := (v >>> 3).setWidth 8 }
    if v.setWidth 2 = 3#2 ∨ v.getLsbD 2 then x.retrain (v.setWidth 2) else x
  else if j = 2 then { x with replay := w1c x.replay v }
  else x

/-- DBGCTL.STOP: every warp of the team that DBGSEL names stops at its next region edge (R374). -/
def State.stopSelected (s : State) : State :=
  match s.teamInPlace (bits s.pkg.dbgsel 16 9) (bits s.pkg.dbgsel 25 4) with
  | none => s
  | some t => s.onTeamWarps t.handle fun w => { w with stopReq := true }

/-- Writes of package CSRs. -/
def State.pkgWrite (s : State) (c : Nat) (v : Word) : State :=
  let p := s.pkg
  if c < 0x602 then { s with pkg := { p with qtbl := setHalf p.qtbl (c == 0x601) v } }
  else if c = 0x602 then (if v.getLsbD 1 then { s with pkg := p.rearm } else s)
  else if c = 0x603 then { s with pkg := { p with dberr := w1c p.dberr v } }
  else if c = 0x604 then { s with pkg := { p with pwrcap := v.setWidth 12 } }
  else if c < 0x607 then s
  else if c = 0x608 then { s with pkg := { p with dbgsel := v.setWidth 29 } }
  else if c = 0x609 then
    let s : State := { s with pkg := { p with dbgwarp := v.setWidth 5 } }
    if v.getLsbD 5 then s.stopSelected else s
  else
    let n := (c - 0x610) / 4
    { s with pkg := p.setPort n ((look p.ports Port.blank n).csrWrite (c % 4) v) }

/-- A write, PARKCMD's and SVCDONE's actions apart. A write of PARKCMD stores ACT, WARP and CODE and clears DONE whatever ACT is, 3 included,
whose write R185 calls without effect (DESIGN CHOICE: log 101). -/
def State.writeCsr (s : State) (r : Reach) (c : Nat) (v : Word) : State :=
  if 0x040 ≤ c ∧ c ≤ 0x042 then
    match r.own with
    | none => s
    | some w => s.onWarp w.team w.idx fun w =>
      if c = 0x040 then { w with tgtctx := v.setWidth 16 }
      else if c = 0x041 then { w with parktgt := v }
      else { w with parkcmd := v &&& 0xFFFF007F }
  else if c < 0x100 then
    match r.w with
    | none => s
    | some w => s.onWarp w.team w.idx fun w => w.csrWrite c v
  else if c < 0x300 then
    match r.t with
    | none => s
    | some t => s.onTeam t.handle fun t => t.csrWrite ((r.w.map (·.vtsel)).getD 0) c v
  else if c < 0x400 then s.putCtx ((s.ctxOf r.ctx).csrWrite c v)
  else if c < 0x500 then s.putCore ((s.coreOf r.core).csrWrite c v)
  else if c < 0x600 then s.setDie r.die ((s.dieAt r.die).csrWrite c v)
  else s.pkgWrite c v

end Sys2Proof.Machine
end

