-- ==== Sys2Proof/Machine/Flit.lean ====
section
/-! DEFINITION. Norozlink flits (R357, Table 24-5): the Reed–Solomon code that corrects them, their CRC, and the two ends of a port
(R358, R359). -/

namespace Sys2Proof.Machine

/-! ## GF(2^8) with field polynomial x^8 + x^4 + x^3 + x^2 + 1 -/

def gfDouble (a : Byte) : Byte := if a.getLsbD 7 then (a <<< 1) ^^^ 0x1D else a <<< 1

def gfMul (a b : Byte) : Byte :=
  (List.range 8).foldl (fun acc i => let d := gfDouble acc; if b.getLsbD (7 - i) then d ^^^ a else d) 0

def gfPow (a : Byte) : Nat → Byte
  | 0 => 1
  | n + 1 => gfMul a (gfPow a n)

def gfInv (a : Byte) : Byte := gfPow a 254

/-- α^n with α = 0x02. -/
def gfAlpha (n : Nat) : Byte := gfPow 2 (n % 255)

/-- A polynomial, constant term first, at x. -/
def gfEval (p : List Byte) (x : Byte) : Byte := p.foldr (fun c acc => gfMul acc x ^^^ c) 0

def gfScale (k : Byte) (p : List Byte) : List Byte := p.map (gfMul k)

def gfAdd : List Byte → List Byte → List Byte
  | [], q => q
  | p, [] => p
  | a :: p, b :: q => (a ^^^ b) :: gfAdd p q

def gfProduct : List Byte → List Byte → List Byte
  | [], _ => []
  | a :: p, q => gfAdd (gfScale a q) (0 :: gfProduct p q)

/-! ## One codeword: byte j is the coefficient of x^(127 - j) -/

/-- The syndromes r(α^0) to r(α^7). -/
def syndromes (w : List Byte) : List Byte := (List.range 8).map fun i => w.foldl (fun acc b => gfMul acc (gfAlpha i) ^^^ b) 0

/-- The error locator of a list of syndromes: locator, previous locator, length, shift and previous discrepancy. -/
structure Locator where
  c : List Byte
  b : List Byte
  len : Nat
  shift : Nat
  prev : Byte

/-- One step of the search for the shortest recurrence of the syndromes. -/
def Locator.step (s : List Byte) (n : Nat) (x : Locator) : Locator :=
  let d := (List.range (x.len + 1)).foldl (fun acc i => acc ^^^ gfMul (x.c.getD i 0) (s.getD (n - i) 0)) 0
  let next := gfAdd x.c (gfScale (gfMul d (gfInv x.prev)) (List.replicate x.shift 0 ++ x.b))
  if d = 0 then { x with shift := x.shift + 1 }
  else if 2 * x.len ≤ n then { c := next, b := x.c, len := n + 1 - x.len, shift := 1, prev := d }
  else { x with c := next, shift := x.shift + 1 }

def locator (s : List Byte) : Locator :=
  (List.range 8).foldl (fun x n => x.step s n) { c := [1], b := [1], len := 0, shift := 1, prev := 1 }

/-- The odd terms of a polynomial: its formal derivative. -/
def gfDerivative (p : List Byte) : List Byte := (List.range (p.length - 1)).map fun i => if i % 2 = 0 then p.getD (i + 1) 0 else 0

/-- A codeword with up to 4 byte errors corrected, and how many there were; none where there are more. -/
def correct (w : List Byte) : Option (List Byte × Nat) :=
  let s := syndromes w
  if s.all (· == 0) then some (w, 0)
  else
    let l := locator s
    let ps := (List.range 128).filter fun p => gfEval l.c (gfAlpha (255 - p)) == 0
    let omega := (gfProduct s l.c).take 8
    let size (p : Nat) : Byte := let x := gfAlpha (255 - p); gfMul (gfAlpha p) (gfMul (gfEval omega x) (gfInv (gfEval (gfDerivative l.c) x)))
    let w' := ps.foldl (fun w p => w.set (127 - p) (w.getD (127 - p) 0 ^^^ size p)) w
    if l.len ≤ 4 ∧ ps.length = l.len ∧ (syndromes w').all (· == 0) then some (w', ps.length) else none

/-- The generator without its leading term, highest degree first. -/
def generator : List Byte := (((List.range 8).foldl (fun g i => gfProduct g [gfAlpha i, 1]) [1]).take 8).reverse

/-- The 8 parity bytes of 120 data bytes. -/
def parity (data : List Byte) : List Byte :=
  data.foldl (fun r b => let f := b ^^^ r.headD 0; gfAdd (r.tail ++ [0]) (gfScale f generator)) (List.replicate 8 0)

/-! ## Flits -/

abbrev FlitBits := BitVec 2048

def flitBytes (f : FlitBits) : List Byte := (List.range 256).map fun i => f.extractLsb' (8 * i) 8

/-- Every second element, from the first on. -/
def evens {α : Type} : List α → List α
  | [] => []
  | [a] => [a]
  | a :: _ :: l => a :: evens l

def interleave : List Byte → List Byte → List Byte
  | a :: l, b :: m => a :: b :: interleave l m
  | l, m => l ++ m

/-- A flit after FEC with its number of corrected bytes; none where FEC fails. -/
def decodeFlit (f : FlitBits) : Option (List Byte × Nat) :=
  let bs := flitBytes f
  match correct (evens bs), correct (evens bs.tail) with
  | some a, some b => some (interleave a.1 b.1, a.2 + b.2)
  | _, _ => none

/-- CRC-64 of bytes 0x00 to 0xE7, stored at +0xE8. -/
def crcOk (bs : List Byte) : Bool := (crc64 0 (bs.take 232)).toNat == leNat ((bs.drop 232).take 8)

/-- A flit with these 232 bytes. -/
def encodeFlit (bs : List Byte) : FlitBits :=
  let body := bs ++ word8 (crc64 0 bs).toNat
  BitVec.ofNat 2048 (leNat (body ++ interleave (parity (evens body)) (parity (evens body.tail))))

def flitField (bs : List Byte) (off lo w : Nat) : Nat := leNat (bs.drop off) / 2 ^ lo % 2 ^ w

/-! ## The two ends of a port -/

/-- Flits that an ACK covers leave the replay buffer. -/
def Port.acknowledge (p : Port) (ack : BitVec 8) : Port :=
  match p.buffer.findIdx? fun x => x.1 == ack with
  | some i => { p with acked := ack, buffer := p.buffer.drop (i + 1) }
  | none => p

/-- 1 ms of GTC. -/
def oneMs : Nat := 1000000

/-- A replay from ACK + 1: the flits that it covers stay in the buffer, in order, and the replay is counted (R358, Table 24-6). -/
def Port.replayFrom (p : Port) (ack : BitVec 8) (gtc : Nat) : Port :=
  let p := p.acknowledge ack
  { p with replay := saturate32 p.replay, times := gtc :: p.times.filter fun t => decide (gtc < t + oneMs) }

/-- Corrected errors are counted for each lane; which lane a byte came over is not stated, so that it is a free value. -/
def Port.countErrors (p : Port) (lanes : List Nat) (gtc : Nat) : Port :=
  let l := (lanes.map fun n => (n, gtc)) ++ p.laneErrs.filter fun x => decide (gtc < x.2 + oneMs)
  let past (n : Nat) : Bool := decide (p.lanethr.toNat < (l.filter fun x => x.1 == n).length)
  { p with laneErrs := l, bad := p.bad ||| BitVec.ofNat 9 (((List.range 9).map fun n => if past n then 2 ^ n else 0).sum) }

/-- A flit that has passed FEC and CRC: ACK and NAK act, and it is accepted if its SEQ is the one expected (R358). Idle flits, and
those that answer this package's own requests, carry nothing to keep. -/
def Port.accept (p : Port) (bs : List Byte) (gtc : Nat) : Port :=
  let ack := BitVec.ofNat 8 (flitField bs 0 8 8)
  let p := if flitField bs 0 16 1 = 1 then p.replayFrom ack gtc else p.acknowledge ack
  if flitField bs 0 0 8 = p.expected.toNat then
    let kind := flitField bs 0 17 4
    let a : Accepted :=
      { kind := kind, ctx := flitField bs 4 0 16, stream := flitField bs 4 16 16, payload := BitVec.ofNat 1792 (leNat ((bs.drop 8).take 224)) }
    { p with expected := p.expected + 1, nak := false, accepted := if kind = 1 ∨ kind = 2 ∨ kind = 4 then p.accepted ++ [a] else p.accepted }
  else p

/-- A flit arrives at a port. A flit that fails FEC or CRC is dropped and answered with NAK. -/
def Port.receive (p : Port) (f : FlitBits) (lanes : Nat → Nat) (gtc : Nat) : Port :=
  match decodeFlit f with
  | none => { p with nak := true }
  | some (bs, n) =>
    let p := p.countErrors ((List.range n).map lanes) gtc
    if crcOk bs then p.accept bs gtc else { p with nak := true }

/-- The port can send (R358, R359). -/
def Port.canSend (p : Port) : Bool := p.cur != 3 && !p.retraining && decide (p.buffer.length < 255)

/-- A flit is sent and kept for a replay. -/
def Port.send (p : Port) (kind ctx stream cred : Nat) (payload : List Byte) : Port :=
  let head := p.seq.toNat + 2 ^ 8 * (p.expected - 1).toNat + (if p.nak then 2 ^ 16 else 0) + 2 ^ 17 * kind + 2 ^ 21 * (cred % 2 ^ 11)
  let f := encodeFlit (word4 head ++ word4 (ctx % 2 ^ 16 + 2 ^ 16 * (stream % 2 ^ 16)) ++ payload)
  { p with seq := p.seq + 1, nak := false, buffer := p.buffer ++ [(p.seq, f)] }

/-- Eight replays within 1 ms (R359): the next lower rate, or down from the lowest. -/
def Port.lower (p : Port) : Port :=
  if p.cur = 2 then { p with cur := 3, lanes := 0, times := [], retraining := false }
  else { p with cur := p.cur + 1, times := [], retraining := true }

/-- The lanes of a port after a training: those of the sparing map, in which the lowest lane whose errors have passed LANETHR gives way to the
spare (R359, R367). -/
def Port.train (p : Port) : Port :=
  let old := p.spared
  let lanes := match (List.range 8).find? fun n => p.bad.getLsbD n && old.getLsbD n with
    | some n => if old.getLsbD 8 then old else (old &&& ~~~(1#9 <<< n)) ||| 0x100
    | none => old
  { p with lanes := lanes, spared := lanes, bad := 0, laneErrs := [], retraining := false }

end Sys2Proof.Machine
end

