-- ==== Sys2Proof/Machine/Launch.lean ====
section
/-! DEFINITION. Host queues (R333, R334), the launch record and its admission (R335, R336, R340, R271), the constant bank (R337) and
the completion of a launch (R349). -/

namespace Sys2Proof.Machine

/-! ## Accesses of a work-graph unit -/

/-- The outcome of accesses in a context's translation: a result, a wait for TRANSIT or WBLOCK, or the code of the check of
Table 12-2 that failed. -/
inductive Wgu (α : Type) where
  | ok (s : State) (a : α)
  | stall
  | bad (code : BitVec 16)

def Wgu.bind {α β : Type} (x : Wgu α) (f : State → α → Wgu β) : Wgu β :=
  match x with
  | .ok s a => f s a
  | .stall => .stall
  | .bad c => .bad c

/-- The attributes of an address as the RAT in memory has them. -/
def State.ratNow (s : State) (c : Ctx) (va : BitVec 64) : Rat :=
  ((s.ratTable c).find? fun r => r.covers va.toNat).getD Rat.default

/-- Rows 2 to 5 of Table 12-2 for a user access of a context, with every due update performed; A and D are set as by a walk (R243). It waits
while an agent holds a line of the RAT or of the walk exclusively (R206). -/
def State.wguXlate (s : State) (c : Ctx) (k : Access) (va : BitVec 64) : Wgu Nat :=
  let s := s.settleDue
  if !s.ratOpen c || !s.walkOpen c va then .stall
  else
  let s := s.beforeWalk c va 0x1FF
  match s.walk c va with
  | .page => .bad Code.page
  | .access => .bad Code.access
  | .lost _ => .bad Code.hostlost
  | .leaf pte ptePa level =>
    let pa := leafBase pte + va.toNat % leafSize pte level
    let r := s.ratNow c va
    if !permits pte k false || target pa == .absent || s.peerGone pa then .bad Code.access
    else if 2 ≤ r.cls then .bad Code.coherence
    else if target pa = .host ∧ s.hostGone then .bad Code.hostlost
    else if r.transit || (k.writes && r.wblock) then .stall
    else
      let pte' : Dword := pte ||| 0x40#64 ||| (if k.writes then 0x80#64 else 0)
      match if pte' = pte then some s else s.swapPte 0x1FF ptePa pte' with
      | none => .stall
      | some s => .ok s pa

/-- Bytes that a unit of the package reads at a physical address; the peer window's are free values. -/
def State.getBytes (s : State) (pa n : Nat) : State × List Byte :=
  if target pa = .peer then s.freeBytes n
  else
    let s := (linesAt pa n).foldl State.settleHome s
    (s, Memory.readBytes s.mem pa n)

/-- The bytes of pieces of a context's memory; a line that an agent holds exclusively keeps its home from answering (R206). -/
def State.wguPieces (s : State) (c : Ctx) : List (BitVec 64 × Nat) → Wgu (List Byte)
  | [] => .ok s []
  | p :: rest => (s.wguXlate c .load p.1).bind fun s pa =>
      if !s.linesOpen pa p.2 then .stall else
      let r := s.getBytes pa p.2
      (r.1.wguPieces c rest).bind fun s l => .ok s (r.2 ++ l)

/-- Bytes that a work-graph unit copies from a context's memory. -/
def State.wguRead (s : State) (c : Ctx) (va : BitVec 64) (n : Nat) : Wgu (List Byte) := s.wguPieces c (pieces va n)

/-! ## Records as numbers -/

/-- Field of w bits at bit lo of byte offset off. -/
def fld (r off lo w : Nat) : Nat := r / 2 ^ (8 * off + lo) % 2 ^ w

/-- The 64-bit field at a byte offset. -/
def fld64 (r off : Nat) : BitVec 64 := BitVec.ofNat 64 (fld r off 0 64)

/-! ## Host queue descriptors (Table 23-1) -/

structure QueueDesc where
  ringb : Nat
  log2sz : Nat
  prio : Nat
  diemask : Nat
  en : Bool
  ctx : Nat
  head : BitVec 16
  tail : BitVec 16
deriving DecidableEq, Repr

/-- The address of descriptor q. -/
def State.queueAt (s : State) (q : Nat) : Nat := s.pkg.qtbl.toNat + 32 * q

def State.queueDesc (s : State) (q : Nat) : QueueDesc :=
  let r := Memory.readNat s.mem (s.queueAt q) 32
  { ringb := fld r 0 0 64, log2sz := fld r 8 0 4, prio := fld r 8 8 5, diemask := fld r 8 16 4, en := fld r 8 31 1 == 1, ctx := fld r 12 0 16,
    head := BitVec.ofNat 16 (fld r 16 0 16), tail := BitVec.ofNat 16 (fld r 16 16 16) }

/-- PRIO 24 to 31 act as EN = 0. -/
def QueueDesc.live (q : QueueDesc) : Bool := q.en && decide (q.prio < 24)

/-- A record is posted that the unit may read. -/
def QueueDesc.posted (q : QueueDesc) : Bool := q.live && q.head != q.tail

/-- The address of the next record. -/
def QueueDesc.record (q : QueueDesc) : Nat := q.ringb + 256 * (q.head.toNat % 2 ^ q.log2sz)

/-- Queues whose EN is 0 count from 0 again. -/
def State.noteQueues (s : State) : State :=
  { s with pkg := { s.pkg with queues := s.pkg.queues.filter fun x => (s.queueDesc x.1).en } }

/-- Records that a queue has admitted since its EN was set. -/
def State.admittedBy (s : State) (q : Nat) : Nat := ((s.pkg.queues.find? fun x => x.1 == q).map (·.2)).getD 0

/-! ## Launch records (Tables 23-2 and 23-4) -/

/-- LANEFILL n of a code. -/
def lfillOf (c : Nat) : Nat := ([32, 1, 2, 4, 8, 16, 32] : List Nat).getD c 32

/-- Initial warps of a team (R25). -/
def NodeDef.warps (n : NodeDef) : Nat := (n.threads + n.lfill - 1) / n.lfill

/-- The role of initial warp i. -/
def NodeDef.role (n : NodeDef) (i : Nat) : Nat := if i < n.nprod then 0 else 1

def NodeDef.budget (n : NodeDef) (r : Nat) : Nat := if r = 0 then n.bud0 else n.bud1

/-- The allocations of the initial warps. -/
def NodeDef.vvgs (n : NodeDef) : List Nat := (List.range n.warps).map fun i => n.budget (n.role i)

/-- Live lanes of initial warp i (R25). -/
def NodeDef.lanes (n : NodeDef) (i : Nat) : Mask := maskOf fun L => L < n.lfill && n.lfill * i + L < n.threads

/-- A node as its fields give it, with its constant data still to be read; ok tells that they keep Table 23-2 and R336. -/
structure NodeForm where
  node : NodeDef
  constb : BitVec 64
  constsz : Nat
  ok : Bool

def NodeForm.of (entry : BitVec 64) (threads nprod bud0 bud1 lfill scratch tiles : Nat) (constb : BitVec 64) (constsz : Nat)
    (recw batch : Nat) (edges : List (BitVec 8)) (ok : Bool) : NodeForm :=
  let n : NodeDef :=
    { entry := entry, recw := recw, batch := batch, threads := threads, nprod := nprod, bud0 := bud0, bud1 := bud1, lfill := lfillOf lfill,
      scratch := scratch, tiles := tiles, consts := [], edges := edges }
  { node := n, constb := constb, constsz := constsz,
    ok := ok && decide (lfill < 7) && bits entry 0 2 == 0 && decide (1 ≤ threads) && decide (threads ≤ 1024) && decide (nprod ≤ 32) &&
      decide (bud0 ≤ 32) && decide (bud1 ≤ 32) && decide (scratch ≤ 320) && decide (tiles ≤ 32) && constsz % 4 == 0 &&
      decide (constsz ≤ 60416) && decide (n.warps ≤ 32) && n.vvgs.all (· != 0) && decide (n.vvgs.sum + 2 * tiles ≤ poolSize) }

/-- The node of a grid. -/
def gridForm (r : Nat) : NodeForm :=
  NodeForm.of (fld64 r 0x10) (fld r 8 0 11) (fld r 8 11 6) (fld r 8 17 6) (fld r 8 23 6) (fld r 0 12 3) (fld r 12 0 9) (fld r 12 16 6)
    (fld64 r 0x18) (fld r 0x20 0 16) 1 64 [] (fld r 8 29 3 == 0)

/-- A node entry of a graph with nodes nodes. -/
def nodeForm (nodes e : Nat) : NodeForm :=
  let edges := (List.range 16).map fun i => BitVec.ofNat 8 (fld e (0x20 + i) 0 8)
  let recw := fld e 8 0 5
  let batch := fld e 8 8 7
  let constsz := fld e 0x14 0 16
  NodeForm.of (fld64 e 0) (fld e 8 16 11) (fld e 12 17 6) (fld e 12 0 6) (fld e 12 8 6) (fld e 12 14 3) (fld e 0x10 0 9) (fld e 0x10 16 6)
    (fld64 e 0x18) constsz recw batch edges
    (fld e 8 27 5 == 0 && fld e 12 23 9 == 0 && fld e 0x30 0 128 == 0 && decide (1 ≤ recw) && decide (recw ≤ 16) && decide (1 ≤ batch) &&
      decide (batch ≤ 64) && decide (4 * recw * batch + constsz ≤ 61184) && edges.all fun x => x == 0xFF || decide (x.toNat < nodes))

/-- The fields of a record that do not belong to a node keep Table 23-2. -/
def recordOk (r : Nat) : Bool :=
  let kind := fld r 0 0 8
  (kind == 1 || kind == 2) && fld r 0 15 17 == 0 && fld r 4 0 24 != 0 && fld r 4 24 8 == 0 && decide (fld r 0 12 3 < 7) &&
  decide (fld r 0x30 0 7 ≤ 64) && fld r 0x28 0 5 == 0 &&
  (fld r 0x30 0 7 == 0 || (decide (1 ≤ fld r 0x30 8 7) && decide (fld r 0x30 8 7 ≤ 64))) &&
  fld r 0x38 0 6 == 0 && fld r 0x4C 0 (8 * 52) == 0 && fld r 8 29 3 == 0 &&
  (kind == 1 || (fld r 8 0 32 == 0 && fld r 12 0 9 == 0 && fld r 12 16 6 == 0 && fld r 0x10 0 128 == 0 && fld r 0x20 0 16 == 0 &&
    fld r 0x40 0 6 == 0 && fld r 0x48 0 8 != 0))

/-- A schedule entry. -/
def schedEntry (l : List Byte) : CopyDesc := CopyDesc.ofWords (fun k => BitVec.ofNat 32 (leNat ((l.drop (4 * k)).take 4))) true

/-- A list cut into pieces of n. -/
def chunks (n : Nat) (l : List Byte) : Nat → List (List Byte)
  | 0 => []
  | k + 1 => l.take n :: chunks n (l.drop n) k

/-- The schedule keeps R271 for a team with a scratchpad of scratch bytes. -/
def schedOk (period : Nat) (es : List CopyDesc) (scratch : Nat) : Bool :=
  es.all (fun d => decide (d.stage < period) && (d.bad false scratch).isNone) &&
  (List.range 64).all fun k => decide ((es.filter fun d => d.stage == k).length ≤ 16)

/-- The bytes of the guard area that a team needs: its registers, tiles and scratchpad (DESIGN CHOICE: log 24). -/
def NodeDef.guardBytes (n : NodeDef) : Nat := 1024 * (n.vvgs.sum + 2 * n.tiles + n.scratch)

/-- Teams of a node that an idle core holds. -/
def NodeDef.perCore (n : NodeDef) : Nat :=
  let by' (have' need : Nat) : Nat := if need = 0 then 16 else have' / need
  min (min 16 (by' 64 n.warps)) (min (by' poolSize (n.vvgs.sum + 2 * n.tiles)) (by' 320 n.scratch))

/-- The dies of a DIEMASK. -/
def diesOf (m : Nat) : List Nat := ([0, 1, 2, 3] : List Nat).filter fun d => m == 0 || m.testBit d

/-- A cooperative grid fits on an idle package (R40); a pair takes two cores of a die. -/
def coopFits (graph paired : Bool) (mask teams : Nat) (n : NodeDef) : Bool :=
  let dies := if graph then 1 else (diesOf mask).length
  let each := 96 * n.perCore / (if paired then 2 else 1)
  decide (teams ≤ dies * each)

/-! ## Reading a launch (R336) -/

/-- The nodes' constant data. -/
def State.readConsts (s : State) (c : Ctx) : List NodeForm → Wgu (List NodeDef)
  | [] => .ok s []
  | f :: rest => (s.wguRead c f.constb f.constsz).bind fun s l =>
      (s.readConsts c rest).bind fun s ns => .ok s ({ f.node with consts := l } :: ns)

/-- The node forms of a record. -/
def State.readNodes (s : State) (c : Ctx) (r : Nat) : Wgu (List NodeForm) :=
  if fld r 0 0 8 = 1 then .ok s [gridForm r]
  else
    let n := fld r 0x48 0 8
    (s.wguRead c (fld64 r 0x40) (64 * n)).bind fun s l => .ok s ((chunks 64 l n).map fun e => nodeForm n (leNat e))

/-- A launch as its record and what the record names give it; a launch that breaks R336 is bad. -/
def State.readLaunch (s : State) (q : QueueDesc) (name r : Nat) : Wgu Launch :=
  let c := s.ctxOf q.ctx
  if !recordOk r then .bad Code.illegal
  else (s.readNodes c r).bind fun s forms =>
    if forms.any fun f => !f.ok then .bad Code.illegal
    else (s.readConsts c forms).bind fun s nodes =>
      (s.wguRead c (fld64 r 0x28) (32 * fld r 0x30 0 7)).bind fun s sched =>
        let es := (chunks 32 sched (fld r 0x30 0 7)).map schedEntry
        let graph := fld r 0 0 8 == 2
        let coop := fld r 0 8 1 == 1
        let paired := fld r 0 9 1 == 1
        let guarded := fld r 0 10 1 == 1
        let first := nodes.headD default
        if (nodes.any fun n => !schedOk (fld r 0x30 8 7) es (1024 * n.scratch)) ||
            (coop && !coopFits graph paired q.diemask (fld r 4 0 24) first) ||
            (guarded && nodes.any fun n => decide (c.guardsz.toNat < n.guardBytes)) then .bad Code.illegal
        else .ok s
          { Launch.blank with
            name := name, ctx := q.ctx, prio := q.prio, coop := coop, paired := paired, guarded := guarded, graph := graph,
            dies := BitVec.ofNat 4 q.diemask, teams := fld r 4 0 24, args := leBytes (fld r 0x80 0 1024) 128, nodes := nodes,
            schedBase := fld64 r 0x28, sched := es, period := fld r 0x30 8 7, compl := fld64 r 0x38, queues := nodes.map fun _ => [], serials := nodes.map fun _ => 0,
            finished := false }

/-- The schedule of a team that is being placed: its entries as they stand now (R271). Where they cannot be read, or keep R271 no longer, the
team has those of the admission (DESIGN CHOICE: log 91); none while the range is in TRANSIT. -/
def State.placedSched (s : State) (l : Launch) (n : NodeDef) : Option (State × List CopyDesc) :=
  if l.sched.isEmpty then some (s, [])
  else match s.wguRead (s.ctxOf l.ctx) l.schedBase (32 * l.sched.length) with
    | .stall => none
    | .bad _ => some (s, l.sched)
    | .ok s b =>
      let es := (chunks 32 b l.sched.length).map schedEntry
      some (s, if schedOk l.period es (1024 * n.scratch) then es else l.sched)

/-- An update that a unit of the package makes, of no core and no team. -/
def unitUpdate (ctx : Nat) (va : BitVec 64) (pa : Nat) (data : List Byte) : Update :=
  { unitWrite pa (.bytes data) with ctx := ctx, va := va }

/-! ## Completion (R349) -/

/-- A completion record (Table 23-7). -/
def completionRecord (code ended : Nat) (pc addr : BitVec 64) (gtc name killed : Nat) : List Byte :=
  word4 code ++ word4 ended ++ word8 pc.toNat ++ word8 addr.toNat ++ word8 gtc ++ word4 name ++ word4 killed ++ List.replicate 24 0

/-- The completion record of a launch is written where its checks pass, and the event of type 1 is posted; none while the
access waits for TRANSIT or WBLOCK. A record in the peer window is written once the peer has acknowledged it, and the event waits for that
(R215, R360). -/
def State.reportLaunch (s : State) (l : Launch) (code : BitVec 16) (pc addr : BitVec 64) : Option State :=
  let data := completionRecord code.toNat l.ended pc addr s.gtc l.name l.killed
  let post (s : State) (why : BitVec 16) : State := s.postEvent l.ctx 1 code.toNat l.name l.compl why.toNat
  if bits l.compl 0 6 ≠ 0 then some (post s Code.align)
  else match s.wguXlate (s.ctxOf l.ctx) .store l.compl with
    | .stall => none
    | .bad c => some (post s c)
    | .ok s pa =>
      some (if target pa = .peer then
          s.peerAccess 0x1FF 0 0 l.compl pa (.report (unitUpdate l.ctx l.compl pa data) l.ctx code.toNat l.name l.compl)
        else post (s.putBytes pa data) 0)

/-- No team of a launch is live or in a pool. -/
def State.launchOver (s : State) (id : Nat) : Bool :=
  (s.allTeams.all fun t => t.launch != id) && s.dies.toList.all fun d => d.pool.all fun p => p.launch != id

/-- The launch completes if every team of it has ended or been killed; none while its completion record must wait. -/
def State.completeLaunch (s : State) (id : Nat) : Option State :=
  let l := s.launchOf id
  if l.finished || !s.launchOver id then some s
  else
    let k := l.firstKill.getD { code := 0, pc := 0, addr := 0 }
    (s.reportLaunch l k.code k.pc k.addr).map fun s => s.onLaunch id fun l => { l with finished := true, image := [] }

/-! ## Pools (R338) -/

def Pooled.before (a b : Pooled) : Bool :=
  b.prio < a.prio || (a.prio == b.prio && (a.admitted < b.admitted || (a.admitted == b.admitted && a.index ≤ b.index)))

/-- The pool of a die in its order. -/
def State.poolOf (s : State) (d : Nat) : List Pooled := sortBy Pooled.before (s.dieAt d).pool

def State.addPooled (s : State) (d : Nat) (p : Pooled) : State :=
  let die := s.dieAt d
  s.setDie d { die with pool := die.pool ++ [p] }

/-- The least element of a list by a measure, the first on a tie. -/
def leastBy (f : Nat → Nat) : List Nat → Option Nat
  | [] => none
  | x :: rest => match leastBy f rest with
    | none => some x
    | some y => some (if f y < f x then y else x)

/-- The cores of a die. -/
def coresOf (d : Nat) : List Nat := (List.range 96).map fun i => 96 * d + i

/-- Resident warps of a die. -/
def State.dieWarps (s : State) (d : Nat) : Nat := ((coresOf d).map fun c => (s.coreWarps c).length).sum

/-- The teams of an admitted launch enter the pools: a graph's that of one die, a grid's spread by ascending index. -/
def State.poolLaunch (s : State) (l : Launch) : State :=
  let dies := diesOf l.dies.toNat
  let entry (i : Nat) : Pooled :=
    { prio := l.prio, admitted := l.admitted, index := i, launch := l.id, node := if l.graph then some 0 else none, serial := 0, records := [],
      saved := none }
  if l.graph then
    let d := (leastBy s.dieWarps dies).getD 0
    (List.range l.teams).foldl (fun s i => s.addPooled d (entry i)) s
  else
    (List.range l.teams).foldl (fun s i => s.addPooled ((leastBy (fun d => (s.dieAt d).pool.length) dies).getD 0) (entry i)) s

end Sys2Proof.Machine
end

