-- ==== Sys2Proof/Machine/System.lean ====
section
/-! DEFINITION. TRAP and TRET (R187 to R189), CSRR and CSRW (R370, R371), the region stack (R373, R374), the save path (R71), HALT
(R375), ILLEGAL_WORD (R101), TRAP_ENTRY, parking and PARKCMD (R184 to R186, R348, R393), and the writes that have a behaviour of
their own. -/

namespace Sys2Proof.Machine

/-! ## TRAP and TRET -/

/-- TRAP: with TDEPTH = 0 trap entry, once every slot has landed; with TDEPTH = 1 a park with DOUBLE, whose record names the second fault's code
0: R189 gives TRAP no fault code (DESIGN CHOICE: log 119). -/
def execTrap (n : BitVec 6) (s : State) : Host.Outcome State Fault Refusal :=
  s.attempt (fun _ => { legal := (Instr.trap n).wellFormed, drains := true }) fun s =>
    if s.warp.tdepth then .raise s (Raise.all s 0)
    else if !s.warp.quiet then .wait s false
    else
      let tepc := s.entry.pc + 4
      let t := s.enterInvalid.advance
      .done (t.trapEnter (tcauseOf 0 n.toNat false) tepc t.shadowFrontier t.warp.frontier.length)

/-- What has waited for the end of a trap routine: a REGROUP that has ended in MISMATCH faults (R331), and attributed faults and injected
throws are taken (R179, R296). -/
def State.afterReturn (s : State) : State :=
  let s := if s.warp.hold = .mismatch then s.regroupFault else s
  s.settlePending

/-- TRET (R188, R189). -/
def execTret (s : State) : Host.Outcome State Fault Refusal :=
  s.issue
    (fun s => { legal := Instr.tret.wellFormed, privileged := true, drains := true,
                specific := if s.warp.tdepth && s.warp.shadowOk then none else some (Raise.all s Code.illegal) })
    fun s => ((s.withWarp s.warp.drain).trapReturn).afterReturn

/-- TRAP_ENTRY: PREEMPT takes a warp at an instruction boundary at TDEPTH 0, once its slots have landed, no delivery that reaches it is open
(R187, R190), and the arbiter has granted its request if it fits (R67). -/
def execTrapEntry (h w : Nat) (s : State) : Host.Outcome State Fault Refusal :=
  match s.focusOn h w with
  | none => .fault .cannotHappen
  | some s =>
    if !s.warp.preempt || s.warp.tdepth || !s.warp.quiet || s.holdsAtom h w || s.warp.frontier.isEmpty || s.delivering
        || s.grantable s.warp then
      .fault .cannotHappen
    else
      let pc := ((s.warp.firstEntry.orElse fun _ => s.warp.frontier.head?).map (·.pc)).getD 0
      let t := s.trapEnter (tcauseOf Code.preempt 0 false) pc s.shadowFrontier s.warp.frontier.length
      .next ({ t with warp := { t.warp with preempt := false } } : State).wake

/-! ## CSRR and CSRW -/

/-- CSRR. -/
def execCsrr (a : SOp) (b : BitVec 7) (n : BitVec 6) (s : State) : Host.Outcome State Fault Refusal :=
  let c := csrOf b n
  s.issueNext
    (fun _ => { legal := (Instr.csrr a b n).wellFormed, sdsts := [{ op := a }], drains := true })
    (fun s => let r := s.readCsr s.ownReach c; r.1.status a r.2)

/-! ## Parking and PARKCMD -/

/-- A park record (Table 9-7). -/
def parkRecord (code seq ctx core warp team : Nat) (lanes : Mask) (pc addr : BitVec 64) : List Byte :=
  word4 (code + 2 ^ 16 * seq) ++ word4 (ctx + 2 ^ 16 * core + 2 ^ 25 * warp) ++ word4 team ++ word4 lanes.toNat ++ word8 pc.toNat ++
    word8 addr.toNat

/-- The park of a warp that has not been posted: that of its trap routine, or that of its program. -/
def Warp.unpostedPark (w : Warp) : Option Park :=
  match w.double.filter fun p => p.seq.isNone with
  | some p => some p
  | none => w.park.filter fun p => p.seq.isNone

/-- The park is posted with number n at a GTC: from then on the warp is PARKED, where it was STALLED (R43, R348). -/
def Warp.notePost (w : Warp) (n gtc : Nat) : Warp :=
  match w.double.filter fun p => p.seq.isNone with
  | some p => { w with double := some { p with seq := some n, since := gtc } }
  | none => { w with park := w.park.map fun p => { p with seq := some n, since := gtc } }

/-- The next park sequence number of a die after n: 0xFFFF is never used (R393). -/
def nextSeq (n : Nat) : Nat := if n = 0xFFFE then 0 else n + 1

/-- A warp's park record is posted to the service queue of its die; none while the queue has no room (R184, R348, R393). -/
def State.postPark (s : State) (w : Warp) : Option State :=
  let t := s.teamOf w.team
  let d := dieOfCore t.core
  let die := s.dieAt d
  match w.unpostedPark with
  | none => none
  | some p =>
    if !die.svq.room then none
    else
      let r := s.postTo die.svq (parkRecord p.code.toNat die.parkSeq t.ctx t.core w.idx t.handle p.lanes p.pc p.addr)
      some ((r.1.setDie d { die with svq := r.2, parkSeq := nextSeq die.parkSeq }).onWarp w.team w.idx (Warp.notePost · die.parkSeq s.gtc))

/-- WARP_PARK: the record of a warp that has parked is posted. -/
def execWarpPark (h w : Nat) (s : State) : Host.Outcome State Fault Refusal :=
  match (s.warpOf h w).bind s.postPark with
  | none => .fault .cannotHappen
  | some t => .next t.wake

/-- The time since which a warp has waited to post. -/
def Warp.parkSince (w : Warp) : Nat := (w.unpostedPark.map (·.since)).getD 0

/-- A record that does not park is posted (R232, R233); one that sends lanes to emulation joins its die's list of those. -/
def State.postNotice (s : State) (d : Nat) (n : Notice) (rest : List Notice) : Option State :=
  let die := s.dieAt d
  if !die.svq.room then none
  else
    let r := s.postTo die.svq (parkRecord n.code.toNat 0xFFFF n.ctx n.core n.warp n.team n.lanes n.pc n.addr)
    some (r.1.setDie d { die with
      svq := r.2, notices := rest
      emul := if n.code = Code.atomunsup ∧ n.op ≠ 0 then die.emul ++ [(n.op, n.lanes)] else die.emul })

/-- PARK_RECORD_POST: the record that has waited longest on a die is posted once there is room; those that do not park first. -/
def execParkRecordPost (die : BitVec 2) (s : State) : Host.Outcome State Fault Refusal :=
  let d := die.toNat
  let waiting := s.allWarps.filter fun w => w.unpostedPark.isSome && dieOfCore (s.teamOf w.team).core == d
  let posted : Option State := match (s.dieAt d).notices with
    | n :: rest => s.postNotice d n rest
    | [] => match sortBy (fun (a b : Warp) => a.parkSince ≤ b.parkSince) waiting with
      | [] => none
      | w :: _ => s.postPark w
  match posted with
  | none => .fault .cannotHappen
  | some t => .next t.wake

/-- The park on which PARKCMD acts: DOUBLE while the warp runs its trap routine and has one, else that of its program. A warp whose record waits for
room in the service queue is STALLED and not yet parked, so that PARKCMD does not find it (R185, R348). -/
def Warp.heldPark (w : Warp) : Option Park := (match w.double with | some p => some p | none => w.park).filter fun p => p.seq.isSome

/-- Resume (Table 9-8): the warp issues again from where it stands, and an operation whose fault the park was returns to QUEUED (R296). A
priority that could not be read when the lanes reached their PC is taken now (R17). -/
def State.parkResume (s : State) (p : Park) : State :=
  let w := if s.warp.double.isSome then { s.warp with double := none } else { s.warp with park := none }
  (({ s with warp := w.replace s.pr, team := s.team.requeueOp p.op } : State)).settlePending

/-- Kill: the team is killed with the park's code. -/
def State.parkKill (s : State) (p : Park) : State := s.doom p.code p.pc p.addr

/-- Inject: every faulting lane throws, whatever F is, with its stop PC at the faulting instruction. A warp in its trap routine
throws after its TRET (R179). -/
def State.parkInject (s : State) (p : Park) (code : BitVec 16) : State :=
  if s.warp.double.isSome then s.parkKill p
  else
    let t : State := { s with warp := { s.warp with park := none }, team := s.team.endFaulted p.op }
    if t.warp.tdepth then { t with warp := { t.warp with pendFault := t.warp.pendFault ++ [{ p with code := code, second := 1 }] } }
    else t.hardwareThrow code (p.lanes &&& t.warp.live) p.pc p.addr

/-- PARKCMD on warp w of team h: action 0 resume, 1 kill, 2 inject. The answer is DONE. The focus stays at the parked warp. -/
def State.parkAction (s : State) (h w act : Nat) (code : BitVec 16) : State × Bool :=
  match s.focusOn h w with
  | none => (s, false)
  | some t => match t.warp.heldPark with
    | none => (s, false)
    | some p =>
      if act = 0 then (t.parkResume p, true) else if act = 1 then (t.parkKill p, true)
      else if act = 2 then (t.parkInject p code, true) else (s, false)

/-- PARKCMD_RESUME. -/
def execParkcmdResume (h w : Nat) (s : State) : Host.Outcome State Fault Refusal := .next (s.parkAction h w 0 0).1.wake

/-- PARKCMD_KILL. -/
def execParkcmdKill (h w : Nat) (s : State) : Host.Outcome State Fault Refusal := .next (s.parkAction h w 1 0).1.wake

/-- PARKCMD_INJECT. -/
def execParkcmdInject (h w : Nat) (code : BitVec 16) (s : State) : Host.Outcome State Fault Refusal :=
  .next (s.parkAction h w 2 code).1.wake

/-- What a write of PARKCMD or SVCDONE sets off once its fields are written (R185, R348). -/
def State.csrAction (s : State) (r : Reach) (c : Nat) (v : Word) : State :=
  if c = 0x042 then
    match r.own with
    | none => s
    | some w =>
      let p := s.parkAction w.parktgt.toNat (bits v 2 5) (bits v 0 2) ((v >>> 16).setWidth 16)
      if p.2 then p.1.onWarp w.team w.idx fun w => { w with parkcmd := w.parkcmd ||| 0x80 } else p.1
  else if c = 0x51D then s.svcDone r.die (bits v 0 16)
  else s

/-- CSRW. A write of SVCDONE waits while an agent holds a line of the results exclusively (R206). -/
def execCsrw (a : SOp) (b : BitVec 7) (n : BitVec 6) (s : State) : Host.Outcome State Fault Refusal :=
  let c := csrOf b n
  s.issueNext
    (fun s => { legal := (Instr.csrw a b n).wellFormed, privileged := csrPrivileged c, ssrcs := [{ op := a }], drains := true,
                retry := c == 0x51D && !s.resultsOpen s.ownReach.die (bits (s.sc a) 0 16) })
    (fun s =>
      let r := s.ownReach
      let v := s.sc a
      (((s.enterInvalid.writeCsr r c v).csrAction r c v)).refocus s.focusOf)

/-! ## The region stack -/

/-- The region instruction that has just acted stops its warp (R374): at the id of RGNBRK, or at a stop request once no delivery, at
any level, is open in its team. Its lanes stand at the next word. -/
def State.regionEdge (s : State) (id : Option Word) (m : Mask) (pc : BitVec 64) : State :=
  let brk := s.ctx.rgnbrk
  let hit := brk.getLsbD 31 && id == some (brk &&& 0x7FFFFFFF)
  let asked := s.warp.stopReq && !s.unwinding && !s.deliveries.any fun d => d.level == 0 && d.team == s.team.handle
  if !s.warp.tdepth && (hit || asked) then
    ({ s with warp := { s.warp with stopReq := s.warp.stopReq && !asked } } : State).parkAt Code.stop m pc 0
  else s

/-- RGNE (R373). -/
def execRgne (a : SOp) (s : State) : Host.Outcome State Fault Refusal :=
  s.issue (fun _ => { legal := (Instr.rgne a).wellFormed, ssrcs := [{ op := a }] }) fun s =>
    let id := s.sc a &&& 0x7FFFFFFF
    let w := s.warp
    let t : State := { s with warp := { w with rgn := (id :: w.rgn).take 16, rgnOvf := w.rgnOvf || decide (16 ≤ w.rgn.length) } }
    (t.enterInvalid.advance).regionEdge (some id) s.mask (s.entry.pc + 4)

/-- RGNL (R373). -/
def execRgnl (s : State) : Host.Outcome State Fault Refusal :=
  s.issue (fun _ => { legal := Instr.rgnl.wellFormed }) fun s =>
    let w := s.warp
    let t : State := { s with warp := { w with rgn := w.rgn.tail, rgnUnd := w.rgnUnd || w.rgn.isEmpty } }
    (t.enterInvalid.advance).regionEdge w.rgn.head? s.mask (s.entry.pc + 4)

/-- RGNSTAT_DEPTH_WRITE: a write of d to RGNSTAT.DEPTH of a warp. -/
def execRgnstatDepthWrite (h w : Nat) (depth : BitVec 5) (s : State) : Host.Outcome State Fault Refusal :=
  .next (s.onWarp h w fun w => w.setDepth depth.toNat).wake

/-- FSHN_WRITE: a write of FSHN of a warp. -/
def execFshnWrite (h w : Nat) (count : BitVec 6) (s : State) : Host.Outcome State Fault Refusal :=
  .next (s.onWarp h w fun w => w.setFshn count.toNat).wake

/-- DBGCTL_STOP. -/
def execDbgctlStop (s : State) : Host.Outcome State Fault Refusal := .next s.stopSelected.wake

/-- HOSTCTL_REARM. -/
def execHostctlRearm (s : State) : Host.Outcome State Fault Refusal := .next ({ s with pkg := s.pkg.rearm } : State).wake

/-- NLCTL_RETRAIN. -/
def execNlctlRetrain (port : BitVec 4) (s : State) : Host.Outcome State Fault Refusal :=
  let x := look s.pkg.ports Port.blank port.toNat
  .next ({ s with pkg := s.pkg.setPort port.toNat (x.retrain x.rate) } : State).wake

/-! ## The save path (R71) -/

/-- OCRD. -/
def execOcrd (a : VOp) (n : BitVec 4) (s : State) : Host.Outcome State Fault Refusal :=
  s.issueNext
    (fun s => { legal := (Instr.ocrd a n).wellFormed, dsts := [{ op := a }], retry := s.warp.awaitsCache n.toNat })
    (fun s => let v := s.warp.cacheValue n.toNat; s.settle [] (s.allLanesEntry a v.1 v.2))

/-- OCWR. -/
def execOcwr (a : VOp) (n : BitVec 4) (s : State) : Host.Outcome State Fault Refusal :=
  s.issueNext
    (fun s => { legal := (Instr.ocwr a n).wellFormed, srcs := [{ op := a }], retry := s.warp.awaitsCache n.toNat })
    (fun s => s.settle [] (s.allLanesEntry (.oc n) (s.vec a) ((s.srcTag a).getD .raw)))

/-- LTRD. -/
def execLtrd (a : VOp) (n : BitVec 3) (s : State) : Host.Outcome State Fault Refusal :=
  s.issueNext
    (fun _ => { legal := (Instr.ltrd a n).wellFormed, dsts := [{ op := a }] })
    (fun s =>
      let c := look s.warp.shadow Copy.blank n.toNat
      s.settle [] (s.allLanesEntry a (if c.valid then c.data else splat 0) (if c.valid then c.tag else .raw)))

/-- LTWR: the register that the restored latch's result reached is not known any more (log 23). -/
def execLtwr (a : VOp) (n : BitVec 3) (s : State) : Host.Outcome State Fault Refusal :=
  s.issueNext
    (fun _ => { legal := (Instr.ltwr a n).wellFormed, privileged := true, srcs := [{ op := a }] })
    (fun s =>
      let c : Copy := { data := s.vec a, tag := (s.srcTag a).getD .raw, valid := true, regs := [] }
      ({ s with warp := { s.warp with shadow := put s.warp.shadow n.toNat c } } : State).enterInvalid)

def SlotState.code : SlotState → Nat
  | .empty => 0 | .inflight => 1 | .landed => 2

def SlotKind.code : SlotKind → Nat
  | .w => 0 | .d => 1 | .q | .trace => 2 | .scalar => 3

def SlotKind.ofCode (n : Nat) : SlotKind := if n = 0 then .w else if n = 1 then .d else if n = 2 then .q else .scalar

/-- Metadata word of a slot. -/
def Slot.meta (x : Slot) (w : Nat) : Word :=
  if w = 0 then BitVec.ofNat 32 (x.state.code + 4 * x.kind.code + 16 * (x.dest % 512)) else x.mask

/-- LBRD. -/
def execLbrd (a : VOp) (w : BitVec 2) (m : BitVec 1) (slot : BitVec 4) (s : State) : Host.Outcome State Fault Refusal :=
  s.issueNext
    (fun _ => { legal := (Instr.lbrd a w m slot).wellFormed, dsts := [{ op := a }] })
    (fun s =>
      let x := s.warp.land slot.toNat
      s.settle [] (s.allLanesEntry a (if m = 0 then look x.data (splat 0) w.toNat else splat (x.meta w.toNat)) .raw))

/-- PENDING is set on the destinations of a slot. -/
def Warp.pend (w : Warp) (x : Slot) : Warp :=
  match x.kind with
  | .scalar => { w with spend := x.dest :: w.spend.filter (· != x.dest) }
  | _ => x.dests.foldl (fun w r => if r < 256 then w.setPending r true else w) w

/-- LBWR of metadata word 0: the state, the width and the destination, and PENDING with them. The tile of a destination row, which the word
does not hold, is that of VTSEL (DESIGN CHOICE: log 85). The poison and host-lost marks, which it does not hold either, stay those of the slot's
earlier load, so that a COMMIT of the restored slot may raise POISON or HOSTLOST: R71 does not say what LBWR does to them (DESIGN CHOICE: log
115). -/
def Warp.writeMeta (w : Warp) (k : Nat) (v : Word) : Warp :=
  let x := w.land k
  let landed := bits v 0 2 == 2
  let y : Slot := { x with
    state := if landed then .landed else .empty, kind := SlotKind.ofCode (bits v 2 2), dest := bits v 4 9, todo := [], trace := none,
    tile := w.vtsel }
  let u := w.setSlot k y
  if landed then u.pend y else u.unpend y

/-- LBWR. -/
def execLbwr (a : VOp) (w : BitVec 2) (m : BitVec 1) (slot : BitVec 4) (s : State) : Host.Outcome State Fault Refusal :=
  let k := slot.toNat
  s.issueNext
    (fun _ => { legal := (Instr.lbwr a w m slot).wellFormed, privileged := true, srcs := [{ op := a }] })
    (fun s =>
      let x := s.warp.land k
      let y := s.vec a
      let u : Warp :=
        if m = 0 then s.warp.setSlot k { x with data := put x.data w.toNat y }
        else if w = 0 then s.warp.writeMeta k (lane y 0)
        else s.warp.setSlot k { x with mask := lane y 0 }
      (s.withWarp u).enterInvalid)

/-! ## HALT and words that are no instruction -/

/-- HALT: a device-scope release, and the warp stops for good. -/
def execHalt (s : State) : Host.Outcome State Fault Refusal :=
  s.attempt
    (fun s => { legal := Instr.halt.wellFormed, privileged := true,
                specific := if bits s.warp.tcause 0 16 = Code.preempt.toNat ∧ !s.warp.tcause.getLsbD 22 then none
                  else some (Raise.all s Code.illegal) })
    fun s => match s.releaseDevice with
      | .wait t changed => .wait t changed
      | .raise t r => .raise t r
      | .done t => .done { t with warp := { t.enterInvalid.warp with halted := true } }

/-- ILLEGAL_WORD: the fault ILLEGAL at the word, and no other effect. -/
def execIllegalWord (_w : BitVec 32) (s : State) : Host.Outcome State Fault Refusal :=
  s.issue (fun _ => { legal := false }) id

end Sys2Proof.Machine
end

