-- ==== Sys2Proof/Machine/Wgu.lean ====
section
/-! DEFINITION. The work-graph units: placement (R21, R337, R338, R40), preemption and resume (R190, R339), swap-out and restore
(R38, R39), the hang detector (R43, R44), the end and the killing of a team (R11, R177), and LAUNCH_ADMISSION. -/

namespace Sys2Proof.Machine

/-! ## Room on a core -/

/-- What a team takes on a core: its warps' indices and allocations, tiles, and scratchpad bytes. -/
structure Need where
  warps : List (Nat × Nat)
  tiles : Nat
  scratch : Nat

def byIdx (l : List Warp) : List Warp := sortBy (fun (a b : Warp) => a.idx ≤ b.idx) l

/-- What the team of a pool entry takes. -/
def State.needOf (s : State) (p : Pooled) : Need :=
  match p.saved with
  | some h =>
    let t := s.teamOf h
    { warps := (byIdx (s.teamWarps h)).map fun w => (w.idx, w.vvg), tiles := t.tiles.length, scratch := t.scratchSize }
  | none =>
    let n := ((s.launchOf p.launch).node? (p.node.getD 0)).getD default
    { warps := (List.range n.warps).zip n.vvgs, tiles := n.tiles, scratch := 1024 * n.scratch }

def Need.granules (n : Need) : Nat := (n.warps.map (·.2)).sum + 2 * n.tiles

/-- A team fits on core c beside the teams ts (R338). -/
def State.fitsWith (s : State) (n : Need) (ts : List Team) : Bool :=
  let ws := s.allWarps.filter fun w => ts.any fun t => t.handle == w.team
  decide (ts.length < 16) && decide (ws.length + n.warps.length ≤ 64) &&
  decide ((ws.map (·.vvg)).sum + 2 * (ts.map fun t => t.tiles.length).sum + n.granules ≤ poolSize) &&
  decide ((ts.map (·.scratchSize)).sum + n.scratch ≤ 327680)

def State.fitsOn (s : State) (n : Need) (c : Nat) : Bool := s.fitsWith n (s.coreTeams c)

/-- Among the cores of a list that fit, the one with the fewest resident warps, then the lowest number. -/
def State.bestCore (s : State) (n : Need) (cores : List Nat) : Option Nat :=
  leastBy (fun c => (s.coreWarps c).length) (cores.filter (s.fitsOn n))

/-- Two cores of two clusters of a die, the lower first (R362). -/
def State.bestPair (s : State) (n : Need) (d : Nat) : Option (Nat × Nat) :=
  (s.bestCore n (coresOf d)).bind fun a =>
    (s.bestCore n ((coresOf d).filter fun c => c / 8 != a / 8)).map fun b => (min a b, max a b)

/-! ## Placement -/

/-- The partition with the most free slots, the lowest-numbered on a tie (R21). -/
def bestPartition (used : List Nat) : Nat :=
  (leastBy (fun p => 16 - (freeOf used p).length) [0, 1, 2, 3]).getD 0

/-- The lowest free place of a core. -/
def State.freePlace (s : State) (c : Nat) : Nat :=
  ((List.range 16).find? fun i => (s.coreTeams c).all fun t => t.place != i).getD 0

/-- The constant bank (Table 23-3). -/
def constBank (l : Launch) (p : Pooled) (n : NodeDef) (die : Nat) : List Byte :=
  let words := p.records.flatten
  let batch := !p.records.isEmpty
  let cdoff := (0x100 + 4 * words.length + 63) / 64 * 64
  word4 l.name ++ word4 p.index ++ word4 (if batch then 0 else l.teams) ++ word4 n.threads ++ word4 n.lfill ++
    word4 (p.node.getD 0xFFFFFFFF) ++ word4 p.records.length ++ word4 (if batch then 4 * n.recw else 0) ++ word4 cdoff ++
    word4 n.consts.length ++ word4 l.ctx ++ word4 die ++ List.replicate 16 0 ++ l.args ++ List.replicate 64 0 ++
    words.flatMap (fun x => word4 x.toNat) ++ List.replicate (cdoff - 0x100 - 4 * words.length) 0 ++ n.consts

/-- The initial warps of a new team. -/
def initialWarps (pr : BitVec 64 → Option (BitVec 8)) (h p0 stamp : Nat) (used : List Nat) (n : NodeDef) : List Warp :=
  let slots := (slotsFor used p0 (List.range n.warps)).getD []
  (List.range n.warps).map fun i =>
    newWarp pr h i (n.role i) (slots.getD i 0) (n.budget (n.role i)) (stamp + i) (n.lanes i) n.entry

/-- The handle of a team that is being placed for the first time: a 32-bit value that no team has (R185). -/
def State.freeHandle (s : State) : Nat :=
  let used := s.team.handle :: s.teams.map (·.handle)
  (((List.range (used.length + 2)).map fun i => (s.nextId + i) % 2 ^ 32).find? fun h => h != 0 && !used.contains h).getD 0

/-- A new team on core c, with its initial warps at the entry PC (R21, R23, R337). -/
def State.placeWith (s : State) (l : Launch) (n : NodeDef) (sched : List CopyDesc) (p : Pooled) (c : Nat) (primary : Bool) : State :=
  let h := s.freeHandle
  let p0 := bestPartition (s.usedSlots c)
  let d := dieOfCore c
  let t : Team := { Team.blank with
    handle := h, index := p.index, ctx := l.ctx, launch := l.id, node := p.node, serial := p.serial, prio := l.prio, die := d, core := c,
    place := s.freePlace c, p0 := p0, life := .resident, lanefill := n.lfill, threads := n.threads, budget0 := n.bud0, budget1 := n.bud1,
    nprod := n.nprod, admitted := p.admitted, placedAt := s.nextId, scratchSize := 1024 * n.scratch, consts := constBank l p n d,
    tiles := List.replicate n.tiles Tile.blank, sched := sched, period := l.period, paired := l.paired, guarded := l.guarded,
    primary := primary }
  let pr := s.blkPrio (s.ctxOf l.ctx) l
  { s with
    nextId := s.nextId + 1 + n.warps
    teams := s.teams.filter (fun x => x.life != .gone) ++ [t]
    warps := s.warps ++ initialWarps pr h p0 (s.nextId + 1) (s.usedSlots c) n }

/-- The new team of a pool entry on core c; none while its schedule cannot be read yet. -/
def State.placeNew (s : State) (p : Pooled) (c : Nat) (primary : Bool) : Option State :=
  let l := s.launchOf p.launch
  let n := (l.node? (p.node.getD 0)).getD default
  (s.placedSched l n).map fun x => x.1.placeWith l n x.2 p c primary

/-- A warp that R190 restores: its trap routine starts at TVB with TDEPTH = 1 and RESUME = 1. FRM is kept with the context (R78); WCT
starts at 0, because HALT has released its updates (R372); what the routine restores stands as in a new warp (log 3). -/
def Warp.resumed (pr : BitVec 64 → Option (BitVec 8)) (tvb : BitVec 64) (slot stamp : Nat) (w : Warp) : Warp :=
  { Warp.blank with
    uid := w.uid, team := w.team, idx := w.idx, role := w.role, slot := slot, live := w.live, vvg := w.vvg, resident := stamp, tries := w.tries,
    frm := w.frm, seen := w.seen, seenPeer := w.seenPeer, seenHeld := w.seenHeld, mowed := w.mowed, pushed := w.pushed, fshLast := w.fshLast,
    jt := w.jt, jg := w.jg, record := w.record, caught := w.caught, stopPc := w.stopPc, threw := w.threw, park := w.park,
    pendFault := w.pendFault, monws := w.monws, rgn := w.rgn, rgnOvf := w.rgnOvf, rgnUnd := w.rgnUnd, stopReq := w.stopReq,
    savedHold := w.savedHold, holdSince := w.holdSince, lostLines := w.lostLines, hostWritten := w.hostWritten, sig := w.sig,
    barGen := w.barGen, reissue := w.reissue, tdepth := true, tcause := tcauseOf Code.preempt 0 true
    frontier := placeEntry pr none { id := stamp, prio := 0, pc := tvb, mask := w.live, wait := .ready } [] }

/-- A team that was saved or swapped out comes back onto core c (R39, R190). -/
def State.placeBack (s : State) (h c : Nat) : State :=
  let t := s.teamOf h
  let ws := byIdx (s.teamWarps h)
  let p0 := bestPartition (s.usedSlots c)
  let slots := (slotsFor (s.usedSlots c) p0 (ws.map (·.idx))).getD []
  let slotOf (i : Nat) : Nat := ((ws.zip slots).find? fun x => x.1.idx == i).elim 0 (·.2)
  let tvb := (s.ctxOf t.ctx).tvb
  let pr := s.prOf t
  let back (w : Warp) : Warp :=
    if t.life = .swapped then { w with slot := slotOf w.idx, resident := s.nextId + w.idx }
    else w.resumed pr tvb (slotOf w.idx) (s.nextId + w.idx)
  let place := s.freePlace c
  let s := s.onTeamWarps h back
  { s.onTeam h fun t => { t with life := .resident, core := c, place := place, p0 := p0, placedAt := s.nextId } with nextId := s.nextId + 32 }

/-- The entries of a pool without one of them. -/
def dropEntry (p : Pooled) (l : List Pooled) : List Pooled :=
  l.filter fun x => !(x.launch == p.launch && x.node == p.node && x.index == p.index && x.records == p.records && x.saved == p.saved)

/-- An entry leaves its pool; the granules of its records are freed (R341). -/
def State.takeEntry (s : State) (d : Nat) (p : Pooled) : State :=
  let die := s.dieAt d
  s.setDie d { die with pool := dropEntry p die.pool, nodeUsed := die.nodeUsed - p.records.length }

/-- The entry of a saved team. -/
def State.savedEntry (s : State) (d h : Nat) : Option Pooled := (s.dieAt d).pool.find? fun p => p.saved == some h

/-- The team of a pool entry of die d is placed, with its twin in a paired launch; none where it does not fit. -/
def State.placeOne (s : State) (d : Nat) (p : Pooled) : Option State :=
  let paired := (s.launchOf p.launch).paired
  match p.saved with
  | none =>
    if paired then (s.bestPair (s.needOf p) d).bind fun c =>
      let a := s.freeHandle
      ((s.takeEntry d p).placeNew p c.1 true).bind fun s =>
        let b := s.freeHandle
        (s.placeNew p c.2 false).map fun s => (s.onTeam a fun t => { t with twin := some b }).onTeam b fun t => { t with twin := some a }
    else (s.bestCore (s.needOf p) (coresOf d)).bind fun c => (s.takeEntry d p).placeNew p c false
  | some h =>
    match (s.teamOf h).twin with
    | some q =>
      match s.savedEntry d q, s.bestPair (s.needOf p) d with
      | some e, some c =>
        let s := (s.takeEntry d p).takeEntry d e
        if (s.teamOf h).primary then some ((s.placeBack h c.1).placeBack q c.2) else some ((s.placeBack q c.1).placeBack h c.2)
      | _, _ => none
    | none => (s.bestCore (s.needOf p) (coresOf d)).map fun c => (s.takeEntry d p).placeBack h c

/-- The entries of a launch in every pool, with their dies. -/
def State.entriesOf (s : State) (launch : Nat) : List (Nat × Pooled) :=
  ([0, 1, 2, 3] : List Nat).flatMap fun d => ((s.poolOf d).filter fun p => p.launch == launch).map fun p => (d, p)

/-- A cooperative launch is placed whole (R40): none while a team of it is still to be saved. -/
def State.placeWhole (s : State) (launch : Nat) : Option State :=
  if s.allTeams.any fun t => t.launch == launch && t.life == .preempting then none
  else (s.entriesOf launch).foldl (fun s x => s.bind fun s =>
    if (s.dieAt x.1).pool.contains x.2 then s.placeOne x.1 x.2 else some s) (some s)

/-- A pool entry whose context is stopped waits (R43). -/
def State.stoppedEntry (s : State) (p : Pooled) : Bool := (s.ctxOf (s.launchOf p.launch).ctx).stopped

/-- The entry of a die's pool that is placed next, and the state with it placed: the first that fits; a cooperative launch only
at the head. -/
def State.pick (s : State) (d : Nat) : List Pooled → Bool → Option (Pooled × State)
  | [], _ => none
  | p :: rest, head =>
    let tried := if s.stoppedEntry p then none
      else if (s.launchOf p.launch).coop then (if head then s.placeWhole p.launch else none)
      else s.placeOne d p
    match tried with
    | some t => some (p, t)
    | none => s.pick d rest false

def State.placing (s : State) : Bool := !s.pkg.d3hot && !s.pkg.flr

def State.next? (s : State) (d : Nat) : Option (Pooled × State) := if s.placing then s.pick d (s.poolOf d) true else none

/-- TEAM_PLACEMENT. -/
def execTeamPlacement (die : BitVec 2) (s : State) : Host.Outcome State Fault Refusal :=
  match s.next? die.toNat with
  | none => .fault .cannotHappen
  | some x => .next x.2.wake

/-- TEAM_RESUME (R190): the saved team is the one that placement takes next; the driver's resume of a stopped context lifts its
stop (R43). -/
def execTeamResume (h : Nat) (s : State) : Host.Outcome State Fault Refusal :=
  let t := s.teamOf h
  let c := s.ctxOf t.ctx
  let r := s.putCtx { c with stopped := false }
  if t.handle ≠ h ∨ t.life ≠ .saved then .fault .cannotHappen
  else
    match r.next? t.die with
    | some (p, u) =>
      if p.saved = some h ∨ (p.saved.isSome ∧ p.launch = t.launch ∧ (s.launchOf t.launch).coop) ∨ (p.saved.isSome ∧ p.saved = t.twin) then
        .next u.wake
      else if c.stopped then .next r.wake else .fault .cannotHappen
    | none => if c.stopped then .next r.wake else .fault .cannotHappen

/-! ## Preemption (R190, R339, R347) -/

/-- A delivery is open that reaches a team. -/
def State.deliveringTo (s : State) (h : Nat) : Bool :=
  s.deliveries.any fun d => if d.level = 2 then d.launch == (s.teamOf h).launch else d.team == h

/-- PREEMPT may be raised in a team of a launch: no delivery of it is open, and no SVC batch of it is outstanding. -/
def State.preemptable (s : State) (h : Nat) : Bool :=
  (s.teamOf h).life == .resident && !(s.teamOf h).service && !s.deliveringTo h &&
    !(s.dies.toList.any fun d => d.batches.any fun b => b.team == h && !b.cancel) &&
    !((s.teamWarps h).any fun w => w.unposted.isSome || !w.svcEnds.isEmpty)

/-- The resident teams that are preempted with a team: its launch's where it is cooperative, and its twin. -/
def State.groupOf (s : State) (h : Nat) : List Nat :=
  let t := s.teamOf h
  if (s.launchOf t.launch).coop then ((s.allTeams.filter fun u => u.launch == t.launch && u.life == .resident).map (·.handle))
  else match t.twin with
    | some q => if (s.teamOf q).life = .resident then [h, q] else [h]
    | none => [h]

def State.raisePreempt (s : State) (h : Nat) : State :=
  (s.onTeam h fun t => { t with life := .preempting }).onTeamWarps h fun w => { w with preempt := true }

def State.preemptAll (s : State) (hs : List Nat) : State := hs.foldl State.raisePreempt s

/-- Teams with all those that go with them; none unless PREEMPT may be raised in every one. -/
def State.preemptGroups (s : State) (hs : List Nat) : Option State :=
  let all := (hs.flatMap s.groupOf).dedup
  if !all.isEmpty && all.all s.preemptable then some (s.preemptAll all) else none

/-- PREEMPT. -/
def execPreempt (h : Nat) (s : State) : Host.Outcome State Fault Refusal :=
  match s.preemptGroups [h] with
  | none => .fault .cannotHappen
  | some t => .next t.wake

/-- Team a is preempted before team b (R339). -/
def Team.victimBefore (a b : Team) : Bool := a.prio < b.prio || (a.prio == b.prio && b.placedAt ≤ a.placedAt)

/-- The fewest victims of core c, from the front of victim order, that make room for a team of priority p. -/
def State.victims (s : State) (n : Need) (p c : Nat) : Option (List Nat) :=
  let ts := s.coreTeams c
  let order := sortBy Team.victimBefore (ts.filter fun t => t.life == .resident && decide (t.prio < p))
  ((List.range (order.length + 1)).find? fun k => s.fitsWith n (ts.filter fun t => !((order.take k).map (·.handle)).contains t.handle)).map
    fun k => (order.take k).map (·.handle)

/-- Among the cores, the one that needs the fewest victims, the lowest number on a tie. -/
def State.bestVictims (s : State) (n : Need) (p : Nat) (cores : List Nat) : Option (List Nat) :=
  (cores.filterMap (s.victims n p)).foldl (fun (b : Option (List Nat)) l => match b with
    | none => some l
    | some x => if l.length < x.length then some l else some x) none

/-- PREEMPT_FOR_HEAD (R339): the head of a pool fits on no core; the second core of a pair lies in another cluster. -/
def execPreemptForHead (die : BitVec 2) (s : State) : Host.Outcome State Fault Refusal :=
  let d := die.toNat
  match (s.poolOf d).filter fun p => !s.stoppedEntry p with
  | [] => .fault .cannotHappen
  | p :: _ =>
    let n := s.needOf p
    let fits := s.bestCore n (coresOf d)
    let paired := (s.launchOf p.launch).paired
    let cores := match fits with
      | some a => (coresOf d).filter fun c => c / 8 != a / 8
      | none => coresOf d
    let full := if paired then (s.bestPair n d).isNone else fits.isNone
    if !s.placing || !full || (s.allTeams.any fun t => t.die == d && t.life == .preempting) then .fault .cannotHappen
    else match s.bestVictims n p.prio cores with
      | none => .fault .cannotHappen
      | some hs => match s.preemptGroups hs with
        | none => .fault .cannotHappen
        | some t => .next t.wake

/-- The team as a pool entry with its original admission time. -/
def Team.pooledBack (t : Team) : Pooled :=
  { prio := t.prio, admitted := t.admitted, index := t.index, launch := t.launch, node := t.node, serial := t.serial, records := [],
    saved := some t.handle }

/-- No engine works for the team. -/
def State.enginesDone (s : State) (t : Team) : Bool :=
  t.copies.isEmpty && t.out.isEmpty && t.matrixIdle && (s.teamWarps t.handle).all fun w => w.slots.toList.all fun x => x.state != .inflight

/-- TEAM_STATE_SAVE (R190): every warp has halted and the engines are done; what is left of the team's state goes to its context's save area,
where R378 has the host read it (log 109), and the team leaves its core for the pool. -/
def execTeamStateSave (h : Nat) (s : State) : Host.Outcome State Fault Refusal :=
  let t := s.teamOf h
  if t.handle = h ∧ t.life = .preempting ∧ (s.teamWarps h).all (·.halted) ∧ s.enginesDone t then
    .next (((s.saveTeam h (t.saveImage (s.teamWarps h))).onTeam h fun t => { t with life := .saved }).addPooled t.die t.pooledBack).wake
  else .fault .cannotHappen

/-! ## Swapping (R38, R39) -/

/-- Every live entry of the warp is parked by MONW. -/
def Warp.monWaiting (w : Warp) : Bool :=
  !w.frontier.isEmpty && !w.tdepth && w.park.isNone && w.double.isNone && w.hold == .none &&
    w.frontier.all fun e => match e.wait with | .monw _ => true | _ => false

/-- A matrix operation is in flight: no warp has joined it (R7). A register that a delivery has cleared is none. -/
def MatOp.inFlight (o : MatOp) : Bool := o.phase != .done || (o.status != 1 && !o.joined)

/-- No copy, matrix operation, TRACE or decoupled load of a team is forked and not yet joined (R7, R38). -/
def State.nothingInFlight (s : State) (t : Team) : Bool :=
  t.copies.isEmpty && !(t.mops.any MatOp.inFlight) && (s.teamWarps t.handle).all fun w => w.slots.toList.all fun x => x.state == .empty

/-- SWAP_OUT: the team's state goes to its context's save area (R38, log 109), once what it has ceased to hold has been sent. A paired team
is placed with its twin only, and so it is not swapped (DEDUCED: log 25). -/
def execSwapOut (h : Nat) (s : State) : Host.Outcome State Fault Refusal :=
  let t := s.teamOf h
  if t.handle = h ∧ t.life = .resident ∧ !t.service ∧ !t.paired ∧ !(s.launchOf t.launch).coop ∧ t.doomed = none ∧ t.out.isEmpty ∧
      (s.teamWarps h).all (fun w => w.monWaiting && w.unproduced.isEmpty) ∧ s.nothingInFlight t ∧ !s.deliveringTo h ∧
      (s.dieAt t.die).pool.any (fun p => decide (t.prio ≤ p.prio) && !s.stoppedEntry p) then
    .next ((s.saveTeam h (t.saveImage (s.teamWarps h) ++ (s.teamWarps h).flatMap Warp.swapImage)).onTeam h fun t => { t with life := .swapped }).wake
  else .fault .cannotHappen

/-- SWAP_RESTORE: a monitor of a swapped team has fired or timed out. The team comes back onto a core, or into the pool with the
values that its MONW will write. A stopped context's team waits (R43). -/
def execSwapRestore (h : Nat) (s : State) : Host.Outcome State Fault Refusal :=
  let t := s.teamOf h
  let fired := (s.teamWarps h).any fun w => w.monws.any fun o => o.result.isSome
  if t.handle ≠ h ∨ t.life ≠ .swapped ∨ !fired ∨ (s.ctxOf t.ctx).stopped ∨ (s.savedEntry t.die h).isSome then .fault .cannotHappen
  else match s.bestCore (s.needOf t.pooledBack) (coresOf t.die) with
    | some c => .next (s.placeBack h c).wake
    | none =>
      let hold (w : Warp) : Warp := { w with monws := w.monws.map fun o => { o with held := o.result } }
      .next ((s.onTeamWarps h hold).addPooled t.die t.pooledBack).wake

/-! ## The hang detector (R43, R44) -/

/-- The warps of a context; those of the service teams are of none. -/
def State.ctxWarps (s : State) (ctx : Nat) : List Warp :=
  s.allWarps.filter fun w => w.team != 0 && (s.teamOf w.team).ctx == ctx && !(s.teamOf w.team).service

/-- States that count as waiting (Table 3-2). -/
def waitingState (n : Nat) : Bool := n == 2 || n == 3 || n == 4 || n == 6 || n == 8

/-- The park that holds the warp: that of its trap routine, or else that of its program. -/
def Warp.thePark (w : Warp) : Option Park := w.double.orElse fun _ => w.park

/-- The GTC at which the wait of a warp began. -/
def Warp.waitSince (w : Warp) : Nat :=
  match w.thePark with
  | some p => p.since
  | none => if w.hold = .none then w.monws.foldl (fun m o => max m o.since) 0 else w.holdSince

/-- No copy, matrix operation, TRACE, decoupled load or SVC of the context is in flight: forked and not yet joined (R7). -/
def State.ctxIdle (s : State) (ctx : Nat) : Bool :=
  (s.allTeams.all fun t => t.ctx != ctx || s.nothingInFlight t) &&
  (s.dies.toList.all fun d => d.batches.all fun b => b.cancel || (s.teamOf b.team).ctx != ctx) &&
  (s.ctxWarps ctx).all fun w => w.unposted.isNone && w.svcEnds.isEmpty

/-- Bytes +0x04 to +0x0B of a wait-for entry (Table 3-4). The table does not say what +0x04 holds for a SWAPPED warp: the model writes the low
word of its first lane's monitor address (DESIGN CHOICE: log 84). -/
def Warp.graphWait (w : Warp) (state : Nat) (any : Dword) : List Byte :=
  let mon := (((w.monws.flatMap fun o => o.lanes).head?.map fun (l : MonLane) => l.va).getD 0).toNat
  if state = 6 then word4 ((w.thePark.map fun p => p.code.toNat).getD 0) ++ word4 0
  else if state = 3 then word8 mon
  else if state = 8 then word4 (mon % 2 ^ 32) ++ word4 0
  else match w.hold with
    | .bar b g _ _ => word4 (b + 2 ^ 16 * (g % 2 ^ 16)) ++ word4 0
    | .pool r => word4 r.granules ++ word4 0
    | _ => word4 (any.setWidth 32 : Word).toNat ++ word4 0

/-- One wait-for entry. -/
def State.graphEntry (s : State) (w : Warp) (any : Dword) : List Byte :=
  let n := s.warpState w
  word4 ((s.teamOf w.team).index % 2 ^ 16 + 2 ^ 16 * w.idx + 2 ^ 24 * n) ++ w.graphWait n any ++ word4 (w.waitSince % 2 ^ 32)

/-- Ascending order of team and then warp; teams of several launches that have one index follow in that of their handles, which R44 does not
give (DESIGN CHOICE: log 99). -/
def State.graphOrder (s : State) (a b : Warp) : Bool :=
  let i := (s.teamOf a.team).index
  let j := (s.teamOf b.team).index
  i < j || (i == j && (a.team < b.team || (a.team == b.team && a.idx ≤ b.idx)))

/-- The wait-for graph is written to the context's buffer; the answer is the address that the event carries. -/
def State.writeGraph (s : State) (c : Ctx) : State × BitVec 64 :=
  if c.hanggsz.toNat < 32 then (s, 0)
  else
    let ws := sortBy s.graphOrder (s.ctxWarps c.id)
    let n := min ws.length ((c.hanggsz.toNat - 32) / 16)
    let header := word4 n ++ word4 (ws.length - n) ++ word4 c.id ++ word4 0 ++ word8 s.gtc ++ word8 0
    let body := ((ws.take n).zip (List.range n)).flatMap fun x => s.graphEntry x.1 (Config.freeDword (s.free + x.2))
    let t : State := { s with free := s.free + n }
    (if target c.hangg.toNat = .host ∧ s.hostGone then t else t.putBytes c.hangg.toNat (header ++ body), c.hangg)

/-- Core cycles, in thousandths, from one GTC to another: clock steps, newest first, give the clock before them (R2, R369);
none where GTC has wrapped in between (log 96). -/
def cyclesFrom (since : Nat) : Nat → Nat → List (Nat × Nat) → Nat
  | now, clock, [] => (now - since) * clock
  | now, clock, (at', before) :: rest =>
    if at' ≤ since then (now - since) * clock else (now - at') * clock + cyclesFrom since at' before rest

/-- The launch id that a HANG event carries: that of the context's launch, a free value where it has several (DESIGN CHOICE: log 34). -/
def State.hangName (s : State) (ctx : Nat) : State × Nat :=
  match (s.launch :: s.launches).filter fun l => l.ctx == ctx && !l.finished with
  | [l] => (s, l.name)
  | _ => ({ s with free := s.free + 1 }, (Config.freeDword s.free).toNat % 2 ^ 32)

/-- HANG_DETECT. -/
def execHangDetect (ctx : BitVec 16) (s : State) : Host.Outcome State Fault Refusal :=
  let c := s.ctxOf ctx.toNat
  let ws := s.ctxWarps c.id
  let since := ws.foldl (fun m w => max m w.waitSince) c.lastBusy
  if ws.isEmpty || c.stopped || !(ws.all fun w => waitingState (s.warpState w)) || !s.ctxIdle c.id ||
      decide (cyclesFrom since s.gtc s.pkg.clock s.pkg.steps < c.hangth.toNat * 1000) then .fault .cannotHappen
  else
    let hs := (s.allTeams.filter fun t => t.ctx == c.id && t.life == .resident && !t.service).map (·.handle)
    let g := s.writeGraph c
    let n := g.1.hangName c.id
    let t := (n.1.preemptAll hs).postEvent c.id 2 Code.hang.toNat n.2 g.2 0
    .next (t.putCtx { t.ctxOf c.id with stopped := true }).wake

/-! ## The end of a team (R11, R349, R363, R365) -/

/-- An update is one that a combining switch has delivered for copies of a context (R275). -/
def Update.combined (ctx : Nat) (u : Update) : Bool := u.team == 0 && u.core == 0x1FF && u.ctx == ctx && u.isRed

/-- Copies and matrix operations of the team are over, and what they and its warps wrote is performed; updates that a switch has
delivered are of no team, so that the team waits for all those of its context (R11, R215). It does not wait for SC lines that an L1 still keeps
dirty, or for their write-backs after an eviction: R207 leaves their write-back to a release, and R11 and R349 do not name them (DESIGN CHOICE:
log 122). -/
def State.teamQuiet (s : State) (h : Nat) : Bool :=
  let t := s.teamOf h
  t.copies.isEmpty && t.out.isEmpty && t.matrixIdle &&
  !(s.home.any fun x => x.pend.any fun u => u.team == h || u.combined t.ctx) && !(s.pkg.peers.any fun p => p.team == h) &&
  !(s.contributions.any fun c => c.team == h) && !(s.switchEntries.any fun e => e.copies.any fun c => c.1 == h) &&
  (s.core :: s.cores).all fun c => c.atoms.all fun a => a.team != h || a.lanes.isEmpty

def State.dropAtoms (s : State) (h : Nat) : State :=
  let keep (c : Core) : Core := { c with atoms := c.atoms.filter fun a => a.team != h }
  { s with core := keep s.core, cores := s.cores.map keep }

/-- Something of a context has gone, so that the count of its waiting cycles starts again (R43). -/
def State.busyNow (s : State) (ctx : Nat) : State := s.putCtx { s.ctxOf ctx with lastBusy := s.gtc }

/-- A team counts as ended or killed once neither it nor its twin is left (R362: the twins are one team of the launch). -/
def State.lastTwin (s : State) (t : Team) : Bool := match t.twin with | some q => (s.teamAt q).isNone | none => true

/-- A team is gone, and what depends on it goes on: flushed queues, grid barriers and regions, the launch's completion. -/
def State.retire (s : State) (h : Nat) (count : Launch → Launch) : Option State :=
  match s.focusTeam h with
  | none => none
  | some t =>
    let f := s.focusOf
    let l := t.launch.id
    let last := t.lastTwin t.team
    let t := ((t.flush.dropAtoms h).busyNow t.ctx.id).onLaunch l fun x => if last then count x else x
    let t := t.onTeam h fun x => { x with life := .gone }
    ((t.closeGrid l).completeGrid l).completeLaunch l |>.map fun t => t.refocus f

/-- What a paired or guarded team still holds when it ends: a pair is compared for the last time, a guarded team's updates are
performed. -/
def State.lastHeld (s : State) (h : Nat) : State :=
  let t := s.teamOf h
  match t.twin with
  | some q =>
    let r := s.compareTwins h q
    let done (t : Team) : Team := { t with paired := false }
    let doom (t : Team) : Team := { t with paired := false, doomed := some (Code.sigmismatch, 0, 0) }
    if r.2 then (r.1.onTeam h done).onTeam q done else (r.1.onTeam h doom).onTeam q doom
  | none => s.releaseHeld h

/-- TEAM_END: the engines of a team without warps are done. Its last held updates are performed first; then it leaves its place. -/
def execTeamEnd (h : Nat) (s : State) : Host.Outcome State Fault Refusal :=
  let t := s.teamOf h
  if t.handle ≠ h ∨ t.life ≠ .ending ∨ t.doomed.isSome ∨ !s.teamQuiet h then .fault .cannotHappen
  else if t.paired then
    match t.twin with
    | some q =>
      if (s.teamOf q).life = .ending ∧ s.teamQuiet q then .next (s.lastHeld h).wake else .fault .cannotHappen
    | none => .fault .cannotHappen
  else if !t.held.isEmpty then .next (s.lastHeld h).wake
  else match s.retire h fun l => { l with ended := l.ended + 1 } with
    | none => .fault .cannotHappen
    | some t => .next t.wake

/-! ## The killing of a team (R177) -/

/-- The ATOMs and REDs of a killed team: what is on its way at a home or under a lease goes on without its warp. -/
def Core.killAtoms (h : Nat) (c : Core) : Core :=
  let sent (l : AtomLane) : Bool := l.begun && l.route != .host && l.route != .emulate;
  { c with atoms := (c.atoms.map fun a =>
      if a.team = h then { a with warp := anyWarp, held := false, lanes := if a.who = 0 then a.lanes.filter sent else [] } else a).filter fun a =>
        !(a.team == h && a.lanes.isEmpty) }

/-- A killed team that has a place on a core keeps it until what it wrote is performed (R11). Its FAULTED matrix operations, which no one resumes any
more, are abandoned, so that those that have issued behind them complete (R177, R296). -/
def Team.ends (t : Team) : Team :=
  { t.abandonAll with
    held := [], inbox := [], regroups := [], tries := []
    life := if t.life = .resident ∨ t.life = .preempting then .ending else t.life }

/-- Everything of the team stops and is dropped, its updates that have left it excepted. -/
def State.stopTeam (s : State) (h : Nat) : State :=
  let s := s.busyNow (s.teamOf h).ctx
  let s := (s.teamWarps h).foldl (fun s w => s.cancelBatches h w.idx (maskOf fun _ => true)) (s.cancelCopies h fun _ => true)
  let s := s.onTeamWarps h fun w => { w with
    gone := true, frontier := [], live := 0, tries := [], hold := .none, park := none, double := none, pendFault := [], monws := [], svcEnds := [] }
  let s : State := { s with
    warps := s.warps.filter (fun w => !w.gone), core := s.core.killAtoms h, cores := s.cores.map (Core.killAtoms h) }
  let s := s.onTeam h Team.ends
  let drop (d : Die) : Die := { d with
    pool := d.pool.filter fun p => p.saved != some h
    notices := d.notices.filter fun n => n.team != h }
  { s with
    deliveries := s.deliveries.filter fun d => !(d.team == h && decide (d.level < 2))
    dies := s.dies.map drop
    launch := { s.launch with gridArrived := s.launch.gridArrived.filter fun e => e.1 != h, gtries := s.launch.gtries.map fun r => { r with ended := r.ended.filter fun e => e.1 != h } }
    launches := s.launches.map fun l => { l with gridArrived := l.gridArrived.filter fun e => e.1 != h, gtries := l.gtries.map fun r => { r with ended := r.ended.filter fun e => e.1 != h } } }

/-- Nothing of a team is left to stop. -/
def State.stoppedTeam (s : State) (h : Nat) : Bool := (s.teamWarps h).isEmpty && (s.teamOf h).copies.isEmpty && (s.teamOf h).held.isEmpty

/-- TEAM_KILL: a throw that no region took, a PARKCMD kill, or a failed rollback. The team stops with its twin, and is gone once what it
wrote is performed (R11, R177, R215). -/
def execTeamKill (h : Nat) (s : State) : Host.Outcome State Fault Refusal :=
  let t := s.teamOf h
  match t.doomed with
  | none => .fault .cannotHappen
  | some (code, pc, addr) =>
    if t.handle ≠ h ∨ t.life = .gone ∨ !t.matrixIdle then .fault .cannotHappen
    else
      let idle := s.stoppedTeam h
      let s := if idle then s else s.stopTeam h
      let s := match t.twin with
        | some q => s.onTeam q fun u => { u with doomed := u.doomed.orElse fun _ => some (code, pc, addr) }
        | none => s
      let kill : Kill := { code := code, pc := pc, addr := addr }
      let s := s.onLaunch t.launch fun l => { l with firstKill := l.firstKill.orElse fun _ => some kill }
      if !s.teamQuiet h then (if idle then .fault .cannotHappen else .next s.wake)
      else match s.retire h fun l => { l with killed := l.killed + 1 } with
      | none => .fault .cannotHappen
      | some t => .next t.wake

/-! ## Admission (R334, R336) -/

/-- What admission does with the next record of a queue. -/
inductive Admission where
  | waits
  | rejects (s : State) (l : Launch)
  | admits (s : State)

/-- Every launch that a queue has admitted has completed. -/
def State.queueDone (s : State) (q : Nat) : Bool := (s.launch :: s.launches).all fun l => l.finished || l.name / 2 ^ 20 != q

/-- The launch becomes one of the machine's, with its code as it stands now, every due update performed (R96). -/
def State.enterLaunch (s : State) (l : Launch) : State × Launch :=
  let s := s.settleDue
  let l := { l with id := s.nextId, admitted := s.nextId, image := s.mem, imageRoot := (s.ctxOf l.ctx).root.toNat }
  ({ s with nextId := s.nextId + 1, launches := s.launches ++ [l] }, l)

/-- The next record of queue q as it stands. -/
def State.admission (s : State) (q : Nat) : Admission :=
  let d := s.queueDesc q
  if (target d.record = .host ∧ s.hostGone) ∨ s.linesOpen d.record 256 = false then .waits
  else
    let g := s.getBytes d.record 256
    let r := leNat g.2
    let name := q * 2 ^ 20 + g.1.admittedBy q % 2 ^ 20
    if fld r 0 11 1 = 1 ∧ !s.queueDone q then .waits
    else match g.1.readLaunch d name r with
      | .stall => .waits
      | .bad _ => .rejects g.1 { Launch.blank with name := name, ctx := d.ctx, compl := fld64 r 0x38 }
      | .ok t l =>
        let e := t.enterLaunch l
        let p := e.1.poolLaunch e.2
        if l.coop && (p.placeWhole e.2.id).isNone then .waits else .admits p

/-- The queue descriptors stand in host memory that the package has lost (R354). -/
def State.queuesLost (s : State) : Bool := target s.pkg.qtbl.toNat == .host && s.hostGone

/-- The record has been copied: HEAD advances, and the queue's count. -/
def State.passRecord (s : State) (q : Nat) : State :=
  let d := s.queueDesc q
  let n := s.admittedBy q
  { s.putBytes (s.queueAt q + 16) (leBytes (d.head + 1).toNat 2) with
    pkg := { s.pkg with
      queues := (q, n + 1) :: s.pkg.queues.filter fun x => x.1 != q
      served := put s.pkg.served d.prio q } }

/-- The homes answer for the descriptors of the host queues (R206). -/
def State.queuesOpen (s : State) : Bool :=
  let base := s.pkg.qtbl.toNat
  s.home.all fun h => h.excl.isNone || decide (128 * h.line + 128 ≤ base) || decide (base + 131072 ≤ 128 * h.line)

/-- Queue q is served before queue r: higher PRIO first, equal ones round robin. -/
def State.servesBefore (s : State) (q r : Nat) : Bool :=
  let a := s.queueDesc q
  let b := s.queueDesc r
  let turn (x : Nat) : Nat := (x + 4095 - look s.pkg.served 4095 a.prio % 4096) % 4096
  b.prio < a.prio || (a.prio == b.prio && turn q < turn r)

/-- LAUNCH_ADMISSION: the next record of queue q is copied, and its launch admitted or rejected. The unit's reads of descriptors wait while an
agent holds a line of them exclusively (R206). -/
def execLaunchAdmission (queue : BitVec 12) (s : State) : Host.Outcome State Fault Refusal :=
  let q := queue.toNat
  let s := s.settleDue.noteQueues
  let others := (List.range 4096).filter fun r => r != q && (s.queueDesc r).posted && s.servesBefore r q
  let blocked := others.any fun r => match s.admission r with | .waits => false | _ => true
  if !s.placing || decide (s.pkg.stage < 6) || s.queuesLost || !s.queuesOpen || !(s.queueDesc q).posted || blocked then .fault .cannotHappen
  else match s.admission q with
    | .waits => .fault .cannotHappen
    | .admits t => .next (t.passRecord q).wake
    | .rejects t l => match t.reportLaunch l Code.illegal 0 0 with
      | none => .fault .cannotHappen
      | some t => .next (t.passRecord q).wake

/-! ## The service teams (R14, R368) -/

/-- What a service team launches: one warp of 32 lanes with 32 granules, and the scratchpad of its core (DESIGN CHOICE: log 88). -/
def serviceNode : NodeDef :=
  { entry := Config.firmwarePc, recw := 1, batch := 1, threads := 32, nprod := 0, bud0 := 32, bud1 := 32, lfill := 32, scratch := 320, tiles := 0,
    consts := [], edges := [] }

/-- The service core of die d enters its service team, in context 0 (DESIGN CHOICE: log 88). -/
def State.enterService (s : State) (d : Nat) : State :=
  let l : Launch := { Launch.blank with id := s.nextId, firmware := true }
  let p : Pooled := { prio := 0, admitted := 0, index := 0, launch := l.id, node := none, serial := 0, records := [], saved := none }
  let s : State := { s with nextId := s.nextId + 1, launches := s.launches ++ [l] }
  let h := s.freeHandle
  (s.placeWith l serviceNode [] p (384 + d) false).onTeam h fun t => { t with service := true }

/-- Bring-up step 4: every service core enters its service team. -/
def State.enterServices (s : State) : State := ([0, 1, 2, 3] : List Nat).foldl State.enterService s

end Sys2Proof.Machine
end

