-- ==== Sys2Proof/Machine/Package.lean ====
section
/-! DEFINITION. The package from outside: host accesses (R351 to R353, R378), link loss and Function Level Reset (R354 to R356),
Norozlink ports and the peer window (R357 to R361, R214), sparing (R4, R367), power and bring-up (R368, R369), sample records (R376). -/

namespace Sys2Proof.Machine

/-- The host reaches the function: the link is up, bring-up has passed step 5, and no Function Level Reset is under way. -/
def Pkg.reachable (p : Pkg) : Bool := p.linkUp && decide (5 ≤ p.stage) && !p.flr

/-- A host read is answered. -/
def State.reply (s : State) (l : List Byte) : State := { s with pkg := { s.pkg with answer := l, reply := .data } }

def State.freeReply (s : State) : State := ({ s with free := s.free + 1 } : State).reply (word8 (Config.freeDword s.free).toNat)

/-- A host request completes with UR. -/
def State.unsupported (s : State) : State := { s with pkg := { s.pkg with reply := .unsupported } }

/-! ## BAR0 (R378) -/

/-- BAR0_CSR_ACCESS: offset 4c reaches CSR c in the instances that DBGSEL and DBGCTL name, with privilege. What stands elsewhere in
BAR0, the management mailbox among it, is not laid out: a read gives a free value, a write has no effect. A write of SVCDONE reads the results
of the batch, and waits while their home does not answer (R206). -/
def execBar0CsrAccess (write : Bool) (off : BitVec 25) (v : BitVec 32) (s : State) : Host.Outcome State Fault Refusal :=
  let c := off.toNat / 4
  if !s.pkg.reachable then .fault .cannotHappen
  else if off.toNat % 4 ≠ 0 ∨ !csrNumber c then .next (if write then s else s.freeReply).wake
  else
    let r := s.hostReach
    if write then
      if c = 0x51D && !s.resultsOpen r.die (bits v 0 16) then .fault .cannotHappen
      else .next (((s.writeCsr r c v).csrAction r c v).refocus s.focusOf).wake
    else let x := s.readCsr r c; .next (x.1.reply (word4 x.2.toNat)).wake

/-! ## Doorbells (R353) -/

/-- The TAIL that a doorbell write gives is within its ring. -/
def State.tailOk (s : State) (q : Nat) (tail : BitVec 16) : Bool :=
  let d := s.queueDesc q
  decide ((tail - d.head).toNat < 2 ^ d.log2sz)

def State.doorbellError (s : State) : State := { s with pkg := { s.pkg with dberr := saturate32 s.pkg.dberr } }

/-- DOORBELL: an access of len bytes at an offset of BAR2. No doorbell is accepted before bring-up step 6 (R368), and one that needs its queue's
descriptor waits while the home of one does not answer (R206). A TAIL in host memory that is lost is discarded (R354). -/
def execDoorbell (write : Bool) (off : BitVec 20) (len : Nat) (v : BitVec 32) (s : State) : Host.Outcome State Fault Refusal :=
  let q := off.toNat / 256
  let s' := s.noteQueues
  if !s.pkg.reachable then .fault .cannotHappen
  else if s.pkg.stage < 6 then .next s
  else if !s'.queuesOpen then .fault .cannotHappen
  else if write then
    if len ≠ 4 ∨ off.toNat % 256 ≠ 0 ∨ bits v 16 16 ≠ 0 ∨ !s'.tailOk q (v.setWidth 16) then .next s'.doorbellError.wake
    else if s'.queuesLost then .next s'.wake
    else .next (s'.putBytes (s'.queueAt q + 18) (leBytes (bits v 0 16) 2)).wake
  else if len = 4 ∧ off.toNat % 256 = 0 then
    let d := s'.queueDesc q
    .next (s'.reply (word4 (d.head.toNat + 2 ^ 16 * d.tail.toNat))).wake
  else .next s'.freeReply.wake

/-! ## HBM from the host (R352) -/

/-- The home of each line of n bytes logs a load for a requester that is no core (R377). -/
def State.logReads (s : State) (pa n asker : Nat) : State :=
  (linesAt pa n).foldl (fun s line => s.slog line 0 (s.homeLine line).cached 0x1FF asker) s

/-- A read at the homes of n bytes. -/
def State.hostRead (s : State) (pa n : Nat) : State :=
  let r := s.getBytes pa n
  (r.1.logReads pa n 5).reply r.2

/-- Bytes that arrive at the homes as one update for each line; n bounds the lines. -/
def State.hostStore (s : State) : Nat → Nat → List Byte → State
  | 0, _, _ => s
  | n + 1, pa, l =>
    if l.isEmpty then s
    else
      let k := 128 - pa % 128
      State.hostStore (s.arrive { unitUpdate 0 0 pa (l.take k) with asker := 5 }).1 n (pa + k) (l.drop k)

/-- A write of the low n bytes of v. -/
def State.hostWrite (s : State) (pa n v : Nat) : State := s.hostStore (n / 128 + 2) pa (leBytes v n)

/-- The ATOM operation of a completer AtomicOp of len bytes, with its operands (Table 24-1). -/
def hostAtom (op : HostOp) (len n : Nat) : Option (Nat × Dword × Dword) :=
  let wide := len == 8
  let v : Dword := BitVec.ofNat 64 n
  if len ≠ 4 ∧ len ≠ 8 then none
  else match op with
    | .fetchAdd => some (if wide then 13 else 0, v, 0)
    | .swap => some (if wide then 15 else 8, v, 0)
    | .cas c => some (if wide then 14 else 9, v, c)
    | .read | .write => none

/-- An AtomicOp is performed at its home as ATOM (R206), which logs it as an update; none while the home cannot perform it. -/
def State.hostAtomic (s : State) (pa : Nat) (k : Nat) (b d : Dword) : Option State :=
  let s := s.settleHome (lineOf pa)
  let h := s.homeLine (lineOf pa)
  if h.pend ≠ [] ∨ h.excl.isSome ∨ s.gtc < max h.lmax h.lastTw then none
  else
    let n := atomWidth k
    let old := Memory.readNat s.mem pa n
    let t : State := { s with mem := Memory.writeNat s.mem pa n (atomNew k old (b.toNat % 2 ^ (8 * n)) (d.toNat % 2 ^ (8 * n))) }
    some (((t.fire (lineOf pa)).slog (lineOf pa) 1 h.cached 0x1FF 5).reply (leBytes old n))

/-- An access of len bytes to HBM: a load, or bytes of a burst or a line; offsets past its end read UR and discard writes. -/
def State.hbmAccess (s : State) (atomics : Bool) (op : HostOp) (off len v : Nat) : Option State :=
  if len = 0 then none
  else if hbmSize < off + len then some (match op with | .write => s | _ => s.unsupported)
  else match op with
    | .read => if s.linesOpen off len then some (s.hostRead off len) else none
    | .write => some (s.hostWrite off len v)
    | _ =>
      if !atomics then none
      else match hostAtom op len v with
        | some (k, b, d) => if off % len = 0 then s.hostAtomic off k b d else some s.unsupported
        | none => some s.unsupported

/-- BAR4_ACCESS. -/
def execBar4Access (op : HostOp) (off : BitVec 40) (len v : Nat) (s : State) : Host.Outcome State Fault Refusal :=
  match if s.pkg.reachable then s.noteQueues.hbmAccess true op off.toNat len v else none with
  | none => .fault .cannotHappen
  | some t => .next t.wake

/-- CXL_MEM_ACCESS: HBM as the HDM range of a CXL host. -/
def execCxlMemAccess (op : HostOp) (off : BitVec 40) (len v : Nat) (s : State) : Host.Outcome State Fault Refusal :=
  match if s.pkg.reachable && Config.strapCxl then s.noteQueues.hbmAccess false op off.toNat len v else none with
  | none => .fault .cannotHappen
  | some t => .next t.wake

/-- CONFIGURATION_REQUEST (R356, R368): no answer before bring-up step 5, Retry Status during a Function Level Reset, else an answer
whose data the manual does not lay out. -/
def execConfigurationRequest (s : State) : Host.Outcome State Fault Refusal :=
  if s.pkg.stage < 5 then .next { s with pkg := { s.pkg with reply := .none } }
  else if s.pkg.flr then .next { s with pkg := { s.pkg with reply := .retry } }
  else .next s.freeReply

/-! ## Link loss (R254, R354) -/

def inHost (pa : Nat) : Bool := target pa == .host

/-- Cached translations into host memory go, on every core. -/
def Core.dropHostPages (c : Core) : Core := { c with tlb := c.tlb.filter fun t => !inHost t.pa }

/-- Counters of host-resident pages are freed. -/
def Die.dropHostCounters (d : Die) : Die := { d with counters := d.counters.filter fun k => !inHost (k.page * 65536) }

/-- Host reads in flight will land marked lost (R221). -/
def Slot.loseHost (x : Slot) : Slot :=
  let m := maskOf fun L => x.todo.any fun l => l.lane == L && inHost l.pa
  if x.state = .inflight then { x with todo := x.todo.filter (fun l => !inHost l.pa), lost := x.lost ||| m } else x

/-- Updates that are discarded: those of host memory that are not performed. -/
def Update.hostStore (u : Update) : Bool := inHost u.pa && (match u.kind with | .atomic _ _ _ _ _ => false | _ => true)

/-- A discarded update carries a store of warp w of team h: its own, or, written back by any warp or by none, one of its writers' (R227). -/
def Update.storeOf (u : Update) (h w : Nat) : Bool :=
  match u.kind with
  | .masked _ => u.writers.contains (h, w)
  | _ => u.team == h && u.warp == w

/-- The warps of discarded updates note their lines (R227). -/
def State.noteLost (s : State) (us : List Update) : State :=
  s.mapWarps fun w => { w with lostLines := w.lostLines ++ ((us.filter fun u => u.storeOf w.team w.idx).map fun u => u.va &&& ~~~0x7F#64) }

/-- The dirty bytes of a host line that an L1 holds are gone; those of its warps note the line. -/
def L1Line.hostDirty (l : L1Line) : Bool := l.dirty != 0 && inHost (128 * l.line)

def State.noteLines (s : State) (ls : List L1Line) : State :=
  s.mapWarps fun w => { w with lostLines := w.lostLines ++ (ls.filter fun l => l.writers.contains (w.team, w.idx)).map (·.va) }

def Core.dropHostDirty (c : Core) : Core := { c with lines := c.lines.filter fun l => !l.hostDirty }

/-- Elements of reduction copies on their way to host memory are discarded: the forking warp notes the line, and the copy waits for them no
longer. -/
def State.dropContribution (s : State) (k : Contribution) : State :=
  let c := (s.teamOf k.team).copies.find? fun c => c.uid == k.copy
  let note (w : Warp) : Warp :=
    if c.any fun c => c.owner == w.uid then { w with lostLines := w.lostLines ++ [k.va &&& ~~~0x7F#64] } else w
  (s.onTeamWarps k.team note).returnTw k.team k.copy 0

def State.dropContributions (s : State) : State :=
  let t := (s.contributions.filter (·.host)).foldl State.dropContribution s
  { t with contributions := t.contributions.filter fun k => !k.host }

/-- Host stores that are not performed are discarded, those that a team holds or has ceased to hold, that an L1 keeps dirty or that a copy
contributes among them; an update whose tw GTC has reached is performed (R200). -/
def State.discardHost (s : State) : State :=
  let s := s.settleDue
  let us := (s.home.flatMap (·.pend)).filter Update.hostStore ++ s.allTeams.flatMap fun t => (t.out ++ t.held).filter Update.hostStore
  let s := (s.noteLost us).noteLines (((s.core :: s.cores).flatMap (·.lines)).filter L1Line.hostDirty)
  let s : State := { s with
    home := s.home.map fun h => { h with pend := h.pend.filter fun u => !(inHost u.pa) }
    core := s.core.dropHostDirty, cores := s.cores.map Core.dropHostDirty }
  (s.mapTeams fun t => { t with out := t.out.filter fun u => !u.hostStore, held := t.held.filter fun u => !u.hostStore }).dropContributions

/-- An ATOM or RED with a lane at the host that is not completed faults with HOSTLOST (R354). The host lanes that are left fault, and the lanes
above the first of them that have not begun (R176, R233). Those below it, and what is on its way to HBM, go on, and the fault is taken once
they are done. A copy whose elements are lost fails (R280), and what a departed warp has left at the host is dropped. -/
def State.loseAtom (s : State) (core : Nat) (op : AtomOp) : State :=
  match s.focusAtom core op.id with
  | none => s
  | some (s, op) =>
    match op.lanes.filter fun l => inHost l.pa with
    | [] => s
    | a :: _ =>
      if op.who ≠ 0 then
        match s.team.copies.find? fun c => c.uid == op.who with
        | some c => (s.dropAtom op.id).failCopy c a.va
        | none => s.dropAtom op.id
      else
        let goesOn (l : AtomLane) : Bool := !inHost l.pa && (l.begun || decide (l.lane < a.lane))
        let left := op.lanes.filter goesOn
        let m := maskOf fun L => op.lanes.any fun l => l.lane == L && !goesOn l
        if !left.isEmpty then s.setAtom { op with lanes := left, lost := if op.warp = anyWarp then none else some (m, a.va) }
        else if op.warp = anyWarp then s.dropAtom op.id
        else (s.partAtom op m).takeFault { code := Code.hostlost, lanes := m, addr := a.va } op.pc

def State.loseAtoms (s : State) : State :=
  let all := (s.core :: s.cores).flatMap fun c => c.atoms.map fun a => (c.num, a)
  (all.filter fun x => x.2.lanes.any fun l => inHost l.pa).foldl (fun s x => s.loseAtom x.1 x.2) s

/-- HOST_LINK_LOSS. -/
def execHostLinkLoss (s : State) : Host.Outcome State Fault Refusal :=
  if !s.pkg.linkUp then .fault .cannotHappen
  else
    let f := s.focusOf
    let s : State := { s with
      pkg := { s.pkg with linkLost := true, linkUp := false, width := 0 }
      core := s.core.dropHostPages, cores := s.cores.map Core.dropHostPages, dies := s.dies.map Die.dropHostCounters }
    let s := s.mapWarps fun w => { w with slots := w.slots.map Slot.loseHost }
    .next ((s.discardHost.loseAtoms).refocus f).wake

/-! ## Function Level Reset (R356) and power (R368, R369) -/

/-- The queue descriptors' EN bits are cleared; those that stand in HBM are zeroed with it. -/
def State.disableQueues (s : State) : State :=
  if inHost s.pkg.qtbl.toNat && !s.hostGone then
    (List.range 4096).foldl (fun s q => if (s.queueDesc q).en then
      { s with mem := Memory.write s.mem (s.queueAt q + 11) (Memory.read s.mem (s.queueAt q + 11) &&& 0x7F) } else s) s
  else s

/-- Memory without HBM. -/
def State.zeroHbm (s : State) : State := { s with mem := s.mem.filter fun c => decide (hbmSize ≤ c.1) }

/-- What no context outlives: every context with its teams, launches, queues, and all that is cached. The sparing map stays (R367). -/
def State.dropContexts (s : State) : State :=
  let keep (c : Core) : Core := { Core.blank c.num with takenOver := c.takenOver }
  { s with
    warp := { Warp.blank with gone := true }, team := Team.blank, core := keep s.core, ctx := Ctx.blank 0, launch := Launch.blank,
    warps := [], teams := [], cores := s.cores.map keep, ctxs := [], launches := [], dies := Vector.replicate 4 Die.blank, home := [],
    evicted := [], poison := [], contributions := [], switchEntries := [], deliveries := [] }

/-- What is left of a port without power: its part of the sparing map (R367). -/
def Port.unpowered (p : Port) : Port := { Port.blank with spared := p.spared }

/-- A port whose CSRs are reset and whose training state stays; flits of contexts that no longer exist are discarded. -/
def Port.flr (p : Port) : Port :=
  { p with rate := 0, lanethr := 64, replay := 0, accepted := [], times := [], laneErrs := [], streams := [], owed := [] }

/-- The contexts that something has configured. -/
def State.contexts (s : State) : List Nat := ((s.ctx :: s.ctxs).filter fun c => c != Ctx.blank c.id).map (·.id)

/-- The context of a flit was ended by a Function Level Reset, and has not been configured since. -/
def State.vanished (s : State) (c : Nat) : Bool := s.pkg.vanished.contains c && s.ctxOf c == Ctx.blank c

/-- FUNCTION_LEVEL_RESET: its four steps; it is under way until it ends, within 100 ms. GTCL and GTCH are CSRs too, so that GTC starts again
(DEDUCED: log 92), and the service teams start anew (log 88). The numbers of the park records go on, which start again at package reset alone
(R393). -/
def execFunctionLevelReset (s : State) : Host.Outcome State Fault Refusal :=
  if !s.pkg.reachable then .fault .cannotHappen
  else
    let gone := (s.contexts ++ s.pkg.vanished).dedup
    let seq := s.dies.map (·.parkSeq)
    let s := (s.disableQueues.zeroHbm).dropContexts
    let s := ({ s with dies := s.dies.zipWith (fun d n => { d with parkSeq := n }) seq } : State).enterServices
    .next { s with gtc := 0, pkg := { Pkg.blank with
      linkUp := s.pkg.linkUp, width := s.pkg.width, clock := s.pkg.clock, stage := s.pkg.stage, d3hot := s.pkg.d3hot, flr := true
      vanished := gone, slices := s.pkg.slices, channels := s.pkg.channels
      ports := s.pkg.ports.map Port.flr } }

/-- The Function Level Reset under way ends. -/
def State.endReset (s : State) : State := { s with pkg := { s.pkg with flr := false } }

/-- The rates of Norozlink ports at bring-up step 6. -/
def Port.bringUp (p : Port) : Port := if p.rate = 3 then { p with cur := 3, lanes := 0 } else { p.train with cur := p.rate }

/-- Failed units of a list, as die or stack and number, enter a part of the sparing map in which each die or stack has n spares. -/
def addSpares (n : Nat) (map failed : List (Nat × Nat)) : List (Nat × Nat) :=
  failed.foldl (fun m x => if m.contains x ∨ n ≤ (m.filter fun y => y.1 == x.1).length then m else m ++ [x]) map

/-- Package reset (Table 24-7): spares take over the L2 home slices and the HBM pseudo-channels that have failed since the reset before
(bring-up step 1 stands for it; DESIGN CHOICE: log 110). The spare takes the failed one's place, so that no address maps otherwise. -/
def State.spareUnits (s : State) : State :=
  { s with
    free := s.free + 1
    pkg := { s.pkg with
      slices := addSpares 4 s.pkg.slices (Config.failedSlices s.free)
      channels := addSpares 1 s.pkg.channels (Config.failedChannels s.free) } }

/-- POWER_ON_BRING_UP: the next step of Table 24-8; step 5 is HOST_PORT_TRAIN. -/
def execPowerOnBringUp (s : State) : Host.Outcome State Fault Refusal :=
  let go (s : State) : Host.Outcome State Fault Refusal := .next { s with pkg := { s.pkg with stage := s.pkg.stage + 1 } }
  match s.pkg.stage with
  | 0 => go s.spareUnits
  | 2 => go s
  | 3 => go s.enterServices
  | 1 => go s.zeroHbm
  | 5 => go { s with pkg := { s.pkg with ports := s.pkg.ports.map Port.bringUp } }
  | _ => .fault .cannotHappen

/-- The widths of the link (Table 24-1): x2 only as L0p of a PCIe link that is up. -/
def Pkg.widthOk (p : Pkg) (w : BitVec 5) : Bool :=
  w == 16 || w == 8 || (!Config.strapCxl && (w == 4 || (w == 2 && p.linkUp)))

/-- HOST_PORT_TRAIN (R351): the host port trains, or changes the lanes in use. -/
def execHostPortTrain (width : BitVec 5) (s : State) : Host.Outcome State Fault Refusal :=
  if s.pkg.stage < 4 ∨ !s.pkg.widthOk width then .fault .cannotHappen
  else .next ({ s with pkg := { s.pkg with linkUp := true, width := width, stage := max s.pkg.stage 5 } } : State).wake

/-- D3HOT_ENTRY (R369): every team is preempted, those in which PREEMPT may not be raised yet once it may; admission stops. -/
def execD3hotEntry (s : State) : Host.Outcome State Fault Refusal :=
  if s.pkg.d3hot || decide (s.pkg.stage < 5) then .fault .cannotHappen
  else
    let hs := (s.allTeams.filter fun t => t.life == .resident && !t.service).map (·.handle)
    let t := hs.foldl (fun s h => if (s.teamOf h).life = .resident then (s.preemptGroups [h]).getD s else s) s
    .next ({ t with pkg := { t.pkg with d3hot := true } } : State).wake

/-- D0_RETURN (R369): admission and placement go on, and with them the preempted teams. -/
def execD0Return (s : State) : Host.Outcome State Fault Refusal :=
  if s.pkg.d3hot then .next ({ s with pkg := { s.pkg with d3hot := false } } : State).wake else .fault .cannotHappen

/-- POWER_REMOVAL (R369): every context is lost; the package is as before bring-up, with its sparing map. -/
def execPowerRemoval (s : State) : Host.Outcome State Fault Refusal :=
  .next { (s.zeroHbm).dropContexts with
    gtc := 0
    pkg := { Pkg.blank with slices := s.pkg.slices, channels := s.pkg.channels, ports := s.pkg.ports.map Port.unpowered } }

/-- CLOCK_STEP (R369): 50 MHz down to 300 MHz, or up to 1.05 GHz. -/
def execClockStep (up : Bool) (s : State) : Host.Outcome State Fault Refusal :=
  let c := s.pkg.clock
  let steps := (s.gtc, c) :: s.pkg.steps
  if up then (if c + 50 ≤ 1050 then .next { s with pkg := { s.pkg with clock := c + 50, steps := steps } } else .fault .cannotHappen)
  else if 350 ≤ c then .next { s with pkg := { s.pkg with clock := c - 50, steps := steps } } else .fault .cannotHappen

/-- SPARE_CORE_TAKEOVER (R4, R367): one of a die's three spares takes over a core on which no team is resident. What the failed core
had cached is lost with it. -/
def execSpareCoreTakeover (core : Nat) (s : State) : Host.Outcome State Fault Refusal :=
  let used := ((s.core :: s.cores).filter fun c => c.takenOver && c.num / 96 == core / 96).length
  if 384 ≤ core ∨ (s.coreTeams core) ≠ [] ∨ (s.coreOf core).takenOver ∨ 3 ≤ used then .fault .cannotHappen
  else .next (s.putCore { Core.blank core with takenOver := true }).wake

/-! ## Norozlink (R214, R357 to R361) -/

def State.port (s : State) (n : Nat) : Port := look s.pkg.ports Port.blank n

def State.setPort (s : State) (n : Nat) (p : Port) : State := { s with pkg := s.pkg.setPort n p }

/-- FLIT_RECEIVE. -/
def execFlitReceive (port : BitVec 4) (flit : BitVec 2048) (s : State) : Host.Outcome State Fault Refusal :=
  let p := s.port port.toNat
  if p.cur = 3 then .fault .cannotHappen
  else
    let lane (i : Nat) : Nat := (Config.freeDword (s.free + i)).toNat % 9
    .next (({ s with free := s.free + 8 } : State).setPort port.toNat (p.receive flit lane s.gtc)).wake

/-- NAK_REPLAY: a NAK asks for every flit from ACK + 1. -/
def execNakReplay (port : BitVec 4) (ack : BitVec 8) (s : State) : Host.Outcome State Fault Refusal :=
  let p := s.port port.toNat
  if p.cur = 3 then .fault .cannotHappen else .next (s.setPort port.toNat (p.replayFrom ack s.gtc)).wake

/-- PORT_RETRAIN_ON_REPLAYS. -/
def execPortRetrainOnReplays (port : BitVec 4) (s : State) : Host.Outcome State Fault Refusal :=
  let p := s.port port.toNat
  if p.cur ≠ 3 ∧ 8 ≤ (p.times.filter fun t => decide (s.gtc < t + oneMs)).length then .next (s.setPort port.toNat p.lower).wake
  else .fault .cannotHappen

/-- RETRAINING_COMPLETE. -/
def execRetrainingComplete (port : BitVec 4) (s : State) : Host.Outcome State Fault Refusal :=
  let p := s.port port.toNat
  if p.retraining then .next (s.setPort port.toNat p.train).wake else .fault .cannotHappen

/-- An update arrives at its home, which performs it no earlier than a time (R214, R361). -/
def State.arriveAfter (s : State) (after : Nat) (u : Update) : State × Nat := s.arrive { u with tw := after }

/-- Bytes that a Norozlink stream writes arrive at their homes and are performed in the order sent, none before a time; the tw of the
last. -/
def State.streamWrite (s : State) (after : Nat) (l : List (Nat × Byte)) : State × Nat :=
  (l.filter fun x => target x.1 == .hbm).foldl (fun (p : State × Nat) x => p.1.arriveAfter p.2 { unitUpdate 0 0 x.1 [x.2] with asker := 6 }) (s, after)

/-- A RED of another package arrives at its home, as a store does (R360). -/
def State.streamRed (s : State) (after : Nat) (x : Nat × Nat × Dword) : State × Nat :=
  if target x.2.1 = .hbm then s.arriveAfter after { unitUpdate 0 0 x.2.1 [] with kind := .red x.1 x.2.2, asker := 6 } else (s, after)

/-- What a write flit writes before its completion word, if it carries one: a RED, or bytes. -/
def State.streamData (s : State) (after : Nat) (payload : BitVec 1792) : State × Nat :=
  match Config.norozlinkRed payload with
  | some x => s.streamRed after x
  | none => s.streamWrite after (Config.norozlinkBytes payload)

/-- The addresses at which a write flit writes. -/
def flitWrites (payload : BitVec 1792) : List Nat :=
  (match Config.norozlinkRed payload with
    | some x => [x.2.1]
    | none => (Config.norozlinkBytes payload).map (·.1)) ++ (Config.norozlinkLast payload).map (·.1)

/-- An ATOM of another package arrives at its home. -/
def State.streamAtomic (s : State) (after : Nat) (x : Nat × Nat × Dword × Dword) : State × Nat :=
  if target x.2.1 = .hbm then
    s.arriveAfter after { unitUpdate 0 0 x.2.1 [] with kind := .atomic (x.1 % 16) x.2.2.1 x.2.2.2 0 0, asker := 6 }
  else (s, after)

/-- A load of another package is performed at its home. -/
def State.streamRead (s : State) (x : Nat × Nat) : State :=
  if decide (x.1 + x.2 ≤ hbmSize) then (s.getBytes x.1 x.2).1.logReads x.1 x.2 6 else s

/-- A flit whose payload is not laid out is sent on a port: its type, context and stream (log 6). -/
def State.sendFlit (s : State) (port kind ctx stream : Nat) : State :=
  let any (i : Nat) : Dword := Config.freeDword (s.free + i)
  let payload := (List.range 28).flatMap fun i => word8 (any (i + 1)).toNat
  let p := (s.port port).send kind ctx stream (any 0).toNat payload
  ({ s with free := s.free + 29 } : State).setPort port p

/-- The answers that a port owes and may send are sent, while it can send; n bounds their number. -/
def State.sendOwed (s : State) (port : Nat) : Nat → State
  | 0 => s
  | n + 1 =>
    let p := s.port port
    match p.owed with
    | (due, kind, ctx, stream) :: rest =>
      if due ≤ s.gtc ∧ p.canSend then ((s.setPort port { p with owed := rest }).sendFlit port kind ctx stream).sendOwed port n else s
    | [] => s

/-- What a flit asks for is carried out, after all that its stream has asked for before; the type of its answer, and the GTC from which that
may be sent (R214, R360, R361). What its payload says is not laid out (log 6). -/
def State.carryOut (s : State) (a : Accepted) (after : Nat) : State × Nat × Nat :=
  if a.kind = 2 then (s.streamRead (Config.norozlinkRead a.payload), 3, s.gtc)
  else if a.kind = 4 then let r := s.streamAtomic after (Config.norozlinkAtomic a.payload); (r.1, 5, r.2)
  else
    let r := s.streamData after a.payload
    let q := r.1.streamWrite r.2 (Config.norozlinkLast a.payload)
    (q.1, 5, q.2)

/-- The homes answer for every line on which a flit acts: none is under an exclusive lease, which would give its updates a later tw (R206, R214,
R361). -/
def State.flitOpen (s : State) (a : Accepted) : Bool :=
  if a.kind = 2 then s.linesOpen (Config.norozlinkRead a.payload).1 (Config.norozlinkRead a.payload).2
  else if a.kind = 4 then !s.lineHeld (lineOf (Config.norozlinkAtomic a.payload).2.1)
  else (flitWrites a.payload).all fun pa => !s.lineHeld (lineOf pa)

/-- A port sends answers that it owes and may send. -/
def sendAnswers (n : Nat) (s : State) : Host.Outcome State Fault Refusal :=
  let p := s.port n
  let t := s.sendOwed n p.owed.length
  if (t.port n).owed.length < p.owed.length then .next t.wake else .fault .cannotHappen

/-- NOROZLINK_RECEIVE_WRITE: the oldest accepted flit of a port is carried out, unless a line on which it acts is under an exclusive lease, and
the port sends the answers that it owes and may send. A flit of a context that a Function Level Reset has ended is discarded (R356). -/
def execNorozlinkReceiveWrite (port : BitVec 4) (s : State) : Host.Outcome State Fault Refusal :=
  let n := port.toNat
  let p := s.port n
  match p.accepted with
  | [] => sendAnswers n s
  | a :: rest =>
    let q := s
    let s := s.setPort n { p with accepted := rest }
    if s.vanished a.ctx then .next s.wake
    else if !s.flitOpen a then sendAnswers n q
    else
      let after := ((p.streams.find? fun x => x.1 == a.stream).map (·.2)).getD 0
      let r := s.carryOut a after
      let q := r.1.port n
      let last := if a.kind = 2 then after else r.2.2
      let t := r.1.setPort n { q with
        streams := (a.stream, last) :: q.streams.filter fun x => x.1 != a.stream
        owed := q.owed ++ [(r.2.2, r.2.1, a.ctx, a.stream)] }
      .next (t.sendOwed n (q.owed.length + 1)).wake

/-! ## The peer window (R360) -/

def State.dropPeer (s : State) (id : Nat) : State := { s with pkg := { s.pkg with peers := s.pkg.peers.filter fun p => p.id != id } }

/-- The flit type of an access. -/
def PeerWhat.kind : PeerWhat → Nat
  | .load _ => 2
  | .update _ | .report _ _ _ _ _ => 1
  | .atomic _ _ _ => 4

/-- The context of an access: that of its update, or else that of its team. -/
def State.peerCtx (s : State) (o : PeerOp) : Nat :=
  (o.update?.map (·.ctx)).getD (s.teamOf o.team).ctx

/-- The line that the peer answers a load of the window with. -/
def lineOfBits (v : BitVec 1024) : Vector Byte 128 := ⟨((List.range 128).map fun i => v.extractLsb' (8 * i) 8).toArray, by simp⟩

/-- The line of a load of the peer window arrives: every lane of its slot that still waits for it takes its bytes from it (R202), under the
stores that the core keeps (R201). -/
def State.peerLine (s : State) (o : PeerOp) (slot : Nat) (v : BitVec 1024) : State :=
  match s.focusOn o.team o.warp with
  | none => s
  | some s =>
    let line := lineOf o.pa
    if ((s.warp.land slot).on line).isEmpty then s
    else
      let r := s.fillFrom line o.va (s.rat s.ctx o.va) (lineOfBits v)
      r.1.landLine slot line r.2

/-- An access of the window is the next of its warp to a line: none of an earlier one is still to be sent, and an earlier ATOM or RED of the
warp has been performed before a load (R200, R203, R8). -/
def State.peerTurn (s : State) (o : PeerOp) : Bool :=
  (s.pkg.peers.all fun p => p.sent || p.core != o.core || p.team != o.team || p.warp != o.warp || lineOf p.pa != lineOf o.pa || decide (o.id ≤ p.id)) &&
  (match o.what with
    | .load _ => !s.owes o.team o.warp o.id (· == lineOf o.pa)
    | _ => true)

/-- PEER_WINDOW_ACCESS: an access is sent to the peer and performed there; v is what the peer's home answers: the line of a load, or the old
value of an ATOM. A store or RED waits for its acknowledgement. -/
def execPeerWindowAccess (id : Nat) (v : BitVec 1024) (s : State) : Host.Outcome State Fault Refusal :=
  match s.pkg.peers.find? fun p => p.id == id && !p.sent with
  | none => .fault .cannotHappen
  | some o =>
    if !(s.port o.port).canSend || !s.peerTurn o then .fault .cannotHappen
    else
      let stream := (Config.freeDword s.free).toNat
      let s := ({ s with free := s.free + 1 } : State).sendFlit o.port o.what.kind (s.peerCtx o) stream
      match o.what with
      | .load slot => .next ((s.dropPeer id).peerLine o slot v).wake
      | .atomic op lane wide => .next ((s.atomAnswer op lane (v.toNat % 2 ^ (if wide then 64 else 32))).dropPeer id).wake
      | .update _ | .report _ _ _ _ _ => .next { s with pkg := { s.pkg with peers := s.pkg.peers.map fun (x : PeerOp) => if x.id = id then { x with sent := true } else x } }.wake

/-- PEER_ACK: the acknowledgement of a store or RED gives it its tw (R360), which its warp or its operation takes; a copy's element has then
been performed (R275). The acknowledgement of a completion record has its event posted (R215). -/
def execPeerAck (id : Nat) (s : State) : Host.Outcome State Fault Refusal :=
  match s.pkg.peers.find? fun p => p.id == id && p.sent with
  | none => .fault .cannotHappen
  | some o => match o.what with
    | .update u =>
      let s := s.dropPeer id
      .next (if !u.copies.isEmpty then u.copies.foldl (fun s c => s.returnTw c.1 c.2 s.gtc) s
        else if u.who ≠ 0 ∧ u.isRed then s.returnTw u.team u.who s.gtc else s.foldTw u s.gtc).wake
    | .report _ ctx code name compl => .next ((s.dropPeer id).postEvent ctx 1 code name compl 0).wake
    | _ => .next (s.dropPeer id).wake

/-! ## Sample records (R376) -/

/-- A sample record (Table 25-3); the times that the request spent queued at the hops that it has passed are free values. -/
def sampleRecord (m : Mark) (core : Nat) (any : Nat → Nat) : List Byte :=
  let at' (passed : Bool) (i : Nat) : Nat := if passed then any i else 0
  word8 m.origin.pc.toNat ++ (List.range 4).flatMap (fun i => word4 (m.origin.rgn.getD i 0).toNat) ++ word8 m.line.toNat ++
    word4 (m.ctx + 2 ^ 16 * core + 2 ^ 25 * m.origin.warp) ++ word4 m.origin.opcode ++ word4 (any 0 + 2 ^ 16 * at' m.switch 1) ++
    word4 (at' m.link 2 + 2 ^ 16 * at' m.slice 3) ++ word4 (at' m.memory 4) ++ word4 0 ++ word8 m.origin.gtc

/-- The data of a marked request has returned, or its update has its tw: nothing of its team that was on its way when it was sent is still
waiting at the line, with no tw yet, with the peer, or at a combining switch. -/
def State.returned (s : State) (m : Mark) : Bool :=
  match m.pa with
  | none => true
  | some line =>
    let early (n : Nat) : Bool := decide (n < m.sent)
    !((s.teamWarps m.team).any fun w => w.slots.toList.any fun x => early x.order && !(x.on line).isEmpty) &&
    !(s.lineHeld line && (s.homeLine line).pend.any fun u => u.team == m.team && early u.uid) &&
    !(s.pkg.peers.any fun p => p.team == m.team && early p.id && lineOf p.pa == line) &&
    !((s.core :: s.cores).any fun c => c.atoms.any fun a => a.team == m.team && early a.id && a.lanes.any fun l => lineOf l.pa == line) &&
    !(((s.teamOf m.team).out ++ (s.teamOf m.team).held).any fun u => early u.uid && lineOf u.pa == line) &&
    !(m.switch && ((s.contributions.any fun c => c.team == m.team && c.line == line) ||
      s.switchEntries.any fun e => e.line == line && e.copies.any fun c => c.1 == m.team))

/-- SAMPLE_RECORD: the oldest marked request of a core that has returned is recorded. -/
def execSampleRecord (core : Nat) (s : State) : Host.Outcome State Fault Refusal :=
  let c := s.coreOf core
  match c.marks.find? s.returned with
  | none => .fault .cannotHappen
  | some m =>
    let s := s.putCore { c with marks := c.marks.erase m }
    let d := dieOfCore core
    let die := s.dieAt d
    if !die.smpq.room || (die.smpq.inHost && s.hostGone) then .next (s.setDie d { die with smpdrop := saturate32 die.smpdrop }).wake
    else
      let any (i : Nat) : Nat := (Config.freeDword (s.free + i)).toNat % 2 ^ 16
      let s : State := { s with free := s.free + 5 }
      let r := s.postTo die.smpq (sampleRecord m core any)
      .next (r.1.setDie d { r.1.dieAt d with smpq := r.2 }).wake

end Sys2Proof.Machine
end

