-- ==== Sys2Proof/Machine/Trace.lean ====
section
/-! DEFINITION. The traversal engine: wedge nodes (R322, R323), rays, boxes and triangles (R324, R325), hit records (R326, R327),
TRACE (R328, R329) and REGROUP (R330 to R332). -/

namespace Sys2Proof.Machine

/-! ## Arithmetic of R325 -/

def f32 (x : Nat) : FVal := (fmt .fp32).decode x

/-- A value rounded to a format; an invalid operation is NaN. -/
def roundAs (t : Tag) (mode : Nat) (x : Option FVal) : FVal :=
  match x with
  | none => .nan
  | some v => (fmt t).decode ((fmt t).round mode v).1

def rne32 (x : Option FVal) : FVal := roundAs .fp32 0 x

def rne64 (x : Option FVal) : FVal := roundAs .fp64 0 x

def fsum (a b : FVal) : Option FVal := FVal.add 0 a b

def fdiff (a b : FVal) : Option FVal := FVal.add 0 a b.neg

def fquot (a b : FVal) : Option FVal := some (FVal.div a b).1

def FVal.below (a b : FVal) : Bool := FVal.lt false a b

/-- a ≤ b; false where one is NaN. -/
def FVal.le (a b : FVal) : Bool := !a.isNan && !b.isNan && !b.below a

def FVal.isZero : FVal → Bool
  | .num _ m _ _ => m == 0
  | _ => false

def fzero : FVal := FVal.zero false

def FVal.abs : FVal → FVal
  | .nan => .nan
  | .inf _ => .inf false
  | .num _ m e s => .num false m e s

def fmax (a b : FVal) : FVal := if a.below b then b else a

def fmin (a b : FVal) : FVal := if b.below a then b else a

/-! ## Nodes -/

/-- The little-endian number of n bytes of a node from an offset on. -/
def nodeNat (d : List Byte) (off n : Nat) : Nat := leNat ((d.drop off).take n)

def signed8 (x : Nat) : Int := if 128 ≤ x then (x : Int) - 256 else x

/-- The scale exponent of axis a of an interior node. -/
def nodeExp (d : List Byte) (a : Nat) : Int := signed8 (nodeNat d (0x0C + a) 1)

/-- QLO (hi false) or QHI of child c on axis a. -/
def nodeQ (d : List Byte) (c a : Nat) (hi : Bool) : Nat := nodeNat d (0x18 + 6 * c + a + if hi then 3 else 0) 1

def nodeKind (d : List Byte) : Nat := nodeNat d 0x0F 1

def nodeValid (d : List Byte) (c : Nat) : Bool := (nodeNat d 0x14 4).testBit c

/-- R323. -/
def malformed (d : List Byte) : Bool :=
  if nodeKind d = 0 then
    nodeNat d 0x14 4 / 16 != 0 || nodeNat d 0x30 16 != 0 ||
      ((List.range 3).any fun a => decide (nodeExp d a < -126)) ||
      (List.range 4).any fun c => nodeValid d c && (List.range 3).any fun a => decide (nodeQ d c a true < nodeQ d c a false)
  else if nodeKind d = 1 then !([1, 2].contains (nodeNat d 0x0C 1)) || nodeNat d 0x0D 2 != 0
  else true

/-! ## Rays -/

/-- The eight ray registers of one lane (Table 22-4): origin, tmin, direction, tmax. -/
structure Ray where
  o : List FVal
  d : List FVal
  tmin : FVal
  tmax : FVal

def Ray.org (r : Ray) (a : Nat) : FVal := r.o.getD a .nan

def Ray.dir (r : Ray) (a : Nat) : FVal := r.d.getD a .nan

def TraceJob.ray (j : TraceJob) (L : Nat) : Ray :=
  let x (k : Nat) : FVal := f32 (lane (j.rays.getD k (splat 0)) L).toNat
  { o := [x 0, x 1, x 2], tmin := x 3, d := [x 4, x 5, x 6], tmax := x 7 }

/-- A lane that misses at once (R324). -/
def Ray.misses (r : Ray) : Bool :=
  (r.o ++ r.d ++ [r.tmin, r.tmax]).any FVal.isNan || r.d.all FVal.isZero || r.tmax.below r.tmin

/-! ## Boxes -/

/-- lo or hi of child c on axis a (R325 step 1). -/
def childBound (d : List Byte) (c a : Nat) (hi : Bool) : FVal :=
  roundAs .fp32 (if hi then 2 else 3)
    (FVal.add 0 (f32 (nodeNat d (4 * a) 4)) (.num false (nodeQ d c a hi) (nodeExp d a) false))

/-- The lower and upper t-value of one axis, rounded outward in FP32; one that is no number bounds nothing (R325 step 2; DEDUCED:
log 21). -/
def slab (lo hi o d : FVal) : Option (FVal × FVal) :=
  if d.isZero then (if lo.le o && o.le hi then some (.inf true, .inf false) else none)
  else
    let t (mode : Nat) (b : FVal) : FVal := roundAs .fp32 mode ((fdiff b o).bind fun x => fquot x d)
    let l := [t 3 lo, t 3 hi]
    let u := [t 2 lo, t 2 hi]
    if (l ++ u).any FVal.isNan then some (.inf true, .inf false)
    else some (fmin (l.getD 0 .nan) (l.getD 1 .nan), fmax (u.getD 0 .nan) (u.getD 1 .nan))

/-- The entry of a child that is entered. -/
def Ray.enters (r : Ray) (d : List Byte) (c : Nat) (tbest : FVal) : Option FVal :=
  let axes := (List.range 3).map fun a => slab (childBound d c a false) (childBound d c a true) (r.org a) (r.dir a)
  if axes.any Option.isNone then none
  else
    let xs := axes.filterMap id
    let entry := (xs.map (·.1)).foldl fmax r.tmin
    let exit := (xs.map (·.2)).foldl fmin tbest
    if entry.le exit then some entry else none

/-- The entered children in visiting order: ascending entry, the lower child first (R325 step 3). -/
def Ray.children (r : Ray) (d : List Byte) (tbest : FVal) : List (Nat × FVal) :=
  let es := (List.range 4).filterMap fun c =>
    if nodeValid d c then (r.enters d c tbest).map fun e => (nodeNat d 0x10 4 + c, e) else none
  sortBy (fun a b => !b.2.below a.2) es

/-! ## Triangles -/

/-- Vertices A, B and C of triangle t of a leaf (R325 step 4). -/
def triangle (d : List Byte) (t : Nat) : List (List FVal) :=
  let b := 0x10 + 24 * t
  let v0 := (List.range 3).map fun a => f32 (nodeNat d (b + 4 * a) 4)
  let edge (off : Nat) : List FVal := (List.range 3).map fun a => (fmt .fp16).decode (nodeNat d (b + off + 2 * a) 2)
  let move (e : List FVal) : List FVal := (v0.zip e).map fun p => rne32 (fsum p.1 p.2)
  [v0, move (edge 12), move (edge 18)]

/-- A hit: the distance and the encodings of u and v. -/
structure Hit where
  th : FVal
  thBits : Nat
  u : Nat
  v : Nat

/-- The axis of largest |d|, the lowest on a tie. -/
def Ray.kz (r : Ray) : Nat :=
  (List.range 3).foldl (fun k a => if (r.dir k).abs.below (r.dir a).abs then a else k) 0

/-- The triangle test of R325 step 4. -/
def Ray.test (r : Ray) (tri : List (List FVal)) (tbest : FVal) : Option Hit :=
  let kz := r.kz
  let x0 := (kz + 1) % 3
  let y0 := (x0 + 1) % 3
  let swap := (r.dir kz).below fzero
  let kx := if swap then y0 else x0
  let ky := if swap then x0 else y0
  let sx := rne32 (fquot (r.dir kx) (r.dir kz))
  let sy := rne32 (fquot (r.dir ky) (r.dir kz))
  let sz := rne32 (fquot (f32 0x3F800000) (r.dir kz))
  let pts := tri.map fun p =>
    let q (a : Nat) : FVal := rne32 (fdiff (p.getD a .nan) (r.org a))
    (rne32 (fdiff (q kx) (rne32 (sx.mul (q kz)))), rne32 (fdiff (q ky) (rne32 (sy.mul (q kz)))), rne32 (sz.mul (q kz)))
  let pt (n : Nat) : FVal × FVal × FVal := pts.getD n (.nan, .nan, .nan)
  let a := pt 0
  let b := pt 1
  let c := pt 2
  let cross (w x y z : FVal) : FVal := rne64 ((w.mul x).bind fun m => (y.mul z).bind fun n => fdiff m n)
  let u := cross c.1 b.2.1 c.2.1 b.1
  let v := cross a.1 c.2.1 a.2.1 c.1
  let w := cross b.1 a.2.1 b.2.1 a.1
  if [u, v, w].any (fun x => x.below fzero) && [u, v, w].any (fun x => fzero.below x) then none
  else
    let det := rne64 (fsum (rne64 (fsum u v)) w)
    if det.isZero then none
    else
      let t := rne64 (fsum (rne64 (fsum (rne64 (u.mul a.2.2)) (rne64 (v.mul b.2.2)))) (rne64 (w.mul c.2.2)))
      let bits := ((fmt .fp32).round 0 (FVal.div t det).1).1
      let th := f32 bits
      if th.isNan || !(r.tmin.le th && th.le tbest) then none
      else
        let weight (x : FVal) : Nat := ((fmt .fp16).round 0 (FVal.div x det).1).1
        some { th := th, thBits := bits, u := weight v, v := weight w }

/-! ## The walk -/

/-- The best hit of a lane: its leaf, its triangle, its ids. -/
structure Best where
  hit : Hit
  leaf : Nat
  t : Nat
  shader : Nat
  prim : Nat

/-- What a lane's walk comes to: its record. -/
inductive WalkEnd where
  | done (b : Option Best)
  | error (code : BitVec 16)

/-- The triangles of a leaf, in order; the answer tells whether the walk ends (R325 steps 5 and 6). -/
def Ray.leaf (r : Ray) (any : Bool) (d : List Byte) (x : Nat) (b : Option Best) : Option Best × Bool :=
  (List.range (nodeNat d 0x0C 1)).foldl (fun p t =>
    if p.2 then p
    else
      let tbest := (p.1.map fun y => y.hit.th).getD r.tmax
      match r.test (triangle d t) tbest with
      | none => p
      | some h =>
        let new : Best := { hit := h, leaf := x, t := t, shader := nodeNat d (2 * t) 2, prim := nodeNat d (4 + 4 * t) 4 }
        let better := match p.1 with
          | none => true
          | some y => h.th.below y.hit.th || decide (x < y.leaf) || (x == y.leaf && decide (t < y.t))
        (if better then some new else p.1, any)) (b, false)

/-- The distance beyond which a walk takes no hit: that of its best hit, or tmax. -/
def Ray.tbest (r : Ray) (b : Option Best) : FVal := (b.map fun y => y.hit.th).getD r.tmax

/-- The pending nodes of a walk, those that lie beyond its best hit by now dropped without a visit. -/
def Ray.pending (r : Ray) (b : Option Best) (l : List (Nat × FVal)) : List (Nat × FVal) := l.dropWhile fun p => (r.tbest b).below p.2

/-- The walk of one lane from a list of pending nodes with their entries (R325, R327). none while a node cannot be read. fuel
bounds the nodes it visits. -/
def State.walkNodes (root : BitVec 64) (any : Bool) (g : Origin) (r : Ray) :
    Nat → State → List (Nat × FVal) → Option Best → Option (State × WalkEnd)
  | 0, s, l, b => match r.pending b l with
    | [] => some (s, .done b)
    | _ => some (s, .error Code.illegal)
  | fuel + 1, s, l, b => match r.pending b l with
    | [] => some (s, .done b)
    | (x, _) :: rest =>
    let tbest := r.tbest b
    if 192 < rest.length then some (s, .error Code.illegal)
    else
      let ps := pieces (root + BitVec.ofNat 64 (64 * x)) 64
      match s.fetchFault .load (ps.map (·.1)) 3 with
      | some f => some (s, .error f.1)
      | none =>
        if s.fetchStalls .load (ps.map (·.1)) 3 then none
        else match (s.sampleFor g .load (ps.map (·.1))).engineRead 3 ps with
          | none => none
          | some (s, d) =>
            if malformed d then some (s, .error Code.illegal)
            else if nodeKind d = 0 then walkNodes root any g r fuel s (r.children d tbest ++ rest) b
            else
              let y := r.leaf any d x b
              if y.2 then some (s, .done y.1) else walkNodes root any g r fuel s rest y.1

/-- The nodes a walk may visit (R325 step 7). -/
def walkLimit : Nat := 2 ^ 20

/-- The four words of a hit record (Table 22-5). -/
def WalkEnd.record : WalkEnd → List Word
  | .done none => [0x7F800000, 0, 0, 0]
  | .error c => [0x7F800000, 0, 0x40000, c.setWidth 32]
  | .done (some b) =>
    [BitVec.ofNat 32 b.hit.thBits, BitVec.ofNat 32 (b.hit.u + 2 ^ 16 * b.hit.v),
      BitVec.ofNat 32 (b.shader + 2 ^ 16 * b.t + 2 ^ 17), BitVec.ofNat 32 b.prim]

/-- The walk of lane L and the landing of its record in slot k. -/
def State.traceLane (s : State) (j : TraceJob) (k L : Nat) : Option State :=
  let r := j.ray L
  let out := if r.misses then some (s, WalkEnd.done none) else State.walkNodes j.root j.any j.origin r walkLimit s [(0, r.tmin)] none
  out.map fun p =>
    let x := (p.1.warp.land k).put L ((p.2.record).flatMap fun w => word4 w.toNat)
    { p.1 with warp := p.1.warp.setSlot k x }

/-- TRACE_LANDING: the walks of a TRACE finish, and its slot becomes LANDED. They begin once what the TRACE comes after has been performed,
so that they observe it (R8, R329). -/
def execTraceLanding (h w : Nat) (slot : BitVec 4) (s : State) : Host.Outcome State Fault Refusal :=
  match s.focusOn h w with
  | none => .fault .cannotHappen
  | some s =>
    let k := slot.toNat
    let x := s.warp.land k
    match x.trace with
    | none => .fault .cannotHappen
    | some j =>
      if x.state ≠ .inflight ∨ x.kind ≠ .trace ∨ s.forkSeen h w s.warp.uid x.order = false then .fault .cannotHappen
      else match (maskLanes x.mask).foldl (fun s L => s.bind fun s => s.traceLane j k L) (some (s.useRat s.ctx)) with
        | none => .fault .cannotHappen
        | some s => .next ({ s with
            warp := s.warp.setSlot k { s.warp.land k with state := .landed, trace := none }
            ctx := { s.ctx with lastBusy := s.gtc } } : State).wake

/-! ## TRACE -/

/-- The walks of a TRACE into slot k begin (R329). -/
def State.forkTrace (s : State) (a b : VOp) (any root : BitVec 1) (k : Nat) : State :=
  let t := s.landing k .trace ((List.range 4).map fun j => s.place b j) []
  let job : TraceJob :=
    { root := if root = 1 then s.team.trroot1 else s.team.trroot0, any := any == 1, rays := (List.range 8).map fun j => s.vec a j,
      origin := s.originOf 0x7D }
  { t with warp := { t.warp.setSlot k { t.warp.land k with trace := some job } with trslot := t.warp.trslot ||| (1#16 <<< k) } }

/-- TRACE. -/
def execTrace (a b : VOp) (any root : BitVec 1) (k : BitVec 4) (s : State) : Host.Outcome State Fault Refusal :=
  s.issueNext
    (fun s => { legal := (Instr.trace a b any root k).wellFormed, srcs := [{ op := a, count := 8 }], dsts := [{ op := b, count := 4 }],
                slot := some k.toNat, tagsOk := (List.range 8).all fun j => s.srcTag a j == some .fp32 })
    (fun s => (s.forkTrace a b any root k.toNat).enterInvalid)

/-! ## REGROUP -/

/-- REGROUP: at issue it drains the window, and the warp waits in BARWAIT for the other members. -/
def execRegroup (a b : VOp) (n : BitVec 6) (s : State) : Host.Outcome State Fault Refusal :=
  s.attempt
    (fun s => { s.wholeUses (.regroup a b n) true with srcs := [{ op := a }, { op := b, count := n.toNat }] })
    fun s =>
      if s.accessesDone then
        let s := ((s.withWarp s.warp.drain).enterInvalid).holdAs .regroup
        let r : RegroupIssue := { warp := s.warp.idx, key := s.fileNo (s.place a), first := s.fileNo (s.place b), n := n.toNat }
        .done (({ s with team := { s.team with regroups := s.team.regroups ++ [r] } } : State).completeRegroup s.team.handle)
      else .wait s false

end Sys2Proof.Machine
end

