-- ==== Sys2Proof/Machine/Dispatch.lean ====
section
/-! DEFINITION. One arm per constructor of Instr: each arm is one direct call of the meaning of its row of spec/opcode_table.json. -/

namespace Sys2Proof.Machine

def exec (i : Instr) (s : State) : Host.Outcome State Fault Refusal :=
  match i with
  | .nop => Sys2Proof.Machine.execNop s
  | .yield => Sys2Proof.Machine.execYield s
  | .lit v => Sys2Proof.Machine.execLit v s
  | .litHi b => Sys2Proof.Machine.execLitHi b s
  | .blk r p => Sys2Proof.Machine.execBlk r p s
  | .iadd d a b da db f => Sys2Proof.Machine.execIadd d a b da db f s
  | .isub d a b da db f => Sys2Proof.Machine.execIsub d a b da db f s
  | .imul d a b da db f => Sys2Proof.Machine.execImul d a b da db f s
  | .imad d a b da db f => Sys2Proof.Machine.execImad d a b da db f s
  | .imin d a b da db f => Sys2Proof.Machine.execImin d a b da db f s
  | .imax d a b da db f => Sys2Proof.Machine.execImax d a b da db f s
  | .iabs d a da f => Sys2Proof.Machine.execIabs d a da f s
  | .andFam d a b da db f => Sys2Proof.Machine.execAndFam d a b da db f s
  | .orFam d a b da db f => Sys2Proof.Machine.execOrFam d a b da db f s
  | .xorFam d a b da db f => Sys2Proof.Machine.execXorFam d a b da db f s
  | .shiftFam d a b da db f => Sys2Proof.Machine.execShiftFam d a b da db f s
  | .bfx d a b da db f => Sys2Proof.Machine.execBfx d a b da db f s
  | .bfi d a b da db f => Sys2Proof.Machine.execBfi d a b da db f s
  | .bitFam d a da f => Sys2Proof.Machine.execBitFam d a da f s
  | .icmp d a b da db f => Sys2Proof.Machine.execIcmp d a b da db f s
  | .icmpn d a b da db f => Sys2Proof.Machine.execIcmpn d a b da db f s
  | .sel d a b da db => Sys2Proof.Machine.execSel d a b da db s
  | .lea d a b da db f => Sys2Proof.Machine.execLea d a b da db f s
  | .addsubw d a b da db f => Sys2Proof.Machine.execAddsubw d a b da db f s
  | .mulw d a b da db f => Sys2Proof.Machine.execMulw d a b da db f s
  | .idiv d a b k => Sys2Proof.Machine.execIdiv d a b k s
  | .ndiv d a b k => Sys2Proof.Machine.execNdiv d a b k s
  | .shfl d a b da db f => Sys2Proof.Machine.execShfl d a b da db f s
  | .vote d a da f => Sys2Proof.Machine.execVote d a da f s
  | .vred d a da f => Sys2Proof.Machine.execVred d a da f s
  | .iaddi d a imm da => Sys2Proof.Machine.execIaddi d a imm da s
  | .imuli d a imm da => Sys2Proof.Machine.execImuli d a imm da s
  | .andi d a imm da => Sys2Proof.Machine.execAndi d a imm da s
  | .ori d a imm da => Sys2Proof.Machine.execOri d a imm da s
  | .xori d a imm da => Sys2Proof.Machine.execXori d a imm da s
  | .shli d a m da => Sys2Proof.Machine.execShli d a m da s
  | .shri d a m da => Sys2Proof.Machine.execShri d a m da s
  | .sari d a m da => Sys2Proof.Machine.execSari d a m da s
  | .icmpieq d a imm da => Sys2Proof.Machine.execIcmpieq d a imm da s
  | .icmpilt d a imm da => Sys2Proof.Machine.execIcmpilt d a imm da s
  | .icmpine d a imm da => Sys2Proof.Machine.execIcmpine d a imm da s
  | .movi d imm => Sys2Proof.Machine.execMovi d imm s
  | .sadd d a b f => Sys2Proof.Machine.execSadd d a b f s
  | .ssub d a b f => Sys2Proof.Machine.execSsub d a b f s
  | .smul d a b f => Sys2Proof.Machine.execSmul d a b f s
  | .slog d a b f => Sys2Proof.Machine.execSlog d a b f s
  | .sshf d a b f => Sys2Proof.Machine.execSshf d a b f s
  | .scmp d a b f => Sys2Proof.Machine.execScmp d a b f s
  | .ssel d a b => Sys2Proof.Machine.execSsel d a b s
  | .saddi d a imm => Sys2Proof.Machine.execSaddi d a imm s
  | .smovi d imm => Sys2Proof.Machine.execSmovi d imm s
  | .sminmax d a b f => Sys2Proof.Machine.execSminmax d a b f s
  | .sldc d a b k => Sys2Proof.Machine.execSldc d a b k s
  | .sld d a b k => Sys2Proof.Machine.execSld d a b k s
  | .sst d a b w => Sys2Proof.Machine.execSst d a b w s
  | .sget d a b => Sys2Proof.Machine.execSget d a b s
  | .fadd d a b da db f => Sys2Proof.Machine.execFadd d a b da db f s
  | .fsub d a b da db f => Sys2Proof.Machine.execFsub d a b da db f s
  | .fmul d a b da db f => Sys2Proof.Machine.execFmul d a b da db f s
  | .ffma d a b da db f => Sys2Proof.Machine.execFfma d a b da db f s
  | .fminmax d a b da db f => Sys2Proof.Machine.execFminmax d a b da db f s
  | .fcmp d a b da db f => Sys2Proof.Machine.execFcmp d a b da db f s
  | .fsign d a b da db f => Sys2Proof.Machine.execFsign d a b da db f s
  | .frcp d a k => Sys2Proof.Machine.execFrcp d a k s
  | .frsq d a k => Sys2Proof.Machine.execFrsq d a k s
  | .fsqrt d a k => Sys2Proof.Machine.execFsqrt d a k s
  | .fexp2 d a k => Sys2Proof.Machine.execFexp2 d a k s
  | .flog2 d a k => Sys2Proof.Machine.execFlog2 d a k s
  | .fsin d a k => Sys2Proof.Machine.execFsin d a k s
  | .fcos d a k => Sys2Proof.Machine.execFcos d a k s
  | .fdiv d a b k => Sys2Proof.Machine.execFdiv d a b k s
  | .fdot2 d a b da db => Sys2Proof.Machine.execFdot2 d a b da db s
  | .idot4 d a b da db f => Sys2Proof.Machine.execIdot4 d a b da db f s
  | .fround d a da f => Sys2Proof.Machine.execFround d a da f s
  | .radd d a b da db => Sys2Proof.Machine.execRadd d a b da db s
  | .rmul d a b da db => Sys2Proof.Machine.execRmul d a b da db s
  | .rmac d a b da db => Sys2Proof.Machine.execRmac d a b da db s
  | .rneg d a da => Sys2Proof.Machine.execRneg d a da s
  | .rcrt d a b da db f => Sys2Proof.Machine.execRcrt d a b da db f s
  | .renc d a g da => Sys2Proof.Machine.execRenc d a g da s
  | .cvt d a r g da => Sys2Proof.Machine.execCvt d a r g da s
  | .tag d a g da => Sys2Proof.Machine.execTag d a g da s
  | .mov d a da => Sys2Proof.Machine.execMov d a da s
  | .movD d a da => Sys2Proof.Machine.execMovD d a da s
  | .winb q => Sys2Proof.Machine.execWinb q s
  | .swinb q => Sys2Proof.Machine.execSwinb q s
  | .grow d blocking g => Sys2Proof.Machine.execGrow d blocking g s
  | .shrink d g => Sys2Proof.Machine.execShrink d g s
  | .ocmovRd d b => Sys2Proof.Machine.execOcmovRd d b s
  | .ocmovWr a b da => Sys2Proof.Machine.execOcmovWr a b da s
  | .bra u disp => Sys2Proof.Machine.execBra u disp s
  | .bnz c u disp => Sys2Proof.Machine.execBnz c u disp s
  | .bz c u disp => Sys2Proof.Machine.execBz c u disp s
  | .call c disp => Sys2Proof.Machine.execCall c disp s
  | .callr d a da f => Sys2Proof.Machine.execCallr d a da f s
  | .jmpr a da => Sys2Proof.Machine.execJmpr a da s
  | .ret a da => Sys2Proof.Machine.execRet a da s
  | .exit => Sys2Proof.Machine.execExit s
  | .tryRegion f l disp => Sys2Proof.Machine.execTryRegion f l disp s
  | .endtry l => Sys2Proof.Machine.execEndtry l s
  | .throwCode a da => Sys2Proof.Machine.execThrowCode a da s
  | .rethrow => Sys2Proof.Machine.execRethrow s
  | .xget d sel => Sys2Proof.Machine.execXget d sel s
  | .barArrive b => Sys2Proof.Machine.execBarArrive b s
  | .barWait b => Sys2Proof.Machine.execBarWait b s
  | .barSync b => Sys2Proof.Machine.execBarSync b s
  | .barCount d b => Sys2Proof.Machine.execBarCount d b s
  | .barGridSync => Sys2Proof.Machine.execBarGridSync s
  | .attach c disp => Sys2Proof.Machine.execAttach c disp s
  | .detach => Sys2Proof.Machine.execDetach s
  | .ldgW d a b k => Sys2Proof.Machine.execLdgW d a b k s
  | .ldgD d a b k => Sys2Proof.Machine.execLdgD d a b k s
  | .ldgQ d a b k => Sys2Proof.Machine.execLdgQ d a b k s
  | .stg d a b w => Sys2Proof.Machine.execStg d a b w s
  | .lds d a b k => Sys2Proof.Machine.execLds d a b k s
  | .sts d a b => Sys2Proof.Machine.execSts d a b s
  | .atom d a b k => Sys2Proof.Machine.execAtom d a b k s
  | .red a b k => Sys2Proof.Machine.execRed a b k s
  | .commit g slot => Sys2Proof.Machine.execCommit g slot s
  | .commitAll g => Sys2Proof.Machine.execCommitAll g s
  | .fence k scope => Sys2Proof.Machine.execFence k scope s
  | .monw d a b k => Sys2Proof.Machine.execMonw d a b k s
  | .cpstage => Sys2Proof.Machine.execCpstage s
  | .cpgo a => Sys2Proof.Machine.execCpgo a s
  | .cpred a any => Sys2Proof.Machine.execCpred a any s
  | .cpcancel id => Sys2Proof.Machine.execCpcancel id s
  | .cpq d id => Sys2Proof.Machine.execCpq d id s
  | .mconv a b k => Sys2Proof.Machine.execMconv a b k s
  | .mma a b k => Sys2Proof.Machine.execMma a b k s
  | .mset a b n => Sys2Proof.Machine.execMset a b n s
  | .mmask a n => Sys2Proof.Machine.execMmask a n s
  | .mld a b t => Sys2Proof.Machine.execMld a b t s
  | .mst a b t => Sys2Proof.Machine.execMst a b t s
  | .mcvt a b => Sys2Proof.Machine.execMcvt a b s
  | .mzero t => Sys2Proof.Machine.execMzero t s
  | .mwait a b all => Sys2Proof.Machine.execMwait a b all s
  | .mprog a k => Sys2Proof.Machine.execMprog a k s
  | .malloc a blocking c => Sys2Proof.Machine.execMalloc a blocking c s
  | .mfree c => Sys2Proof.Machine.execMfree c s
  | .trace a b any root k => Sys2Proof.Machine.execTrace a b any root k s
  | .regroup a b n => Sys2Proof.Machine.execRegroup a b n s
  | .enq a b blocking e => Sys2Proof.Machine.execEnq a b blocking e s
  | .enqc a b blocking e => Sys2Proof.Machine.execEnqc a b blocking e s
  | .svc a fn => Sys2Proof.Machine.execSvc a fn s
  | .qstat a sel e => Sys2Proof.Machine.execQstat a sel e s
  | .trap n => Sys2Proof.Machine.execTrap n s
  | .tret => Sys2Proof.Machine.execTret s
  | .csrr a b n => Sys2Proof.Machine.execCsrr a b n s
  | .csrw a b n => Sys2Proof.Machine.execCsrw a b n s
  | .cflush a b => Sys2Proof.Machine.execCflush a b s
  | .cinv a b => Sys2Proof.Machine.execCinv a b s
  | .cinvDiscard a b => Sys2Proof.Machine.execCinvDiscard a b s
  | .pref a b l2 => Sys2Proof.Machine.execPref a b l2 s
  | .tlbinv a b => Sys2Proof.Machine.execTlbinv a b s
  | .tlbinvAll => Sys2Proof.Machine.execTlbinvAll s
  | .rgne a => Sys2Proof.Machine.execRgne a s
  | .rgnl => Sys2Proof.Machine.execRgnl s
  | .ocrd a n => Sys2Proof.Machine.execOcrd a n s
  | .ocwr a n => Sys2Proof.Machine.execOcwr a n s
  | .ltrd a n => Sys2Proof.Machine.execLtrd a n s
  | .ltwr a n => Sys2Proof.Machine.execLtwr a n s
  | .lbrd a w m slot => Sys2Proof.Machine.execLbrd a w m slot s
  | .lbwr a w m slot => Sys2Proof.Machine.execLbwr a w m slot s
  | .halt => Sys2Proof.Machine.execHalt s
  | .illegalWord w => Sys2Proof.Machine.execIllegalWord w s
  | .parkcmdResume h w => Sys2Proof.Machine.execParkcmdResume h w s
  | .parkcmdKill h w => Sys2Proof.Machine.execParkcmdKill h w s
  | .parkcmdInject h w code => Sys2Proof.Machine.execParkcmdInject h w code s
  | .rgnstatDepthWrite h w depth => Sys2Proof.Machine.execRgnstatDepthWrite h w depth s
  | .fshnWrite h w count => Sys2Proof.Machine.execFshnWrite h w count s
  | .dbgctlStop => Sys2Proof.Machine.execDbgctlStop s
  | .hostctlRearm => Sys2Proof.Machine.execHostctlRearm s
  | .nlctlRetrain port => Sys2Proof.Machine.execNlctlRetrain port s
  | .svcdone die index => Sys2Proof.Machine.execSvcdone die index s
  | .bar0CsrAccess write off v => Sys2Proof.Machine.execBar0CsrAccess write off v s
  | .doorbell write off len v => Sys2Proof.Machine.execDoorbell write off len v s
  | .bar4Access op off len v => Sys2Proof.Machine.execBar4Access op off len v s
  | .cxlMemAccess op off len v => Sys2Proof.Machine.execCxlMemAccess op off len v s
  | .hostSnoop line => Sys2Proof.Machine.execHostSnoop line s
  | .hostLinkLoss => Sys2Proof.Machine.execHostLinkLoss s
  | .functionLevelReset => Sys2Proof.Machine.execFunctionLevelReset s
  | .powerOnBringUp => Sys2Proof.Machine.execPowerOnBringUp s
  | .hostPortTrain width => Sys2Proof.Machine.execHostPortTrain width s
  | .d3hotEntry => Sys2Proof.Machine.execD3hotEntry s
  | .d0Return => Sys2Proof.Machine.execD0Return s
  | .powerRemoval => Sys2Proof.Machine.execPowerRemoval s
  | .clockStep up => Sys2Proof.Machine.execClockStep up s
  | .flitReceive port flit => Sys2Proof.Machine.execFlitReceive port flit s
  | .nakReplay port ack => Sys2Proof.Machine.execNakReplay port ack s
  | .portRetrainOnReplays port => Sys2Proof.Machine.execPortRetrainOnReplays port s
  | .norozlinkReceiveWrite port => Sys2Proof.Machine.execNorozlinkReceiveWrite port s
  | .peerWindowAccess id v => Sys2Proof.Machine.execPeerWindowAccess id v s
  | .peerAck id => Sys2Proof.Machine.execPeerAck id s
  | .launchAdmission queue => Sys2Proof.Machine.execLaunchAdmission queue s
  | .teamPlacement die => Sys2Proof.Machine.execTeamPlacement die s
  | .preemptForHead die => Sys2Proof.Machine.execPreemptForHead die s
  | .preempt h => Sys2Proof.Machine.execPreempt h s
  | .teamStateSave h => Sys2Proof.Machine.execTeamStateSave h s
  | .teamResume h => Sys2Proof.Machine.execTeamResume h s
  | .trapEntry h w => Sys2Proof.Machine.execTrapEntry h w s
  | .swapOut h => Sys2Proof.Machine.execSwapOut h s
  | .swapRestore h => Sys2Proof.Machine.execSwapRestore h s
  | .hangDetect ctx => Sys2Proof.Machine.execHangDetect ctx s
  | .poolVictim core => Sys2Proof.Machine.execPoolVictim core s
  | .poolGrant core => Sys2Proof.Machine.execPoolGrant core s
  | .teamEnd h => Sys2Proof.Machine.execTeamEnd h s
  | .catchEntry delivery => Sys2Proof.Machine.execCatchEntry delivery s
  | .teamKill h => Sys2Proof.Machine.execTeamKill h s
  | .warpPark h w => Sys2Proof.Machine.execWarpPark h w s
  | .parkRecordPost die => Sys2Proof.Machine.execParkRecordPost die s
  | .loadLanding h w slot => Sys2Proof.Machine.execLoadLanding h w slot s
  | .homeLoadServe core line => Sys2Proof.Machine.execHomeLoadServe core line s
  | .homeUpdatePerform line => Sys2Proof.Machine.execHomeUpdatePerform line s
  | .montoExpiry h w id => Sys2Proof.Machine.execMontoExpiry h w id s
  | .monitorPoll h w id lane => Sys2Proof.Machine.execMonitorPoll h w id lane s
  | .atomLeaseGrant core line => Sys2Proof.Machine.execAtomLeaseGrant core line s
  | .atomLeaseReturn core line => Sys2Proof.Machine.execAtomLeaseReturn core line s
  | .l2Evict line => Sys2Proof.Machine.execL2Evict line s
  | .l1Evict core line => Sys2Proof.Machine.execL1Evict core line s
  | .atomicopCompletion core id => Sys2Proof.Machine.execAtomicopCompletion core id s
  | .atomicopUr core id => Sys2Proof.Machine.execAtomicopUr core id s
  | .emulationReturn core id => Sys2Proof.Machine.execEmulationReturn core id s
  | .copyArrive h id => Sys2Proof.Machine.execCopyArrive h id s
  | .copyComplete h id => Sys2Proof.Machine.execCopyComplete h id s
  | .copyfault h id => Sys2Proof.Machine.execCopyfault h id s
  | .combineContribution id => Sys2Proof.Machine.execCombineContribution id s
  | .combineDeliver id => Sys2Proof.Machine.execCombineDeliver id s
  | .matrixStart core => Sys2Proof.Machine.execMatrixStart core s
  | .matrixComplete h id => Sys2Proof.Machine.execMatrixComplete h id s
  | .matrixFetchFault h id => Sys2Proof.Machine.execMatrixFetchFault h id s
  | .mpbWindowExpiry core => Sys2Proof.Machine.execMpbWindowExpiry core s
  | .traceLanding h w slot => Sys2Proof.Machine.execTraceLanding h w slot s
  | .sampleRecord core => Sys2Proof.Machine.execSampleRecord core s
  | .resultProduced h w index => Sys2Proof.Machine.execResultProduced h w index s
  | .spareCoreTakeover core => Sys2Proof.Machine.execSpareCoreTakeover core s
  | .svcBatchPost die => Sys2Proof.Machine.execSvcBatchPost die s
  | .roundTripCompletion h w => Sys2Proof.Machine.execRoundTripCompletion h w s
  | .retrainingComplete port => Sys2Proof.Machine.execRetrainingComplete port s
  | .configurationRequest => Sys2Proof.Machine.execConfigurationRequest s
  | .copySourceRangeRead h id => Sys2Proof.Machine.execCopySourceRangeRead h id s

end Sys2Proof.Machine
end

