-- ==== Sys2Proof/Machine/Schedule.lean ====
section
/-! DEFINITION. What the machine does next (log 1): the agenda, the choice of a partition's warp (R31), the fetch and issue of an
instruction, and the happenings of the units that are due. -/

namespace Sys2Proof.Machine

/-! ## Which warps may issue -/

/-- The warp is a member of a delivery that has not yet stopped its members (R179), or whose members are to enter the catch now (R134). -/
def State.memberOf (s : State) (w : Warp) (d : Delivery) : Bool :=
  (!d.swept || s.waitsOver d) && (s.deliveryWarps d).any fun x => x.team == w.team && x.idx == w.idx

/-- The warp is to stop for a delivery or for a trap (R187). In its trap routine it goes on to its TRET (R179, log 9). -/
def State.stopping (s : State) (w : Warp) : Bool :=
  !s.holdsAtom w.team w.idx &&
    !w.tdepth && (w.preempt || s.deliveries.any (s.memberOf w))

/-- A warp comes into focus if it may issue now. One that has executed YIELD rests at the next turn of its partition (R33). -/
def State.ready (s : State) (w : Warp) : Option State :=
  if w.stalled || w.gone || w.rest || s.stopping w then none
  else (s.focusOn w.team w.idx).filter fun t => t.issuing.isSome

def Warp.partition (w : Warp) : Nat := w.slot / 16

def State.coreOfWarp (s : State) (w : Warp) : Nat := (s.teamOf w.team).core

/-- The READY warps. -/
def State.readyWarps (s : State) : List Warp := s.allWarps.filter fun w => (s.ready w).isSome

/-- The turn of a partition is over for the warps that rested at it, the warp with a number apart (R33). -/
def State.rested (s : State) (core p : Nat) (uid : Option Nat) : State :=
  s.mapWarps fun w => if w.partition = p ∧ s.coreOfWarp w = core ∧ uid ≠ some w.uid then { w with rest := false } else w

/-- The stamp of the last issue on the partition of a warp. -/
def State.lastOn (s : State) (w : Warp) : Nat := look (s.coreOf (s.coreOfWarp w)).lastIssue 0 w.partition

/-- Warp a has issued less recently than warp b (R31): one that has not issued since it became resident comes first, the longest
resident of those, then the lowest slot. -/
def Warp.olderThan (a b : Warp) : Bool :=
  let fresh (w : Warp) : Bool := decide (w.issued < w.resident) || w.issued == 0
  match fresh a, fresh b with
  | true, false => true
  | false, true => false
  | true, true => a.resident < b.resident || (a.resident == b.resident && a.slot < b.slot)
  | false, false => a.issued < b.issued

/-- The least recently issued warp of a list. -/
def oldest : List Warp → Option Warp
  | [] => none
  | w :: rest => match oldest rest with
    | none => some w
    | some x => some (if x.olderThan w then x else w)

/-- R31 and R32 among the READY warps of one partition: of those of the highest launch priority, so that a lower one gets no issue while a higher
is READY, the warp that issued last while its run lasts, else the one that issued least recently, whose run begins. -/
def State.choose (s : State) (ws : List Warp) : Option Warp :=
  let top := ws.foldl (fun m w => max m (s.prioOf w.team)) 0
  let best := ws.filter fun w => s.prioOf w.team == top
  match best.find? fun w => w.issued != 0 && w.issued == s.lastOn w && decide (w.runCount < 64) with
  | some w => some w
  | none => (oldest best).map fun w => { w with runCount := 0 }

/-- The READY warps of partition p of a core. -/
def State.readyOn (s : State) (core p : Nat) : List Warp :=
  s.readyWarps.filter fun w => s.coreOfWarp w == core && w.partition == p

/-- The choice of partition p of a core among some READY warps. -/
def State.chooseOn (s : State) (ws : List Warp) (core p : Nat) : Option Warp :=
  s.choose (ws.filter fun x => s.coreOfWarp x == core && x.partition == p)

/-- The instruction that a READY warp is about to issue. -/
def State.upcoming (s : State) (w : Warp) : Option Instr :=
  (s.ready w).bind fun t => match (t.fetch t.entry.pc).2 with
    | .word x => some (decode x)
    | _ => none

/-- The step of R67 in which the arbiter takes what an instruction asks of it: 0 a release, 1 a request that queues, 2 one that does not. -/
def arbiterStep : Instr → Option Nat
  | .shrink _ _ | .mfree _ | .exit | .detach => some 0
  | .grow _ b _ | .malloc _ b _ => some (if b = 1 then 1 else 2)
  | .callr _ _ _ f => if f = 1 then some 1 else none
  | .attach _ _ => some 2
  | _ => none

/-- What applies an instruction's event in the order of its team (R34, R310): 1 the barrier unit, 2 the matrix engine. -/
def eventUnit : Instr → Option Nat
  | .exit | .detach | .attach _ _ | .barArrive _ | .barSync _ | .throwCode _ _ | .rethrow => some 1
  | .mset _ _ _ | .mmask _ _ | .mconv _ _ _ => some 2
  | _ => none

/-- The order of step 3 of the arbiter (R67): descending launch priority, then oldest team, then ascending warp index. -/
def State.askedBefore (s : State) (a b : Warp) : Bool :=
  let pa := s.prioOf a.team
  let pb := s.prioOf b.team
  let at' := (s.teamOf a.team).placedAt
  let bt := (s.teamOf b.team).placedAt
  pb < pa || (pa == pb && (at' < bt || (at' == bt && decide (a.idx < b.idx))))

/-- In one cycle the arbiter takes what warp b asks of it before what warp a asks: by the steps of R67, and within a step by the order of its
step 3. -/
def State.arbiterBefore (s : State) (b a : Warp × Instr) : Bool :=
  match arbiterStep b.2, arbiterStep a.2 with
  | some n, some m => n < m || (n == m && s.askedBefore b.1 a.1)
  | _, _ => false

/-- In one cycle the event of warp b is applied before that of warp a, of the same team, by ascending warp index (R34, R310), where the arbiter does
not order them. -/
def eventBefore (b a : Warp × Instr) : Bool :=
  b.1.team == a.1.team && b.1.idx < a.1.idx && (eventUnit a.2).isSome && eventUnit b.2 == eventUnit a.2 &&
    !((arbiterStep b.2).isSome && (arbiterStep a.2).isSome)

/-- The four partitions of a core issue in one cycle (R31): of what they are about to issue, what the arbiter or a unit of the team takes before
that of warp w goes first (log 89). -/
def State.sameCycle (s : State) (ws : List Warp) (w : Warp) : Warp :=
  match s.upcoming w with
  | none => w
  | some i =>
    if (arbiterStep i).isNone && (eventUnit i).isNone then w
    else
      let others := ((List.range 4).filterMap (s.chooseOn ws (s.coreOfWarp w))).filterMap fun x => (s.upcoming x).map fun j => (x, j)
      let first := others.foldl (fun a b => if s.arbiterBefore b a then b else a) (w, i)
      (others.foldl (fun a b => if eventBefore b a then b else a) first).1

/-- The warp that issues next of some READY warps of whole partitions: that of the partition that issued least recently (log 1), or the one
whose request or event comes first in that cycle. -/
def State.nextAmong (s : State) (ws : List Warp) : Option Warp :=
  match ws with
  | [] => none
  | w :: rest =>
    let first := rest.foldl (fun a b => if s.lastOn b < s.lastOn a then b else a) w
    (s.chooseOn ws (s.coreOfWarp first) first.partition).map (s.sameCycle ws)

/-- The warp that issues next where nothing says whose turn it is. -/
def State.nextWarp (s : State) : Option Warp := s.nextAmong s.readyWarps

/-- The same of the warps of the user cores, whose program stands in memory. -/
def State.nextUser (s : State) : Option Warp := s.nextAmong (s.readyWarps.filter fun w => decide (s.coreOfWarp w < 384))

/-! ## Issue -/

/-- The warp in focus fetches the word at its first eligible entry and executes it (R95, Table 6-6 row 1). -/
def State.issueWord (s : State) : Host.Outcome State Fault Refusal :=
  let f := s.fetch s.entry.pc
  match f.2 with
  | .word w => exec (decode w) f.1
  | .stall => .next f.1.stall
  | .bad code addr =>
    if s.switches && !s.warp.unproduced.isEmpty then .next s.stall
    else .next (s.prelude.raise { code := code, lanes := s.mask, addr := addr })

/-- A READY warp's first eligible entry cannot issue after all: an interlock, or what its instruction waits for, holds it (R30). -/
def State.heldBack (s : State) (w : Warp) : Bool :=
  match (s.ready w).map State.issueWord with
  | some (.next t) => t.warp.stalled
  | _ => false

/-- Every warp that is held back is marked STALLED, so that WSTAT.STATE shows the row of Table 3-2 in which each warp stands (R30, R372). -/
def State.observed (s : State) : State :=
  let held := (s.readyWarps.filter s.heldBack).map (·.uid)
  s.mapWarps fun w => if held.contains w.uid then { w with stalled := true } else w

/-- After a turn in which warp w has issued, the warps that rested on its partition rest no longer; w itself does if it has executed YIELD
(R33). -/
def State.turnOver (w : Warp) (core : Nat) (t : State) : State :=
  if t.allWarps.any fun x => x.uid == w.uid && x.stalled then t else t.rested core w.partition (some w.uid)

/-- What happens to a next state. -/
def onNext (f : State → State) : Host.Outcome State Fault Refusal → Host.Outcome State Fault Refusal
  | .next t => .next (f t)
  | .fault x => .fault x
  | .refused r => .refused r

/-- A warp issues at the turn of its partition: it comes into focus with its run counter as R31 leaves it. A service warp, which can read
the state of others, finds it as it is. -/
def State.issueWarp (s : State) (w : Warp) : Host.Outcome State Fault Refusal :=
  let core := s.coreOfWarp w
  match (if (s.teamOf w.team).service then s.observed else s).focusOn w.team w.idx with
  | none => .next s
  | some t => onNext (State.turnOver w core) ({ t with warp := { t.warp with runCount := w.runCount } } : State).issueWord

/-! ## Happenings -/

/-- A row of the opcode table that is no instruction word. -/
def isEvent : Instr → Bool
  | .illegalWord _ => false
  | i => (encode i).isNone

def nextOf (o : Host.Outcome State Fault Refusal) : Option State :=
  match o with
  | .next t => some t
  | _ => none

/-- The machine as an access through BAR0, which can read the state of a warp, finds it. -/
def State.seenBy (s : State) : Instr → State
  | .bar0CsrAccess _ _ _ => s.observed
  | _ => s

def State.happen (s : State) (i : Instr) : Option State := nextOf (exec i (s.seenBy i))

/-- A happening of a unit, if it can take place. -/
def State.occurs (s : State) : Happening → Option State
  | .event i => s.happen i
  | .move h c n => nextOf (execCopyMove h c n s)
  | .fetch h o => nextOf (execMatrixFetch h o s)
  | .send h => s.sendNext h
  | .pref core n => s.retryPref core n
  | .turn _ _ => none
  | .wait _ => none

/-- The first of a list of happenings that takes place. -/
def State.firstOf? (s : State) (l : List Happening) : Option State := l.findSome? s.occurs

/-- Happenings of warps: parks posted, loads landed, results produced. -/
def Warp.due (w : Warp) : List Instr :=
  let h := w.team
  (if w.unpostedPark.isSome then [.warpPark h w.idx] else []) ++
    ((List.range 16).filter fun k => (w.land k).state == .inflight).map (fun k =>
      if (w.land k).kind = .trace then .traceLanding h w.idx (BitVec.ofNat 4 k) else .loadLanding h w.idx (BitVec.ofNat 4 k)) ++
    (List.range w.unproduced.length).map (fun i => .resultProduced h w.idx i) ++
    (if w.hostWritten && w.stalled then [.roundTripCompletion h w.idx] else []) ++
    w.monws.flatMap fun o => .montoExpiry h w.idx o.id :: o.lanes.filterMap fun l =>
      if !l.armed && l.value.isNone then some (.monitorPoll h w.idx o.id (BitVec.ofNat 5 l.lane)) else none

/-- Happenings of a core's memory and engines. -/
def Core.due (c : Core) : List Instr :=
  let lines := (c.atoms.flatMap fun a => (a.lanes.filter fun l => l.route == .lease).map fun l => lineOf l.pa).dedup
  lines.map (fun l => .atomLeaseReturn c.num l) ++ lines.map (fun l => .atomLeaseGrant c.num l) ++
    c.atoms.flatMap (fun a => [.atomicopCompletion c.num a.id, .emulationReturn c.num a.id]) ++
    [.matrixStart c.num, .sampleRecord c.num] ++ if c.exhausted && c.charged != 0 then [.mpbWindowExpiry c.num] else []

/-- Happenings of a copy: it fails, a part of it moves, it ends. -/
def CopyOp.due (h : Nat) (c : CopyOp) : List Happening :=
  .event (.copyfault h c.uid) :: c.left.map (fun p => .move h c.uid p.1) ++ [.event (.copyArrive h c.uid), .event (.copyComplete h c.uid)]

/-- Happenings of a team's engines and of its life, and the sending of what it has ceased to hold. -/
def Team.due (t : Team) : List Happening :=
  (if t.out.isEmpty then [] else [.send t.handle]) ++ t.copies.flatMap (CopyOp.due t.handle) ++
    t.mops.flatMap (fun o => [.fetch t.handle o.id, .event (.matrixComplete t.handle o.id), .event (.matrixFetchFault t.handle o.id)]) ++
    [.event (.teamKill t.handle), .event (.teamEnd t.handle), .event (.teamStateSave t.handle), .event (.swapRestore t.handle)]

def allDies : List (BitVec 2) := [0, 1, 2, 3]

/-- Lines whose exclusive lease is to come back. -/
def State.leased (s : State) : List Instr := s.home.filterMap fun h => h.excl.map fun x => .atomLeaseReturn x.1 h.line

/-- Happenings of the memory and the switches. -/
def State.memoryDue (s : State) : List Instr :=
  (s.home.filter fun h => !h.pend.isEmpty).map (fun h => .homeUpdatePerform h.line) ++ s.leased ++
    s.contributions.map (fun c => .combineContribution c.id) ++ s.switchEntries.map fun e => .combineDeliver e.id

/-- Happenings of the pools and the work-graph units. -/
def State.wguDue (s : State) : List Instr :=
  (s.core :: s.cores).flatMap (fun c => [.poolGrant c.num, .poolVictim c.num]) ++
    allDies.flatMap (fun d => [.parkRecordPost d, .svcBatchPost d, .teamPlacement d, .preemptForHead d])

/-- Happenings of the ports. -/
def State.portsDue (s : State) : List Instr :=
  (List.range 16).flatMap fun n =>
    let p := look s.pkg.ports Port.blank n
    let b := BitVec.ofNat 4 n
    (if p.retraining then [.retrainingComplete b] else []) ++ (if p.accepted.isEmpty && p.owed.isEmpty then [] else [.norozlinkReceiveWrite b]) ++
      (if 8 ≤ p.times.length then [.portRetrainOnReplays b] else [])

/-- Teams to be preempted for D3hot. -/
def State.sleepDue (s : State) : List Instr := if s.pkg.d3hot then s.allTeams.map fun t => .preempt t.handle else []

/-- The host queues of whose descriptor memory lists a byte: the others' EN reads 0. -/
def State.queuesListed (s : State) : List Nat :=
  let base := s.pkg.qtbl.toNat
  (s.mem.filterMap fun c => if base ≤ c.1 ∧ c.1 < base + 131072 then some ((c.1 - base) / 32) else none).dedup

/-- Records posted in the host queues. -/
def State.queuesDue (s : State) : List Instr :=
  if s.pkg.stage < 6 then []
  else (s.queuesListed.filter fun q => (s.queueDesc q).posted).map fun q => .launchAdmission (BitVec.ofNat 12 q)

/-- The units' happenings that may be due, by kind. -/
def State.unitDue (s : State) : Nat → List Happening
  | 0 => (s.allWarps.flatMap Warp.due).map .event
  | 1 => s.memoryDue.map .event
  | 2 => ((s.core :: s.cores).flatMap Core.due).map .event ++ (s.core :: s.cores).flatMap fun c => (List.range c.prefs.length).map (.pref c.num)
  | 3 => s.allTeams.flatMap Team.due
  | 4 => s.wguDue.map .event
  | 5 => (s.portsDue ++ s.sleepDue).map .event
  | _ => s.queuesDue.map .event

/-- A list from place n on, then from its start. -/
def turned {α : Type} (n : Nat) (l : List α) : List α := l.drop (n % l.length) ++ l.take (n % l.length)

/-- The unit that acts where nothing else says which (log 1): the kinds and the units of a kind are tried in turn, so that none waits for
ever. -/
def State.unitsNext (s : State) : Option State :=
  let k := s.turns / 8
  ((turned k (List.range 7)).findSome? fun g => s.firstOf? (turned (k / 7) (s.unitDue g))).orElse fun _ =>
  (s.firstOf? ((s.ctx :: s.ctxs).map fun c => .event (.hangDetect (BitVec.ofNat 16 c.id)))).orElse fun _ =>
  if s.pkg.flr then some s.endReset else none

/-- Deliveries and traps that can take place. -/
def State.entriesNext (s : State) : Option State :=
  (s.firstOf? (s.deliveries.map fun d => .event (.catchEntry d.id))).orElse fun _ =>
  s.firstOf? ((s.allWarps.filter fun w => w.preempt && !w.tdepth).map fun w => .event (.trapEntry w.team w.idx))

/-- GTC passes; every stalled warp may try again, and none rests any more. -/
def State.pass (s : State) (ns : Nat) : State :=
  (({ s with gtc := gtcAfter s.gtc ns } : State).mapWarps fun w => { w with rest := false }).wake

/-- What has a time of its own: a lease comes back when it ends (R206), an entry of a combining switch is delivered when its window is over
(R275). -/
def State.timed (s : State) : List (Nat × Instr) :=
  (s.home.filterMap fun h => h.excl.map fun x => (x.2, .atomLeaseReturn x.1 h.line)) ++
    s.switchEntries.map fun e => (s.dueAt e, .combineDeliver e.id)

/-- The next GTC at which one of these has to take place. -/
def State.deadline (s : State) : Option Nat :=
  ((s.timed.map (·.1)).filter fun d => decide (s.gtc < d)).foldl (fun m d => match m with
    | none => some d
    | some x => some (min x d)) none

/-- One of these whose time has come takes place; a delivery waits for its line's lease. -/
def State.timedNext (s : State) : Option State :=
  s.firstOf? ((s.timed.filter fun x => decide (x.1 ≤ s.gtc)).map fun x => .event x.2)

/-- The passing of ns, up to the next such time; what is left of it stays on the agenda. -/
def State.passing (s : State) (ns : Nat) : State :=
  match s.deadline with
  | none => s.pass ns
  | some d =>
    if s.gtc + ns ≤ d then s.pass ns
    else { s.pass (d - s.gtc) with agenda := .wait (s.gtc + ns - d) :: s.agenda }

/-- One thing that the agenda names. -/
def State.perform (s : State) : Happening → Host.Outcome State Fault Refusal
  | .event i => if isEvent i then .next ((s.happen i).getD s) else .next s
  | .turn core p => match s.choose (s.readyOn core p) with
    | none => .next (s.rested core p none)
    | some w => s.issueWarp w
  | .move h c n => .next ((nextOf (execCopyMove h c n s)).getD s)
  | .fetch h o => .next ((nextOf (execMatrixFetch h o s)).getD s)
  | .send h => .next ((s.sendNext h).getD s)
  | .pref core n => .next ((s.retryPref core n).getD s)
  | .wait ns => .next (s.passing ns)

def State.counted (s : State) : State := { s with turns := s.turns + 1 }

/-- What comes next of the warps and the units: the warps first but in each eighth turn, and GTC passes where nothing is due and in each
64th turn, so that nothing waits for ever (log 1). -/
def State.turn (s : State) : Host.Outcome State Fault Refusal :=
  if s.turns % 64 = 63 then .next (s.pass 1).counted
  else match if s.turns % 8 = 7 then s.unitsNext else none with
    | some t => .next t.counted
    | none => match s.nextWarp with
      | some w => s.counted.issueWarp w
      | none => .next ((s.unitsNext.getD (s.pass 1)).counted)

/-- One step of the machine where the agenda is empty. -/
def State.proceed (s : State) : Host.Outcome State Fault Refusal :=
  match s.nextMonw with
  | some (w, o) => .next (s.finishMonw w o).wake
  | none => match s.nextSvc with
    | some t => .next t.wake
    | none => match s.entriesNext with
      | some t => .next t
      | none => s.turn

/-- One step: what has to take place at this time does; else the next happening of the agenda, else what is due. -/
def State.stepOnce (s : State) : Host.Outcome State Fault Refusal :=
  match s.timedNext with
  | some t => .next t
  | none => match s.agenda with
    | h :: rest => ({ s with agenda := rest } : State).perform h
    | [] => s.proceed

/-! ## A word where the next step fetches -/

/-- The leaf PTE of a 256 TiB page at PA 0: V, R, W, X, U, A, D. -/
def loaderPte : Nat := 0xDF

/-- The entry PC of the loader's warp. -/
def loaderPc : Nat := 0x10000

/-- A launch of one team of one warp, as a loader outside the machine would have it run (log 2): context 0 with a one-entry page table at
PA 0x1000, core 0, the warp in the state of R23 at loaderPc with 8 granules. -/
def State.placeLoader (s : State) : State :=
  let s := (s.focusCore 0).focusCtx 0
  let h := s.freeHandle
  let l : Launch := { Launch.blank with id := s.nextId, teams := 1, finished := false }
  let t : Team := { Team.blank with
    handle := h, launch := l.id, life := .resident, threads := 32, budget0 := 8, budget1 := 8, placedAt := s.nextId, scratchSize := 65536 }
  let e : Entry := { id := s.nextId + 1, prio := 0, pc := BitVec.ofNat 64 loaderPc, mask := 0xFFFFFFFF, wait := .ready }
  let w : Warp := { Warp.blank with uid := e.id, team := h, live := 0xFFFFFFFF, frontier := [e], vvg := 8, resident := e.id }
  { s with
    nextId := e.id + 1
    mem := Memory.writeNat s.mem 0x1000 8 loaderPte
    ctx := { s.ctx with root := 1 }
    launch := l
    launches := if s.launch.finished && !s.launch.firmware then s.launches else s.launch :: s.launches
    team := t
    teams := if s.team.life = .gone then s.teams else s.team :: s.teams
    warp := w
    warps := keepWarp s.warp s.warps }

/-- The physical address of a virtual address of a context, as a walk finds it. -/
def State.physical (s : State) (c : Ctx) (va : BitVec 64) : Option Nat :=
  match s.walk c va with
  | .leaf pte _ level => some (leafBase pte + va.toNat % leafSize pte level)
  | _ => none

/-- The bytes of an instruction of nbits bits, zero above them, stored at an address. -/
def State.storeWord (s : State) (pa nbits w : Nat) : State :=
  { s with mem := Memory.writeNat s.mem pa (wordBits / 8) (w % 2 ^ nbits), launch := { s.launch with image := [] } }

/-- Where the next step fetches: the warp that issues next, in focus, and the physical address of its word. -/
def State.nextFetch (s : State) : Option (State × Nat) :=
  (s.nextUser.bind fun x => s.focusOn x.team x.idx).bind fun t => (t.physical t.ctx t.entry.pc).map fun pa => (t, pa)

/-- Every exclusive lease comes back if one of them keeps the home of the next word, of a PTE of its walk or of the RAT from answering. -/
def State.openCode (s : State) : State :=
  match s.nextFetch with
  | none => s
  | some (t, pa) =>
    if !t.lineHeld (lineOf pa) && t.walkOpen t.ctx t.entry.pc && t.ratOpen t.ctx then s
    else s.leased.foldl (fun s i => (s.happen i).getD s) s

/-- What has to take place at this time does; n bounds its number. -/
def State.endTimed (s : State) : Nat → State
  | 0 => s
  | n + 1 => match s.timedNext with
    | none => s
    | some t => t.endTimed n

/-- Nothing is left that has to take place at this time. -/
def State.upToDate (s : State) : State := s.endTimed s.timed.length

/-- The instruction stored where the next step fetches, at the PC of the warp that issues next or of a new team's warp, with that warp's
turn on the agenda, once nothing has to take place before it. -/
def State.placeWord (s : State) (nbits w : Nat) : State :=
  match s.upToDate.openCode.upToDate.nextFetch with
  | some (t, pa) => { t.storeWord pa nbits w with agenda := [.turn t.core.num t.warp.partition] }
  | none => { s.upToDate.openCode.upToDate.placeLoader.storeWord loaderPc nbits w with agenda := [.turn 0 0] }

end Sys2Proof.Machine
end

