-- ==== Sys2Proof/Safety.lean ====
section
/-! DEFINITION. What claims about the machine are stated in: steps, and states that a step reaches. -/

namespace Sys2Proof

open Sys2Proof.Machine

/-- An outcome is a next state with a property. -/
def Answers (o : Host.Outcome State Fault Refusal) (p : State → Prop) : Prop := ∃ t, o = .next t ∧ p t

/-- Every step from a state with a property leads to a state with it. -/
def Kept (p : State → Prop) : Prop := ∀ s t, p s → step s = .next t → p t

end Sys2Proof
end

