-- ==== Sys2Proof/Certificates/Slice0/Obligations.lean ====
section
/-! DEFINITION. The statements about the machine. Claims holds the words they are said in; OBLIGATIONS.json says which rule of spec/
each statement formalises. A statement says what an instruction does from the state after its checks have begun, State.prelude: the
state before it but for the drain of the window that a switch brings with it (R29), which changes no register's value. -/

namespace Sys2Proof.Claims

open Sys2Proof.Machine

/-! ## When an instruction takes its effect -/

/-- The warp in focus has an entry that can issue, no result keeps a switch waiting, and the checks of Table 6-6 find nothing against
the instruction whose needs u names; ChecksInTheOrderOfTheTable says what those checks ask. -/
def Goes (s : State) (u : State → Uses) : Prop :=
  s.issuing.isSome = true ∧ (s.switches = true → s.warp.unproduced = []) ∧ s.prelude.gate (u s.prelude) = .go

/-- The needs of an instruction with vector-class sources and one vector-class destination. -/
def needs (i : Instr) (srcs : List Src) (d : VOp) (cc : Bool := false) : State → Uses :=
  fun _ => { legal := i.wellFormed, srcs := srcs, dsts := [{ op := d }], ccAwait := cc }

/-- The needs of a scalar-class instruction. -/
def scalarNeeds (i : Instr) (srcs : List SOp) (d : SOp) (cc : Bool := false) : State → Uses :=
  fun _ => { legal := i.wellFormed, ssrcs := srcs.map fun x => { op := x }, sdsts := [{ op := d }], sccAwait := cc }

/-- The needs of an instruction that names no register. -/
def bare (i : Instr) : State → Uses := fun _ => { legal := i.wellFormed }

/-- The state after an instruction's result r: its sources are read, the result enters the window, and its lanes go on at the next
word. ResultsChangeTheirDestinationsAlone says what it holds. -/
def written (p : State) (srcs : List Src) (r : Result) : State := ((p.settle srcs (p.resultEntry r)).advance).finish

/-- The state after a scalar result. -/
def scalarWritten (p : State) (d : SOp) (v flags : Word) (cc : Option Bool) : State :=
  ((p.settle [] (p.scalarEntry d v flags cc)).advance).finish

/-- The state after an effect whose lanes go on at the next word. -/
def wentOn (t : State) : State := t.advance.finish

/-- An instruction takes the effect given for each state in which it goes. -/
def Takes (i : Instr) (u : State → Uses) (t : State → State) : Prop := ∀ s, Goes s u → exec i s = .next (t s.prelude)

/-- What an instruction that has passed its checks comes to: it is done, it waits, or it faults after them. -/
def Comes (i : Instr) (s : State) : Attempt → Prop
  | .done t => exec i s = .next t.finish
  | .wait t changed => exec i s = .next (if changed then t.wake else t).stall
  | .raise t r => exec i s = .next (t.raise r)

/-- An effect that follows a release. -/
def upon (r : Release) (f : State → State) : Attempt :=
  match r with
  | .done t => .done (f t)
  | .wait t changed => .wait t changed
  | .raise t r => .raise t r

/-- A device-scope release has nothing to do for the warp in focus: its accesses have been performed and returned their tw, no line of its
core is dirty, nothing is on its way to a home or a peer, no other team holds a store that it has observed, and GTC has reached its WCT
(R204, R205). -/
def Settled (p : State) : Prop :=
  p.accessesDone = true ∧ p.warp.lostLines = [] ∧ p.core.dirtyLines = [] ∧ (∀ h ∈ p.home, h.pend = []) ∧ p.pkg.peers = [] ∧ p.team.out = [] ∧
    p.warp.wct ≤ p.gtc ∧ p.warp.seen ≤ p.gtc ∧ p.warp.seenHeld = []

/-! ## Integer elements -/

/-- What becomes of an exact result of width w, and whether it was clamped. -/
def exact (_ : Nat) (x : Int) : Int × Bool := (x, false)
def upperHalf (w : Nat) (x : Int) : Int × Bool := (x / 2 ^ w, false)
def clampS (w : Nat) (x : Int) : Int × Bool :=
  if x < -2 ^ (w - 1) then (-2 ^ (w - 1), true) else if 2 ^ (w - 1) - 1 < x then (2 ^ (w - 1) - 1, true) else (x, false)
def clampU (w : Nat) (x : Int) : Int × Bool :=
  if x < 0 then (0, true) else if 2 ^ w - 1 < x then (2 ^ w - 1, true) else (x, false)

/-- Element e of lane L of source k, as an integer of the tag's width. -/
def element (p : State) (srcs : List Src) (t : Tag) (signed : Bool) (L e k : Nat) : Int :=
  match srcs[k]? with
  | some a => intOf signed (Tag.width t) (elemBits t (lane (p.vec a.op) L) e)
  | none => 0

/-- The instruction computes op on each element of its sources, exactly, then narrows it to the element's width; SAT is set where an
element of an active lane was clamped. The result carries the common tag of the sources. -/
def ElementResult (i : Instr) (srcs : List Src) (d : VOp) (tags : List Tag) (signed : Bool) (narrow : Nat → Int → Int × Bool)
    (op : Int → Int → Int → Int) : Prop :=
  ∀ s t, commonTag tags false (srcs.map fun a => s.prelude.srcTag a.op) = some t → Goes s (needs i srcs d) →
    let x L e := narrow (Tag.width t) (op (element s.prelude srcs t signed L e 0) (element s.prelude srcs t signed L e 1)
      (element s.prelude srcs t signed L e 2))
    ∃ y fl, exec i s = .next (written s.prelude srcs { dst := d, tag := t, lo := y, flags := fl }) ∧
      (∀ L e, L < 32 → e < Tag.count t → elemBits t (lane y L) e = ((x L e).1 % 2 ^ (Tag.width t)).toNat) ∧
      fl = if s.prelude.active.any fun L => (List.range (Tag.count t)).any fun e => (x L e).2 then Flag.sat else 0

/-- The instruction gives lane L the word g L, with the tag that its sources give it. -/
def WordResult (i : Instr) (srcs : List Src) (d : VOp) (tag : State → Option Tag) (g : State → Nat → Word) : Prop :=
  ∀ s t, tag s.prelude = some t → Goes s (needs i srcs d) →
    ∃ y, exec i s = .next (written s.prelude srcs { dst := d, tag := t, lo := y }) ∧ ∀ L, L < 32 → lane y L = g s.prelude L

/-- A compare: all-ones and cc 1 in each lane where it holds, zero and cc 0 in the others. -/
def CompareResult (i : Instr) (srcs : List Src) (d : VOp) (holds : State → Nat → Prop) : Prop :=
  ∀ s t, commonTag wordTags false (srcs.map fun a => s.prelude.srcTag a.op) = some t → Goes s (needs i srcs d true) →
    ∃ y c, exec i s = .next (written s.prelude srcs { dst := d, tag := .i32, lo := y, cc := some c }) ∧
      ∀ L, L < 32 → (holds s.prelude L → lane y L = 0xFFFFFFFF ∧ c.getLsbD L = true) ∧
        (¬ holds s.prelude L → lane y L = 0 ∧ c.getLsbD L = false)

/-- The common tag of bit-class sources: RAW where every tagged source is RAW. -/
def bitTag (xs : List VOp) (p : State) : Option Tag := commonTag bitTags true (xs.map fun x => p.srcTag x)

def wordTag (xs : List VOp) (p : State) : Option Tag := commonTag wordTags false (xs.map fun x => p.srcTag x)

/-! ## Floating point -/

/-- The rational value of a finite number. -/
def val : FVal → ℚ
  | .num n m e _ => (if n then -1 else 1) * (m : ℚ) * (2 : ℚ) ^ e
  | _ => 0

/-- A number that is known exactly. -/
def FVal.finite : FVal → Bool
  | .num _ _ _ sticky => !sticky
  | _ => false

/-- Two values that are no NaN, as numbers: u is less than v, and they are equal; −0 and +0 are equal. -/
def below (u v : FVal) : Prop :=
  match u, v with
  | .nan, _ | _, .nan => False
  | .inf a, .inf b => a = true ∧ b = false
  | .inf a, _ => a = true
  | _, .inf b => b = false
  | x, y => val x < val y

def same (u v : FVal) : Prop :=
  match u, v with
  | .inf a, .inf b => a = b
  | .num _ _ _ _, .num _ _ _ _ => val u = val v
  | _, _ => False

/-- u is less than v, or is −0 where v is +0. -/
def belowZeros (u v : FVal) : Prop := below u v ∨ ∃ e g st su, u = .num true 0 e st ∧ v = .num false 0 g su

/-- n is x rounded to an integer: to nearest even, toward zero, up or down. -/
def RoundsTo (k : Nat) (x : ℚ) (n : Int) : Prop :=
  (k = 0 → |(n : ℚ) - x| ≤ 1 / 2 ∧ (|(n : ℚ) - x| = 1 / 2 → n % 2 = 0)) ∧
  (k = 1 → |(n : ℚ)| ≤ |x| ∧ |x| < |(n : ℚ)| + 1 ∧ 0 ≤ (n : ℚ) * x) ∧
  (k = 2 → x ≤ n ∧ (n : ℚ) < x + 1) ∧ (k = 3 → (n : ℚ) ≤ x ∧ x < n + 1)

/-- Table 5-2: exponent bits, fraction bits, bias, largest finite value, and whether the format has infinities. -/
def floatFormats : List (Tag × Nat × Nat × Nat × ℚ × Bool) :=
  [(.fp64, 11, 52, 1023, (2 - 2 ^ (-52 : Int)) * 2 ^ 1023, true), (.fp32, 8, 23, 127, (2 - 2 ^ (-23 : Int)) * 2 ^ 127, true),
   (.fp19, 8, 10, 127, (2 - 2 ^ (-10 : Int)) * 2 ^ 127, true), (.bf16, 8, 7, 127, (2 - 2 ^ (-7 : Int)) * 2 ^ 127, true),
   (.fp16, 5, 10, 15, 65504, true), (.fp8b, 5, 2, 15, 57344, true), (.fp8a, 4, 3, 7, 448, false), (.fp6a, 3, 2, 3, 28, false),
   (.fp6b, 2, 3, 1, 15 / 2, false), (.fp4, 2, 1, 1, 6, false)]

/-- The needs of a float instruction whose sources carry tag t. -/
def floatNeeds (i : Instr) (xs : List (VOp × BitVec 1)) (d : VOp) (t : Tag) : State → Uses :=
  fun p => { legal := i.wellFormed, srcs := xs.map fun x => p.floatSrc x.1 x.2,
             dsts := [{ op := d, count := if t = .fp64 then 2 else 1 }] }

/-- Element e of lane L of a float result; FP64 is the pair. -/
def resultBits (t : Tag) (lo : Lanes) (hi : Option (Lanes × Tag)) (L e : Nat) : Nat :=
  if t = .fp64 then (match hi with | some h => (lane h.1 L ++ lane lo L : BitVec 64).toNat | none => 0) else elemBits t (lane lo L) e

/-- A float instruction gives each element the bits and the flags of g; the flags of the active lanes are set. look is the lookahead of
a result that is still to be produced. -/
def FloatResult (i : Instr) (xs : List (VOp × BitVec 1)) (d : VOp) (tags : List Tag) (look : Option (BitVec 4))
    (g : State → Tag → List Nat → Nat × Word) : Prop :=
  ∀ s t, s.prelude.floatTag tags (xs.map (·.1)) d = some t → Goes s (floatNeeds i xs d t) →
    let p := s.prelude
    let r L e := g p t (xs.map fun x => p.floatBits t x.1 L e)
    ∃ lo hi fl, exec i s = .next (written p (xs.map fun x => p.floatSrc x.1 x.2)
        { dst := d, tag := t, lo := lo, hi := hi, flags := fl, long := look.isSome, look := look }) ∧
      (∀ L e, L < 32 → e < Tag.count t → resultBits t lo hi L e = (r L e).1 % 2 ^ (Tag.width t)) ∧
      (∀ k, k < 32 → (fl.getLsbD k = true ↔ ∃ L e, p.mask.getLsbD L = true ∧ L < 32 ∧ e < Tag.count t ∧ (r L e).2.getLsbD k = true))

/-- The fault of an indirect jump with a misaligned target in pair a (R161, R162): ALIGN for the lanes whose target is no multiple of 4, at
the target of the lowest of them. -/
def Misaligned (p : State) (a : VOp) (r : Raise) : Prop :=
  r.code = 0x0022 ∧ (∀ L, L < 32 → (r.lanes.getLsbD L = true ↔ p.mask.getLsbD L = true ∧ (p.pair a L).toNat % 4 ≠ 0)) ∧
    ∃ L, L < 32 ∧ r.lanes.getLsbD L = true ∧ (∀ j, j < L → r.lanes.getLsbD j = false) ∧ r.addr = p.pair a L

end Sys2Proof.Claims

section

open Sys2Proof Sys2Proof.Machine Sys2Proof.Claims

/-- R113: IADD, ISUB, IMUL, IMAD, IMIN, IMAX, IABS and LEA in every form but the carry forms. -/
def Obligations.IntegerArithmeticPerElement : Prop :=
  ∀ (d a b : VOp) (da db : BitVec 1),
    let ab := [srcA a da, srcA b db]
    let abd := [srcA a da, srcA b db, { op := d }]
    ElementResult (.iadd d a b da db 0) ab d packedTags false exact (fun x y _ => x + y) ∧
    ElementResult (.iadd d a b da db 1) ab d packedTags true clampS (fun x y _ => x + y) ∧
    ElementResult (.iadd d a b da db 2) ab d packedTags false clampU (fun x y _ => x + y) ∧
    ElementResult (.isub d a b da db 0) ab d packedTags false exact (fun x y _ => x - y) ∧
    ElementResult (.isub d a b da db 1) ab d packedTags true clampS (fun x y _ => x - y) ∧
    ElementResult (.isub d a b da db 2) ab d packedTags false clampU (fun x y _ => x - y) ∧
    ElementResult (.imul d a b da db 0) ab d packedTags true exact (fun x y _ => x * y) ∧
    ElementResult (.imul d a b da db 1) ab d packedTags true upperHalf (fun x y _ => x * y) ∧
    ElementResult (.imul d a b da db 2) ab d packedTags false upperHalf (fun x y _ => x * y) ∧
    ElementResult (.imul d a b da db 3) ab d packedTags true clampS (fun x y _ => x * y) ∧
    ElementResult (.imad d a b da db 0) abd d packedTags false exact (fun x y z => x * y + z) ∧
    ElementResult (.imad d a b da db 1) abd d packedTags true clampS (fun x y z => x * y + z) ∧
    ElementResult (.imad d a b da db 2) abd d packedTags false clampU (fun x y z => x * y + z) ∧
    ElementResult (.imin d a b da db 0) ab d packedTags true exact (fun x y _ => min x y) ∧
    ElementResult (.imin d a b da db 1) ab d packedTags false exact (fun x y _ => min x y) ∧
    ElementResult (.imax d a b da db 0) ab d packedTags true exact (fun x y _ => max x y) ∧
    ElementResult (.imax d a b da db 1) ab d packedTags false exact (fun x y _ => max x y) ∧
    ElementResult (.iabs d a da 0) [srcA a da] d [.i32, .i16, .i8] true exact (fun x _ _ => |x|) ∧
    ElementResult (.iabs d a da 1) [srcA a da] d [.i32, .i16, .i8] true clampS (fun x _ _ => |x|) ∧
    ∀ f : BitVec 2, ElementResult (.lea d a b da db f) ab d wordTags false exact (fun x y _ => x + y * 2 ^ f.toNat)

/-- R113: the carry forms add cc or subtract it, and set cc to the carry or the borrow out. -/
def Sys2Proof.Claims.CarryFormsChain : Prop :=
  ∀ (d a b : VOp) (da db : BitVec 1) (s : State) (t : Tag),
    let p := s.prelude
    let x L := (lane (p.vec a) L).toNat
    let y L := (lane (p.vec b) L).toNat
    let c L := (p.warp.ccl.getLsbD L).toNat
    wordTag [a, b] p = some t →
    (Goes s (needs (.iadd d a b da db 3) [srcA a da, srcA b db] d true) →
      ∃ z k, exec (.iadd d a b da db 3) s =
          .next (written p [srcA a da, srcA b db] { dst := d, tag := t, lo := z, cc := some k }) ∧
        ∀ L, L < 32 → (lane z L).toNat + 2 ^ 32 * (k.getLsbD L).toNat = x L + y L + c L) ∧
    (Goes s (needs (.isub d a b da db 3) [srcA a da, srcA b db] d true) →
      ∃ z k, exec (.isub d a b da db 3) s =
          .next (written p [srcA a da, srcA b db] { dst := d, tag := t, lo := z, cc := some k }) ∧
        ∀ L, L < 32 → (lane z L).toNat + y L + c L = x L + 2 ^ 32 * (k.getLsbD L).toNat)

/-- R114: the logic and shift instructions. -/
def Sys2Proof.Claims.LogicAndShiftWords : Prop :=
  ∀ (d a b : VOp) (da db : BitVec 1),
    let R i g := WordResult i [srcA a da, srcA b db] d (bitTag [a, b]) fun p L => g (lane (p.vec a) L) (lane (p.vec b) L)
    R (.andFam d a b da db 0) (fun x y => x &&& y) ∧
    R (.andFam d a b da db 1) (fun x y => x &&& ~~~y) ∧
    R (.andFam d a b da db 2) (fun x y => ~~~(x &&& y)) ∧
    R (.orFam d a b da db 0) (fun x y => x ||| y) ∧
    R (.orFam d a b da db 1) (fun x y => x ||| ~~~y) ∧
    R (.orFam d a b da db 2) (fun x y => ~~~(x ||| y)) ∧
    R (.xorFam d a b da db 0) (fun x y => x ^^^ y) ∧
    R (.xorFam d a b da db 1) (fun x y => ~~~(x ^^^ y)) ∧
    R (.shiftFam d a b da db 0) (fun x y => x <<< (y.toNat % 32)) ∧
    R (.shiftFam d a b da db 1) (fun x y => x >>> (y.toNat % 32)) ∧
    R (.shiftFam d a b da db 2) (fun x y => BitVec.ofInt 32 (x.toInt / 2 ^ (y.toNat % 32))) ∧
    R (.shiftFam d a b da db 3) (fun x y => x <<< (y.toNat % 32) ||| x >>> (32 - y.toNat % 32))

/-- R114: BFX takes the field of length m at p, zero- or sign-extended; BFI replaces that field of D; a field ends at bit 31. -/
def Sys2Proof.Claims.BitFieldsExtractAndInsert : Prop :=
  ∀ (d a b : VOp) (da db : BitVec 1),
    let pos (y : Word) : Nat := y.toNat % 32
    let len (y : Word) : Nat := min (y.toNat / 2 ^ 8 % 32) (32 - pos y)
    WordResult (.bfx d a b da db 0) [srcA a da, srcA b db] d (bitTag [a, b])
      (fun p L =>
        let x := lane (p.vec a) L
        let y := lane (p.vec b) L
        BitVec.ofNat 32 (x.toNat / 2 ^ pos y % 2 ^ len y)) ∧
    (∀ s t, bitTag [a, b] s.prelude = some t → Goes s (needs (.bfx d a b da db 1) [srcA a da, srcA b db] d) →
      ∃ z, exec (.bfx d a b da db 1) s = .next (written s.prelude [srcA a da, srcA b db] { dst := d, tag := t, lo := z }) ∧
        ∀ L, L < 32 →
          let x := lane (s.prelude.vec a) L
          let y := lane (s.prelude.vec b) L
          (len y = 0 → lane z L = 0) ∧
          ∀ i, i < 32 → 0 < len y →
            (lane z L).getLsbD i = x.getLsbD (pos y + if i < len y then i else len y - 1)) ∧
    (∀ s t, bitTag [a, b, d] s.prelude = some t →
      Goes s (needs (.bfi d a b da db 0) [srcA a da, srcA b db, { op := d }] d) →
      ∃ z, exec (.bfi d a b da db 0) s =
          .next (written s.prelude [srcA a da, srcA b db, { op := d }] { dst := d, tag := t, lo := z }) ∧
        ∀ L i, L < 32 → i < 32 →
          let y := lane (s.prelude.vec b) L
          (lane z L).getLsbD i = if pos y ≤ i ∧ i < pos y + len y then (lane (s.prelude.vec a) L).getLsbD (i - pos y)
            else (lane (s.prelude.vec d) L).getLsbD i)

/-- R114: POPC, CLZ, BREV and CTZ. -/
def Sys2Proof.Claims.BitCountsAndReverse : Prop :=
  ∀ (d a : VOp) (da : BitVec 1) (f : BitVec 2) (s : State) (t : Tag),
    bitTag [a] s.prelude = some t → Goes s (needs (.bitFam d a da f) [srcA a da] d) →
    ∃ y, exec (.bitFam d a da f) s = .next (written s.prelude [srcA a da] { dst := d, tag := t, lo := y }) ∧
      ∀ L, L < 32 →
        let x := lane (s.prelude.vec a) L
        (f = 0 → (lane y L).toNat = ((List.range 32).filter fun i => x.getLsbD i).length) ∧
        (f = 1 → (lane y L).toNat = if x = 0 then 32 else 31 - x.toNat.log2) ∧
        (f = 2 → ∀ i, i < 32 → (lane y L).getLsbD i = x.getLsbD (31 - i)) ∧
        (f = 3 → if x = 0 then lane y L = 32
          else x.getLsbD (lane y L).toNat = true ∧ ∀ i, i < (lane y L).toNat → x.getLsbD i = false)

/-- R115 and Table 7-5: the compares, signed and unsigned, with a register or an immediate. -/
def Sys2Proof.Claims.ComparesSetResultAndCc : Prop :=
  ∀ (d a b : VOp) (da db : BitVec 1) (imm : BitVec 10),
    let C i (r : Word → Word → Prop) := CompareResult i [srcA a da, srcA b db] d fun p L => r (lane (p.vec a) L) (lane (p.vec b) L)
    let I i (r : Int → Int → Prop) := CompareResult i [srcA a da] d fun p L => r (lane (p.vec a) L).toInt imm.toInt
    C (.icmp d a b da db 0) (fun x y => x = y) ∧
    C (.icmp d a b da db 1) (fun x y => x ≠ y) ∧
    C (.icmp d a b da db 2) (fun x y => x.toInt < y.toInt) ∧
    C (.icmp d a b da db 3) (fun x y => x.toInt ≤ y.toInt) ∧
    C (.icmpn d a b da db 2) (fun x y => x.toNat < y.toNat) ∧
    C (.icmpn d a b da db 3) (fun x y => x.toNat ≤ y.toNat) ∧
    I (.icmpieq d a imm da) (fun x y => x = y) ∧
    I (.icmpilt d a imm da) (fun x y => x < y) ∧
    I (.icmpine d a imm da) (fun x y => x ≠ y)

/-- R123 (Table 7-5): the immediate forms; imm is sign-extended from 10 bits. -/
def Obligations.ImmediateForms : Prop :=
  ∀ (d a : VOp) (da : BitVec 1) (imm : BitVec 10) (m : BitVec 5),
    let W i g := WordResult i [srcA a da] d (wordTag [a]) fun p L => g (lane (p.vec a) L)
    let B i g := WordResult i [srcA a da] d (bitTag [a]) fun p L => g (lane (p.vec a) L)
    W (.iaddi d a imm da) (fun x => BitVec.ofInt 32 (x.toInt + imm.toInt)) ∧
    W (.imuli d a imm da) (fun x => BitVec.ofInt 32 (x.toInt * imm.toInt)) ∧
    B (.andi d a imm da) (fun x => x &&& BitVec.ofInt 32 imm.toInt) ∧
    B (.ori d a imm da) (fun x => x ||| BitVec.ofInt 32 imm.toInt) ∧
    B (.xori d a imm da) (fun x => x ^^^ BitVec.ofInt 32 imm.toInt) ∧
    B (.shli d a m da) (fun x => x <<< m.toNat) ∧
    B (.shri d a m da) (fun x => x >>> m.toNat) ∧
    B (.sari d a m da) (fun x => BitVec.ofInt 32 (x.toInt / 2 ^ m.toNat)) ∧
    WordResult (.movi d imm) [] d (fun _ => some .i32) (fun _ _ => BitVec.ofInt 32 imm.toInt)

/-- R116: SEL takes A where cc is 1, else B. -/
def Sys2Proof.Claims.SelectByCc : Prop :=
  ∀ (d a b : VOp) (da db : BitVec 1) (s : State) (t : Tag),
    selTag (s.prelude.srcTag a) (s.prelude.srcTag b) = some t →
    Goes s (needs (.sel d a b da db) [srcA a da, srcA b db] d true) →
    ∃ y, exec (.sel d a b da db) s = .next (written s.prelude [srcA a da, srcA b db] { dst := d, tag := t, lo := y }) ∧
      ∀ L, L < 32 → lane y L = if s.prelude.warp.ccl.getLsbD L then lane (s.prelude.vec a) L else lane (s.prelude.vec b) L

/-- R117: IADDW, ISUBW and MULW on 64-bit values in register pairs, low word first. -/
def Sys2Proof.Claims.WideArithmetic : Prop :=
  ∀ (d a b : VOp) (da db : BitVec 1) (f : BitVec 2) (s : State) (t : Tag),
    let p := s.prelude
    let w (x : VOp) (L : Nat) : Nat := if x = .zero then 0 else (p.pair x L).toNat
    (commonTag wordTags false (p.wideTags a ++ p.wideTags b) = some t →
      (∀ x ∈ [a, b], x.isV = true → p.srcTag x = p.srcTag x 1) →
      Goes s (fun _ => { legal := (Instr.addsubw d a b da db f).wellFormed, srcs := [wideSrc a da, wideSrc b db],
                         dsts := [{ op := d, count := 2 }], ccAwait := true }) →
      ∃ lo hi c, exec (.addsubw d a b da db f) s =
          .next (written p [wideSrc a da, wideSrc b db] { dst := d, tag := t, lo := lo, hi := some (hi, t), cc := some c }) ∧
        ∀ L, L < 32 →
          let z := (lane lo L).toNat + 2 ^ 32 * (lane hi L).toNat
          if f = 0 then z + 2 ^ 64 * (c.getLsbD L).toNat = w a L + w b L
          else z + w b L = w a L + 2 ^ 64 * (c.getLsbD L).toNat) ∧
    (wordTag [a, b] p = some t →
      Goes s (fun _ => { legal := (Instr.mulw d a b da db f).wellFormed, srcs := [srcA a da, srcA b db],
                         dsts := [{ op := d, count := 2 }] }) →
      ∃ lo hi, exec (.mulw d a b da db f) s =
          .next (written p [srcA a da, srcA b db] { dst := d, tag := t, lo := lo, hi := some (hi, t) }) ∧
        ∀ L, L < 32 →
          let x := lane (p.vec a) L
          let y := lane (p.vec b) L
          (lane hi L ++ lane lo L : BitVec 64) =
            if f = 0 then BitVec.ofInt 64 (x.toInt * y.toInt) else BitVec.ofNat 64 (x.toNat * y.toNat))

/-- R118: IDIV and NDIV, toward zero, as long operations whose results are still to be produced; INTDIV0 before any effect where an
active lane divides by zero. -/
def Sys2Proof.Claims.DivisionTowardZeroOrIntdiv0 : Prop :=
  ∀ (d a b : VOp) (k : BitVec 4) (s : State) (t : Tag) (signed : Bool),
    let p := s.prelude
    let i := if signed then Instr.idiv d a b k else Instr.ndiv d a b k
    let x L := lane (p.vec a) L
    let y L := lane (p.vec b) L
    let q L : Int := if signed then (x L).toInt.tdiv (y L).toInt else (x L).toNat / (y L).toNat
    wordTag [a, b] p = some t → Goes s (needs i [{ op := a }, { op := b }] d) →
    ((∀ L, p.mask.getLsbD L = true → y L ≠ 0) →
      ∃ z fl, exec i s = .next (written p [] { dst := d, tag := t, lo := z, flags := fl, long := true, look := some k }) ∧
        (∀ L, L < 32 → y L ≠ 0 → (signed = true → q L = 2 ^ 31 → lane z L = 0x7FFFFFFF) ∧
          (¬ (signed = true ∧ q L = 2 ^ 31) → lane z L = BitVec.ofInt 32 (q L))) ∧
        fl = if signed && p.active.any fun L => q L == 2 ^ 31 then Flag.sat else 0) ∧
    (∀ L, L < 32 → p.mask.getLsbD L = true → y L = 0 → (∀ j, j < L → p.mask.getLsbD j = true → y j ≠ 0) →
      exec i s = .next (p.raise { code := 0x0010, lanes := p.zeroLanes b, addr := BitVec.ofNat 64 L }))

/-- The carry forms chain through the carry, the wide forms give two words, and division. -/
def Obligations.CarryWideAndDivision : Prop :=
  Sys2Proof.Claims.CarryFormsChain ∧ Sys2Proof.Claims.WideArithmetic ∧ Sys2Proof.Claims.DivisionTowardZeroOrIntdiv0

/-- Logic, shifts, bit fields, counts and reversals of words. -/
def Obligations.LogicShiftsAndBitFields : Prop :=
  Sys2Proof.Claims.LogicAndShiftWords ∧ Sys2Proof.Claims.BitFieldsExtractAndInsert ∧ Sys2Proof.Claims.BitCountsAndReverse

/-- Compares set the result and the lane cc, and SEL reads it. -/
def Obligations.ComparesAndSelect : Prop :=
  Sys2Proof.Claims.ComparesSetResultAndCc ∧ Sys2Proof.Claims.SelectByCc

/-- R119: SHFL moves values between the active lanes of the issuing entry; a lane whose source lane is out of range or not active
keeps its own value of A. -/
def Sys2Proof.Claims.ShuffleMovesBetweenActiveLanes : Prop :=
  ∀ (d a b : VOp) (da db : BitVec 1) (f : BitVec 2) (s : State),
    let p := s.prelude
    Goes s (needs (.shfl d a b da db f) [srcA a da, srcA b db] d) →
    ∃ y, exec (.shfl d a b da db f) s =
        .next (written p [srcA a da, srcA b db] { dst := d, tag := (p.srcTag a).getD .i32, lo := y }) ∧
      ∀ L, L < 32 →
        let n := (lane (p.vec b) L).toNat
        let j : Int := if f = 0 then n % 32 else if f = 1 then L - n else if f = 2 then L + n else (L ^^^ (n % 32) : Nat)
        (∀ k : Nat, j = k → k < 32 → p.mask.getLsbD k = true → lane y L = lane (p.vec a) k) ∧
        ((∀ k : Nat, j = k → k < 32 → p.mask.getLsbD k = false) → lane y L = lane (p.vec a) L)

/-- R120: VOTE writes one result of the active lanes to every active lane. -/
def Sys2Proof.Claims.VoteOverActiveLanes : Prop :=
  ∀ (d a : VOp) (da : BitVec 1) (f : BitVec 2) (s : State) (t : Tag),
    let p := s.prelude
    let x L := lane (p.vec a) L
    wordTag [a] p = some t → Goes s (needs (.vote d a da f) [srcA a da] d) →
    ∃ y, exec (.vote d a da f) s = .next (written p [srcA a da] { dst := d, tag := t, lo := y }) ∧
      ∀ L, L < 32 →
        (f = 0 → lane y L ∈ [0, 0xFFFFFFFF] ∧ (lane y L ≠ 0 ↔ ∀ k, k < 32 → p.mask.getLsbD k = true → x k ≠ 0)) ∧
        (f = 1 → lane y L ∈ [0, 0xFFFFFFFF] ∧ (lane y L ≠ 0 ↔ ∃ k, k < 32 ∧ p.mask.getLsbD k = true ∧ x k ≠ 0)) ∧
        (f = 2 → ∀ k, k < 32 → ((lane y L).getLsbD k = true ↔ p.mask.getLsbD k = true ∧ x k ≠ 0)) ∧
        (f = 3 → ∀ k, k < 32 → ((lane y L).getLsbD k = true ↔ p.mask.getLsbD k = true ∧ x k = x L))

/-- R121: VRED combines the active lanes' values; the tag fixes signedness. -/
def Sys2Proof.Claims.ReductionAcrossActiveLanes : Prop :=
  ∀ (d a : VOp) (da : BitVec 1) (f : BitVec 2) (s : State) (t : Tag),
    let p := s.prelude
    let xs := p.active.map fun L => lane (p.vec a) L
    let v (x : Word) : Int := if t = .i32 then x.toInt else x.toNat
    wordTag [a] p = some t → Goes s (needs (.vred d a da f) [srcA a da] d) →
    ∃ r, exec (.vred d a da f) s = .next (written p [srcA a da] { dst := d, tag := t, lo := splat r }) ∧
      (f = 0 → r.toNat = (xs.map (·.toNat)).sum % 2 ^ 32) ∧
      (f = 1 → xs ≠ [] → r ∈ xs ∧ ∀ x ∈ xs, v r ≤ v x) ∧
      (f = 2 → xs ≠ [] → r ∈ xs ∧ ∀ x ∈ xs, v x ≤ v r) ∧
      (f = 3 → ∀ k, k < 32 → (r.getLsbD k = true ↔ ∃ x ∈ xs, x.getLsbD k = true))

/-- R125 (Table 7-6): the scalar instructions on one 32-bit value; SAT where a saturating sum clamps; the carry forms and SCMP set the
scalar cc, SSEL reads it. -/
def Sys2Proof.Claims.ScalarArithmetic : Prop :=
  ∀ (d a b : SOp) (f : BitVec 2) (imm : BitVec 10) (s : State),
    let p := s.prelude
    let x := p.sc a
    let y := p.sc b
    let c : Nat := p.warp.ccs.toNat
    let flag (r : Int × Bool) : Word := if r.2 then Flag.sat else 0
    let G i cc := Goes s (scalarNeeds i [a, b] d cc)
    let A i v := exec i s = .next (scalarWritten p d v 0 none)
    let S i (r : Int × Bool) := exec i s = .next (scalarWritten p d (BitVec.ofInt 32 r.1) (flag r) none)
    (G (.sadd d a b 0) false → A (.sadd d a b 0) (x + y)) ∧
    (G (.sadd d a b 1) false → S (.sadd d a b 1) (clampS 32 (x.toInt + y.toInt))) ∧
    (G (.sadd d a b 2) false → S (.sadd d a b 2) (clampU 32 (x.toNat + y.toNat))) ∧
    (G (.sadd d a b 3) true → ∃ v k, exec (.sadd d a b 3) s = .next (scalarWritten p d v 0 (some k)) ∧
      v.toNat + 2 ^ 32 * k.toNat = x.toNat + y.toNat + c) ∧
    (G (.ssub d a b 0) false → A (.ssub d a b 0) (x - y)) ∧
    (G (.ssub d a b 1) false → S (.ssub d a b 1) (clampS 32 (x.toInt - y.toInt))) ∧
    (G (.ssub d a b 2) false → S (.ssub d a b 2) (clampU 32 ((x.toNat : Int) - y.toNat))) ∧
    (G (.ssub d a b 3) true → ∃ v k, exec (.ssub d a b 3) s = .next (scalarWritten p d v 0 (some k)) ∧
      v.toNat + y.toNat + c = x.toNat + 2 ^ 32 * k.toNat) ∧
    (G (.smul d a b 0) false → A (.smul d a b 0) (x * y)) ∧
    (G (.smul d a b 1) false → A (.smul d a b 1) (BitVec.ofInt 32 (x.toInt * y.toInt / 2 ^ 32))) ∧
    (G (.smul d a b 2) false → A (.smul d a b 2) (BitVec.ofNat 32 (x.toNat * y.toNat / 2 ^ 32))) ∧
    (G (.slog d a b f) false → A (.slog d a b f)
      (if f = 0 then x &&& y else if f = 1 then x ||| y else if f = 2 then x ^^^ y else x &&& ~~~y)) ∧
    (G (.sshf d a b f) false →
      let n := y.toNat % 32
      A (.sshf d a b f)
        (if f = 0 then x <<< n else if f = 1 then x >>> n else if f = 2 then BitVec.ofInt 32 (x.toInt / 2 ^ n)
          else x <<< n ||| x >>> (32 - n))) ∧
    (G (.scmp d a b f) true →
      let q := if f = 0 then decide (x = y) else if f = 1 then decide (x ≠ y) else if f = 2 then decide (x.toInt < y.toInt)
        else decide (x.toInt ≤ y.toInt)
      exec (.scmp d a b f) s = .next (scalarWritten p d (if q then 0xFFFFFFFF else 0) 0 (some q))) ∧
    (G (.ssel d a b) true → A (.ssel d a b) (if p.warp.ccs then x else y)) ∧
    (G (.sminmax d a b f) false → A (.sminmax d a b f)
      (if f = 0 then BitVec.ofInt 32 (min x.toInt y.toInt) else if f = 1 then BitVec.ofInt 32 (max x.toInt y.toInt)
        else if f = 2 then BitVec.ofNat 32 (min x.toNat y.toNat) else BitVec.ofNat 32 (max x.toNat y.toNat))) ∧
    (Goes s (scalarNeeds (.saddi d a imm) [a] d) → A (.saddi d a imm) (BitVec.ofInt 32 (x.toInt + imm.toInt))) ∧
    (Goes s (scalarNeeds (.smovi d imm) [] d) → A (.smovi d imm) (BitVec.ofInt 32 imm.toInt))

/-- R126 and R129: SLDC reads a word of the constant bank, a result that is still to be produced, with ALIGN before ACCESS where it may
not; SGET takes one lane of A, active or not, by the lowest active lane of B. -/
def Sys2Proof.Claims.ConstantBankAndLaneRead : Prop :=
  (∀ (d a b : SOp) (k : BitVec 4) (s : State),
    let p := s.prelude
    let o := p.sc a + p.sc b
    Goes s (scalarNeeds (.sldc d a b k) [a, b] d) →
      if o.toNat % 4 ≠ 0 then
        exec (.sldc d a b k) s = .next (p.raise { code := 0x0022, lanes := p.mask, addr := o.setWidth 64 })
      else if p.team.consts.length ≤ o.toNat then
        exec (.sldc d a b k) s = .next (p.raise { code := 0x0021, lanes := p.mask, addr := o.setWidth 64 })
      else exec (.sldc d a b k) s = .next ((p.settle [] (p.scalarEntry d
        (BitVec.ofNat 32 (leNat ((p.team.consts.drop o.toNat).take 4))) 0 none true (some k))).advance.finish)) ∧
  (∀ (d : SOp) (a b : VOp) (s : State),
    let p := s.prelude
    Goes s (fun _ => { legal := (Instr.sget d a b).wellFormed, srcs := [{ op := a }, { op := b }], sdsts := [{ op := d }] }) →
      exec (.sget d a b) s = .next (scalarWritten p d (lane (p.vec a) ((lane (p.vec b) p.firstLane).toNat % 32)) 0 none))

/-- Instructions across lanes. -/
def Obligations.LanesExchange : Prop :=
  Sys2Proof.Claims.ShuffleMovesBetweenActiveLanes ∧ Sys2Proof.Claims.VoteOverActiveLanes ∧ Sys2Proof.Claims.ReductionAcrossActiveLanes

/-- Scalar-class instructions. -/
def Obligations.ScalarsAndConstantReads : Prop :=
  Sys2Proof.Claims.ScalarArithmetic ∧ Sys2Proof.Claims.ConstantBankAndLaneRead

/-- R136 and R137: FADD, FSUB, FMUL and FFMA round the exact result once in the mode of f or FRM; an invalid operation delivers NaN
and sets NV. -/
def Sys2Proof.Claims.FloatArithmeticRoundsOnce : Prop :=
  ∀ (d a b : VOp) (da db : BitVec 1) (m : BitVec 2),
    let two (op : Nat → FVal → FVal → Option FVal) (p : State) (t : Tag) : List Nat → Nat × Word := fun xs =>
      let z := ftzOn p.warp.frm t
      let k := mode p.warp.frm m.toNat
      match op k (operand t z (xs.getD 0 0)) (operand t z (xs.getD 1 0)) with
      | none => ((fmt t).nanBits, Flag.nv)
      | some v => flushOut z ((fmt t).round k v)
    FloatResult (.fadd d a b da db m) [(a, da), (b, db)] d floatTags none (two FVal.add) ∧
    FloatResult (.fsub d a b da db m) [(a, da), (b, db)] d floatTags none (two fun k x y => FVal.add k x y.neg) ∧
    FloatResult (.fmul d a b da db m) [(a, da), (b, db)] d floatTags none (two fun _ x y => FVal.mul x y) ∧
    FloatResult (.ffma d a b da db m) [(a, da), (b, db), (d, 0)] d floatTags none (fun p t xs =>
      let z := ftzOn p.warp.frm t
      let k := mode p.warp.frm m.toNat
      let x := operand t z (xs.getD 0 0)
      let y := operand t z (xs.getD 1 0)
      let c := operand t z (xs.getD 2 0)
      match (if c.isNan then some .nan else match x.mul y with | some q => q.add k c | none => none) with
      | none => ((fmt t).nanBits, Flag.nv)
      | some v => flushOut z ((fmt t).round k v))

/-- R136, R137 and R142: sums and products of finite numbers are exact, with the sign rule of a zero sum; opposite infinities have no
sum and 0 × ∞ no product; a quotient of finite numbers is bracketed to its last place, exact where it is not marked sticky. -/
def Sys2Proof.Claims.ExactSumProductAndQuotient : Prop :=
  (∀ k x y v, FVal.finite x = true → FVal.finite y = true → FVal.add k x y = some v →
    val v = val x + val y ∧ FVal.finite v = true ∧
      (val v = 0 → ∀ n m e st, v = .num n m e st →
        if val x = 0 ∧ val y = 0 then (∀ xn xm xe xs yn ym ye ys, x = .num xn xm xe xs → y = .num yn ym ye ys →
          (xn = yn → n = xn) ∧ (xn ≠ yn → n = (k == 3)))
        else n = (k == 3))) ∧
  (∀ k x y, FVal.finite x = true → FVal.finite y = true → (FVal.add k x y).isSome = true ∧ (FVal.mul x y).isSome = true) ∧
  (∀ x y v, FVal.finite x = true → FVal.finite y = true → FVal.mul x y = some v → val v = val x * val y ∧ FVal.finite v = true) ∧
  (∀ k n, FVal.add k (.inf n) (.inf (!n)) = none) ∧
  (∀ n b e st, FVal.mul (.inf n) (.num b 0 e st) = none ∧ FVal.mul (.num b 0 e st) (.inf n) = none) ∧
  (∀ x y, FVal.finite x = true → FVal.finite y = true → val x ≠ 0 → val y ≠ 0 →
    ∃ n m e st, FVal.div x y = (.num n m e st, 0) ∧ n = decide (val x / val y < 0) ∧
      (m : ℚ) * 2 ^ e ≤ |val x / val y| ∧ |val x / val y| < (m + 1 : ℚ) * 2 ^ e ∧ (st = false ↔ (m : ℚ) * 2 ^ e = |val x / val y|)) ∧
  (∀ x y, FVal.finite x = true → FVal.finite y = true → val x ≠ 0 → val y = 0 → (FVal.div x y).2 = Flag.dz)

/-- R75, R76, R84 and Tables 5-2 and 5-6, for the ten float formats: what an encoding is worth, and what is delivered for NaN, for an infinity
and for an exact finite value: the representable value nearest to it, with ties to the even fraction, in mode 0, the nearest toward zero in mode
1, the least not below it in mode 2, the greatest not above it in mode 3; NX where it differs, UF where it differs and the exact value is tiny;
beyond the range after rounding, the infinity or the largest value that the table gives, with its flags. -/
def Obligations.DeliveryRoundsCorrectly : Prop :=
  (∀ p ∈ [(Tag.fp64, 0x7FF8000000000000), (.fp32, 0x7FC00000), (.fp19, 0x3FE00), (.bf16, 0x7FC0), (.fp16, 0x7E00), (.fp8b, 0x7E),
      (.fp8a, 0x7F), (.fp6a, 0), (.fp6b, 0), (.fp4, 0)], ∀ k, (fmt p.1).round k .nan = (p.2, Flag.nv)) ∧
  ∀ (t : Tag) (eb fb bias : Nat) (most : ℚ) (infs : Bool), (t, eb, fb, bias, most, infs) ∈ floatFormats →
    let f := fmt t
    let isNum (c : Nat) : Prop := FVal.finite (f.decode c) = true
    let y (c : Nat) : ℚ := val (f.decode c)
    (∀ c, let fr : Nat := c % 2 ^ fb
      let ex : Nat := c / 2 ^ fb % 2 ^ eb
      (ex = 2 ^ eb - 1 → infs = true → f.decode c = if fr = 0 then .inf (c.testBit (eb + fb)) else .nan) ∧
      (ex = 2 ^ eb - 1 → t = .fp8a → fr = 7 → f.decode c = .nan) ∧
      (¬ (ex = 2 ^ eb - 1 ∧ (infs = true ∨ (t = .fp8a ∧ fr = 7))) → isNum c ∧ y c = (if c.testBit (eb + fb) then -1 else 1) *
        (if ex = 0 then (fr : ℚ) / 2 ^ fb * 2 ^ (1 - (bias : Int)) else (1 + (fr : ℚ) / 2 ^ fb) * 2 ^ ((ex : Int) - bias)))) ∧
    (∀ k n, let r := f.round k (.inf n)
      if infs then f.decode r.1 = .inf n ∧ r.2 = 0 else isNum r.1 ∧ y r.1 = (if n then -most else most) ∧ r.2 = Flag.sat) ∧
    ∀ k n m e, k < 4 →
      let x := val (.num n m e false)
      let r := f.round k (.num n m e false)
      let v := y r.1
      let unit : ℚ := 2 ^ ((2 ^ eb - (if infs then 2 else 1) : Int) - bias - fb)
      let away := (k = 2 ∧ 0 < x) ∨ (k = 3 ∧ x < 0)
      let beyond := (away → most < |x|) ∧ (¬ away → k = 0 → if t = .fp8a then most + unit / 2 < |x| else most + unit / 2 ≤ |x|) ∧
        (¬ away → k ≠ 0 → most + unit ≤ |x|)
      r.1.testBit (eb + fb) = n ∧
      (beyond → r.2 = Flag.of ||| Flag.nx ||| (if infs then 0 else Flag.sat) ∧
        (infs = true → k = 0 ∨ away → f.decode r.1 = .inf n) ∧
        (infs = false ∨ (k ≠ 0 ∧ ¬ away) → isNum r.1 ∧ v = if n then -most else most)) ∧
      (¬ beyond → isNum r.1 ∧
        (k = 0 → ∀ c, isNum c → |v - x| ≤ |y c - x| ∧ (|v - x| = |y c - x| → y c ≠ v → r.1 % 2 = 0)) ∧
        (k = 1 → |v| ≤ |x| ∧ 0 ≤ v * x ∧ ∀ c, isNum c → |y c| ≤ |x| → |y c| ≤ |v|) ∧
        (k = 2 → x ≤ v ∧ ∀ c, isNum c → x ≤ y c → v ≤ y c) ∧
        (k = 3 → v ≤ x ∧ ∀ c, isNum c → y c ≤ x → y c ≤ v) ∧
        (v = x → r.2 = 0) ∧ (v ≠ x → 2 ^ (1 - (bias : Int)) ≤ |x| → r.2 = Flag.nx) ∧
        (v ≠ x → |x| < 2 ^ (1 - (bias : Int)) → r.2 = Flag.nx ||| Flag.uf))

/-- R138: FMIN and FMAX deliver an operand, −0 below +0, or the canonical NaN, and NV where one is NaN; R139: FCMP gives each element
all-ones or zero and sets cc by element 0: EQ, LT and LE by the values, false with a NaN, UN where one is NaN, which sets NV. -/
def Sys2Proof.Claims.FloatMinMaxAndCompare : Prop :=
  ∀ (d a b : VOp) (da db : BitVec 1) (f : BitVec 2) (s : State) (t : Tag),
    let p := s.prelude
    let z := ftzOn p.warp.frm t
    let x L e := operand t z (p.floatBits t a L e)
    let y L e := operand t z (p.floatBits t b L e)
    let nan L e : Prop := (x L e).isNan = true ∨ (y L e).isNan = true
    let nv (fl : Word) : Prop := (fl = 0 ∨ fl = Flag.nv) ∧
      (fl = Flag.nv ↔ ∃ L e, L < 32 ∧ p.mask.getLsbD L = true ∧ e < Tag.count t ∧ nan L e)
    (p.floatTag floatTags [a, b] d = some t → Goes s (floatNeeds (.fminmax d a b da db f) [(a, da), (b, db)] d t) →
      ∃ lo hi fl, exec (.fminmax d a b da db f) s = .next (written p [p.floatSrc a da, p.floatSrc b db]
          { dst := d, tag := t, lo := lo, hi := hi, flags := fl }) ∧ nv fl ∧
        ∀ L e, L < 32 → e < Tag.count t →
          let r := operand t z (resultBits t lo hi L e)
          let best (u v : FVal) : Prop := if f.toNat % 2 = 0 then ¬ belowZeros v u else ¬ belowZeros u v
          (¬ nan L e → (r = x L e ∧ best (x L e) (y L e)) ∨ (r = y L e ∧ best (y L e) (x L e))) ∧
          ((x L e).isNan = true → (y L e).isNan = true → resultBits t lo hi L e = (fmt t).nanBits) ∧
          ((x L e).isNan = true → (y L e).isNan = false → f.toNat < 2 → r = y L e) ∧
          ((x L e).isNan = false → (y L e).isNan = true → f.toNat < 2 → r = x L e) ∧
          (nan L e → 2 ≤ f.toNat → resultBits t lo hi L e = (fmt t).nanBits)) ∧
    (p.floatTag floatTags [a, b] d false = some t →
      Goes s (fun p => { legal := (Instr.fcmp d a b da db f).wellFormed, srcs := [p.floatSrc a da, p.floatSrc b db],
                         dsts := [{ op := d }], ccAwait := true }) →
      ∃ lo c fl, exec (.fcmp d a b da db f) s = .next (written p [p.floatSrc a da, p.floatSrc b db]
          { dst := d, tag := .i32, lo := lo, cc := some c, flags := fl }) ∧ nv fl ∧
        ∀ L, L < 32 → ∃ q : Nat → Bool,
          (∀ e, e < Tag.count t →
            (f = 0 → (q e = true ↔ same (x L e) (y L e))) ∧ (f = 1 → (q e = true ↔ below (x L e) (y L e))) ∧
            (f = 2 → (q e = true ↔ below (x L e) (y L e) ∨ same (x L e) (y L e))) ∧ (f = 3 → (q e = true ↔ nan L e))) ∧
          c.getLsbD L = q 0 ∧
          (Tag.count t = 1 → lane lo L = if q 0 then 0xFFFFFFFF else 0) ∧
          (Tag.count t = 2 → lane lo L = (if q 0 then 0xFFFF else 0) ||| (if q 1 then 0xFFFF0000 else 0)))

/-- R140: FNEG, FABS and FSGN change sign bits only and set no flag; R146: FROUND gives an integer value and sets no flag but NV. -/
def Sys2Proof.Claims.FloatSignAndRound : Prop :=
  ∀ (d a b : VOp) (da db : BitVec 1) (f : BitVec 2),
    let top (t : Tag) := (fmt t).width - 1
    (∀ s t, s.prelude.floatTag floatTags (if f = 2 then [a, b] else [a]) d = some t →
      let xs := if f = 2 then [(a, da), (b, db)] else [(a, da)]
      Goes s (floatNeeds (.fsign d a b da db f) xs d t) →
      ∃ lo hi, exec (.fsign d a b da db f) s = .next (written s.prelude (xs.map fun x => s.prelude.floatSrc x.1 x.2)
          { dst := d, tag := t, lo := lo, hi := hi }) ∧
        ∀ L e i, L < 32 → e < Tag.count t → i < Tag.width t → f.toNat < 3 →
          let u := s.prelude.floatBits t a L e
          (resultBits t lo hi L e).testBit i =
            if i = top t then (if f = 0 then !u.testBit i else if f = 1 then false else (s.prelude.floatBits t b L e).testBit i)
            else u.testBit i) ∧
    FloatResult (.fround d a da f) [(a, da)] d floatTags none (fun _ t xs =>
      let x := xs.getD 0 0
      match (fmt t).decode x with
      | .nan => ((fmt t).nanBits, Flag.nv)
      | .inf _ => (x, 0)
      | .num n m e _ => if 0 ≤ e then (x, 0) else (((fmt t).round 0 (.num n (roundUnits f.toNat n m e 0 false).1 0 false)).1, 0))

/-- R141 and R142: FDIV and FSQRT round once; the other functions compute in FP32 and, for FP16 and BF16, round a second time; NaN is
NV. The mode is that of FRM, and the results are still to be produced. -/
def Sys2Proof.Claims.FloatFunctionsRound : Prop :=
  ∀ (d a b : VOp) (k : BitVec 4),
    let once (g : FVal → FVal → FVal × Word) (p : State) (t : Tag) (xs : List Nat) : Nat × Word :=
      let z := ftzOn p.warp.frm t
      match g (operand t z (xs.getD 0 0)) (operand t z (xs.getD 1 0)) with
      | (.nan, _) => ((fmt t).nanBits, Flag.nv)
      | (v, fl) => let y := flushOut z ((fmt t).round (frmRm p.warp.frm) v); (y.1, y.2 ||| fl)
    let twice (g : FVal → FVal × Word) (p : State) (t : Tag) (xs : List Nat) : Nat × Word :=
      let z := ftzOn p.warp.frm t
      match g (operand t z (xs.getD 0 0)) with
      | (.nan, _) => ((fmt t).nanBits, Flag.nv)
      | (v, fl) =>
        let y := flushOut z ((fmt .fp32).round (frmRm p.warp.frm) v)
        if t = .fp32 then (y.1, y.2 ||| fl)
        else
          let w := (fmt t).round (frmRm p.warp.frm) ((fmt .fp32).decode y.1)
          (w.1, w.2 ||| y.2 ||| fl)
    FloatResult (.fdiv d a b k) [(a, 0), (b, 0)] d floatTags (some k) (once FVal.div) ∧
    FloatResult (.fsqrt d a k) [(a, 0)] d floatTags (some k) (once fun x _ => FVal.sqrt x) ∧
    FloatResult (.frcp d a k) [(a, 0)] d shortTags (some k) (twice FVal.rcp) ∧
    FloatResult (.frsq d a k) [(a, 0)] d shortTags (some k) (twice FVal.rsq) ∧
    FloatResult (.fexp2 d a k) [(a, 0)] d shortTags (some k) (twice FVal.exp2) ∧
    FloatResult (.flog2 d a k) [(a, 0)] d shortTags (some k) (twice FVal.log2) ∧
    FloatResult (.fsin d a k) [(a, 0)] d shortTags (some k) (twice (FVal.trig false)) ∧
    FloatResult (.fcos d a k) [(a, 0)] d shortTags (some k) (twice (FVal.trig true))

/-- R144 and R145: FDOT2 adds two products and D and rounds once to FP32; IDOT4 adds four products to D. -/
def Sys2Proof.Claims.DotProducts : Prop :=
  ∀ (d a b : VOp) (da db : BitVec 1) (f : BitVec 2) (s : State),
    let p := s.prelude
    let abd := [srcA a da, srcA b db, { op := d }]
    (∀ t, p.srcTag a = some t → p.srcTag b = some t → t = .fp16 ∨ t = .bf16 → (p.srcTag d).getD .fp32 = .fp32 →
      Goes s (needs (.fdot2 d a b da db) abd d) →
      let x v L e := (fmt t).decode (elemBits t (lane (p.vec v) L) e)
      let c L := (fmt .fp32).decode (lane (p.vec d) L).toNat
      ∃ y fl, exec (.fdot2 d a b da db) s = .next (written p [srcA a da, srcA b db] { dst := d, tag := .fp32, lo := y, flags := fl }) ∧
        ∀ L, L < 32 → FVal.finite (x a L 0) = true → FVal.finite (x b L 0) = true → FVal.finite (x a L 1) = true →
          FVal.finite (x b L 1) = true → FVal.finite (c L) = true →
          ∃ v, FVal.finite v = true ∧ val v = val (x a L 0) * val (x b L 0) + val (x a L 1) * val (x b L 1) + val (c L) ∧
            (lane y L).toNat = (flushOut (frmFtz p.warp.frm) ((fmt .fp32).round (frmRm p.warp.frm) v)).1) ∧
    (∀ ta tb, dotTag (p.srcTag a) (p.srcTag b) = some ta → dotTag (p.srcTag b) (p.srcTag a) = some tb →
      p.srcTag d ∈ [none, some Tag.raw, some .i32] → Goes s (needs (.idot4 d a b da db f) abd d) →
      let x (t : Tag) v L e : Int := element p [{ op := v }] .i8 (t == .i8) L e 0
      let z L : Int := (lane (p.vec d) L).toInt + x ta a L 0 * x tb b L 0 + x ta a L 1 * x tb b L 1 + x ta a L 2 * x tb b L 2
        + x ta a L 3 * x tb b L 3
      ∃ y fl, exec (.idot4 d a b da db f) s = .next (written p [srcA a da, srcA b db] { dst := d, tag := .i32, lo := y, flags := fl }) ∧
        ∀ L, L < 32 → lane y L = BitVec.ofInt 32 (if f = 1 then (clampS 32 (z L)).1 else z L))

/-- Float arithmetic: exact sums, products and quotients, rounded once. -/
def Obligations.FloatArithmeticIsExactOrRounded : Prop :=
  Sys2Proof.Claims.FloatArithmeticRoundsOnce ∧ Sys2Proof.Claims.ExactSumProductAndQuotient

/-- Float minimum, maximum, compare, sign, rounding to an integer, functions and dot products. -/
def Obligations.FloatComparesFunctionsAndDotProducts : Prop :=
  Sys2Proof.Claims.FloatMinMaxAndCompare ∧ Sys2Proof.Claims.FloatSignAndRound ∧ Sys2Proof.Claims.FloatFunctionsRound ∧ Sys2Proof.Claims.DotProducts

/-- R86 and R87: every integer of a residue format's range has a code, which is not VOID and decodes to it. -/
def Sys2Proof.Claims.ResidueCodesInvert : Prop :=
  ∀ (t : Tag) (x : Int), Tag.isResidue t = true → (Tag.residueRange t).1 ≤ x → x ≤ (Tag.residueRange t).2 →
    isVoid t (rencode t x) = false ∧ rdecode t (rencode t x) = x ∧ rencode t x < 2 ^ Tag.width t

/-- R149: RADD, RMUL and RNEG are exact modulo M, element by element, and RMAC adds products of elements to an RW pair modulo
2^48 − 2^16; a VOID element reads as zero and sets VOID, or traps before any effect where FRM.VT is set (no such trap here). -/
def Sys2Proof.Claims.ResidueArithmeticModM : Prop :=
  ∀ (d a b : VOp) (da db : BitVec 1),
    let voidFree (p : State) (t : Tag) (xs : List VOp) : Prop := frmVt p.warp.frm = true →
      ∀ x ∈ xs, ∀ L e, p.mask.getLsbD L = true → L < 32 → e < Tag.count t → isVoid t (elemBits t (lane (p.vec x) L) e) = false
    let R (i : Instr) (xs : List (VOp × BitVec 1)) (op : Int → Int → Int) : Prop :=
      ∀ s t, s.prelude.residueTag (xs.map (·.1)) = some t →
        let p := s.prelude
        let srcs := xs.map fun x => srcA x.1 x.2
        let u k L e := elemBits t (lane (p.vec ((xs.map (·.1)).getD k .zero)) L) e
        voidFree p t (xs.map (·.1)) → Goes s (needs i srcs d) →
        ∃ y fl, exec i s = .next (written p srcs { dst := d, tag := t, lo := y, flags := fl }) ∧
          (∀ L e, L < 32 → e < Tag.count t →
            let r := elemBits t (lane y L) e
            isVoid t r = false ∧ (Tag.residueRange t).1 ≤ rdecode t r ∧ rdecode t r ≤ (Tag.residueRange t).2 ∧
              (Tag.modulus t : Int) ∣ rdecode t r - op (relem t (u 0 L e)).1 (relem t (u 1 L e)).1) ∧
          (fl.getLsbD 13 = true ↔ ∃ L e k, p.mask.getLsbD L = true ∧ L < 32 ∧ e < Tag.count t ∧ k < xs.length ∧ isVoid t (u k L e) = true)
    R (.radd d a b da db) [(a, da), (b, db)] (fun x y => x + y) ∧
    R (.rmul d a b da db) [(a, da), (b, db)] (fun x y => x * y) ∧
    R (.rneg d a da) [(a, da)] (fun x _ => -x) ∧
    ∀ s t, s.prelude.residueTag [a, b] = some t → s.prelude.srcTag d = some .rw → s.prelude.srcTag d 1 = some .rw →
      let p := s.prelude
      let srcs : List Src := [srcA a da, srcA b db, { op := d, count := 2 }]
      let x v L e := (relem t (elemBits t (lane (p.vec v) L) e)).1
      let acc L := (relem .rw (p.pair d L).toNat).1
      voidFree p t [a, b] → (frmVt p.warp.frm = true → ∀ L, p.mask.getLsbD L = true → L < 32 → isVoid .rw (p.pair d L).toNat = false) →
      Goes s (fun _ => { legal := (Instr.rmac d a b da db).wellFormed, srcs := srcs, dsts := [{ op := d, count := 2 }] }) →
      ∃ lo hi fl, exec (.rmac d a b da db) s = .next (written p [srcA a da, srcA b db]
          { dst := d, tag := .rw, lo := lo, hi := some (hi, .rw), flags := fl }) ∧
        ∀ L, L < 32 →
          let r := (lane lo L).toNat + 2 ^ 32 * (lane hi L).toNat
          isVoid .rw r = false ∧ (2 ^ 48 - 2 ^ 16 : Int) ∣
            rdecode .rw r - (acc L + ((List.range (Tag.count t)).map fun e => x a L e * x b L e).sum)

/-- R150 and R151: RCRT gives an element of A, chosen by B, as an integer, or an RW pair saturated to I32; RENC gives an I32 value,
saturated to the range, as a residue code. -/
def Sys2Proof.Claims.ResidueToAndFromIntegers : Prop :=
  ∀ (d a b : VOp) (da db : BitVec 1) (g : Tag) (s : State),
    let p := s.prelude
    (∀ t, p.residueTag [a] = some t → frmVt p.warp.frm = false → Goes s (needs (.rcrt d a b da db 0) [srcA a da, srcA b db] d) →
      ∃ y fl, exec (.rcrt d a b da db 0) s = .next (written p [srcA a da, srcA b db] { dst := d, tag := .i32, lo := y, flags := fl }) ∧
        ∀ L, L < 32 →
          let e := (lane (p.vec b) L).toNat % 8
          lane y L = if e < Tag.count t then BitVec.ofInt 32 (relem t (elemBits t (lane (p.vec a) L) e)).1 else 0) ∧
    (p.srcTag a = some .rw → p.srcTag a 1 = some .rw → frmVt p.warp.frm = false →
      Goes s (needs (.rcrt d a b da db 1) [{ op := a, count := 2, dead := on da }, srcA b db] d) →
      ∃ y fl, exec (.rcrt d a b da db 1) s =
          .next (written p [{ op := a, count := 2, dead := on da }, srcA b db] { dst := d, tag := .i32, lo := y, flags := fl }) ∧
        ∀ L, L < 32 → (lane y L).toInt = (clampS 32 (relem .rw (p.pair a L).toNat).1).1) ∧
    ((p.srcTag a).getD .i32 = .i32 →
      Goes s (fun _ => { legal := (Instr.renc d a g da).wellFormed, srcs := [srcA a da],
                         dsts := [{ op := d, count := if g = .rw then 2 else 1 }] }) →
      let v L : Int := max (Tag.residueRange g).1 (min (Tag.residueRange g).2 (lane (p.vec a) L).toInt)
      ∃ lo hi fl, exec (.renc d a g da) s = .next (written p [srcA a da] { dst := d, tag := g, lo := lo, hi := hi, flags := fl }) ∧
        (hi.isSome = true ↔ g = .rw) ∧
        ∀ L, L < 32 → (lane lo L).toNat + 2 ^ 32 * (match hi with | some h => (lane h.1 L).toNat | none => 0) = rencode g (v L))

/-- R84, R152 and Table 5-6: CVT converts each element in the mode of r or FRM and sets the flags of the active lanes' elements; elements that
the source lacks are zero. What a source element is worth, and what is delivered to an integer or a residue format, by value: the rounded
integer (the range is checked on it: log 93), or the nearest range end, with its flags; a float format takes the exact value as
DeliveryRoundsCorrectly says. -/
def Sys2Proof.Claims.ConversionByElement : Prop :=
  (∀ (d a : VOp) (r : BitVec 2) (g : Tag) (da : BitVec 1) (s : State),
    let p := s.prelude
    let t := (p.srcTag a).getD .i32
    t ≠ .raw → t ≠ .rw → (t = .fp64 → a.evenV = true ∧ p.srcTag a 1 = some .fp64) →
    (Tag.isResidue t = true → frmVt p.warp.frm = false) →
    Goes s (fun p => { legal := (Instr.cvt d a r g da).wellFormed, srcs := [p.floatSrc a da],
                       dsts := [{ op := d, count := if g = .fp64 then 2 else 1 }] }) →
    ∃ lo hi fl, exec (.cvt d a r g da) s = .next (written p [p.floatSrc a da] { dst := d, tag := g, lo := lo, hi := hi, flags := fl }) ∧
      (∀ L e, L < 32 → e < Tag.count g → resultBits g lo hi L e =
        if e < Tag.count t then
          (convertTo g (mode p.warp.frm r.toNat) (sourceOf (p.team.book false) (p.team.book true) t (p.floatBits t a L e))).1
            % 2 ^ Tag.width g
        else 0) ∧
      ∀ k, k < 32 → (fl.getLsbD k = true ↔ ∃ L e, p.mask.getLsbD L = true ∧ L < 32 ∧ e < Tag.count g ∧ e < Tag.count t ∧
        (convertTo g (mode p.warp.frm r.toNat) (sourceOf (p.team.book false) (p.team.book true) t (p.floatBits t a L e))).2.getLsbD k = true)) ∧
  (∀ (b4 b8 : Nat → Nat) (t : Tag) (x : Nat),
    (t = .ix4 → sourceOf b4 b8 t x = .float ((fmt .fp16).decode (b4 x))) ∧ (t = .ix8 → sourceOf b4 b8 t x = .float ((fmt .fp16).decode (b8 x))) ∧
    (Tag.isResidue t = true → sourceOf b4 b8 t x = if isVoid t x then .void else .int (rdecode t x)) ∧
    (Tag.isInt t = true → sourceOf b4 b8 t x = .int (if Tag.signed t = true ∧ 2 ^ (Tag.width t - 1) ≤ x then (x : Int) - 2 ^ Tag.width t else x)) ∧
    (t ∈ floatFormats.map (·.1) → sourceOf b4 b8 t x = .float ((fmt t).decode x))) ∧
  (∀ g ∈ floatFormats.map (·.1), ∀ k, convertTo g k .void = (0, Flag.void) ∧
    (∀ v : Int, convertTo g k (.int v) = (fmt g).round k (.num (decide (v < 0)) v.natAbs 0 false)) ∧
    ∀ v, convertTo g k (.float v) = (fmt g).round k v) ∧
  ∀ (g : Tag) (lo hi : Int) (k : Nat), k < 4 →
    (g, lo, hi) ∈ [(Tag.i32, -2 ^ 31, 2 ^ 31 - 1), (.n32, 0, 2 ^ 32 - 1), (.i16, -32768, 32767), (.n16, 0, 65535), (.i8, -128, 127), (.n8, 0, 255),
      (.i4, -8, 7), (.n4, 0, 15), (.i2, -2, 1), (.n1, 0, 1), (.rs6, -15, 14), (.rp6, 0, 29), (.rs8, -52, 52), (.rp8, 0, 104),
      (.rs12, -1560, 1559), (.rp12, 0, 3119), (.rs16, -16368, 16367), (.rp16, 0, 32735)] →
    let gives (x : Source) (n : Int) (fl : Word) : Prop :=
      (convertTo g k x).2 = fl ∧ if Tag.isResidue g then isVoid g (convertTo g k x).1 = false ∧ rdecode g (convertTo g k x).1 = n
        else intOf (Tag.signed g) (Tag.width g) (convertTo g k x).1 = n ∧ (convertTo g k x).1 < 2 ^ Tag.width g
    gives .void 0 Flag.void ∧ gives (.float .nan) 0 Flag.nv ∧
    (∀ n, gives (.float (.inf n)) (if n then lo else hi) (Flag.nv ||| Flag.sat)) ∧
    (∀ v : Int, gives (.int v) (max lo (min hi v)) (if lo ≤ v ∧ v ≤ hi then 0 else Flag.sat)) ∧
    ∀ x, FVal.finite x = true → ∃ n, RoundsTo k (val x) n ∧ gives (.float x) (max lo (min hi n))
      (if lo ≤ n ∧ n ≤ hi then (if (n : ℚ) = val x then 0 else Flag.nx) else Flag.nv ||| Flag.sat)

/-- R153 and R154: TAG gives the bits of A another tag; MOV keeps bits and tag, an untagged source giving I32; MOV.D moves a pair,
each register with its own tag. -/
def Sys2Proof.Claims.TagAndMoveKeepBits : Prop :=
  ∀ (d a : VOp) (g : Tag) (da : BitVec 1) (s : State),
    let p := s.prelude
    let wide := g = .fp64 ∨ g = .rw
    let two : Src := { op := a, count := 2, dead := on da }
    (Goes s (fun _ => { legal := (Instr.tag d a g da).wellFormed, srcs := [{ op := a, count := if wide then 2 else 1, dead := on da }],
                        dsts := [{ op := d, count := if wide then 2 else 1 }] }) →
      exec (.tag d a g da) s = .next (written p [{ op := a, count := if wide then 2 else 1, dead := on da }]
        { dst := d, tag := g, lo := p.vec a, hi := if wide then some (p.vec a 1, g) else none })) ∧
    (Goes s (needs (.mov d a da) [srcA a da] d) →
      exec (.mov d a da) s = .next (written p [srcA a da] { dst := d, tag := (p.srcTag a).getD .i32, lo := p.vec a })) ∧
    (Goes s (fun _ => { legal := (Instr.movD d a da).wellFormed, srcs := [two], dsts := [{ op := d, count := 2 }] }) →
      exec (.movD d a da) s = .next (written p [two]
        { dst := d, tag := (p.srcTag a).getD .i32, lo := p.vec a, hi := some (p.vec a 1, (p.srcTag a 1).getD .i32) }))

/-- Residue codes and their arithmetic. -/
def Obligations.ResidueCodesAndArithmetic : Prop :=
  Sys2Proof.Claims.ResidueCodesInvert ∧ Sys2Proof.Claims.ResidueArithmeticModM ∧ Sys2Proof.Claims.ResidueToAndFromIntegers

/-- Conversions, tags and moves. -/
def Obligations.ConversionsAndTags : Prop :=
  Sys2Proof.Claims.ConversionByElement ∧ Sys2Proof.Claims.TagAndMoveKeepBits

/-- R33, R103, R104 and R106: NOP only goes on; BLK gives its entry the priority of the word that its lanes reached, or its own; YIELD is a
yield point after which its run has ended and the warp rests for a turn; LIT and LIT.HI write the literal register. -/
def Sys2Proof.Claims.CoreControlWords : Prop :=
  ∀ (r q b : BitVec 8) (v : BitVec 24),
    Takes .nop (bare .nop) (fun p => wentOn p.enterInvalid) ∧
    Takes (.blk r q) (bare (.blk r q)) (fun p => wentOn (p.enterInvalid.setPrio ((p.pr p.entry.pc).getD q))) ∧
    Takes .yield (fun _ => { drains := true })
      (fun p => wentOn ({ p with warp := { p.warp.drain with oc := Vector.replicate 16 Copy.blank, runCount := 64, rest := true } } : State).enterInvalid) ∧
    Takes (.lit v) (fun _ => { sdsts := [{ op := .lit }] })
      (fun p => wentOn ({ p with warp := { p.warp with lit := BitVec.ofInt 32 v.toInt } } : State).enterInvalid) ∧
    Takes (.litHi b) (fun _ => { sdsts := [{ op := .lit }] })
      (fun p => wentOn ({ p with warp := { p.warp with
        lit := BitVec.ofNat 32 (b.toNat * 2 ^ 24 + p.warp.lit.toNat % 2 ^ 24) } } : State).enterInvalid)

/-- R155: WINB and SWINB set the window bases to 8q; WINDOW where the vector window would leave the allocation or q exceeds 33. -/
def Sys2Proof.Claims.WindowBasesSetOrFault : Prop :=
  ∀ (q : BitVec 5) (r : BitVec 6) (s : State),
    let p := s.prelude
    (Goes s (bare (.winb q)) →
      if q = 0 ∨ q.toNat + 8 ≤ p.warp.vvg then
        exec (.winb q) s = .next (wentOn ({ p with warp := { p.warp with wb := 8 * q.toNat } } : State).enterInvalid)
      else exec (.winb q) s = .next (p.raise { code := 0x0008, lanes := p.mask, addr := 0 })) ∧
    (Goes s (bare (.swinb r)) →
      if r.toNat ≤ 33 then
        exec (.swinb r) s = .next (wentOn ({ p with warp := { p.warp with swb := 8 * r.toNat } } : State).enterInvalid)
      else exec (.swinb r) s = .next (p.raise { code := 0x0008, lanes := p.mask, addr := 0 }))

/-- R157: OCMOV moves all 32 lanes, the mask aside: RD gives 0 with tag RAW for an empty slot, WR makes its slot valid. -/
def Sys2Proof.Claims.OperandCacheMovesAllLanes : Prop :=
  ∀ (d a : VOp) (n : BitVec 4) (da : BitVec 1) (s : State),
    let p := s.prelude
    let slot := look p.warp.oc Copy.blank n.toNat
    (Goes s (fun _ => { legal := (Instr.ocmovRd d (.oc n)).wellFormed, srcs := [{ op := .oc n }], dsts := [{ op := d }], readsEmpty := true }) →
      exec (.ocmovRd d (.oc n)) s = .next (wentOn (p.settle []
        (if slot.valid then p.allLanesEntry d slot.data slot.tag else p.allLanesEntry d (splat 0) .raw)))) ∧
    (Goes s (fun _ => { legal := (Instr.ocmovWr a (.oc n) da).wellFormed, srcs := [{ op := a, dead := da == 1 }], dsts := [{ op := .oc n }] }) →
      ∃ t, exec (.ocmovWr a (.oc n) da) s = .next t ∧
        look t.warp.oc Copy.blank n.toNat =
          { data := mergeLanes 0xFFFFFFFF (p.vec a) (if slot.valid then slot.data else splat 0), tag := (p.srcTag a).getD .raw,
            valid := true, regs := [] } ∧
        ∀ k, k ≠ n.toNat → look t.warp.oc Copy.blank k = look p.warp.oc Copy.blank k)

/-- R94 and R159: BRA, BNZ and BZ; a .U form whose lanes do not agree faults with UNIFORM. -/
def Sys2Proof.Claims.BranchesTakeTheirLanes : Prop :=
  ∀ (c : VOp) (u : BitVec 1) (disp : BitVec 17) (s : State),
    let p := s.prelude
    let target := p.entry.pc + 4 + BitVec.ofInt 64 (4 * disp.toInt)
    let goes i := Goes s (fun _ => { legal := Instr.wellFormed i, srcs := [{ op := c }] })
    (Goes s (bare (.bra u disp)) → exec (.bra u disp) s = .next (p.enterInvalid.moveTo target).finish) ∧
    ∀ taken : Mask, (∀ L, L < 32 → (taken.getLsbD L = true ↔ lane (p.vec c) L ≠ 0)) →
      let agree := u = 0 ∨ p.mask &&& taken = 0 ∨ p.mask &&& taken = p.mask
      (goes (.bnz c u disp) → agree →
        exec (.bnz c u disp) s = .next (p.enterInvalid.split [(p.mask &&& taken, target), (p.mask &&& ~~~taken, p.entry.pc + 4)]).finish) ∧
      (goes (.bz c u disp) → agree →
        exec (.bz c u disp) s = .next (p.enterInvalid.split [(p.mask &&& ~~~taken, target), (p.mask &&& taken, p.entry.pc + 4)]).finish) ∧
      (¬ agree →
        (goes (.bnz c u disp) → exec (.bnz c u disp) s = .next (p.raise { code := 0x000A, lanes := p.mask, addr := 0 })) ∧
        (goes (.bz c u disp) → exec (.bz c u disp) s = .next (p.raise { code := 0x000A, lanes := p.mask, addr := 0 })))

/-- R26: a converged warp that splits has each lane of the entry at the PC its part gives it, and no other lane anywhere. -/
def Sys2Proof.Claims.SplitSendsEachLaneToItsPart : Prop :=
  ∀ (s : State) (m : Mask) (x y : BitVec 64),
    s.issuing.isSome = true → s.warp.frontier = [s.entry] →
    let t := s.split [(s.mask &&& m, x), (s.mask &&& ~~~m, y)]
    (∀ L, L < 32 → s.mask.getLsbD L = true →
      ∃ e ∈ t.warp.frontier, e.mask.getLsbD L = true ∧ e.pc = if m.getLsbD L then x else y) ∧
    (∀ e ∈ t.warp.frontier, e.mask ≠ 0 ∧ ∀ L, e.mask.getLsbD L = true → s.mask.getLsbD L = true ∧ e.pc = if m.getLsbD L then x else y) ∧
    t.warp.frontier.length ≤ 2

/-- R160 and R161: CALL writes PC + 4 to a pair, tag RAW, and goes to its target; JMPR and RET send each lane to the target in its pair (how
the entry splits is log 12's), or fault with ALIGN where an active target is misaligned. -/
def Sys2Proof.Claims.CallsLinkAndJumpsSplit : Prop :=
  ∀ (c a : VOp) (disp : BitVec 17) (da : BitVec 1) (s : State),
    let p := s.prelude
    let link : Result := { dst := c, tag := .raw, lo := splat ((p.entry.pc + 4).setWidth 32),
                           hi := some (splat (((p.entry.pc + 4) >>> 32).setWidth 32), .raw) }
    let src : Src := { op := a, count := 2, dead := da == 1 }
    (Goes s (fun _ => { legal := (Instr.call c disp).wellFormed, dsts := [{ op := c, count := 2 }] }) →
      exec (.call c disp) s = .next ((p.settle [] (p.resultEntry link)).moveTo (p.entry.pc + 4 + BitVec.ofInt 64 (4 * disp.toInt))).finish) ∧
    ((∀ L, p.mask.getLsbD L = true → (p.pair a L).toNat % 4 = 0) →
      (Goes s (fun _ => { legal := (Instr.jmpr a da).wellFormed, srcs := [src] }) →
        exec (.jmpr a da) s = .next ((p.settle [src] WinEntry.blank).split (p.targets a)).finish) ∧
      (Goes s (fun _ => { legal := (Instr.ret a da).wellFormed, srcs := [src] }) →
        exec (.ret a da) s = .next ((p.settle [src] WinEntry.blank).split (p.targets a)).finish)) ∧
    (∀ L, p.mask.getLsbD L = true → L < 32 → ∃ q ∈ p.targets a, q.1.getLsbD L = true ∧ q.2 = p.pair a L) ∧
    ((∃ L, L < 32 ∧ p.mask.getLsbD L = true ∧ (p.pair a L).toNat % 4 ≠ 0) →
      (Goes s (fun _ => { legal := (Instr.jmpr a da).wellFormed, srcs := [src] }) →
        ∃ r, exec (.jmpr a da) s = .next (p.raise r) ∧ Misaligned p a r) ∧
      (Goes s (fun _ => { legal := (Instr.ret a da).wellFormed, srcs := [src] }) →
        ∃ r, exec (.ret a da) s = .next (p.raise r) ∧ Misaligned p a r))

/-- R162: CALLR calls each lane's target where the budgets of the BLKs there fit; it faults with BADTARGET where a target is no BLK with
a budget, and with BUDGET where the allocation does not hold the largest one; CALLR.GROW takes the granules it lacks where they are free
and no request precedes its own, once the pool has granted what is due (log 89), and otherwise waits in the pool's queue; a misaligned target
is ALIGN before all of these. -/
def Sys2Proof.Claims.CallrChecksBudget : Prop :=
  ∀ (d a : VOp) (da : BitVec 1) (f : BitVec 2) (s : State),
    let p := s.prelude
    let src : Src := { op := a, count := 2, dead := da == 1 }
    let q := (p.fetchTargets (p.targets a)).1
    Goes s (fun _ => { legal := (Instr.callr d a da f).wellFormed, srcs := [src], dsts := [{ op := d, count := 2 }] }) →
    ((∃ L, L < 32 ∧ p.mask.getLsbD L = true ∧ (p.pair a L).toNat % 4 ≠ 0) →
      ∃ r, exec (.callr d a da f) s = .next (p.raise r) ∧ Misaligned p a r) ∧
    ((∀ L, p.mask.getLsbD L = true → (p.pair a L).toNat % 4 = 0) →
    match (p.fetchTargets (p.targets a)).2 with
    | .bad r => exec (.callr d a da f) s = .next (p.raise r)
    | .stall => exec (.callr d a da f) s = .next s.stall
    | .budgets budgets =>
      let need := 8 * budgets.foldl max 0
      let have' := 8 * p.warp.vvg - p.warp.wb
      if 0 ∈ budgets then ∃ r, exec (.callr d a da f) s = .next (p.raise r) ∧ r.code = 0x000B
      else if need ≤ have' then
        exec (.callr d a da f) s = .next ((q.settle [src] (q.resultEntry (q.link d))).split (p.targets a)).finish
      else
        let g := (need - have' + 7) / 8
        let z := q.arbitrate
        let req : PoolReq := .callr d (if da = 1 then some a else none) (p.targets a) g
        if f = 1 ∧ p.warp.vvg + g ≤ 32 then
          exec (.callr d a da f) s = .next
            (if (z.poolQueue z.core.num).isEmpty = true ∧ g ≤ z.freeGranules z.core.num then z.grantEnd req else z.holdAs (.pool req)).finish
        else exec (.callr d a da f) s = .next (p.raise { code := 0x0009, lanes := p.mask, addr := 0 }))

/-- R19 and R163: EXIT drains the window, so that every register's value is in its bank, and takes its lanes out of the warp, its frontier
and its warp regions; the warp departs when no live lane is left. -/
def Obligations.ExitRemovesItsLanes : Prop :=
  ∀ (s : State), Goes s (fun _ => { legal := Instr.exit.wellFormed, drains := true }) →
    let p := s.prelude
    let t := (p.withWarp p.warp.drain).exitLanes
    exec .exit s = .next (if p.warp.live &&& ~~~p.mask = 0 then t.depart else t).finish ∧
    t.warp.live = p.warp.live &&& ~~~p.mask ∧
    (∀ e, e ∈ t.warp.frontier ↔ e ∈ p.warp.frontier ∧ e.id ≠ p.entry.id) ∧
    (t.warp.tries = p.warp.tries.map fun r => { r with mask := r.mask &&& ~~~p.mask }) ∧
    ∀ r, r < 256 → t.warp.regData r = p.warp.regData r ∧ (p.warp.outs = [] → (t.warp.bankReg r).data = p.warp.regData r)

/-- R164 and R165: TRY at warp level opens a region for its lanes, at most eight; at team and grid level it joins the next region that is
open or opens one, at most four and two; GRIDSYNC at grid level where the launch is not cooperative. -/
def Sys2Proof.Claims.TryOpensOrJoins : Prop :=
  ∀ (f : BitVec 1) (disp : BitVec 17) (s : State),
    let p := s.prelude
    let region : Region := { catchPc := p.entry.pc + 4 + BitVec.ofInt 64 (4 * disp.toInt), f := f == 1, mask := p.mask, stamp := p.nextId, ended := [] }
    let i l := Instr.tryRegion f l disp
    let bad l code := exec (i l) s = .next (p.raise { code := code, lanes := p.mask, addr := 0 })
    let opened (t : State) (l : BitVec 2) := exec (i l) s = .next (wentOn t.enterInvalid)
    (Goes s (bare (i 0)) →
      if 8 ≤ p.warp.tries.length then bad 0 0x0001
      else opened { p with nextId := p.nextId + 1, warp := { p.warp with tries := region :: p.warp.tries } } 0) ∧
    (Goes s (bare (i 1)) → p.mask = p.warp.live →
      if p.warp.jt = p.team.tries.length ∧ 4 ≤ p.team.tries.length then bad 1 0x0001
      else opened { p with nextId := p.nextId + 1, warp := { p.warp with jt := p.warp.jt + 1 },
                           team := { p.team with tries := if p.warp.jt < p.team.tries.length then p.team.tries else region :: p.team.tries } } 1) ∧
    (Goes s (bare (i 2)) → p.mask = p.warp.live →
      if p.launch.coop = false then bad 2 0x0031
      else if p.warp.jg = p.launch.gtries.length ∧ 2 ≤ p.launch.gtries.length then bad 2 0x0001
      else opened { p with nextId := p.nextId + 1, warp := { p.warp with jg := p.warp.jg + 1 },
                           launch := { p.launch with
                             gtries := if p.warp.jg < p.launch.gtries.length then p.launch.gtries else region :: p.launch.gtries } } 2) ∧
    (∀ l, Goes s (bare (i l)) → l ≠ 0 → p.mask ≠ p.warp.live → bad l 0x000A)

/-- R166: ENDTRY at warp level closes the innermost region, whose live lanes must all be in the entry; at team level the warp waits with
its end flag set. -/
def Sys2Proof.Claims.EndtryClosesOrWaits : Prop :=
  ∀ (s : State),
    let p := s.prelude
    (∀ r rest, Goes s (bare (.endtry 0)) → p.warp.tries = r :: rest →
      if r.mask &&& p.warp.live &&& ~~~p.mask = 0 then
        ∃ t, exec (.endtry 0) s = .next t ∧ t.warp.tries = rest
      else exec (.endtry 0) s = .next (p.raise { code := 0x000A, lanes := p.mask, addr := 0 })) ∧
    (∀ l : BitVec 2, Goes s (bare (.endtry l)) → p.mask = p.warp.live →
      (if l = 0 then p.warp.tries.length else if l = 1 then p.warp.jt else p.warp.jg) = 0 →
      exec (.endtry l) s = .next (p.raise { code := 0x0001, lanes := p.mask, addr := 0 })) ∧
    (∀ l : BitVec 2, l = 1 ∨ l = 2 → Goes s (bare (.endtry l)) → p.mask = p.warp.live → (if l = 1 then p.warp.jt else p.warp.jg) ≠ 0 →
      exec (.endtry l) s = .next (p.endRegion l.toNat).finish)

/-- R167: THROW throws each active lane's code to that lane's innermost region; a code below 0x0400 is THROWCODE. RETHROW throws the
current record's code to a region above the record's, and is ILLEGAL without a record. In a trap routine the warp goes on at the next word, up to
its TRET, and the throwing lanes' stop PCs are the THROW (R179, log 9). -/
def Sys2Proof.Claims.ThrowGoesToInnermostRegion : Prop :=
  ∀ (a : VOp) (da : BitVec 1) (s : State),
    let p := s.prelude
    let src : Src := { op := a, dead := da == 1 }
    let code L : BitVec 16 := (lane (p.vec a) L).setWidth 16
    let thrown (t : State) (ts : List (Option Holder × Thrower)) : State :=
      if t.warp.tdepth then t.advance.throwAll (ts.map fun x => (x.1, { x.2 with stopAt := some t.entry.pc })) else t.throwAll ts
    (Goes s (fun _ => { legal := (Instr.throwCode a da).wellFormed, srcs := [src] }) →
      ((∀ L, p.mask.getLsbD L = true → 0x0400 ≤ (code L).toNat) →
        exec (.throwCode a da) s = .next (thrown (p.settle [src] WinEntry.blank)
          (p.active.map fun L => (p.innermost L, p.thrower L (code L) p.entry.pc 0))).finish) ∧
      ((∃ L, L < 32 ∧ p.mask.getLsbD L = true ∧ (code L).toNat < 0x0400) →
        exec (.throwCode a da) s = .next (p.raise { code := 0x000C, lanes := p.mask, addr := 0 }))) ∧
    (Goes s (bare .rethrow) →
      (p.warp.caught = false → exec .rethrow s = .next (p.raise { code := 0x0001, lanes := p.mask, addr := 0 })) ∧
      (p.warp.caught = true → ∃ ts, exec .rethrow s = .next (thrown p.enterInvalid ts).finish ∧ ts.map (·.2.lane) = p.active ∧
        ∀ x ∈ ts, x.2.code = (look p.warp.record 0 0).setWidth 16 ∧
          ∀ h, x.1 = some h → (look p.warp.record 0 0).toNat / 2 ^ 16 % 4 < h.level))

/-- R168: XGET reads the record, the lane's stop PC or its threw mark, with tag RAW. -/
def Sys2Proof.Claims.XgetReadsTheRecord : Prop :=
  ∀ (d : VOp) (sel : BitVec 10) (s : State),
    let p := s.prelude
    Goes s (needs (.xget d sel) [] d) →
    ∃ y, exec (.xget d sel) s = .next (written p [] { dst := d, tag := .raw, lo := y }) ∧
      ∀ L, L < 32 → lane y L =
        if sel.toNat < 16 then look p.warp.record 0 sel.toNat
        else if sel = 0x10 then (look p.warp.stopPc 0 L).setWidth 32
        else if sel = 0x11 then (look p.warp.stopPc 0 L >>> 32).setWidth 32
        else if p.warp.threw.getLsbD L then 1 else 0

/-- R41, R169 to R171: BAR. The warp arrives once its earlier accesses are done; a second arrival and SYNC wait; WAIT, once they are done,
waits for the generation of the warp's last arrival; COUNT reads arrivals, members and generation; GRID.SYNC needs a cooperative launch and its
arrival is a release at device scope. -/
def Sys2Proof.Claims.BarriersArriveWaitAndCount : Prop :=
  ∀ (b : BitVec 4) (d : VOp) (s : State),
    let p := s.prelude
    let n := b.toNat
    let gen := (p.team.bar n).gen
    let held (t : State) (again wait : Bool) : State := t.holdAs (.bar n gen again wait)
    let yielded := p.withWarp p.warp.yieldPoint
    p.mask = p.warp.live →
    (Goes s (bare (.barArrive b)) → p.accessesDone = true →
      exec (.barArrive b) s = .next (if p.enterInvalid.hasArrived n then held p.enterInvalid true false
        else ((p.enterInvalid.arriveBar n).advance.completeAll p.team.handle)).finish) ∧
    (Goes s (fun _ => { legal := (Instr.barSync b).wellFormed, drains := true }) → p.accessesDone = true →
      exec (.barSync b) s = .next (if yielded.enterInvalid.hasArrived n then held yielded.enterInvalid true true
        else (held (yielded.enterInvalid.arriveBar n) false true).completeAll p.team.handle).finish) ∧
    (Goes s (fun _ => { legal := (Instr.barWait b).wellFormed, drains := true }) → p.accessesDone = true →
      (look p.warp.barGen none n = none → exec (.barWait b) s = .next (wentOn yielded.enterInvalid)) ∧
      (∀ g, look p.warp.barGen none n = some g → gen ≤ g →
        exec (.barWait b) s = .next (yielded.enterInvalid.holdAs (.bar n g false true)).finish) ∧
      (∀ g, look p.warp.barGen none n = some g → g < gen →
        exec (.barWait b) s = .next (wentOn (yielded.enterInvalid.foldWct (p.team.bar n).past)))) ∧
    (Goes s (needs (.barCount d b) [] d) →
      exec (.barCount d b) s = .next (written p [] { dst := d, tag := .i32, lo := splat (BitVec.ofNat 32
        ((p.team.bar n).arrivals % 256 + 2 ^ 8 * (p.expected p.team n % 256) + 2 ^ 16 * (gen % 2 ^ 16))) })) ∧
    (Goes s (fun _ => { legal := Instr.barGridSync.wellFormed, drains := true }) →
      (p.launch.coop = false → exec .barGridSync s = .next (p.raise { code := 0x0031, lanes := p.mask, addr := 0 })) ∧
      (p.launch.coop = true →
        let arrived (t : State) : State :=
          let w := (t.withWarp t.warp.yieldPoint).enterInvalid.holdAs (.grid t.launch.gridGen)
          ({ w with launch := { w.launch with gridArrived := (w.team.handle, w.warp.idx) :: w.launch.gridArrived } } : State).completeGrid w.launch.id
        (Settled p → exec .barGridSync s = .next (arrived p).finish) ∧
        Comes .barGridSync s (upon p.releaseDevice arrived)))

/-- R170, R269 and R270: the current generation of a barrier completes once the warps that have arrived and the copies that have arrived on it
number its expected arrivals: the member warps, those copies, and the copies still tied to it. The next generation then counts the second
arrivals that waited for this one, a waiter goes on at the next word, with the greatest tw of the copies in its WCT, and a waiter that a
trap routine has interrupted is marked as released. -/
def Sys2Proof.Claims.BarrierGenerationsComplete : Prop :=
  (∀ (s : State) (h b : Nat),
    let t := s.teamOf h
    let x := t.bar b
    let arrived := (maskLanes x.arrived).length + x.copies
    let full := arrived ≠ 0 ∧
      arrived = (s.teamWarps h).length + x.copies + (t.copies.filter fun c => c.tie == some (b, x.gen)).length
    let r := s.tryComplete h b
    let y := (r.1.teamOf h).bar b
    b < 16 → t.handle = h → t.twin = none → t.guarded = false →
    (¬ full → r = (s, false)) ∧
    (full → r.2 = true ∧ y.gen = x.gen + 1 ∧ y.copies = x.next ∧ y.next = 0 ∧
      (∀ i, i < 32 → (y.arrived.getLsbD i = true ↔ ∃ w ∈ s.teamWarps h, w.idx = i ∧ w.arrivesNext b x.gen = true)) ∧
      (∀ n, n < 16 → n ≠ b → (r.1.teamOf h).bar n = t.bar n) ∧
      r.1.teamWarps h = (s.teamWarps h).map fun w => if w.gone then w else w.barDone (s.prOf t) b x.gen x.tw)) ∧
  ∀ (w : Warp) (pr : BitVec 64 → Option (BitVec 8)) (b g tw : Nat) (wait : Bool) (e : Entry),
    let v := w.barDone pr b g tw
    let other (h : Hold) : Prop := ∀ x y, h ≠ .bar b g x y
    let goes (u : Warp) : Prop := u.hold = .none ∧ ∃ x, u.frontier = [x] ∧ x.pc = e.pc + 4 ∧ x.mask = e.mask
    (w.arrivesNext b g = true ↔ ∃ c, w.hold = .bar b g true c ∨ w.savedHold = .bar b g true c) ∧
    (other w.hold → other w.savedHold → v = w) ∧
    (other w.savedHold → w.frontier = [e] →
      (w.hold = .bar b g false wait → goes v ∧ v.wct = max w.wct tw) ∧
      (w.hold = .bar b g true false → goes v ∧ (b < 16 → look v.barGen none b = some (g + 1))) ∧
      (w.hold = .bar b g true true → v.hold = .bar b (g + 1) false true ∧ v.frontier = [e] ∧ (b < 16 → look v.barGen none b = some (g + 1)))) ∧
    (other w.hold → v.hold = w.hold ∧ v.frontier = w.frontier ∧
      (w.savedHold = .bar b g false wait → v.savedHold = .released ∧ v.wct = max w.wct tw) ∧
      (w.savedHold = .bar b g true false → v.savedHold = .released) ∧
      (w.savedHold = .bar b g true true → v.savedHold = .bar b (g + 1) false true))

/-- R34 to R37, R172 and R173: ATTACH, the pool's head having been granted what fits (R67), grants warps within the free indices, slots and
granules, and waits while a throw at team or grid level is open; DETACH lets the warp depart, and is MISMATCH while a convergence register
that names it is open. -/
def Sys2Proof.Claims.AttachGrantsAndDetachDeparts : Prop :=
  ∀ (c : SOp) (disp : BitVec 17) (s : State),
    let p := s.prelude
    p.mask = p.warp.live →
    (Goes s (fun _ => { legal := (Instr.attach c disp).wellFormed, ssrcs := [{ op := c }], sdsts := [{ op := c }] }) →
      let q := p.arbitrate
      let want := (q.sc c).toNat % 32
      let role := (q.sc c).toNat / 2 ^ 8 % 4
      let g := q.attachGrant want role
      (p.unwinding = true → exec (.attach c disp) s = .next (p.holdAs .att).finish) ∧
      (p.unwinding = false →
        exec (.attach c disp) s = .next (((q.addWarps g role (q.entry.pc + 4 + BitVec.ofInt 64 (4 * disp.toInt))).status c
          (BitVec.ofNat 32 g)).advance).finish) ∧
      g ≤ want ∧ g ≤ q.freeIndices.length ∧ g ≤ 64 - (q.usedSlots q.core.num).length) ∧
    (Goes s (bare .detach) →
      if p.team.namedOpen p.warp.idx = true then exec .detach s = .next (p.raise { code := 0x0013, lanes := p.mask, addr := 0 })
      else if p.unwinding = false then exec .detach s = .next (p.enterInvalid.depart).finish
      else exec .detach s = .next p.stall)

/-- The core-control words, the window bases and the operand cache. -/
def Obligations.CoreControl : Prop :=
  Sys2Proof.Claims.CoreControlWords ∧ Sys2Proof.Claims.WindowBasesSetOrFault ∧ Sys2Proof.Claims.OperandCacheMovesAllLanes

/-- Branches, and what a split does with each lane. -/
def Obligations.BranchesAndSplits : Prop :=
  Sys2Proof.Claims.BranchesTakeTheirLanes ∧ Sys2Proof.Claims.SplitSendsEachLaneToItsPart

/-- Calls, jumps and returns. -/
def Obligations.CallsAndJumps : Prop :=
  Sys2Proof.Claims.CallsLinkAndJumpsSplit ∧ Sys2Proof.Claims.CallrChecksBudget

/-- TRY and ENDTRY. -/
def Obligations.TryRegionsOpenAndClose : Prop :=
  Sys2Proof.Claims.TryOpensOrJoins ∧ Sys2Proof.Claims.EndtryClosesOrWaits

/-- Barriers, their generations, and warps that join a team and leave it. -/
def Obligations.BarriersAndMembership : Prop :=
  Sys2Proof.Claims.BarriersArriveWaitAndCount ∧ Sys2Proof.Claims.BarrierGenerationsComplete ∧ Sys2Proof.Claims.AttachGrantsAndDetachDeparts

/-- R130 to R134: LDS reads words of the scratchpad at issue, a result that is still to be produced; STS leaves at each byte the value of
the highest active lane that writes it; both fault with ALIGN, then with ACCESS, at the lowest offending lane. -/
def Sys2Proof.Claims.ScratchpadLoadsAndStores : Prop :=
  ∀ (d a b : VOp) (k : BitVec 4) (s : State),
    let p := s.prelude
    let x L : Nat := (lane (p.vec a) L + lane (p.vec b) L).toNat
    let fits := ∀ L, L < 32 → p.mask.getLsbD L = true → x L % 4 = 0 ∧ x L < p.team.scratchSize
    (commonTag wordTags true [p.srcTag b]).isSome = true →
    (Goes s (needs (.lds d a b k) [{ op := a }, { op := b }] d) →
      (fits → p.scoreboard false a b = false →
        ∃ y, exec (.lds d a b k) s = .next (written p [] { dst := d, tag := .i32, lo := y, long := true, look := some k }) ∧
          ∀ L, L < 32 → lane y L = BitVec.ofNat 32 (Memory.readNat p.team.scratch (x L) 4)) ∧
      (∀ L, L < 32 → p.mask.getLsbD L = true → x L % 4 ≠ 0 → (∀ j, j < L → p.mask.getLsbD j = true → x j % 4 = 0) →
        ∃ r, exec (.lds d a b k) s = .next (p.raise r) ∧ r.code = 0x0022 ∧ r.addr = BitVec.ofNat 64 (x L)) ∧
      (∀ L, L < 32 → p.mask.getLsbD L = true → (∀ j, j < 32 → p.mask.getLsbD j = true → x j % 4 = 0) → p.team.scratchSize ≤ x L →
        (∀ j, j < L → p.mask.getLsbD j = true → x j < p.team.scratchSize) →
        ∃ r, exec (.lds d a b k) s = .next (p.raise r) ∧ r.code = 0x0021 ∧ r.addr = BitVec.ofNat 64 (x L))) ∧
    (Goes s (fun _ => { legal := (Instr.sts d a b).wellFormed, srcs := [{ op := d }, { op := a }, { op := b }] }) →
      (∀ L, L < 32 → p.mask.getLsbD L = true → x L % 4 ≠ 0 → (∀ j, j < L → p.mask.getLsbD j = true → x j % 4 = 0) →
        ∃ r, exec (.sts d a b) s = .next (p.raise r) ∧ r.code = 0x0022 ∧ r.addr = BitVec.ofNat 64 (x L)) ∧
      (∀ L, L < 32 → p.mask.getLsbD L = true → (∀ j, j < 32 → p.mask.getLsbD j = true → x j % 4 = 0) → p.team.scratchSize ≤ x L →
        (∀ j, j < L → p.mask.getLsbD j = true → x j < p.team.scratchSize) →
        ∃ r, exec (.sts d a b) s = .next (p.raise r) ∧ r.code = 0x0021 ∧ r.addr = BitVec.ofNat 64 (x L))) ∧
    (Goes s (fun _ => { legal := (Instr.sts d a b).wellFormed, srcs := [{ op := d }, { op := a }, { op := b }] }) →
      fits → p.scoreboard true a b = false → Memory.wf p.team.scratch = true →
      ∃ t, exec (.sts d a b) s = .next t ∧ t.mem = s.mem ∧
        (∀ c, (∀ L, L < 32 → p.mask.getLsbD L = true → ¬ (x L ≤ c ∧ c < x L + 4)) →
          Memory.read t.team.scratch c = Memory.read p.team.scratch c) ∧
        ∀ L, L < 32 → p.mask.getLsbD L = true → (∀ j, L < j → j < 32 → p.mask.getLsbD j = true → x j ≠ x L) →
          Memory.readNat t.team.scratch (x L) 4 = (lane (p.vec d) L).toNat)

/-- R62, R63, R127, R220: a load that passes its checks forks into its slot, which is then in flight for the active lanes, and each
register it names in the main file, or each scalar destination of SLD, is PENDING; other slots stay as they were. -/
def Sys2Proof.Claims.LoadsForkIntoTheirSlots : Prop :=
  ∀ (d a b : VOp) (e f g : SOp) (k : BitVec 4) (s : State),
    let p := s.prelude
    let at' L : BitVec 64 := p.pair a p.firstLane + BitVec.ofNat 64 (lane (p.vec b) L).toNat
    let forked (i : Instr) (n : Nat) (kind : SlotKind) : Prop :=
      Goes s (fun _ => { legal := i.wellFormed, srcs := [{ op := a, count := 2 }, { op := b }], dsts := [{ op := d, count := n }],
                         slot := some k.toNat }) →
      ∀ lanes, (p.check .load (4 * n) (p.active.map fun L => (L, at' L))).2 = .ok lanes →
        ∃ t, exec i s = .next t ∧
          let x := t.warp.land k.toNat
          x.state = .inflight ∧ x.kind = kind ∧ x.mask = p.mask ∧ x.todo = lanes ∧
          (∀ j r, j < n → p.place d j = .reg r → r < 256 → (t.warp.bankReg r).pending = true) ∧
          ∀ m, m ≠ k.toNat → t.warp.land m = p.warp.land m
    forked (.ldgW d a b k) 1 .w ∧ forked (.ldgD d a b k) 2 .d ∧ forked (.ldgQ d a b k) 4 .q ∧
    (Goes s (fun _ => { legal := (Instr.sld e f g k).wellFormed, ssrcs := [{ op := f, count := 2 }, { op := g }], sdsts := [{ op := e }],
                        slot := some k.toNat }) →
      ∀ lanes, (p.check .load 4 [(p.firstLane, p.scPair f + BitVec.ofNat 64 (p.sc g).toNat)]).2 = .ok lanes →
        ∃ t, exec (.sld e f g k) s = .next t ∧ (t.warp.land k.toNat).state = .inflight ∧ (t.warp.land k.toNat).kind = .scalar ∧
          (∀ r, p.splace e = .scalar r → r ∈ t.warp.spend ∧ (t.warp.land k.toNat).dest = r) ∧
          (e = .lit → litNo ∈ t.warp.spend ∧ (t.warp.land k.toNat).dest = litNo) ∧
          (e = .cc → sccNo ∈ t.warp.spend ∧ (t.warp.land k.toNat).dest = sccNo) ∧ ∀ m, m ≠ k.toNat → t.warp.land m = p.warp.land m)

/-- R222 and R223: COMMIT of a landed slot without a mark writes the lanes of its mask in each destination register, with the tag of
Table 12-4 or, for a traversal's record, those of Table 22-5, clears stale and PENDING and empties the slot; a scalar slot writes its one
word to the scalar register, the literal register or the scalar cc; rows of the VT view are written once no operation is on the tile. Of
an empty slot it does nothing; in flight it waits; marked lanes fault with POISON or HOSTLOST. COMMIT.ALL, where every slot is empty or
landed without a mark, empties them all. -/
def Sys2Proof.Claims.CommitWritesLandedSlots : Prop :=
  ∀ (g : Tag) (k : BitVec 4) (s : State),
    let p := s.prelude
    let x := p.warp.land k.toNat
    let traced n := p.warp.trslot.getLsbD n
    let bad n := traced n = false ∧ (p.warp.land n).kind = .w ∧ (g = .fp64 ∨ g = .rw)
    let waits n := (p.warp.land n).kind ≠ .scalar ∧ 256 ≤ (p.warp.land n).dest ∧ p.team.pend (p.warp.land n).tile ≠ 0
    let tags : List Tag := if traced k.toNat = true then [.fp32, .fp16, .n32, .n32]
      else match x.kind with | .w => [g] | .d => [g, g] | .q | .trace => [g, g, g, g] | .scalar => [.raw]
    let v : Word := lane (look x.data (splat 0) 0) ((lowest x.mask).getD 0)
    Goes s (bare (.commit g k)) →
    (x.state = .empty → exec (.commit g k) s = .next (wentOn p.enterInvalid)) ∧
    (x.state ≠ .empty → bad k.toNat → exec (.commit g k) s = .next (p.raise { code := 0x0003, lanes := p.mask, addr := 0 })) ∧
    (x.state = .inflight ∨ (x.state = .landed ∧ waits k.toNat) → ¬ bad k.toNat → exec (.commit g k) s = .next p.stall) ∧
    (x.state = .landed → x.marked = 0 → ¬ bad k.toNat → ¬ waits k.toNat →
      ∃ t, exec (.commit g k) s = .next t ∧ (t.warp.land k.toNat).state = .empty ∧ t.warp.trslot.getLsbD k.toNat = false ∧
        (x.kind ≠ .scalar → x.dest + tags.length ≤ 256 → ∀ j tag, tags[j]? = some tag → p.warp.live? (x.dest + j) = none →
          t.warp.bankReg (x.dest + j) =
            { data := mergeLanes x.mask (look x.data (splat 0) j) (p.warp.bankReg (x.dest + j)).data, tag := tag, stale := false, pending := false }) ∧
        (x.kind ≠ .scalar → 256 ≤ x.dest → x.dest + tags.length ≤ 272 → x.tile < p.team.tiles.length → ∀ j, j < tags.length →
          (t.team.tiles.getD x.tile default).row (x.dest - 256 + j) =
            mergeLanes x.mask (look x.data (splat 0) j) ((p.team.tiles.getD x.tile default).row (x.dest - 256 + j))) ∧
        (x.kind = .scalar → x.dest ∉ t.warp.spend ∧ (x.dest < 384 → t.warp.scalar x.dest = v) ∧ (x.dest = litNo → t.warp.lit = v) ∧
          (x.dest = sccNo → (t.warp.ccs = true ↔ v ≠ 0)))) ∧
    (x.state = .landed → x.marked ≠ 0 → ¬ bad k.toNat → ¬ waits k.toNat → p.team.guarded = false →
      ∃ r, exec (.commit g k) s = .next ((p.commitBad k.toNat).raise r) ∧ r.lanes = x.marked ∧
        r.code = if x.poisoned = 0 then 0x0024 else 0x0023) ∧
    ((∀ n, n < 16 → let y := p.warp.land n
        y.state = .empty ∨ (y.state = .landed ∧ y.marked = 0 ∧ ¬ bad n ∧ ¬ waits n)) →
      Goes s (bare (.commitAll g)) →
      ∃ q, p.commitSlots g (List.range 16) = .pass q ∧ exec (.commitAll g) s = .next (wentOn q.enterInvalid) ∧
        ∀ n, n < 16 → (q.warp.land n).state = .empty)

/-- Table 12-2: a lane whose address is not a multiple of the access width faults with ALIGN before any other lane's fault, once every lane's
translation is there. -/
def Sys2Proof.Claims.AlignIsCheckedBeforePages : Prop :=
  ∀ (s : State) (k : Access) (w : Nat) (l : List (Nat × BitVec 64)),
    (∀ x ∈ l, x.1 < 32) → (l.map (·.1)).Nodup → (∃ x ∈ l, x.2.toNat % w ≠ 0) →
    (∀ x ∈ ((s.useRat s.ctx).translateAll k s.privileged l).2, x.out ≠ .wait) →
    ∃ r, (s.check k w l).2 = .raise r ∧ r.code = 0x0022 ∧
      (∀ L, r.lanes.getLsbD L = true ↔ ∃ x ∈ l, x.1 = L ∧ x.2.toNat % w ≠ 0) ∧
      (l.find? fun x => x.2.toNat % w != 0).map (·.2) = some r.addr

/-- R200, R243 and R244: a translation changes nothing of memory but the A and D bits of the leaf PTE that its walk finds, after the updates
that are due have been performed; where none is due, that is all it changes. -/
def Sys2Proof.Claims.TranslationSetsOnlyAccessedAndDirty : Prop :=
  ∀ (s : State) (c : Ctx) (k : Access) (priv : Bool) (va : BitVec 64), Memory.wf s.mem = true →
    let t := (s.translate c k priv va).1
    let b := s.settleDue
    Memory.wf t.mem = true ∧ ((∀ h ∈ s.home, ∀ u ∈ h.pend, s.gtc < u.tw) → b = s) ∧
    (t.mem = s.mem ∨ t.mem = b.mem ∨ ∃ pte at' level, b.walk c va = .leaf pte at' level ∧
      Memory.readNat t.mem at' 8 = (pte ||| 0x40 ||| (if k.writes then 0x80 else 0 : Dword)).toNat ∧
      ∀ a, a < at' ∨ at' + 8 ≤ a → Memory.read t.mem a = Memory.read b.mem a)

/-- R128, R200, R226: STG and SST that pass their checks, and follow no ATOM of their warp that has not reached one of their lines, send the
bytes of each active lane to its address, in ascending lane order. -/
def Sys2Proof.Claims.StoresSendEachLanesBytes : Prop :=
  ∀ (d a b : VOp) (e f g : SOp) (w : BitVec 2) (s : State),
    let p := s.prelude
    let n := if w = 1 then 2 else if w = 2 then 4 else 1
    let width := if w = 0 then 4 else if w = 1 then 8 else if w = 2 then 16 else 1
    let addrs := p.active.map fun L => (L, p.pair a p.firstLane + BitVec.ofNat 64 (lane (p.vec b) L).toNat)
    (Goes s (fun _ => { legal := (Instr.stg d a b w).wellFormed, srcs := [{ op := d, count := n }, { op := a, count := 2 }, { op := b }] }) →
      ∀ lanes, (p.check .store width addrs).2 = .ok lanes →
        let c := (p.check .store width addrs).1
        c.atomAhead lanes = false →
        exec (.stg d a b w) s = .next (((((c.storeLanes (p.storeData d w) lanes).sample 0x73 .store (addrs.map (·.2))).enterInvalid).advance).heldLimit).finish ∧
        ∀ L, (p.storeData d w L).length = width ∧
          ∀ i, i < width → (p.storeData d w L)[i]? = some (BitVec.ofNat 8 ((lane (p.vec d (i / 4)) L).toNat / 2 ^ (8 * (i % 4))))) ∧
    (w.toNat < 2 →
      let m := if w = 1 then 2 else 1
      let one := [(p.firstLane, p.scPair f + BitVec.ofNat 64 (p.sc g).toNat)]
      Goes s (fun _ => { legal := (Instr.sst e f g w).wellFormed, ssrcs := [{ op := e, count := m }, { op := f, count := 2 }, { op := g }] }) →
      ∀ lanes, (p.check .store (4 * m) one).2 = .ok lanes → (p.check .store (4 * m) one).1.atomAhead lanes = false →
        ∃ data, exec (.sst e f g w) s = .next ((((((p.check .store (4 * m) one).1.storeLanes (fun _ => data) lanes).sample 0x38
            .store (one.map (·.2))).enterInvalid).advance).heldLimit).finish ∧
          data.length = 4 * m ∧ leNat data = (p.sc e).toNat + (if w = 1 then 2 ^ 32 * (p.sc e 1).toNat else 0))

/-- R200 and R201: the store of a lane to a line of class HC joins the pending updates of the line's home, last, with a write completion
time that is at least the home's greatest lease and the last update's, and the warp's WCT follows it. -/
def Sys2Proof.Claims.StoreJoinsItsHomeWithCompletionTime : Prop :=
  ∀ (s : State) (l : LaneLoad) (data : List Byte),
    (s.rat s.ctx l.va).cls = 0 → s.team.holds = false → target l.pa = .hbm →
    let t := s.storeLane l data
    let h := (s.settleHome (lineOf l.pa)).homeLine (lineOf l.pa)
    ∃ u, (t.homeLine (lineOf l.pa)).pend = h.pend ++ [u] ∧ u.pa = l.pa ∧ u.kind = .bytes data ∧ u.kept = true ∧
      u.tw = max s.gtc (max h.lmax h.lastTw) ∧ (t.homeLine (lineOf l.pa)).lastTw = u.tw ∧ t.warp.wct = max s.warp.wct u.tw

/-- R200: HOME_UPDATE_PERFORM performs the first pending update of its line, due and not under an exclusive lease: memory then holds
what the update leaves there, and every byte outside it is as before, unless a miss of it counts and posts its record as well (R249). -/
def Sys2Proof.Claims.HomePerformsItsFirstUpdate : Prop :=
  ∀ (s : State) (line : Nat) (u : Update) (rest : List Update),
    (s.homeLine line).pend = u :: rest → u.tw ≤ s.gtc → (s.homeLine line).excl = none → Memory.wf s.mem = true →
    ∃ t, exec (.homeUpdatePerform line) s = .next t ∧ (t.homeLine line).pend = rest ∧ Memory.wf t.mem = true ∧
      (∀ l, u.kind = .bytes l → u.counted = false ∨ (s.homeLine line).cached = true →
        Memory.readBytes t.mem u.pa l.length = l ∧ ∀ a, a < u.pa ∨ u.pa + l.length ≤ a → Memory.read t.mem a = Memory.read s.mem a) ∧
      (∀ k b d id L, u.kind = .atomic k b d id L → u.counted = false ∨ (s.homeLine line).cached = true →
        let w := if 13 ≤ k then 8 else 4
        Memory.readNat t.mem u.pa w = atomNew k (Memory.readNat s.mem u.pa w) b.toNat d.toNat % 2 ^ (8 * w) ∧
          ∀ a, a < u.pa ∨ u.pa + w ≤ a → Memory.read t.mem a = Memory.read s.mem a)

/-- R228 to R231: an ATOM or RED whose lanes need neither the host's nor an emulator's help, and lie on no CP range, begins every lane, after
the updates that its team holds for its lines, and goes on; the ATOM's result is still to be produced, by an operation that holds its
lanes, while a RED holds none. -/
def Obligations.AtomicsBeginTheirLanes : Prop :=
  ∀ (d a b : VOp) (k : BitVec 4) (s : State),
    let p := s.prelude
    let addrs := (maskLanes p.atomMask).map fun L => (L, p.pair a L)
    let begins (red : Bool) (c : State) (lanes : List LaneLoad) : Prop := p.heldAtom = none ∧ p.secondary = false ∧ c.outAhead lanes = false ∧
      c.atomAhead (if red then lanes else lanes.filter fun l => c.routeOf k.toNat false l != .lease) = false ∧
      (∀ l ∈ lanes, (c.rat c.ctx l.va).cls ≠ 2 ∧ c.routeOf k.toNat red l ≠ .host ∧ c.routeOf k.toNat red l ≠ .emulate) ∧
      ∀ x ∈ c.core.lines, x.cls ≠ 0 → x.dirty = 0 ∨ ∀ l ∈ lanes, lineOf l.pa ≠ x.line
    (∀ tag lanes, p.atomTag k.toNat d b = some tag →
      Goes s (fun _ => { legal := (Instr.atom d a b k).wellFormed,
                         srcs := [{ op := a, count := 2 }, { op := b, count := if 13 ≤ k.toNat then 2 else 1 }] ++
          (if k = 9 ∨ k = 14 then [{ op := d, count := if 13 ≤ k.toNat then 2 else 1 }] else []),
                         dsts := [{ op := d, count := if 13 ≤ k.toNat then 2 else 1 }] }) →
      let c := (p.check .both (if 13 ≤ k.toNat then 8 else 4) addrs).1
      (p.check .both (if 13 ≤ k.toNat then 8 else 4) addrs).2 = .ok lanes → begins false c lanes →
      ∃ u op, c.beginAfter false 0x76 k.toNat d tag (c.atomLanes false k.toNat (if 13 ≤ k.toNat then 2 else 1) b d lanes) = some (u, op) ∧
        op.held = false ∧ op.op = k.toNat ∧ op.red = false ∧ op.lanes.map (·.lane) = lanes.map (·.lane) ∧
        exec (.atom d a b k) s = .next (((u.endReissue.enter (p.atomEntry k.toNat d tag op.mask (splat 0) (splat 0) true)).addAtom
          { op with seq := u.nextId }).advance).finish) ∧
    (∀ lanes, p.redTagOk k.toNat b = true → p.redVoids k.toNat b = 0 →
      Goes s (fun _ => { legal := (Instr.red a b k).wellFormed,
                         srcs := [{ op := a, count := 2 }, { op := b, count := if 10 ≤ k.toNat then 2 else 1 }] }) →
      let c := (p.check .both (redWidth k.toNat) addrs true).1
      (p.check .both (redWidth k.toNat) addrs true).2 = .ok lanes → begins true c lanes →
      ∃ u op, c.beginAfter true 0x77 k.toNat .void .raw (c.redLanes k.toNat b lanes) = some (u, op) ∧ op.lanes = [] ∧
        exec (.red a b k) s = .next (((u.sendTwin []).endReissue.enter WinEntry.blank).advance.heldLimit).finish)

/-- R204, R209, R234: a fence waits for what its kind and scope name, then goes on; at warp and team scope that is that every earlier
access of the warp is done, and at device scope that every write has been performed and GTC has reached the warp's WCT. -/
def Sys2Proof.Claims.FencesWaitForTheirScope : Prop :=
  ∀ (k scope : BitVec 2) (s : State), Goes s (bare (.fence k scope)) →
    let p := s.prelude
    (scope.toNat < 2 → p.accessesDone = true → exec (.fence k scope) s = .next (p.enterInvalid.advance.heldLimit).finish) ∧
    (scope.toNat < 2 → p.accessesDone = false → exec (.fence k scope) s = .next p.stall) ∧
    (scope = 2 → Settled p → exec (.fence k scope) s = .next (p.enterInvalid.advance.heldLimit).finish) ∧
    (scope = 3 → Settled p → p.warp.hostWritten = false →
      exec (.fence k scope) s = .next ((if k = 1 then p else p.dropHostCopies).enterInvalid.advance.heldLimit).finish) ∧
    Comes (.fence k scope) s (upon (p.fenceBy k.toNat scope.toNat) fun t => t.enterInvalid.advance.heldLimit) ∧
    (∀ t, p.releaseDevice = .done t → t.outstanding = false ∧ t.warp.wct ≤ t.gtc)

/-- R235 to R237: MONW is a yield point whose lanes park at it: the entry waits on a new MONW that holds its lanes, their values where
they are satisfied at once, and the deadline MONTO gives. -/
def Sys2Proof.Claims.MonwParksItsEntry : Prop :=
  ∀ (d a b : VOp) (k : BitVec 4) (s : State) (lanes : List LaneLoad),
    let p := s.prelude
    let addrs := p.active.map fun L => (L, p.pair a L)
    Goes s (fun _ => { legal := (Instr.monw d a b k).wellFormed, srcs := [{ op := a, count := 2 }, { op := b }], dsts := [{ op := d }],
                       ccAwait := true, drains := true }) →
    (commonTag [.i32, .n32] true [p.srcTag b]).isSome = true → p.secondary = false →
    (p.check .monw 4 addrs).2 = .ok lanes → (∀ l ∈ lanes, p.homeShut l.pa = false) →
    ∃ t o, exec (.monw d a b k) s = .next t ∧ o ∈ t.warp.monws ∧ o.mask = p.mask ∧ o.cond = k.toNat ∧
      o.lanes.map (·.lane) = lanes.map (·.lane) ∧
      o.deadline = (if p.warp.monto = 0 then none else some (p.gtc + p.warp.monto.toNat)) ∧
      (∀ l ∈ o.lanes, l.value.isSome = true → ∃ v, l.value = some v ∧ monwHolds k.toNat v (lane (p.vec b) l.lane) = true) ∧
      (∃ e ∈ t.warp.frontier, e.mask = p.mask ∧ e.wait = .monw o.id) ∧ t.warp.window.length = 1 ∧
      ∀ n, n < 16 → (look t.warp.oc Copy.blank n).valid = false

/-- The scratchpad, decoupled loads and their commit. -/
def Obligations.LoadsAndTheScratchpad : Prop :=
  Sys2Proof.Claims.ScratchpadLoadsAndStores ∧ Sys2Proof.Claims.LoadsForkIntoTheirSlots ∧ Sys2Proof.Claims.CommitWritesLandedSlots

/-- The checks of an access and its translation. -/
def Obligations.ChecksOfAnAccess : Prop :=
  Sys2Proof.Claims.AlignIsCheckedBeforePages ∧ Sys2Proof.Claims.TranslationSetsOnlyAccessedAndDirty

/-- A store leaves its core, joins its home and is performed. -/
def Obligations.StoresReachTheirHomes : Prop :=
  Sys2Proof.Claims.StoresSendEachLanesBytes ∧ Sys2Proof.Claims.StoreJoinsItsHomeWithCompletionTime ∧ Sys2Proof.Claims.HomePerformsItsFirstUpdate

/-- R265 to R269, R272 to R274, R277 and R278: CPGO and CPRED check their descriptor and fork its copy; an empty hull arrives at once;
CPSTAGE forks its entries and advances the stage; CPCANCEL cancels by id; CPQ counts the copies with an id. -/
def Obligations.CopyInstructionsForkCancelAndCount : Prop :=
  ∀ (a d : SOp) (any : BitVec 1) (id : BitVec 6) (s : State),
    let p := s.prelude
    let x := p.descriptor a
    let u (i : Instr) : State → Uses := fun _ => { legal := i.wellFormed, ssrcs := [{ op := a, count := 8 }] }
    let wide (red : Bool) : Prop := (x.hull red).1 ≠ (x.hull red).2
    (Goes s (u (.cpgo a)) → x.bad false p.team.scratchSize = none → (wide false → p.team.ranges < 16) →
      exec (.cpgo a) s = .next (wentOn ((p.fork x x.gaddr false false false).completeAll p.team.handle).enterInvalid)) ∧
    (Goes s (u (.cpgo a)) → ∀ c y, x.bad false p.team.scratchSize = some (c, y) →
      exec (.cpgo a) s = .next (p.raise { code := c, lanes := p.mask, addr := y })) ∧
    (Goes s (u (.cpred a any)) → x.bad true p.team.scratchSize = none → (wide true → p.team.ranges < 16) →
      exec (.cpred a any) s =
        .next (wentOn ((p.sideEffect.fork x x.gaddr true (any == 1) p.secondary).completeAll p.team.handle).enterInvalid)) ∧
    (∀ g0 red any' idle, (wide red → ∃ c, (p.fork x g0 red any' idle).team.copies = p.team.copies ++ [c] ∧ c.desc = x ∧ c.g0 = g0 ∧
        c.red = red ∧ c.pc = p.entry.pc ∧ c.tie = p.tieOf x) ∧
      (¬ wide red → (p.fork x g0 red any' idle).team.copies = p.team.copies)) ∧
    (Goes s (bare .cpstage) → p.team.ranges + p.team.stageEntries.length ≤ 16 →
      ∃ q : State, exec .cpstage s = .next (wentOn (q.completeAll p.team.handle).enterInvalid) ∧ q.team.stage = p.team.stage + 1 ∧
        q.team.copies.map (·.desc) =
          p.team.copies.map (·.desc) ++ p.team.stageEntries.filter fun d => (d.hull false).1 != (d.hull false).2) ∧
    (Goes s (bare .cpstage) → p.team.sched = [] → p.team.ranges ≤ 16 →
      exec .cpstage s = .next (wentOn (({ p with team := { p.team with stage := p.team.stage + 1 } } : State).completeAll p.team.handle).enterInvalid)) ∧
    (Goes s (bare (.cpcancel id)) → exec (.cpcancel id) s =
      .next (wentOn ((p.cancelCopies p.team.handle fun c => id == 63 || c.desc.cid == id.toNat).completeAll p.team.handle).enterInvalid)) ∧
    (Goes s (scalarNeeds (.cpq d id) [] d) →
      let n := (p.team.copies.filter fun c => id == 63 || c.desc.cid == id.toNat).length
      ∃ q, exec (.cpq d id) s = .next (wentOn (State.status q d (BitVec.ofNat 32 (n + 2 ^ 8 * (16 - p.team.ranges) + 2 ^ 16 * p.team.stage.toNat)))) ∧
        (n ≠ 0 → q = p) ∧ (n = 0 → p.warp.wct ≤ q.warp.wct))

/-- R263, R268, R270, R277, R279 and R280: a copy whose part moves, whose source hull is read, that arrives, that completes, or that fails.
A part moves while nothing keeps its own accesses, whatever the rest of the copy waits for; the source hull is read whatever the writes
wait for. A CPRED of a secondary twin ends as its primary's has, with its tw, or fails as it has (R364). -/
def Sys2Proof.Claims.CopiesReadArriveCompleteOrFail : Prop :=
  ∀ (h id : Nat) (s u : State) (c : CopyOp),
    (s.focusCopy h id = some (u, c) → u.team.works = true → u.mayBegin c = true → c.desc.dir = true → c.red = false →
      ∀ n p, c.left.find? (fun x => x.1 == n) = some (n, p) → (u.probe 2 .store (p.pieces.map (·.1))).clear = true →
      execCopyMove h id n s = .next ((((u.storePart c false p).samplePart c p false).setCopy c.uid
        (CopyOp.pass n)).heldLimit).wake) ∧
    (s.focusCopy h id = some (u, c) → u.team.works = true → u.mayBegin c = true → c.desc.dir = true → c.srcRead = false →
      let hull := c.desc.hull c.red
      exec (.copySourceRangeRead h id) s = .next (u.setCopy id fun x => { x with
        begun := true, srcRead := true, source := some (Memory.readBytes u.team.scratch hull.1 (hull.2 - hull.1)) }).wake) ∧
    (s.readyCopy h id = some (u, c) → c.tie.isSome = true →
      exec (.copyArrive h id) s = .next (u.endCopy c).wake ∧ ∀ x ∈ (u.endCopy c).team.copies, x.uid ≠ c.uid) ∧
    (s.readyCopy h id = some (u, c) → c.tie = none → exec (.copyComplete h id) s = .next (u.endCopy c).wake) ∧
    (s.focusCopy h id = some (u, c) → u.team.works = true → u.team.mirrors c = false → u.mayBegin c = true →
      let ps := c.left.map fun p => u.probe 2 c.access (p.2.pieces.map (·.1))
      let bad := ps.flatMap (·.bad)
      bad ≠ [] → ∃ low ∈ bad, (∀ y ∈ bad, low.toNat ≤ y.toNat) ∧
        (¬ (u.team.guarded = true ∧ ∃ x ∈ ps, x.poisoned = true) → exec (.copyfault h id) s = .next (u.failCopy c low).wake) ∧
        (u.team.guarded = true → (∃ x ∈ ps, x.poisoned = true) →
          exec (.copyfault h id) s = .next (u.rollback h c.pc low).wake)) ∧
    (s.focusCopy h id = some (u, c) → u.team.works = true → u.team.mirrors c = true →
      (∀ q, (u.team.predEnd c) = some q →
        (∀ y, q.failed = some y → ∃ t, exec (.copyfault h id) s = .next t) ∧
        (q.failed = none → s.readyCopy h id = some (u, { c with tw := q.tw }))) ∧
      (u.team.predEnd c = none → exec (.copyArrive h id) s = .fault .cannotHappen ∧ exec (.copyComplete h id) s = .fault .cannotHappen ∧
        exec (.copyfault h id) s = .fault .cannotHappen))

/-- R275 and R276: a contribution joins the entry of its line whose window is not over, opens one, or goes on alone where the switch is full, off
or may not combine; an entry is delivered to the home CMBWIN after its opening, and then before anything else that can take place. -/
def Sys2Proof.Claims.SwitchesCombineAndDeliver : Prop :=
  ∀ (s : State) (id : Nat),
    (∀ k, s.contributions.find? (fun k => k.id == id) = some k →
      let d := homeDie k.line
      let here (e : SwitchEntry) : Bool := e.die == d && e.cluster == homeCluster k.line
      let alone := k.host = true ∨ (3 ≤ k.op ∧ k.anyorder = false) ∨ (s.dieAt d).cmbwin = 0
      s.lineHeld k.line = false →
      let joins := ∃ e ∈ s.switchEntries, here e = true ∧ e.ctx = k.ctx ∧ e.line = k.line ∧ e.op = k.op ∧
        s.gtc < e.opened + (s.dieAt e.die).cmbwin.toNat
      ∃ t, exec (.combineContribution id) s = .next t ∧ (∀ x ∈ t.contributions, x.id ≠ id) ∧
        (¬ alone → joins → t.switchEntries.length = s.switchEntries.length ∧
          ∃ e ∈ t.switchEntries, e.line = k.line ∧ (k.team, k.copy) ∈ e.copies) ∧
        (¬ alone → ¬ joins → (s.switchEntries.filter here).length < 64 →
          ∃ e, t.switchEntries = s.switchEntries ++ [e] ∧ e.line = k.line ∧ e.op = k.op ∧ e.opened = s.gtc ∧ e.data = k.data) ∧
        (alone → t.switchEntries = s.switchEntries)) ∧
    (∀ e, s.switchEntries.find? (fun e => e.id == id) = some e →
      (s.lineHeld e.line = false → e.opened + (s.dieAt e.die).cmbwin.toNat ≤ s.gtc →
        (∃ t, exec (.combineDeliver id) s = .next t ∧ ∀ x ∈ t.switchEntries, x.id ≠ id) ∧ ∃ t, s.timedNext = some t ∧ step s = .next t) ∧
      (s.gtc < e.opened + (s.dieAt e.die).cmbwin.toNat → exec (.combineDeliver id) s = .fault .cannotHappen))

/-- The events of copies and of the combining switches. -/
def Obligations.CopiesAndTheirSwitches : Prop :=
  Sys2Proof.Claims.CopiesReadArriveCompleteOrFail ∧ Sys2Proof.Claims.SwitchesCombineAndDeliver

/-- R309 (Table 20-3): MMASK. A word of it with B not 0 or with another n is ILLEGAL; mmask.rc writes ROWM and COLM, mmask.dep DEPM, and
mmask.all, whose A is 0, sets all three to 0xFFFF. -/
def Obligations.MmaskWritesTheMasks : Prop :=
  ∀ (a : SOp) (n : BitVec 6) (s : State),
    let p := s.prelude
    let word (c b : BitVec 7) : BitVec 32 := 124#7 ++ 3#5 ++ c ++ b ++ n
    let goes (i : Instr) (srcs : List SSrc) := Goes s fun _ => { legal := Instr.wellFormed i, ssrcs := srcs }
    let gives (i : Instr) (t : Team) := exec i s = .next (wentOn ({ p with team := t } : State).enterInvalid)
    (∀ c b, b ≠ 0 ∨ 2 < n.toNat → s.issuing.isSome = true → (s.switches = true → s.warp.unproduced = []) →
      exec (decode (word c b)) s = .next (p.raise { code := 0x0001, lanes := p.mask, addr := 0 })) ∧
    (∀ c, n.toNat ≤ 2 → decode (word c 0) = .mmask (SOp.ofCode c) n) ∧
    ((Instr.mmask a 2).wellFormed = true ↔ a = .s 0) ∧
    (goes (.mmask a 0) [{ op := a }] →
      gives (.mmask a 0) { p.team with rowm := (p.sc a).setWidth 16, colm := (p.sc a >>> 16).setWidth 16 }) ∧
    (goes (.mmask a 1) [{ op := a }] → gives (.mmask a 1) { p.team with depm := (p.sc a).setWidth 16 }) ∧
    (goes (.mmask a 2) [] → gives (.mmask a 2) { p.team with rowm := 0xFFFF, colm := 0xFFFF, depm := 0xFFFF })

/-- R289, R308 and R310: MSET writes the team's matrix state: the formats, the strides, a tile's tag, the scales, and the codebooks, which it
reads from memory at a multiple of 32 bytes, waiting while a register that names an IX format is at work. -/
def Obligations.MatrixStateIsWritten : Prop :=
  ∀ (a b : SOp) (n : BitVec 6) (s : State),
    let p := s.prelude
    let goes (i : Instr) (srcs : List SSrc) := Goes s fun _ => { legal := Instr.wellFormed i, ssrcs := srcs }
    let gives (i : Instr) (t : Team) := exec i s = .next (wentOn ({ p with team := t } : State).enterInvalid)
    (goes (.mset a b 0x00) [{ op := a }] → gives (.mset a b 0x00) { p.team with mfmt := (p.sc a).setWidth 11 }) ∧
    (goes (.mset a b 0x01) [{ op := a }, { op := b }] → gives (.mset a b 0x01) { p.team with mastr := p.sc a, mbstr := p.sc b }) ∧
    (goes (.mset a b 0x02) [{ op := a }, { op := b }] →
      let i := (p.sc b).toNat % 32
      let g := Tag.ofCode ((p.sc a).setWidth 5)
      i < p.team.tiles.length → g ∈ [Tag.fp32, .fp64, .rw] → p.team.pend i = 0 →
      ∃ t, exec (.mset a b 0x02) s = .next t ∧ t.team.tiles[i]? = some { Tile.blank with tag := g } ∧
        ∀ j, j ≠ i → t.team.tiles[j]? = p.team.tiles[j]?) ∧
    (goes (.mset a b 0x03) [] →
      gives (.mset a b 0x03) { p.team with mrs := Vector.replicate 16 one64, mcs := Vector.replicate 16 one64 }) ∧
    (goes (.mset a b n) [{ op := a, count := 2 }] → 0x10 ≤ n.toNat → n.toNat < 0x20 →
      gives (.mset a b n) { p.team with mrs := put p.team.mrs (n.toNat - 0x10) (p.scPair a) }) ∧
    (goes (.mset a b n) [{ op := a, count := 2 }] → 0x20 ≤ n.toNat → n.toNat < 0x30 →
      gives (.mset a b n) { p.team with mcs := put p.team.mcs (n.toNat - 0x20) (p.scPair a) }) ∧
    ∀ m : BitVec 6, m = 4 ∨ m = 5 → goes (.mset a b m) [{ op := a, count := 2 }] →
      let va := p.scPair a
      let ps := pieces va (if m = 4 then 32 else 512)
      let c := p.check .load 1 (ps.map fun x => (p.firstLane, x.1))
      let book (data : List Byte) (k : Nat) : List (BitVec 16) :=
        (List.range k).map fun i => BitVec.ofNat 16 (leNat ((data.drop (2 * i)).take 2))
      (va.toNat % 32 ≠ 0 → exec (.mset a b m) s = .next (p.raise { code := 0x0022, lanes := p.mask, addr := va })) ∧
      (va.toNat % 32 = 0 → ∀ lanes, c.2 = .ok lanes →
        (c.1.team.booksBusy = true → exec (.mset a b m) s = .next p.stall) ∧
        (c.1.team.booksBusy = false → (∀ l ∈ lanes, lineOf l.pa ∉ c.1.poison) →
          ∀ u data, (c.1.sample 0x7C .load (ps.map (·.1))).readPieces ((ps.map (·.2)).zip lanes) = some (u, data) →
          ∃ t, exec (.mset a b m) s = .next t ∧
            (m = 4 → t.team.mcb4 = book data 16 ∧ t.team.mcb8 = p.team.mcb8) ∧
            (m = 5 → t.team.mcb8 = book data 256 ∧ t.team.mcb4 = p.team.mcb4)))

/-- R290 to R292, R306, R307 and R316: MCONV opens a convergence register for the team's warps of its mask; MMA signs it, and the last
signature issues the operation; MPROG reads the register. -/
def Obligations.ConvergenceOpensAndSigns : Prop :=
  ∀ (a b : SOp) (k : BitVec 4) (s : State),
    let p := s.prelude
    let c := p.team.conv k.toNat
    (Goes s (fun _ => { legal := (Instr.mconv a b k).wellFormed, ssrcs := [{ op := a }, { op := b }] }) →
      let tc := (p.sc b).toNat % 32
      let td := (p.sc b).toNat / 2 ^ 8 % 32
      let members := p.sc a &&& p.teamMask
      c.state = .free ∨ c.state = .done → members ≠ 0 → tc < p.team.tiles.length → td < p.team.tiles.length →
      ∃ t, exec (.mconv a b k) s = .next t ∧
        let x := t.team.conv k.toNat
        x.state = .open ∧ x.members = members ∧ x.signed = 0 ∧ x.c = tc ∧ x.d = td ∧ x.rowm = p.team.rowm ∧ x.colm = p.team.colm ∧
          x.depm = p.team.depm ∧ x.astride = p.team.mastr ∧ x.bstride = p.team.mbstr ∧
          ∀ j, j ≠ k.toNat → t.team.conv j = p.team.conv j) ∧
    (Goes s (fun _ => { legal := (Instr.mma a b k).wellFormed, ssrcs := [{ op := a, count := 2 }, { op := b, count := 2 }] }) →
      p.mask = p.warp.live → p.warp.idx < 32 → p.signWaits k.toNat = false → p.signCheck k.toNat (p.scPair a) (p.scPair b) = none →
      ∃ t, exec (.mma a b k) s = .next t ∧
        let me : Mask := 1#32 <<< p.warp.idx
        (c.members &&& ~~~(c.signed ||| me) ≠ 0 → t.team.mops = p.team.mops ∧ (t.team.conv k.toNat).state = c.state ∧
          (t.team.conv k.toNat).signed = c.signed ||| me) ∧
        (c.members &&& ~~~(c.signed ||| me) = 0 → ∃ o, t.team.mops = p.team.mops ++ [o] ∧ o.kind = .mma k.toNat ∧ o.phase = .queued)) ∧
    (Goes s (fun _ => { legal := (Instr.mprog a k).wellFormed, sdsts := [{ op := a }] }) →
      exec (.mprog a k) s = .next (wentOn (p.status a (BitVec.ofNat 32
        (c.state.code + 2 ^ 3 * c.c + 2 ^ 8 * c.d + 2 ^ 13 * c.rp + 2 ^ 18 * c.status)))))

/-- R305, R311 to R315: MLD, MST and MZERO fork an operation on a tile below VAT at aligned addresses; MCVT reads a row of a tile as a
register, still to be produced; MWAIT waits until all that it covers is done, then joins it. -/
def Obligations.MatrixOperationsForkAndJoin : Prop :=
  ∀ (a b : SOp) (v : VOp) (t : BitVec 5) (all : BitVec 1) (s : State),
    let p := s.prelude
    let forks (i : Instr) (kind : MatKind) : Prop := ∃ q o, exec i s = .next q ∧ q.team.mops = p.team.mops ++ [o] ∧ o.kind = kind ∧
      o.d = t.toNat ∧ o.phase = .queued ∧ o.warp = p.warp.idx ∧ o.pc = p.entry.pc
    (t.toNat < p.team.tiles.length →
      (Goes s (fun _ => { legal := (Instr.mld a b t).wellFormed, ssrcs := [{ op := a, count := 2 }, { op := b }] }) →
        (p.scPair a).toNat % 8 = 0 → (p.sc b).toNat % 8 = 0 → forks (.mld a b t) .mld) ∧
      (Goes s (fun _ => { legal := (Instr.mst a b t).wellFormed, ssrcs := [{ op := a, count := 2 }, { op := b, count := 2 }] }) →
        let g := Tag.ofCode ((p.sc b 1).setWidth 5)
        let n := (if g = .raw then 8 else Tag.alignment g : Nat);
        g = .raw ∨ (g ∉ [Tag.ix4, .ix8, .rw] ∧ (p.team.tileAt t.toNat).tag ≠ .raw) →
        (p.scPair a).toNat % n = 0 → (p.sc b).toNat % n = 0 → forks (.mst a b t) .mst) ∧
      (Goes s (bare (.mzero t)) → forks (.mzero t) .mzero)) ∧
    (Goes s (bare (.mzero t)) → p.team.tiles.length ≤ t.toNat →
      exec (.mzero t) s = .next (p.raise { code := 0x0008, lanes := p.mask, addr := 0 })) ∧
    (Goes s (fun _ => { legal := (Instr.mcvt v b).wellFormed, ssrcs := [{ op := b }], dsts := [{ op := v }] }) →
      let i := (p.sc b).toNat % 32
      let g := Tag.ofCode ((p.sc b >>> 16).setWidth 5)
      i < p.team.tiles.length → mcvtTags.contains g = true → (p.team.tileAt i).tag ≠ .raw → p.team.pend i = 0 →
      let y := p.mcvtRow i ((p.sc b).toNat / 2 ^ 8 % 16) g (p.vec v)
      exec (.mcvt v b) s = .next (written p [] { dst := v, tag := g, lo := y.1, flags := y.2, long := true })) ∧
    (Goes s (fun _ => { legal := (Instr.mcvt v b).wellFormed, ssrcs := [{ op := b }], dsts := [{ op := v }] }) →
      mcvtTags.contains (Tag.ofCode ((p.sc b >>> 16).setWidth 5)) = false →
      exec (.mcvt v b) s = .next (p.raise { code := 0x0003, lanes := p.mask, addr := 0 })) ∧
    (Goes s (fun _ => { legal := (Instr.mwait a b all).wellFormed, ssrcs := if all = 1 then [] else [{ op := a }], sdsts := [{ op := b }] }) →
      (all = 1 ∨ ∀ i, i < 32 → (p.sc a).getLsbD i = true → i < p.team.tiles.length) →
      (p.mwaitBusy a all = false → exec (.mwait a b all) s = .next (wentOn ((p.joinAll a all).status b (p.mwaitStatus a all)))) ∧
      (p.mwaitBusy a all = true → exec (.mwait a b all) s = .next p.stall))

/-- R65, R156, R317: GROW, SHRINK, MALLOC and MFREE. A request that fits and that nothing precedes is granted with status 0; one that
cannot be granted gives status 1, or waits where it blocks; one past the limit gives status 2. -/
def Sys2Proof.Claims.PoolGrantsRefusesOrWaits : Prop :=
  ∀ (d : SOp) (bl : BitVec 1) (g : BitVec 8) (c : BitVec 5) (s : State),
    let p := s.prelude
    let u (i : Instr) : State → Uses := fun _ => { legal := i.wellFormed, sdsts := [{ op := d }] }
    let q := p.arbitrate
    let free n := (q.poolQueue q.core.num).isEmpty = true ∧ n ≤ q.freeGranules q.core.num
    (Goes s (u (.grow d bl g)) →
      (g = 0 → exec (.grow d bl g) s = .next (wentOn (p.status d 0))) ∧
      (g ≠ 0 → 32 < p.warp.vvg + g.toNat → exec (.grow d bl g) s = .next (wentOn (p.status d 2))) ∧
      (g ≠ 0 → p.warp.vvg + g.toNat ≤ 32 →
        (free g.toNat → exec (.grow d bl g) s = .next (q.grantEnd (.grow d g.toNat)).finish) ∧
        (¬ free g.toNat → bl = 0 → exec (.grow d bl g) s = .next (wentOn (q.status d 1))) ∧
        (¬ free g.toNat → bl = 1 → exec (.grow d bl g) s = .next (q.holdAs (.pool (.grow d g.toNat))).finish))) ∧
    (Goes s (u (.malloc d bl c)) →
      (c = 0 → exec (.malloc d bl c) s = .next (wentOn (p.status d 0))) ∧
      (c ≠ 0 → 32 < p.team.tiles.length + c.toNat → exec (.malloc d bl c) s = .next (wentOn (p.status d 2))) ∧
      (c ≠ 0 → p.team.tiles.length + c.toNat ≤ 32 →
        (free (PoolReq.malloc d c.toNat).granules → exec (.malloc d bl c) s = .next (q.grantEnd (.malloc d c.toNat)).finish) ∧
        (¬ free (PoolReq.malloc d c.toNat).granules → bl = 0 → exec (.malloc d bl c) s = .next (wentOn (q.status d 1))) ∧
        (¬ free (PoolReq.malloc d c.toNat).granules → bl = 1 →
          exec (.malloc d bl c) s = .next (q.holdAs (.pool (.malloc d c.toNat))).finish))) ∧
    (p.fittingHead p.core.num = none → q = p) ∧
    (∀ n, (p.grantReq (.grow d n)).warp.vvg = p.warp.vvg + n) ∧
    (Goes s (bare (.mfree c)) → c.toNat ≤ p.team.tiles.length →
      (∀ x ∈ p.team.convs.toList, x.state = .open → x.c < p.team.tiles.length - c.toNat ∧ x.d < p.team.tiles.length - c.toNat) →
      (∀ o ∈ p.team.mops, o.phase = .done) →
      ∃ t, exec (.mfree c) s = .next t ∧ t.team.tiles = p.team.tiles.take (p.team.tiles.length - c.toNat)) ∧
    (Goes s (bare (.mfree c)) → p.team.tiles.length < c.toNat →
      exec (.mfree c) s = .next (p.raise { code := 0x0008, lanes := p.mask, addr := 0 }))

/-- R296, R299 to R302, R305: the engine of a core starts the operation that it chooses of those whose operands it has fetched, and charges
for it, within the power budget; a running operation completes, at once where it writes its own tile; the operation of a faulted fetch is
FAULTED, and its warp takes the fault at its next boundary, or, with no warp left, it ends with status 2 and dooms the team; a budget window
ends with its charge at 0. -/
def Obligations.MatrixEngineStartsCompletesAndFaults : Prop :=
  ∀ (core h id charge : Nat) (o : MatOp) (s u : State),
    (let f := s.fetchAll core;
      chooseStart (f.candidates core) = some (h, o, charge) → f.focusTeam h = some u →
      (u.core.exhausted = false → ∃ t, exec (.matrixStart core) s = .next t ∧ t.core.charged = u.core.charged + charge) ∧
      (u.core.exhausted = true → exec (.matrixStart core) s = .fault .cannotHappen)) ∧
    (s.core.num = core → ∃ t, exec (.mpbWindowExpiry core) s = .next t ∧ t.core.charged = 0) ∧
    (s.focusTeam h = some u → u.matOp id = some o → o.phase = .running → u.team.works = true → u.opFault o = none → u.peerWaits h id = false →
      (∃ k, o.kind = .mma k) ∨ o.kind = .mzero →
      ∃ t, exec (.matrixComplete h id) s = .next t ∧ ∀ x ∈ t.team.mops, x.id = id → x.phase = .done) ∧
    (s.focusTeam h = some u → u.matOp id = some o → o.phase = .running → u.team.works = true → u.opFault o = none →
      (u.rowsStall o o.todo = true → exec (.matrixComplete h id) s = .fault .cannotHappen) ∧
      (u.rowsStall o o.todo = false → match u.applyRows o o.todo with
        | none => exec (.matrixComplete h id) s = .fault .cannotHappen
        | some v => v.peerWaits h id = false →
          ∃ t, exec (.matrixComplete h id) s = .next t ∧ ∀ x ∈ t.team.mops, x.id = id → x.phase = .done)) ∧
    (s.focusTeam h = some u → u.matOp id = some o →
      let f := u.fetchOp o
      let v := f.useRat f.ctx
      ∀ x code addr, f.matOp id = some x → x.phase = .queued ∨ x.phase = .running → f.team.works = true → f.team.inTurn x = true →
        f.forksSeen x = true → f.opFault x = some (code, addr) → f.readyRows x = [] → ¬ (v.team.guarded = true ∧ code = Code.poison) →
        ((v.faultedWarp x).1 = none →
          exec (.matrixFetchFault h id) s =
            .next (({ v with team := v.team.endOp id 2 } : State).doom code (v.faultedWarp x).2 addr).wake) ∧
        (∀ w q, (v.faultedWarp x).1 = some w → v.focusOn h w = some q →
          let p : Park := { code := code, second := 0, lanes := bitMask ((lowest q.warp.live).getD 0), pc := (v.faultedWarp x).2, addr := addr,
                            seq := none, since := q.gtc, op := id }
          let z := q.markFaulted x (some w)
          exec (.matrixFetchFault h id) s =
            .next (State.settlePending { z with warp := { z.warp with pendFault := z.warp.pendFault ++ [p] } }).wake))

/-- R66 to R68: SHRINK returns granules, with WINDOW where the window or the whole allocation would go and PENDING where a register to go
awaits a load; POOL_GRANT grants the head of a core's queue where it fits; POOL_VICTIM throws GROWDENIED where the queue cannot move. -/
def Sys2Proof.Claims.ShrinkAndTheBlockingQueue : Prop :=
  ∀ (d : SOp) (g : BitVec 8) (core : Nat) (s : State),
    let p := s.prelude
    let u : State → Uses := fun _ => { legal := (Instr.shrink d g).wellFormed, sdsts := [{ op := d }] }
    let left := p.warp.vvg - g.toNat
    let tooFar := g ≠ 0 ∧ (p.warp.vvg ≤ g.toNat ∨ (p.warp.wb ≠ 0 ∧ 8 * left < p.warp.wb + 64))
    let waits := g ≠ 0 ∧ ∃ r, 8 * left ≤ r ∧ r < 8 * left + 8 * g.toNat ∧ (p.warp.bankReg r).pending = true
    (Goes s u → ¬ tooFar → ¬ waits →
      exec (.shrink d g) s = .next (wentOn (({ p with warp := p.warp.shrinkBy g.toNat } : State).status d 0))) ∧
    (Goes s u → tooFar → exec (.shrink d g) s = .next (p.raise { code := 0x0008, lanes := p.mask, addr := 0 })) ∧
    (Goes s u → ¬ tooFar → waits → exec (.shrink d g) s = .next (p.raise { code := 0x0007, lanes := p.mask, addr := 0 })) ∧
    (∀ w r q, s.poolHead core = some w → w.request = some r → s.focusOn w.team w.idx = some q → r.granules ≤ s.freeGranules core →
      let v : State := { q with warp := { q.warp with hold := .none } }
      v.issuing.isSome = true → exec (.poolGrant core) s = .next (v.grantEnd r).wake) ∧
    (∀ w r, s.poolHead core = some w → w.request = some r → s.freeGranules core < r.granules → ∀ q, s.focusOn w.team w.idx = some q →
      exec (.poolGrant core) s = .fault .cannotHappen) ∧
    (∀ w r v q, s.poolHead core = some w → w.request = some r → s.freeGranules core < r.granules → s.poolVictim core = some v →
      (∀ x ∈ s.coreWarps core, (∃ y ∈ s.poolQueue core, y.team = x.team) → x.poolStuck = true) → s.releasing core = false → s.focusOn v.team v.idx = some q →
      let z : State := { q with warp := { q.warp with hold := .none } }
      exec (.poolVictim core) s = .next (z.throwHere (z.active.map fun L => (z.innermost L, z.thrower L 0x0030 z.entry.pc 0))).wake)

/-- The register and tile pool of a core. -/
def Obligations.PoolAndItsQueue : Prop :=
  Sys2Proof.Claims.PoolGrantsRefusesOrWaits ∧ Sys2Proof.Claims.ShrinkAndTheBlockingQueue

/-- R187: TRAP at TDEPTH 0 enters the trap once its slots have landed; at TDEPTH 1 it parks with DOUBLE. PREEMPT enters it at an
instruction boundary, once no delivery that reaches the warp is open and the arbiter is not to grant its request. -/
def Sys2Proof.Claims.TrapEntersOrDoubles : Prop :=
  ∀ (n : BitVec 6) (s : State),
    let p := s.prelude
    let t := p.enterInvalid.advance
    (Goes s (fun _ => { legal := (Instr.trap n).wellFormed, drains := true }) →
      (p.warp.tdepth = false → p.warp.quiet = true →
        exec (.trap n) s = .next (t.trapEnter (BitVec.ofNat 32 (2 ^ 16 * n.toNat)) (p.entry.pc + 4) t.shadowFrontier t.warp.frontier.length).finish) ∧
      (p.warp.tdepth = false → p.warp.quiet = false → exec (.trap n) s = .next p.stall) ∧
      (p.warp.tdepth = true → ∃ q, exec (.trap n) s = .next q ∧ q.warp.double.isSome = true)) ∧
    (∀ h w q, s.focusOn h w = some q → q.warp.preempt = true → q.warp.tdepth = false → q.warp.quiet = true → q.holdsAtom h w = false →
      q.warp.frontier ≠ [] → q.delivering = false → q.grantable q.warp = false →
      ∃ t, exec (.trapEntry h w) s = .next t ∧ t.warp.tdepth = true ∧ t.warp.preempt = false ∧ t.warp.tcause = 0x0033)

/-- R69 and R187: what a trap entry saves and sets: the latches and the frontier go to their shadows, TEPC, TCAUSE and TDEPTH are written,
the window is drained, every live lane of the frontier starts at TVB in one entry; registers keep their values. -/
def Sys2Proof.Claims.TrapEntrySavesContext : Prop :=
  ∀ (s : State) (cause : Word) (pc : BitVec 64) (fr : Vector ShadowEntry 32) (n : Nat),
    let t := s.trapEnter cause pc fr n
    t.warp.tdepth = true ∧ t.warp.tepc = pc ∧ t.warp.tcause = cause ∧ t.warp.fsh = fr ∧ t.warp.fshn = n ∧ t.warp.window = [] ∧
    (∃ e, t.warp.frontier = [e] ∧ e.pc = s.ctx.tvb ∧ e.wait = .ready ∧
      ∀ L, e.mask.getLsbD L = true ↔ ∃ x ∈ s.warp.frontier, x.mask.getLsbD L = true) ∧
    (∀ k, k < 8 → (look t.warp.shadow Copy.blank k).data = (s.warp.latchEntry k).latch ∧
      (look t.warp.shadow Copy.blank k).tag = (s.warp.latchEntry k).tag ∧
      (look t.warp.shadow Copy.blank k).valid = (s.warp.latchEntry k).valid) ∧
    (∀ r, r < 256 → t.warp.regData r = s.warp.regData r ∧ t.warp.regTag r = s.warp.regTag r) ∧
    t.warp.sregs = s.warp.sregs ∧ t.warp.oc = s.warp.oc ∧ t.warp.frm = s.warp.frm ∧ t.warp.ccl = s.warp.ccl ∧ t.warp.lit = s.warp.lit ∧
    t.mem = s.mem ∧ t.team = s.team

/-- R188 and R189: TRET is privileged, is ILLEGAL at TDEPTH 0 or on an unsound frontier shadow, and otherwise returns: TDEPTH is 0, the
latches are those of the shadow, each saved entry's live lanes stand at its PC, or at the next word where its wait has ended, and no lane that
is not live is in the frontier. -/
def Sys2Proof.Claims.TretReturnsFromTheTrap : Prop :=
  ∀ (s : State),
    let p := s.prelude
    let u : State → Uses := fun _ => { legal := Instr.tret.wellFormed, drains := true }
    (Goes s u → p.privileged = false → exec .tret s = .next (p.raise { code := 0x0002, lanes := p.mask, addr := 0 })) ∧
    (Goes s u → p.privileged = true → (p.warp.tdepth = false ∨ p.warp.shadowOk = false) →
      exec .tret s = .next (p.raise { code := 0x0001, lanes := p.mask, addr := 0 })) ∧
    (Goes s u → p.warp.tdepth = true → p.warp.shadowOk = true →
      exec .tret s = .next (((p.withWarp p.warp.drain).trapReturn).afterReturn).finish) ∧
    let t := s.trapReturn
    t.warp.tdepth = false ∧
    (∀ k, k < 8 → (t.warp.latchEntry k).latch = (look s.warp.shadow Copy.blank k).data ∧
      (t.warp.latchEntry k).valid = (look s.warp.shadow Copy.blank k).valid) ∧
    (s.warp.shadowOk = true → ∀ x ∈ s.warp.shadowEntries, x.mask &&& s.warp.live ≠ 0 →
      ∃ e ∈ t.warp.frontier, e.pc = (if x.wait = 4 ∧ s.warp.savedHold = .released then x.pc + 4 else x.pc) ∧
        ∀ L, x.mask.getLsbD L = true → s.warp.live.getLsbD L = true → e.mask.getLsbD L = true) ∧
    ∀ e ∈ t.warp.frontier, ∀ L, e.mask.getLsbD L = true → s.warp.live.getLsbD L = true

/-- R175, R184 and R186 (Table 9-2): a synchronous fault at TDEPTH 1 parks with DOUBLE; at TDEPTH 0 it is thrown where every faulting lane
is held by an innermost region with F = 1, and otherwise the warp parks with its code, lanes, PC and address. A fault of a warp that is parked
already waits, and the park stays (log 129). -/
def Obligations.FaultsTakeTheirRoute : Prop :=
  ∀ (s : State) (r : Raise) (pc : BitVec 64),
    let t := s.takeFault r pc
    let catches := (maskLanes r.lanes) ≠ [] ∧ ∀ L, L ∈ maskLanes r.lanes → ∃ h, s.innermost L = some h ∧ h.region.f = true
    (s.warp.parked = true → t.warp.park = s.warp.park ∧ t.warp.double = s.warp.double ∧ t.deliveries = s.deliveries ∧
      ∃ k, t.warp.pendFault = s.warp.pendFault ++ [k] ∧ k.code = r.code ∧ k.lanes = r.lanes ∧ k.pc = pc ∧ k.addr = r.addr) ∧
    (s.warp.parked = false → s.warp.tdepth = true → ∃ k, t.warp.double = some k ∧ k.code = 0x0034 ∧ k.second = r.code ∧ k.lanes = r.lanes ∧ k.pc = pc ∧
      t.warp.park = s.warp.park ∧ t.deliveries = s.deliveries) ∧
    (s.warp.parked = false → s.warp.tdepth = false → catches → t = s.throwAll ((maskLanes r.lanes).map fun L => (s.innermost L, s.thrower L r.code pc r.addr))) ∧
    (s.warp.parked = false → s.warp.tdepth = false → ¬ catches → ∃ k, t.warp.park = some k ∧ k.code = r.code ∧ k.lanes = r.lanes ∧ k.pc = pc ∧ k.addr = r.addr ∧
      t.deliveries = s.deliveries ∧ t.warp.double = s.warp.double) ∧
    t.mem = s.mem ∧ t.warp.sregs = s.warp.sregs ∧ (∀ q, t.warp.regData q = s.warp.regData q) ∧ t.warp.frm = s.warp.frm ∧
      t.warp.tepc = s.warp.tepc ∧ t.warp.tcause = s.warp.tcause

/-- R61 and R102 (Table 6-6): the first of the checks that an instruction fails decides: ILLEGAL, then PRIVILEGE, then a wait for results
or for the end of a lookahead, then
WINDOW, PENDING, STALE, LATCH, OCEMPTY, TAG, VOIDELEM, UNIFORM, and last the instruction's own fault; it goes where none holds. -/
def Sys2Proof.Claims.ChecksInTheOrderOfTheTable : Prop :=
  ∀ (s : State) (u : Uses),
    let rd := u.srcs.flatMap s.srcPlaces ++ u.ssrcs.flatMap s.ssrcPlaces
    let wr := u.dsts.flatMap s.srcPlaces ++ u.sdsts.flatMap s.ssrcPlaces
    let waits := (∃ x ∈ rd ++ wr, s.awaits x = true) ∨ (u.ccAwait = true ∧ s.warp.awaitsCc = true) ∨
      (u.sccAwait = true ∧ s.warp.awaitsScalarCc = true) ∨ (u.drains = true ∧ s.warp.unproduced ≠ []) ∨ s.warp.lookahead = true
    let window := u.window = false ∨ ∃ x ∈ rd ++ wr, s.inWindow x = false
    let pending := (∃ x ∈ rd ++ wr, s.isPending x = true) ∨ (u.sccAwait = true ∧ s.isPending .scc = true) ∨ ∃ k, u.slot = some k ∧ (look s.warp.slots default k).state ≠ .empty
    let stale := ∃ y ∈ u.srcs, y.dead = false ∧ ∃ x ∈ s.srcPlaces y, s.isStale x = true
    let latch := ∃ x ∈ rd, s.badLatch x = true
    let empty := u.readsEmpty = false ∧ ∃ x ∈ rd, s.emptySlot x = true
    let void := frmVt s.warp.frm = true ∧ u.voids ≠ 0
    let all c := s.gate u = .raise { code := c, lanes := s.mask, addr := 0 }
    (u.legal = false → all 0x0001) ∧
    (u.legal = true →
      (u.privileged = true ∧ s.privileged = false → all 0x0002) ∧
      (¬ (u.privileged = true ∧ s.privileged = false) →
        (waits → s.gate u = .wait) ∧
        (¬ waits →
          (window → all 0x0008) ∧
          (¬ window → pending → all 0x0007) ∧
          (¬ window → ¬ pending → stale → all 0x0004) ∧
          (¬ window → ¬ pending → ¬ stale → latch → all 0x0005) ∧
          (¬ window → ¬ pending → ¬ stale → ¬ latch → empty → all 0x0006) ∧
          (¬ window → ¬ pending → ¬ stale → ¬ latch → ¬ empty → u.tagsOk = false → all 0x0003) ∧
          (¬ window → ¬ pending → ¬ stale → ¬ latch → ¬ empty → u.tagsOk = true → void →
            s.gate u = .raise { code := 0x0011, lanes := u.voids, addr := 0 }) ∧
          (¬ window → ¬ pending → ¬ stale → ¬ latch → ¬ empty → u.tagsOk = true → ¬ void → u.uniform = false → all 0x000A) ∧
          (¬ window → ¬ pending → ¬ stale → ¬ latch → ¬ empty → u.tagsOk = true → ¬ void → u.uniform = true →
            (∀ r, u.specific = some r → s.gate u = .raise r) ∧ (u.specific = none → s.gate u = if u.retry then .wait else .go)))))

/-- R101: a word that is no instruction, and an instruction whose fields break the encoding rules, faults with ILLEGAL and has no other
effect. -/
def Sys2Proof.Claims.IllFormedWordsAreIllegal : Prop :=
  ∀ (i : Instr) (s : State), isEvent i = false → i.wellFormed = false → s.issuing.isSome = true →
    (s.switches = true → s.warp.unproduced = []) →
    exec i s = .next (s.prelude.raise { code := 0x0001, lanes := s.prelude.mask, addr := 0 })

/-- R370 and R371: CSRR reads the CSR that its number names in the warp's own reach; CSRW writes it, and is PRIVILEGE outside privilege where
a field of it is privileged. TGTCTX, PARKTGT and PARKCMD have no instance outside a service team: a read is free and a write has no effect
(log 22). A write of SVCDONE waits while an agent holds a line of the results exclusively. -/
def Sys2Proof.Claims.CsrReadsAndWrites : Prop :=
  ∀ (a : SOp) (b : BitVec 7) (n : BitVec 6) (s : State),
    let p := s.prelude
    let c := b.toNat + 128 * n.toNat
    let own := 0x040 ≤ c ∧ c ≤ 0x042
    (Goes s (fun _ => { legal := (Instr.csrr a b n).wellFormed, sdsts := [{ op := a }], drains := true }) →
      let r := p.readCsr p.ownReach c
      exec (.csrr a b n) s = .next (wentOn (r.1.status a r.2)) ∧
      (∀ v, p.csrValue p.ownReach c = some v → r = (p, v)) ∧ (p.team.service = false → ¬ own → (p.csrValue p.ownReach c).isSome = true) ∧
      (p.team.service = false → own → r = ({ p with free := p.free + 1 }, (Config.freeDword p.free).setWidth 32))) ∧
    (Goes s (fun _ => { legal := (Instr.csrw a b n).wellFormed, ssrcs := [{ op := a }], drains := true }) →
      if csrPrivileged c = true ∧ p.privileged = false then
        exec (.csrw a b n) s = .next (p.raise { code := 0x0002, lanes := p.mask, addr := 0 })
      else if c = 0x51D ∧ p.resultsOpen p.ownReach.die ((p.sc a).toNat % 2 ^ 16) = false then exec (.csrw a b n) s = .next s.stall
      else exec (.csrw a b n) s =
        .next (wentOn (((p.enterInvalid.writeCsr p.ownReach c (p.sc a)).csrAction p.ownReach c (p.sc a)).refocus p.focusOf))) ∧
    (p.team.service = false → own → (p.enterInvalid.writeCsr p.ownReach c (p.sc a)).csrAction p.ownReach c (p.sc a) = p.enterInvalid)

/-- Tables 5-3, 9-9 and 25-1: what a write of a warp's CSR leaves: FRM keeps its sticky flags but where a one clears them, WB and SWB,
LIT, the lane cc and the scalar cc, MONTO, TCAUSE, TEPC; other registers stay. -/
def Sys2Proof.Claims.WarpCsrWritesChangeOneRegister : Prop :=
  ∀ (w : Warp) (v : Word),
    let x c := w.csrWrite c v
    (x 0x002).frm = (v &&& 0xF) ||| (w.frm &&& 0x7F00 &&& ~~~v) ∧ (x 0x003).lit = v ∧ (x 0x004).ccl = v ∧ (x 0x005).ccs = v.getLsbD 0 ∧
    (x 0x006).monto = v ∧ (x 0x007).tcause = v &&& 0x007FFFFF ∧
    (x 0x008).tepc = (w.tepc.extractLsb' 32 32 ++ v) ∧ (x 0x009).tepc = (v ++ w.tepc.extractLsb' 0 32) ∧
    (x 0x001).wb = 8 * (v.toNat / 2 ^ 6 % 32) ∧ (x 0x001).swb = 8 * (v.toNat / 2 ^ 11 % 64) ∧ (x 0x001).vton = v.getLsbD 23 ∧
    (∀ c, c ∉ [0x000, 0x01E] → (x c).sregs = w.sregs ∧ (x c).live = w.live ∧ (x c).frontier = w.frontier ∧ (x c).tdepth = w.tdepth) ∧
    (∀ c, c ≠ 0x002 → (x c).frm = w.frm) ∧ (∀ c, c ≠ 0x007 → (x c).tcause = w.tcause) ∧ (∀ c, c ≠ 0x008 → c ≠ 0x009 → (x c).tepc = w.tepc) ∧
    (∀ c, c ≠ 0x003 → (x c).lit = w.lit) ∧ (∀ c, c ≠ 0x004 → (x c).ccl = w.ccl)

/-- R238, R239, R248 and R252: CFLUSH writes back the dirty lines of the mapped pages of its range and CINV drops them too; a write-blocked
range stalls it and a page without permission is its fault; CINV.DISCARD and TLBINV are privileged; PREF fetches the lines of its range in
turn and goes on, its registers and flags as they were, and memory where its one line's translation changes none; TLBINV ends where nothing of
the context is in flight, and no core then caches a translation of its range. -/
def Obligations.CacheAndTranslationMaintenance : Prop :=
  ∀ (a b : SOp) (l2 : BitVec 1) (s : State),
    let p := s.prelude
    let goes (i : Instr) := Goes s fun _ => { legal := Instr.wellFormed i, ssrcs := [{ op := a, count := 2 }, { op := b }] }
    let mine := p.rangeLines (p.scPair a).toNat (p.sc b).toNat
    let mapped := mine.filter p.backMapped
    let dropped (t : State) : State := { t with core := mapped.foldl (fun c l => c.dropLine l.line) t.core }
    let ends (t : State) : State := (t.enterInvalid.advance.heldLimit).finish
    let clean := (∀ l ∈ mapped, l.dirty = 0) ∧ p.backOut = false
    let back := p.writeBackAll (mapped.filter fun l => l.dirty != 0)
    let quiet c r := (∀ h ∈ p.home, h.pend = []) ∧ ((p.core :: p.cores).map (·.num)).Nodup ∧
      (∀ k ∈ p.core :: p.cores, ∀ l ∈ k.lines, l.ctx ≠ c) ∧ (∀ h ∈ p.home, h.excl = none) ∧ p.inFlight c r = false
    let gone (i : Instr) (c : Nat) (r : PageRange) := ∃ u, exec i s = .next (State.finish u) ∧ p.invalidate r = .done u ∧
      u.cachesRange c r = false ∧ u.mem = p.mem
    let denied (i : Instr) := exec i s = .next (p.raise { code := 0x0002, lanes := p.mask, addr := 0 })
    (goes (.cflush a b) → (clean → exec (.cflush a b) s = .next (ends p)) ∧
      Comes (.cflush a b) s (match back with
        | .done t => if (t).backOut then .wait (t) true else .done ((t).enterInvalid.advance.heldLimit)
        | .stall t => .wait t false
        | .raise t r => .raise t r)) ∧
    (goes (.cinv a b) → (clean → exec (.cinv a b) s = .next (ends (dropped p))) ∧
      Comes (.cinv a b) s (match back with
        | .done t => if (dropped t).backOut then .wait (dropped t) true else .done ((dropped t).enterInvalid.advance.heldLimit)
        | .stall t => .wait t false
        | .raise t r => .raise t r)) ∧
    (goes (.cinvDiscard a b) → p.privileged = false → denied (.cinvDiscard a b)) ∧
    (goes (.cinvDiscard a b) → p.privileged = true → ∃ t, exec (.cinvDiscard a b) s = .next t ∧ t.mem = s.mem ∧
      ∀ l ∈ t.core.lines, l ∈ p.core.lines ∧ l ∉ mine) ∧
    (goes (.pref a b l2) →
      let base := (p.scPair a).toNat
      let last := base + max (p.sc b).toNat 1 - 1
      let vas := (List.range (last / 128 - base / 128 + 1)).map fun i => BitVec.ofNat 64 (128 * (base / 128 + i))
      let q := p.prefetchAll (l2 == 1) vas
      exec (.pref a b l2) s = .next (wentOn q.enterInvalid) ∧
      q.warp.sregs = p.warp.sregs ∧ q.warp.frm = p.warp.frm ∧ q.warp.oc = p.warp.oc ∧ q.warp.lit = p.warp.lit ∧
      q.warp.ccl = p.warp.ccl ∧ q.team.scratch = p.team.scratch ∧ (∀ r, q.warp.regData r = p.warp.regData r) ∧
      ∀ va, vas = [va] → (∀ h ∈ p.home, ∀ x ∈ h.pend, p.gtc < x.tw) → p.core.lines.length < l1Lines →
        let c := (p.check .load 1 [(0, va)]).1
        (c.rat c.ctx va).count = false → q.mem = c.mem) ∧
    (goes (.tlbinv a b) → p.privileged = false → denied (.tlbinv a b)) ∧
    (goes (.tlbinv a b) → p.privileged = true →
      let r := PageRange.of (p.scPair a).toNat (p.sc b).toNat
      (quiet p.targetCtx r → gone (.tlbinv a b) p.targetCtx r) ∧
      Comes (.tlbinv a b) s (p.invalidate r)) ∧
    (Goes s (bare .tlbinvAll) → p.privileged = false → denied .tlbinvAll) ∧
    (Goes s (bare .tlbinvAll) → p.privileged = true →
      (quiet p.targetCtx PageRange.whole → gone .tlbinvAll p.targetCtx PageRange.whole) ∧
      Comes .tlbinvAll s (p.invalidate PageRange.whole))

/-- R373 and R374: RGNE pushes an id on the region stack, sixteen deep, marking an overflow; RGNL pops one, marking an underflow; at either, a
warp outside its trap routine parks with STOP at the id of RGNBRK, and at a stop request, which is then over, once no delivery is open in its
team. -/
def Sys2Proof.Claims.RegionStackPushesPopsAndBreaks : Prop :=
  ∀ (a : SOp) (s : State),
    let p := s.prelude
    let id := p.sc a &&& 0x7FFFFFFF
    let quiet := p.ctx.rgnbrk.getLsbD 31 = false ∧ p.warp.stopReq = false
    let open' := p.unwinding = true ∨ ∃ d ∈ p.deliveries, d.level = 0 ∧ d.team = p.team.handle
    let stops (t : State) : Prop := ∃ k, t.warp.park = some k ∧ k.code = 0 ∧ k.pc = p.entry.pc + 4 ∧ k.lanes = p.mask
    let asked (t : State) : Prop := p.warp.stopReq = true → p.ctx.rgnbrk.getLsbD 31 = false →
      (p.warp.tdepth = false → ¬ open' → stops t ∧ t.warp.stopReq = false) ∧
      (p.warp.tdepth = true ∨ open' → t.warp.park = p.warp.park ∧ t.warp.stopReq = true)
    (Goes s (fun _ => { legal := (Instr.rgne a).wellFormed, ssrcs := [{ op := a }] }) →
      ∃ t, exec (.rgne a) s = .next t ∧ t.warp.rgn = (id :: p.warp.rgn).take 16 ∧
        t.warp.rgnOvf = (p.warp.rgnOvf || decide (16 ≤ p.warp.rgn.length)) ∧ t.warp.rgnUnd = p.warp.rgnUnd ∧
        (quiet → t.warp.park = p.warp.park) ∧ asked t ∧ (p.warp.tdepth = false → p.ctx.rgnbrk = 0x80000000 ||| id → stops t)) ∧
    (Goes s (bare .rgnl) →
      ∃ t, exec .rgnl s = .next t ∧ t.warp.rgn = p.warp.rgn.tail ∧ t.warp.rgnOvf = p.warp.rgnOvf ∧
        t.warp.rgnUnd = (p.warp.rgnUnd || p.warp.rgn.isEmpty) ∧ (quiet → t.warp.park = p.warp.park) ∧ asked t ∧
        ∀ x rest, p.warp.rgn = x :: rest → p.warp.tdepth = false → p.ctx.rgnbrk = 0x80000000 ||| x → x.getLsbD 31 = false → stops t)

/-- R71 (Table 4-10): the save path moves the operand cache, the latch shadow and the landing slots to registers and back, all 32 lanes; LTWR and
LBWR are privileged; LBWR of metadata word 0 gives the slot its state, width and destination, and sets or clears PENDING on what it names, and
of word 1 its lane mask. OCWR and LTWR make their slot valid (log 87 for OCWR's window entry). -/
def Sys2Proof.Claims.SavePathMovesSlots : Prop :=
  ∀ (v : VOp) (n : BitVec 4) (k : BitVec 3) (w : BitVec 2) (m : BitVec 1) (s : State),
    let p := s.prelude
    let gives (i : Instr) (d : VOp) (y : Lanes) (t : Tag) := exec i s = .next (wentOn (p.settle [] (p.allLanesEntry d y t)))
    let c := look p.warp.oc Copy.blank n.toNat
    let l := look p.warp.shadow Copy.blank k.toNat
    let x := p.warp.land n.toNat
    let from' (i : Instr) := Goes s fun _ => { legal := Instr.wellFormed i, srcs := [{ op := v }] }
    let tag := (p.srcTag v).getD .raw
    (Goes s (needs (.ocrd v n) [] v) → p.warp.awaitsCache n.toNat = false →
      gives (.ocrd v n) v (if c.valid then c.data else splat 0) (if c.valid then c.tag else .raw)) ∧
    (from' (.ocwr v n) → p.warp.awaitsCache n.toNat = false → gives (.ocwr v n) (.oc n) (p.vec v) tag) ∧
    (Goes s (needs (.ltrd v k) [] v) → gives (.ltrd v k) v (if l.valid then l.data else splat 0) (if l.valid then l.tag else .raw)) ∧
    (from' (.ltwr v k) → p.privileged = false → exec (.ltwr v k) s = .next (p.raise { code := 0x0002, lanes := p.mask, addr := 0 })) ∧
    (from' (.ltwr v k) → p.privileged = true → ∃ t, exec (.ltwr v k) s = .next t ∧
      look t.warp.shadow Copy.blank k.toNat = { data := p.vec v, tag := tag, valid := true, regs := [] } ∧
      ∀ j, j ≠ k.toNat → look t.warp.shadow Copy.blank j = look p.warp.shadow Copy.blank j) ∧
    (Goes s (needs (.lbrd v w m n) [] v) →
      gives (.lbrd v w m n) v (if m = 0 then look x.data (splat 0) w.toNat else splat (x.meta w.toNat)) .raw) ∧
    (from' (.lbwr v w m n) → p.privileged = false → exec (.lbwr v w m n) s = .next (p.raise { code := 0x0002, lanes := p.mask, addr := 0 })) ∧
    (from' (.lbwr v w m n) → p.privileged = true →
      ∃ t, exec (.lbwr v w m n) s = .next t ∧
        let y := t.warp.land n.toNat
        let z : Word := lane (p.vec v) 0
        let width := if z.toNat / 4 % 4 = 1 then 2 else if z.toNat / 4 % 4 = 2 then 4 else 1
        (m = 0 → look y.data (splat 0) w.toNat = p.vec v ∧ y.state = x.state ∧ y.mask = x.mask ∧ y.dest = x.dest) ∧
        (m = 1 → w = 0 → y.data = x.data ∧ y.mask = x.mask ∧ y.dest = z.toNat / 2 ^ 4 % 512 ∧
          (y.state = .landed ↔ z.toNat % 4 = 2) ∧ (z.toNat % 4 ≠ 2 → y.state = .empty) ∧
          (z.toNat / 4 % 4 = 0 → y.kind = .w) ∧ (z.toNat / 4 % 4 = 1 → y.kind = .d) ∧ (z.toNat / 4 % 4 = 2 → y.kind = .q) ∧
          (z.toNat / 4 % 4 = 3 → y.kind = .scalar ∧ (y.dest ∈ t.warp.spend ↔ z.toNat % 4 = 2)) ∧
          (z.toNat / 4 % 4 ≠ 3 → ∀ j, j < width → y.dest + j < 256 →
            (t.warp.bankReg (y.dest + j)).pending = decide (z.toNat % 4 = 2))) ∧
        (m = 1 → w ≠ 0 → y.mask = z ∧ y.data = x.data ∧ y.state = x.state ∧ y.dest = x.dest) ∧
        ∀ j, j ≠ n.toNat → t.warp.land j = p.warp.land j)

/-- R375: HALT, the word 0xFD000000 alone, is privileged. In a PREEMPT trap that is not a resume it performs a device-scope release, whose
fault parks the warp with DOUBLE in its trap routine, and then the warp has halted and issues nothing more; in any other case it is
ILLEGAL. -/
def Obligations.HaltEndsTheSaveRoutine : Prop :=
  decode 0xFD000000 = .halt ∧ (∀ w, decode w = .halt → w = 0xFD000000) ∧
  ∀ (s : State),
    let p := s.prelude
    let preempted := p.warp.tcause.toNat % 2 ^ 16 = 0x0033 ∧ p.warp.tcause.getLsbD 22 = false
    Goes s (bare .halt) →
    (p.privileged = false → exec .halt s = .next (p.raise { code := 0x0002, lanes := p.mask, addr := 0 })) ∧
    (p.privileged = true → ¬ preempted → exec .halt s = .next (p.raise { code := 0x0001, lanes := p.mask, addr := 0 })) ∧
    (p.privileged = true → preempted →
      (Settled p → ∃ q, exec .halt s = .next q ∧ q.warp.halted = true ∧ q.issuing = none) ∧
      match p.releaseDevice with
      | .done _ => ∃ q, exec .halt s = .next q ∧ q.warp.halted = true ∧ q.issuing = none
      | .wait t changed => exec .halt s = .next (if changed then t.wake else t).stall
      | .raise t r => exec .halt s = .next (t.raise r) ∧
        (t.warp.tdepth = true → ∃ x, (t.raise r).warp.double = some x ∧ x.code = 0x0034 ∧ x.second = r.code))

/-- R326 to R332, R340 to R348: TRACE forks its walks into a slot; REGROUP joins the team's regrouping; ENQ and ENQC, after a device-scope
release, enqueue the records of their lanes while the node store has room for them, and their status counts them; QSTAT reads a count; SVC, after a
device-scope release, leaves its entry waiting for its batch, which is posted if its ring has room. -/
def Obligations.TraceRegroupEnqueueAndService : Prop :=
  ∀ (a b : VOp) (c d : SOp) (any root bl : BitVec 1) (k e : BitVec 4) (n fn : BitVec 6) (sel : BitVec 2) (s : State),
    let p := s.prelude
    (Goes s (fun _ => { legal := (Instr.trace a b any root k).wellFormed, srcs := [{ op := a, count := 8 }], dsts := [{ op := b, count := 4 }],
                        slot := some k.toNat }) →
      (∀ j, j < 8 → p.srcTag a j = some .fp32) →
      ∃ t, exec (.trace a b any root k) s = .next t ∧
        let x := t.warp.land k.toNat
        x.state = .inflight ∧ x.kind = .trace ∧ x.mask = p.mask ∧ t.warp.trslot.getLsbD k.toNat = true ∧
        ∃ j, x.trace = some j ∧ j.root = (if root = 1 then p.team.trroot1 else p.team.trroot0) ∧ j.any = (any == 1) ∧
          j.rays = (List.range 8).map fun i => p.vec a i) ∧
    (Goes s (fun _ => { legal := (Instr.regroup a b n).wellFormed, srcs := [{ op := a }, { op := b, count := n.toNat }], drains := true }) →
      p.mask = p.warp.live → p.accessesDone = true →
      let q := ((p.withWarp p.warp.drain).enterInvalid).holdAs .regroup
      exec (.regroup a b n) s = .next ((({ q with team := { q.team with regroups := q.team.regroups ++
        [{ warp := q.warp.idx, key := q.fileNo (q.place a), first := q.fileNo (q.place b), n := n.toNat }] } } : State).completeRegroup q.team.handle).finish)) ∧
    (∀ first, a = .v first → first.toNat + p.edgeWords e.toNat ≤ 64 → p.edgeCheck e.toNat = none →
      Goes s (fun _ => { legal := (Instr.enq a d bl e).wellFormed, srcs := [{ op := a, count := p.edgeWords e.toNat }], sdsts := [{ op := d }] }) →
      (p.secondary = false → p.warp.reissue = none → Settled p → (p.dieAt p.team.die).nodeUsed + p.active.length ≤ 65536 →
        ∃ q : State, exec (.enq a d bl e) s = .next (wentOn (q.status d (BitVec.ofNat 32 p.active.length))) ∧ q.mem = p.mem ∧
          q.warp.sregs = p.warp.sregs ∧ q.warp.frontier = p.warp.frontier) ∧
      Comes (.enq a d bl e) s (p.enq e.toNat d (bl == 1)
        (fun t => (maskLanes t.atomMask).map fun L => (L, (List.range (t.edgeWords e.toNat)).map fun i => lane (t.vec a i) L)) p.active.length)) ∧
    (∀ first, c = .s first → first.val + p.edgeWords e.toNat ≤ 120 → p.edgeCheck e.toNat = none →
      Goes s (fun _ => { legal := (Instr.enqc c d bl e).wellFormed, ssrcs := [{ op := c, count := p.edgeWords e.toNat }], sdsts := [{ op := d }] }) →
      (p.secondary = false → p.warp.reissue = none → Settled p → (p.dieAt p.team.die).nodeUsed < 65536 →
        ∃ q : State, exec (.enqc c d bl e) s = .next (wentOn (q.status d 1)) ∧ q.mem = p.mem ∧
          q.warp.sregs = p.warp.sregs ∧ q.warp.frontier = p.warp.frontier) ∧
      Comes (.enqc c d bl e) s
        (p.enq e.toNat d (bl == 1) (fun t => [(t.firstLane, (List.range (t.edgeWords e.toNat)).map fun i => t.sc c i)]) 1)) ∧
    (Goes s (fun _ => { legal := (Instr.qstat c sel e).wellFormed, sdsts := [{ op := c }] }) → (sel = 0 → p.edgeCheck e.toNat = none) →
      exec (.qstat c sel e) s = .next (wentOn (p.status c (BitVec.ofNat 32 (p.queueStat sel e.toNat))))) ∧
    (Goes s (fun _ => { legal := (Instr.svc a fn).wellFormed, srcs := [{ op := a, count := 4 }], dsts := [{ op := a, count := 4 }], drains := true }) →
      p.team.service = false → p.secondary = false → Settled p →
      let ring := (p.dieAt (dieOfCore p.core.num)).svcq
      ∃ q, exec (.svc a fn) s = .next q ∧ ∃ x ∈ q.warp.frontier, x.id = p.entry.id ∧ x.pc = p.entry.pc ∧ x.mask = p.entry.mask ∧
        x.wait = .svc fn.toNat (p.svcReg a) (if ring.room then some ring.tail.toNat else none)) ∧
    (Goes s (fun _ => { legal := (Instr.svc a fn).wellFormed, srcs := [{ op := a, count := 4 }], dsts := [{ op := a, count := 4 }], drains := true }) →
      p.team.service = false → p.secondary = false →
      match p.releaseDevice with
      | .done t => ∃ q, exec (.svc a fn) s = .next q ∧ ∃ x ∈ q.warp.frontier, x.id = t.entry.id ∧ x.mask = t.entry.mask ∧
          ∃ at', x.wait = .svc fn.toNat (t.svcReg a) at'
      | .wait t changed => exec (.svc a fn) s = .next (if changed then t.wake else t).stall
      | .raise t r => exec (.svc a fn) s = .next (t.raise r)) ∧
    (Goes s (fun _ => { legal := (Instr.svc a fn).wellFormed, srcs := [{ op := a, count := 4 }], dsts := [{ op := a, count := 4 }], drains := true }) →
      p.team.service = true → exec (.svc a fn) s = .next (p.raise { code := 0x0001, lanes := p.mask, addr := 0 }))

/-- Trap entry and the return from it. -/
def Obligations.TrapsAndReturns : Prop :=
  Sys2Proof.Claims.TrapEntersOrDoubles ∧ Sys2Proof.Claims.TrapEntrySavesContext ∧ Sys2Proof.Claims.TretReturnsFromTheTrap

/-- The checks at issue. -/
def Obligations.ChecksAndIllegalWords : Prop :=
  Sys2Proof.Claims.ChecksInTheOrderOfTheTable ∧ Sys2Proof.Claims.IllFormedWordsAreIllegal

/-- CSRR and CSRW. -/
def Obligations.CsrAccess : Prop :=
  Sys2Proof.Claims.CsrReadsAndWrites ∧ Sys2Proof.Claims.WarpCsrWritesChangeOneRegister

/-- The region stack and the save path. -/
def Obligations.RegionsAndTheSavePath : Prop :=
  Sys2Proof.Claims.RegionStackPushesPopsAndBreaks ∧ Sys2Proof.Claims.SavePathMovesSlots

/-- R351 to R353, R356, R378, R211: accesses of the host that reach the function: a CSR through BAR0 in the instances that DBGSEL and
DBGCTL name, doorbells, reads, writes and AtomicOps of HBM, reads and writes over CXL, snoops, and configuration requests. -/
def Sys2Proof.Claims.HostReachesTheFunction : Prop :=
  ∀ (s : State),
    let q := s.noteQueues
    let free (n len : Nat) : Prop := ∀ i, i < len → (s.homeLine (lineOf (n + i))).excl = none ∧ (s.homeLine (lineOf (n + i))).pend = []
    let reads (i : Instr) (n len : Nat) : Prop :=
      free n len → ∃ t, exec i s = .next t ∧ t.pkg.answer = Memory.readBytes s.mem n len ∧ t.pkg.reply = .data ∧ t.mem = s.mem
    let writes (i : Instr) (n len v : Nat) : Prop :=
      lineOf n = lineOf (n + len - 1) → ∃ t u, exec i s = .next t ∧ (t.homeLine (lineOf n)).pend.getLast? = some u ∧ u.pa = n ∧
        u.kind = .bytes (leBytes v len)
    (s.pkg.reachable = true →
      (∀ (off : BitVec 25) (v : BitVec 32), off.toNat % 4 = 0 → csrNumber (off.toNat / 4) = true →
        let c := off.toNat / 4
        (if c = 0x51D ∧ s.resultsOpen s.hostReach.die (v.toNat % 2 ^ 16) = false then exec (.bar0CsrAccess true off v) s = .fault .cannotHappen
          else exec (.bar0CsrAccess true off v) s =
            .next (((s.writeCsr s.hostReach c v).csrAction s.hostReach c v).refocus s.focusOf).wake) ∧
        ∃ t, exec (.bar0CsrAccess false off v) s = .next t ∧ t.pkg.reply = .data ∧ t.mem = s.mem ∧
          ∀ x, s.csrValue s.hostReach c = some x → t.pkg.answer = leBytes x.toNat 4) ∧
      (6 ≤ s.pkg.stage → q.queuesOpen = true → ∀ (off : BitVec 20) (v : BitVec 32), off.toNat % 256 = 0 →
        let d := q.queueDesc (off.toNat / 256)
        let fits := v.toNat < 2 ^ 16 ∧ (v.toNat + 2 ^ 16 - d.head.toNat) % 2 ^ 16 < 2 ^ d.log2sz
        (fits → q.queuesLost = false → exec (.doorbell true off 4 v) s =
          .next (q.putBytes (s.pkg.qtbl.toNat + 32 * (off.toNat / 256) + 18) (leBytes v.toNat 2)).wake) ∧
        (fits → q.queuesLost = true → ∃ t, exec (.doorbell true off 4 v) s = .next t ∧ t.mem = s.mem) ∧
        (¬ fits → ∃ t, exec (.doorbell true off 4 v) s = .next t ∧ t.mem = s.mem ∧ t.pkg.dberr = saturate32 s.pkg.dberr) ∧
        ∃ t, exec (.doorbell false off 4 v) s = .next t ∧ t.pkg.answer = leBytes (d.head.toNat + 2 ^ 16 * d.tail.toNat) 4) ∧
      (∀ (off : BitVec 40) (len v : Nat), 0 < len → off.toNat + len ≤ 768 * 2 ^ 30 →
        let n := off.toNat
        reads (.bar4Access .read off len v) n len ∧ writes (.bar4Access .write off len v) n len v ∧
        (Config.strapCxl = true → reads (.cxlMemAccess .read off len v) n len ∧ writes (.cxlMemAccess .write off len v) n len v) ∧
        ((len = 4 ∨ len = 8) → n % len = 0 → free n len → max (s.homeLine (lineOf n)).lmax (s.homeLine (lineOf n)).lastTw ≤ s.gtc →
          Memory.wf s.mem = true →
          let old := Memory.readNat s.mem n len
          let atom (op : HostOp) (new : Nat) : Prop :=
            ∃ t, exec (.bar4Access op off len v) s = .next t ∧ t.pkg.answer = leBytes old len ∧ Memory.readNat t.mem n len = new ∧
              ∀ a, a < n ∨ n + len ≤ a → Memory.read t.mem a = Memory.read s.mem a
          atom .fetchAdd ((old + v) % 2 ^ (8 * len)) ∧ atom .swap (v % 2 ^ (8 * len)) ∧
          ∀ c : BitVec 64, atom (.cas c) (if old = c.toNat % 2 ^ (8 * len) then v % 2 ^ (8 * len) else old))) ∧
      (∀ (off : BitVec 40) (len v : Nat), 0 < len → 768 * 2 ^ 30 < off.toNat + len →
        (∃ t, exec (.bar4Access .read off len v) s = .next t ∧ t.pkg.reply = .unsupported) ∧
        ∃ t, exec (.bar4Access .write off len v) s = .next t ∧ t.mem = s.mem)) ∧
    (∀ line, Config.strapCxl = true → target (128 * line) = .host → s.hostGone = false → (s.homeLine line).pend = [] →
      (s.homeLine line).excl = none → (s.homeLine line).lmax ≤ s.gtc →
      ∃ t, exec (.hostSnoop line) s = .next t ∧ (t.homeLine line).cached = false ∧ t.mem = s.mem) ∧
    (∃ t, exec .configurationRequest s = .next t ∧ t.mem = s.mem ∧
      (s.pkg.stage < 5 → t.pkg.reply = .none) ∧ (5 ≤ s.pkg.stage → s.pkg.flr = true → t.pkg.reply = .retry) ∧
      (5 ≤ s.pkg.stage → s.pkg.flr = false → t.pkg.reply = .data))

/-- R355, R359, R373, R374, R188, R347: what the writes with a behaviour of their own do: HOSTCTL.REARM, NLCTL.RETRAIN, DBGCTL.STOP,
RGNSTAT.DEPTH, FSHN and SVCDONE, which gives the waiting entry of an outstanding batch the words of its ring entry. -/
def Sys2Proof.Claims.WritesWithABehaviourOfTheirOwn : Prop :=
  ∀ (s : State),
    (∃ t, exec .hostctlRearm s = .next t ∧ t.pkg.linkLost = (s.pkg.linkLost && !s.pkg.linkUp)) ∧
    (∀ n : BitVec 4, let x := s.port n.toNat
      ∃ t, exec (.nlctlRetrain n) s = .next t ∧ (t.port n.toNat).cur = x.rate ∧
        (x.rate = 3 → (t.port n.toNat).lanes = 0) ∧ (x.rate ≠ 3 → (t.port n.toNat).retraining = true) ∧
        ∀ m, m ≠ n.toNat → t.port m = s.port m) ∧
    (∃ t, exec .dbgctlStop s = .next t ∧
      ∀ u, s.teamInPlace (s.pkg.dbgsel.toNat / 2 ^ 16 % 2 ^ 9) (s.pkg.dbgsel.toNat / 2 ^ 25 % 2 ^ 4) = some u →
        ∀ w ∈ t.allWarps, w.team = u.handle → w.gone = false → w.stopReq = true) ∧
    (∀ (h w : Nat) (d : BitVec 5), ∃ t, exec (.rgnstatDepthWrite h w d) s = .next t ∧
      ∀ x ∈ t.allWarps, x.team = h → x.idx = w → x.gone = false → x.rgn.length = min d.toNat 16) ∧
    (∀ (h w : Nat) (n : BitVec 6), ∃ t, exec (.fshnWrite h w n) s = .next t ∧
      ∀ x ∈ t.allWarps, x.team = h → x.idx = w → x.gone = false → x.fshn = min n.toNat 32 ∧ ∀ k, min n.toNat 32 ≤ k → k < 32 →
        look x.fsh default k = default) ∧
    (∀ (d : BitVec 2) (i : BitVec 16), s.resultsOpen d.toNat i.toNat = true →
      let v := s.settleDue
      (((v.dieAt d.toNat).batches.find? fun b => b.index == i.toNat) = none → exec (.svcdone d i) s = .next v.wake) ∧
      ∃ t, exec (.svcdone d i) s = .next t ∧ (∀ b ∈ (t.dieAt d.toNat).batches, b.index ≠ i.toNat) ∧
        ∀ b u, ((v.dieAt d.toNat).batches.find? fun b => b.index == i.toNat) = some b → b.cancel = false → v.focusOn b.team b.warp = some u →
          ((∃ e ∈ u.warp.frontier, Entry.inSvc i.toNat e = true) → ∃ x, t.warp.svcEnds = u.warp.svcEnds ++ [x] ∧ x.index = i.toNat ∧
            x.reg = b.reg ∧ x.mask = b.mask ∧ ∀ k L, k < 4 → L < 32 → lane (x.words.getD k (splat 0)) L =
              u.ringWord (v.dieAt d.toNat).svcq i.toNat L k) ∧
          ((∀ e ∈ u.warp.frontier, Entry.inSvc i.toNat e = false) → t.warp.svcEnds = u.warp.svcEnds))

/-- R351, R354 to R356, R367 to R369: training and loss of the host link, Function Level Reset, bring-up, D3hot, power removal, clock
steps and the takeover of a failed core; bring-up step 4 and a Function Level Reset enter a service team on each service core. -/
def Obligations.LinkPowerAndReset : Prop :=
  ∀ (s : State),
    (s.pkg.linkUp = true → ∃ t, exec .hostLinkLoss s = .next t ∧ t.pkg.linkLost = true ∧ t.pkg.linkUp = false ∧ t.pkg.width = 0 ∧
      ((∀ c ∈ s.core :: s.cores, ∀ a ∈ c.atoms, a.who = 0) →
        t.mem = s.settleDue.mem ∧ (∀ h ∈ t.home, ∀ u ∈ h.pend, target u.pa ≠ .host) ∧ (∀ k ∈ t.contributions, k.host = false) ∧
        ∀ c ∈ t.core :: t.cores, (∀ x ∈ c.tlb, target x.pa ≠ .host) ∧ ∀ l ∈ c.lines, l.dirty ≠ 0 → target (128 * l.line) ≠ .host)) ∧
    (s.pkg.reachable = true → ∃ t, exec .functionLevelReset s = .next t ∧ t.pkg.flr = true ∧ t.pkg.qtbl = 0 ∧ t.gtc = 0 ∧
      (∀ d, d < 4 → (t.dieAt d).parkSeq = (s.dieAt d).parkSeq) ∧
      (∀ x ∈ t.allTeams, x.service = true) ∧ (∀ d, d < 4 → ∃ x ∈ t.allTeams, x.core = 384 + d) ∧ t.home = [] ∧ t.contexts = [] ∧ t.pkg.linkUp = s.pkg.linkUp ∧ ∀ a, a < 768 * 2 ^ 30 → Memory.read t.mem a = 0) ∧
    (s.pkg.stage < 6 → s.pkg.stage ≠ 4 → ∃ t, exec .powerOnBringUp s = .next t ∧ t.pkg.stage = s.pkg.stage + 1 ∧
      (s.pkg.stage = 1 → ∀ a, a < 768 * 2 ^ 30 → Memory.read t.mem a = 0) ∧
      (s.pkg.stage = 3 → ∀ d, d < 4 → ∃ x ∈ t.allTeams, x.core = 384 + d ∧ x.service = true)) ∧
    (∀ w : BitVec 5, 4 ≤ s.pkg.stage → w = 16 ∨ w = 8 →
      ∃ t, exec (.hostPortTrain w) s = .next t ∧ t.pkg.linkUp = true ∧ t.pkg.width = w ∧ t.pkg.stage = max s.pkg.stage 5) ∧
    (s.pkg.d3hot = false → 5 ≤ s.pkg.stage → ∃ t, exec .d3hotEntry s = .next t ∧ t.pkg.d3hot = true) ∧
    (s.pkg.d3hot = true → ∃ t, exec .d0Return s = .next t ∧ t.pkg.d3hot = false) ∧
    (∃ t, exec .powerRemoval s = .next t ∧ t.pkg.stage = 0 ∧ t.gtc = 0 ∧ t.teams = [] ∧ t.warps = [] ∧
      ∀ a, a < 768 * 2 ^ 30 → Memory.read t.mem a = 0) ∧
    (s.pkg.clock + 50 ≤ 1050 → ∃ t, exec (.clockStep true) s = .next t ∧ t.pkg.clock = s.pkg.clock + 50) ∧
    (350 ≤ s.pkg.clock → ∃ t, exec (.clockStep false) s = .next t ∧ t.pkg.clock = s.pkg.clock - 50) ∧
    (∀ core, core < 384 → s.coreTeams core = [] → (s.coreOf core).takenOver = false →
      ((s.core :: s.cores).filter fun c => c.takenOver && c.num / 96 == core / 96).length < 3 →
      ∃ t, exec (.spareCoreTakeover core) s = .next t ∧ (t.coreOf core).takenOver = true ∧ (t.coreOf core).lines = [] ∧
        (t.coreOf core).tlb = [])

/-- R357 to R361: a Norozlink port: flits that arrive, replays, retraining, flits that are carried out and answered, one of a context that a
reset has ended being discarded, and accesses to the peer window. -/
def Obligations.NorozlinkPorts : Prop :=
  ∀ (n : BitVec 4) (s : State),
    let p := s.port n.toNat
    let after (t : State) : Port := t.port n.toNat
    (∀ f : BitVec 2048, p.cur ≠ 3 → ∃ t, exec (.flitReceive n f) s = .next t ∧ t.mem = s.mem ∧
      (decodeFlit f = none → (after t).nak = true ∧ (after t).accepted = p.accepted ∧ (after t).expected = p.expected) ∧
      ∀ bs k, decodeFlit f = some (bs, k) →
        (crcOk bs = false → (after t).nak = true ∧ (after t).accepted = p.accepted ∧ (after t).expected = p.expected) ∧
        (crcOk bs = true → flitField bs 0 0 8 = p.expected.toNat → (after t).expected = p.expected + 1 ∧ (after t).nak = false ∧
          (flitField bs 0 17 4 ∉ [1, 2, 4] → (after t).accepted = p.accepted) ∧
          (flitField bs 0 17 4 ∈ [1, 2, 4] → ∃ a, (after t).accepted = p.accepted ++ [a] ∧ a.kind = flitField bs 0 17 4 ∧
            a.ctx = flitField bs 4 0 16 ∧ a.stream = flitField bs 4 16 16)) ∧
        (crcOk bs = true → flitField bs 0 0 8 ≠ p.expected.toNat → (after t).expected = p.expected ∧ (after t).accepted = p.accepted)) ∧
    (∀ a : BitVec 8, p.cur ≠ 3 → ∃ t, exec (.nakReplay n a) s = .next t ∧ (after t).replay = saturate32 p.replay ∧
      ∀ x ∈ (after t).buffer, x ∈ p.buffer) ∧
    (p.cur ≠ 3 → 8 ≤ (p.times.filter fun t => decide (s.gtc < t + 1000000)).length →
      ∃ t, exec (.portRetrainOnReplays n) s = .next t ∧ (p.cur = 2 → (after t).cur = 3 ∧ (after t).lanes = 0) ∧
        (p.cur ≠ 2 → (after t).cur = p.cur + 1 ∧ (after t).retraining = true)) ∧
    (p.retraining = true → ∃ t, exec (.retrainingComplete n) s = .next t ∧ (after t).retraining = false ∧ (after t).cur = p.cur) ∧
    (∀ a l, p.accepted = a :: l → (s.vanished a.ctx = true ∨ s.flitOpen a = true) →
      ∃ t, exec (.norozlinkReceiveWrite n) s = .next t ∧ (after t).accepted = l ∧
      (s.vanished a.ctx = true → t.mem = s.mem ∧ t.home = s.home)) ∧
    (∀ due kind ctx stream l, p.accepted = [] → p.owed = (due, kind, ctx, stream) :: l → due ≤ s.gtc → p.canSend = true →
      ∃ t, exec (.norozlinkReceiveWrite n) s = .next t ∧ (after t).owed.length ≤ l.length ∧ p.buffer.length < (after t).buffer.length) ∧
    (∀ id o (v : BitVec 1024), (s.pkg.peers.find? fun x => x.id == id && !x.sent) = some o → (s.port o.port).canSend = true → o.port < 16 →
      s.peerTurn o = true → id < s.nextId →
      ∃ t, exec (.peerWindowAccess id v) s = .next t ∧ (t.port o.port).seq = (s.port o.port).seq + 1 ∧
        (∀ x ∈ t.pkg.peers, x.id = id → o.update?.isSome = true ∧ x.sent = true)) ∧
    (∀ id o, (s.pkg.peers.find? fun x => x.id == id && x.sent) = some o →
      ∃ t, exec (.peerAck id) s = .next t ∧ (∀ x ∈ t.pkg.peers, x.id ≠ id) ∧
        ∀ u, o.what = .update u → u.who = 0 → u.copies = [] →
          ∀ x ∈ t.allWarps, x.team = u.team → u.warp = anyWarp ∨ x.idx = u.warp → x.gone = false → s.gtc ≤ x.wct)

/-- Accesses of the host, and writes with a behaviour of their own. -/
def Obligations.HostAccesses : Prop :=
  Sys2Proof.Claims.HostReachesTheFunction ∧ Sys2Proof.Claims.WritesWithABehaviourOfTheirOwn

/-- R21, R23, R25, R337, R338: where a new team goes and how its warps stand: the core of the die that fits it with the fewest resident
warps, the lowest number on a tie; initial warps at the entry PC at TDEPTH 0 with WB and SWB 0, and lane L of warp i live where thread
LANEFILL × i + L exists. Its handle is a 32-bit value of its own, and its schedule the one that was read as it was placed. -/
def Sys2Proof.Claims.TeamsArePlacedAndStarted : Prop :=
  ∀ (s : State) (d : Nat) (p : Pooled) (n : Need) (sched : List CopyDesc),
    (∀ c, s.bestCore n (coresOf d) = some c → c ∈ coresOf d ∧ s.fitsOn n c = true ∧ ∀ x ∈ coresOf d, s.fitsOn n x = true →
      (s.coreWarps c).length < (s.coreWarps x).length ∨ ((s.coreWarps c).length = (s.coreWarps x).length ∧ c ≤ x)) ∧
    (∀ c (b : Bool), let l := s.launchOf p.launch
      let m := (l.node? (p.node.getD 0)).getD default
      let t := s.placeWith l m sched p c b
      (∀ u es, s.placedSched l m = some (u, es) → s.placeNew p c b = some (u.placeWith l m es p c b)) ∧
      ∃ x, t.teams = s.teams.filter (fun y => y.life != .gone) ++ [x] ∧ x.handle = s.freeHandle ∧ x.index = p.index ∧ x.core = c ∧
        x.life = .resident ∧ x.prio = l.prio ∧ x.sched = sched ∧ x.scratch = [] ∧ x.scratchSize = 1024 * m.scratch ∧ x.tiles.length = m.tiles ∧
        ∃ ws, t.warps = s.warps ++ ws ∧ ws.length = m.warps ∧ ∀ i w, ws[i]? = some w → w.team = s.freeHandle ∧ w.idx = i ∧ w.tdepth = false ∧
          w.wb = 0 ∧ w.swb = 0 ∧ w.vvg = m.budget (m.role i) ∧ w.window = [] ∧
          (∀ L, L < 32 → (w.live.getLsbD L = true ↔ L < m.lfill ∧ m.lfill * i + L < m.threads)) ∧
          ∃ e, w.frontier = [e] ∧ e.pc = m.entry ∧ e.mask = w.live ∧ e.wait = .ready) ∧
    (s.teams.length < 2 ^ 31 → 0 < s.freeHandle ∧ s.freeHandle < 2 ^ 32 ∧ s.freeHandle ≠ s.team.handle ∧ ∀ x ∈ s.teams, x.handle ≠ s.freeHandle) ∧
    ∀ (die : BitVec 2), match s.next? die.toNat with
      | some x => exec (.teamPlacement die) s = .next x.2.wake
      | none => exec (.teamPlacement die) s = .fault .cannotHappen

/-- R334, R336, R348: LAUNCH_ADMISSION of the next record of a queue whose turn it is: an admitted launch joins the launches and its teams
the pools; a record that breaks the rules completes at once with ILLEGAL; the queue's HEAD advances either way. -/
def Sys2Proof.Claims.LaunchesAreAdmittedInTurn : Prop :=
  ∀ (queue : BitVec 12) (s : State),
    let q := queue.toNat
    let z := s.settleDue.noteQueues
    let d := z.queueDesc q
    let turn := s.pkg.d3hot = false ∧ s.pkg.flr = false ∧ 6 ≤ s.pkg.stage ∧ z.queuesLost = false ∧ z.queuesOpen = true ∧ d.posted = true ∧
      ∀ r, r < 4096 → r ≠ q → (z.queueDesc r).posted = true → z.servesBefore r q = true →
        (match z.admission r with | .waits => True | _ => False)
    turn →
    (match z.admission q with
      | .admits t => exec (.launchAdmission queue) s = .next (t.passRecord q).wake
      | .rejects t l => (match t.reportLaunch l 0x0001 0 0 with
          | some u => exec (.launchAdmission queue) s = .next (u.passRecord q).wake
          | none => exec (.launchAdmission queue) s = .fault .cannotHappen)
      | .waits => exec (.launchAdmission queue) s = .fault .cannotHappen) ∧
    (∀ t : State, (t.passRecord q).admittedBy q = t.admittedBy q + 1 ∧
      (Memory.wf t.mem = true → t.linesOpen (t.pkg.qtbl.toNat + 32 * q + 16) 2 = true →
        Memory.readNat (t.passRecord q).mem (t.pkg.qtbl.toNat + 32 * q + 16) 2 = ((t.queueDesc q).head + 1).toNat)) ∧
    (∀ t, z.admission q = .admits t → ∃ l ∈ t.launches, l.name / 2 ^ 20 = q ∧ l.finished = false ∧ l.prio = d.prio ∧ l.ctx = d.ctx)

/-- R38, R39, R190, R339: preemption, saving and resuming of a team, and its swapping out and back. -/
def Obligations.TeamsArePreemptedSavedAndSwapped : Prop :=
  ∀ (h : Nat) (s : State),
    let t := s.teamOf h
    let alone := t.twin = none ∧ (s.launchOf t.launch).coop = false
    let area := Config.saveArea t.ctx h
    let saved (u : State) (image : List Nat) : Prop :=
      (∀ a, a < area.1 ∨ area.1 + area.2 ≤ a → Memory.read u.mem a = Memory.read s.mem a) ∧
      (Memory.wf s.mem = true → s.linesOpen area.1 area.2 = true → ∀ i, i < area.2 →
        Memory.read u.mem (area.1 + i) = Config.imageByte image i)
    (s.preemptable h = true → alone → ∃ u, exec (.preempt h) s = .next u ∧ (u.teamOf h).life = .preempting ∧ u.mem = s.mem ∧
      ∀ w ∈ u.allWarps, w.team = h → w.gone = false → w.preempt = true) ∧
    (∀ x u, s.preemptGroups [x] = some u → exec (.preempt x) s = .next u.wake) ∧
    (∀ (die : BitVec 2) p l, ((s.poolOf die.toNat).filter fun p => !s.stoppedEntry p) = p :: l →
      (s.launchOf p.launch).paired = false → s.bestCore (s.needOf p) (coresOf die.toNat) = none → s.pkg.d3hot = false → s.pkg.flr = false →
      (∀ t ∈ s.allTeams, t.die = die.toNat → t.life ≠ .preempting) →
      ∀ hs u, s.bestVictims (s.needOf p) p.prio (coresOf die.toNat) = some hs → s.preemptGroups hs = some u →
        exec (.preemptForHead die) s = .next u.wake ∧ ∀ x ∈ hs, ∃ t ∈ s.allTeams, t.handle = x ∧ t.life = .resident ∧ t.prio < p.prio) ∧
    (t.handle = h → t.life = .preempting → (∀ w ∈ s.teamWarps h, w.halted = true) → s.enginesDone t = true → t.die < 4 →
      ∃ u, exec (.teamStateSave h) s = .next u ∧ (u.teamOf h).life = .saved ∧ saved u (t.saveImage (s.teamWarps h)) ∧
        ∃ x ∈ (u.dieAt t.die).pool, x.saved = some h ∧ x.admitted = t.admitted ∧ x.prio = t.prio) ∧
    (t.handle = h → t.life = .saved →
      let r := s.putCtx { s.ctxOf t.ctx with stopped := false }
      (∀ p u, r.next? t.die = some (p, u) → p.saved = some h → exec (.teamResume h) s = .next u.wake) ∧
      ((s.ctxOf t.ctx).stopped = true → (∃ u, exec (.teamResume h) s = .next u) ∧
        (r.next? t.die = none → exec (.teamResume h) s = .next r.wake))) ∧
    (t.handle = h → t.life = .resident → t.service = false → t.paired = false → (s.launchOf t.launch).coop = false → t.doomed = none →
      (∀ w ∈ s.teamWarps h, w.monWaiting = true) → t.copies = [] → t.out = [] →
      (∀ o ∈ t.mops, o.phase = .done ∧ (o.status = 1 ∨ o.joined = true)) →
      (∀ w ∈ s.teamWarps h, w.unproduced = [] ∧ ∀ x ∈ w.slots.toList, x.state = .empty) → s.deliveringTo h = false →
      (∃ p ∈ (s.dieAt t.die).pool, t.prio ≤ p.prio ∧ s.stoppedEntry p = false) →
      ∃ u, exec (.swapOut h) s = .next u ∧ (u.teamOf h).life = .swapped ∧
        saved u (t.saveImage (s.teamWarps h) ++ (s.teamWarps h).flatMap Warp.swapImage)) ∧
    (t.handle = h → t.life = .swapped → s.savedEntry t.die h = none → (s.ctxOf t.ctx).stopped = false → (∃ w ∈ s.teamWarps h, ∃ o ∈ w.monws, o.result.isSome = true) →
      ∀ c, s.bestCore (s.needOf t.pooledBack) (coresOf t.die) = some c →
      ∃ u, exec (.swapRestore h) s = .next u ∧ (u.teamOf h).life = .resident ∧ (u.teamOf h).core = c) ∧
    ∀ (w : Warp) (pr : BitVec 64 → Option (BitVec 8)) (tvb : BitVec 64) (slot stamp : Nat),
      let r := w.resumed pr tvb slot stamp
      r.tdepth = true ∧ r.tcause = 0x00400033 ∧ r.live = w.live ∧ r.vvg = w.vvg ∧ r.tries = w.tries ∧ r.frm = w.frm ∧ r.wct = 0 ∧
        r.park = w.park ∧
        ∃ e, r.frontier = [e] ∧ e.pc = tvb ∧ e.mask = w.live

/-- R2, R43 and R44: HANG_DETECT stops a context all of whose warps have waited for HANGTH core cycles with nothing in flight; clock steps
divide the time into the cycles of each clock. -/
def Sys2Proof.Claims.HangsStopTheirContext : Prop :=
  ∀ (ctx : BitVec 16) (s : State),
    let c := s.ctxOf ctx.toNat
    let ws := s.ctxWarps ctx.toNat
    let quiet := ws ≠ [] ∧ c.stopped = false ∧ s.ctxIdle ctx.toNat = true ∧
      ∀ w ∈ ws, s.warpState w ∈ [2, 3, 4, 6, 8]
    let since := ws.foldl (fun m w => max m w.waitSince) c.lastBusy
    let long := c.hangth.toNat * 1000 ≤ cyclesFrom since s.gtc s.pkg.clock s.pkg.steps
    (quiet → long → ∃ t, exec (.hangDetect ctx) s = .next t ∧ (t.ctxOf ctx.toNat).stopped = true ∧
      ∀ u ∈ t.allTeams, u.ctx = ctx.toNat → u.service = false → u.life ≠ .resident) ∧
    (quiet → ¬ long → exec (.hangDetect ctx) s = .fault .cannotHappen) ∧
    ((∀ p ∈ s.pkg.steps, p.1 ≤ since) → cyclesFrom since s.gtc s.pkg.clock s.pkg.steps = (s.gtc - since) * s.pkg.clock) ∧
    ∀ (t old : Nat) rest, since < t → (∀ p ∈ rest, p.1 ≤ since) →
      cyclesFrom since s.gtc s.pkg.clock ((t, old) :: rest) = (s.gtc - t) * s.pkg.clock + (t - since) * old

/-- R11, R177, R215, R349, R363, R365: the end of a team whose engines are done, and the killing of one: what it holds is performed at its
end; everything of a killed team stops at once, and it is gone once what it wrote is performed. -/
def Sys2Proof.Claims.TeamsEndOrAreKilled : Prop :=
  ∀ (h : Nat) (s : State),
    let t := s.teamOf h
    t.handle = h →
    (t.life = .ending → t.doomed = none → s.teamQuiet h = true → t.paired = false → t.twin = none → t.held ≠ [] →
      exec (.teamEnd h) s = .next (s.releaseHeld h).wake) ∧
    (t.life = .ending → t.doomed = none → s.teamQuiet h = true → t.paired = false → t.held = [] →
      match s.retire h (fun l => { l with ended := l.ended + 1 }) with
      | some u => exec (.teamEnd h) s = .next u.wake
      | none => exec (.teamEnd h) s = .fault .cannotHappen) ∧
    (∀ k, t.doomed = some k → t.life ≠ .gone → t.matrixIdle = true → t.twin = none →
      let z := (if s.stoppedTeam h then s else s.stopTeam h).onLaunch t.launch fun l =>
        { l with firstKill := l.firstKill.orElse fun _ => some { code := k.1, pc := k.2.1, addr := k.2.2 } }
      (s.stoppedTeam h = false → z.teamQuiet h = false → exec (.teamKill h) s = .next z.wake) ∧
      (z.teamQuiet h = true → match z.retire h (fun l => { l with killed := l.killed + 1 }) with
        | some u => exec (.teamKill h) s = .next u.wake
        | none => exec (.teamKill h) s = .fault .cannotHappen)) ∧
    (∀ w ∈ (s.stopTeam h).allWarps, w.team ≠ h) ∧
    (∀ n count u, s.retire n count = some u → ∀ x ∈ u.allTeams, x.handle ≠ n)

/-- The admission of launches and the placement of teams. -/
def Obligations.LaunchesAndPlacement : Prop :=
  Sys2Proof.Claims.TeamsArePlacedAndStarted ∧ Sys2Proof.Claims.LaunchesAreAdmittedInTurn

/-- The hang detector, and the end of teams. -/
def Obligations.HangsEndsAndKills : Prop :=
  Sys2Proof.Claims.HangsStopTheirContext ∧ Sys2Proof.Claims.TeamsEndOrAreKilled

/-- R178, R181 and R182: a throw opens the record of its region, with the GTC of the first throw, or joins the open one as one more
thrower; a delivery under way inside the region is abandoned and its throwers join. R180 (Table 9-4): the record names the first thrower
by rank, the level, F, the number of lanes that threw, the lanes and warps that threw, and the region. -/
def Sys2Proof.Claims.ThrowsOpenOneRecord : Prop :=
  ∀ (s : State) (r : Holder) (ts : List Thrower) (d : Delivery),
    let t := s.throwTo r ts
    ((s.deliveries.find? fun d => d.isFor r) = none →
      ∃ x, t.deliveries = x :: s.deliveries.filter (fun y => !s.inside y r) ∧ x.level = r.level ∧ x.region = r.region ∧ x.gtc = s.gtc ∧
        x.swept = false ∧ x.throwers = (s.deliveries.filter fun y => s.inside y r).flatMap (·.throwers) ++ ts) ∧
    (∀ x, (s.deliveries.find? fun d => d.isFor r) = some x →
      ∃ y ∈ t.deliveries, y.id = x.id ∧ y.throwers = x.throwers ++ ts ∧ y.gtc = x.gtc ∧ y.region = x.region) ∧
    t.mem = s.mem ∧ t.warp.sregs = s.warp.sregs ∧ (∀ q, t.warp.regData q = s.warp.regData q) ∧
    (∀ f, firstThrower (d.level == 2) d.throwers = some f →
      f ∈ d.throwers ∧ (∀ u ∈ d.throwers, u.before (d.level == 2) f = false) ∧
      let w k := look d.record 0 k
      (d.level < 4 → (w 0).toNat = f.code.toNat + 2 ^ 16 * d.level + (if f.f then 2 ^ 18 else 0) + 2 ^ 24 * min 255 (d.throwers.map fun u => (u.team, u.warp, u.lane)).dedup.length) ∧
      w 1 = f.tid ∧
      w 3 ++ w 2 = (if f.own = false ∧ f.code = Code.sigmismatch then (d.stopPc f.team f.warp f.lane).getD f.pc else f.pc) ∧ w 5 ++ w 4 = f.addr ∧
      (∀ k, k < 32 → ((w 6).getLsbD k = true ↔ ∃ u ∈ d.throwers, u.warp = k)) ∧
      (∀ L, L < 32 → ((w 7).getLsbD L = true ↔ ∃ u ∈ d.throwers, u.team = f.team ∧ u.warp = f.warp ∧ u.lane = L)) ∧
      (w 9).toNat = d.barmask.toNat ∧ w 10 = BitVec.ofNat 32 (d.region.catchPc.toNat / 4) ∧ w 13 ++ w 12 = BitVec.ofNat 64 d.gtc)

/-- R168, R178 and R179: CATCH_ENTRY stops the members of a delivery and lets them into the catch: the delivery is over, and a member
warp's stopped lanes stand at the catch PC, with the record, the operand cache empty, the window drained and the region closed. -/
def Sys2Proof.Claims.CatchEntryLetsTheMembersIn : Prop :=
  (∀ (s : State) (id : Nat) (d : Delivery),
    (s.deliveries.find? fun d => d.id == id) = some d → d.swept = false → s.stoppable d = true → (s.deliveries.any d.nested) = false →
    let q := s.sweepAll d
    ∃ t, exec (.catchEntry id) s = .next t ∧
      ((q.1.performStores d).waitsOver q.2 = true → (∀ w ∈ s.deliveryWarps d, w.pendFault = []) → ∀ x ∈ t.deliveries, x.id ≠ id) ∧
      ((q.1.performStores d).waitsOver q.2 = false → ∃ x ∈ t.deliveries, x.swept = true ∧ x.region = d.region ∧ x.level = d.level)) ∧
  (∀ (s : State) (id : Nat) (d : Delivery),
    (s.deliveries.find? fun d => d.id == id) = some d → d.swept = true →
    (s.lateFault d = true → exec (.catchEntry id) s = .next (s.abandonLate d).wake ∧
      ∀ x ∈ s.deliveryTeams d, ∀ o ∈ (((s.abandonLate d).teamOf x)).mops, o.phase ≠ .faulted) ∧
    (s.lateFault d = false → s.waitsOver d = true → s.stoppable d = false → exec (.catchEntry id) s = .fault .cannotHappen) ∧
    (s.lateFault d = false → s.waitsOver d = true → s.stoppable d = true → ∃ t, exec (.catchEntry id) s = .next t ∧ ((∀ w ∈ s.deliveryWarps d, w.pendFault = []) → ∀ x ∈ t.deliveries, x.id ≠ id))) ∧
  ∀ (w : Warp) (d : Delivery) (id : Nat) (pr : BitVec 64 → Option (BitVec 8)),
    let u := w.enterCatch pr d id
    u.record = d.record ∧ u.caught = true ∧ u.window = [] ∧ (∀ n, (look u.oc Copy.blank n).valid = false) ∧
    (∀ x ∈ u.tries, x.stamp < d.region.stamp) ∧ u.sregs = w.sregs ∧ (∀ r, r < 256 → u.regData r = w.regData r) ∧
    (∀ L pc, L < 32 → d.stopPc w.team w.idx L = some pc → look u.stopPc 0 L = pc ∧
      ∃ e ∈ u.frontier, e.pc = d.region.catchPc ∧ e.wait = .ready ∧ e.mask.getLsbD L = true)

/-- R184 to R186, R346 to R348, R393: park records and SVC batches are posted where their rings have room, and PARKCMD resumes, kills or
injects: a resume lets the operation of an attributed fault be tried again, an injected throw ends it, and waits for the end of a trap routine. -/
def Obligations.ParksArePostedAndCommanded : Prop :=
  ∀ (s : State) (h w : Nat) (die : BitVec 2),
    (∀ x p, s.warpOf h w = some x → x.unpostedPark = some p → let d := dieOfCore (s.teamOf x.team).core
      (s.dieAt d).svq.room = true → d < 4 → ∃ t, exec (.warpPark h w) s = .next t ∧
        (t.dieAt d).parkSeq = (if (s.dieAt d).parkSeq = 0xFFFE then 0 else (s.dieAt d).parkSeq + 1) ∧
        (t.dieAt d).svq.tail = BitVec.ofNat 16 (((s.dieAt d).svq.tail.toNat + 1) % (s.dieAt d).svq.size.toNat)) ∧
    (∀ n l, (s.dieAt die.toNat).notices = n :: l → (s.dieAt die.toNat).svq.room = true →
      ∃ t, exec (.parkRecordPost die) s = .next t ∧ (t.dieAt die.toNat).notices = l ∧ (t.dieAt die.toNat).parkSeq = (s.dieAt die.toNat).parkSeq) ∧
    ((s.dieAt die.toNat).notices = [] → (s.dieAt die.toNat).svq.room = true →
      (∃ x ∈ s.allWarps, x.unpostedPark.isSome = true ∧ dieOfCore (s.teamOf x.team).core = die.toNat) →
      ∃ t, exec (.parkRecordPost die) s = .next t ∧ (t.dieAt die.toNat).parkSeq ≠ (s.dieAt die.toNat).parkSeq) ∧
    (∀ u p, s.focusOn h w = some u → u.warp.double = none → u.warp.park = some p → p.seq.isSome = true →
      (∃ t, exec (.parkcmdResume h w) s = .next t) ∧
      (u.warp.pendFault = [] → exec (.parkcmdResume h w) s = .next ({ u with
        warp := ({ u.warp with park := none } : Warp).replace u.pr, team := u.team.requeueOp p.op } : State).wake) ∧
      (u.team.doomed = none → ∃ t, exec (.parkcmdKill h w) s = .next t ∧ t.team.doomed = some (p.code, p.pc, p.addr) ∧ t.mem = s.mem) ∧
      ∀ c,
        let v : State := { u with warp := { u.warp with park := none }, team := u.team.endFaulted p.op }
        (u.warp.tdepth = false → exec (.parkcmdInject h w c) s = .next (v.hardwareThrow c (p.lanes &&& u.warp.live) p.pc p.addr).wake) ∧
        (u.warp.tdepth = true → exec (.parkcmdInject h w c) s = .next ({ v with
          warp := { v.warp with pendFault := v.warp.pendFault ++ [{ p with code := c, second := 1 }] } } : State).wake)) ∧
    (∀ u, s.focusOn h w = some u → u.warp.heldPark = none → ∀ c,
      exec (.parkcmdResume h w) s = .next s.wake ∧ exec (.parkcmdKill h w) s = .next s.wake ∧ exec (.parkcmdInject h w c) s = .next s.wake) ∧
    (∀ x u e fn reg, (sortBy (fun (a b : Warp) => a.issued ≤ b.issued) (s.allWarps.filter fun w =>
        dieOfCore (s.teamOf w.team).core == die.toNat && w.unposted.isSome)).head? = some x →
      s.focusOn x.team x.idx = some u → u.warp.unposted = some (e, fn, reg) →
      let ring := (u.dieAt (dieOfCore u.core.num)).svcq
      ring.room = true → ∃ t, exec (.svcBatchPost die) s = .next t ∧
        ∃ y ∈ t.warp.frontier, y.id = e.id ∧ y.mask = e.mask ∧ y.wait = .svc fn reg (some ring.tail.toNat))

/-- Throws, the record they open and its reading, and the entry into a catch. -/
def Obligations.ThrowsAndTheirRecord : Prop :=
  Sys2Proof.Claims.ThrowGoesToInnermostRegion ∧ Sys2Proof.Claims.XgetReadsTheRecord ∧ Sys2Proof.Claims.ThrowsOpenOneRecord ∧ Sys2Proof.Claims.CatchEntryLetsTheMembersIn

/-- R52, R60, R62, R198, R202, R203, R329: loads that homes serve, the oldest of a warp first and all its lanes on the line by one answer,
and that land; walks that finish; results that are produced; a round trip that ends. -/
def Obligations.DataArriveForTheirSlots : Prop :=
  ∀ (h w : Nat) (s u : State), s.focusOn h w = some u →
    (∀ k : BitVec 4, let x := u.warp.land k.toNat
      let landed (t : State) : Prop := (t.warp.land k.toNat).state = .landed ∧ (∀ j, (t.warp.land j).dest = (u.warp.land j).dest) ∧
        ∀ j, j ≠ k.toNat → (t.warp.land j).state = (u.warp.land j).state
      (x.state = .inflight → x.kind ≠ .trace →
        (x.todo = [] → ∃ t, exec (.loadLanding h w k) s = .next t ∧ landed t) ∧
        (match u.serveSlot k.toNat (x.todo.map fun l => lineOf l.pa).dedup with
          | none => exec (.loadLanding h w k) s = .fault .cannotHappen
          | some _ => ∃ t, exec (.loadLanding h w k) s = .next t ∧ landed t)) ∧
      (∀ j, x.trace = some j → x.state = .inflight → x.kind = .trace →
        (u.forkSeen h w u.warp.uid x.order = false → exec (.traceLanding h w k) s = .fault .cannotHappen) ∧
        (u.forkSeen h w u.warp.uid x.order = true → (∀ L, L < 32 → x.mask.getLsbD L = true → (j.ray L).misses = true) →
          ∃ t, exec (.traceLanding h w k) s = .next t ∧ landed t ∧ (t.warp.land k.toNat).trace = none) ∧
        (u.forkSeen h w u.warp.uid x.order = true → match (maskLanes x.mask).foldl (fun s L => s.bind fun s => s.traceLane j k.toNat L) (some (u.useRat u.ctx)) with
          | none => exec (.traceLanding h w k) s = .fault .cannotHappen
          | some _ => ∃ t, exec (.traceLanding h w k) s = .next t ∧ landed t ∧ (t.warp.land k.toNat).trace = none))) ∧
    (∀ core line x k y, (s.coreWarps core).head? = some x → (x.slotsOn line).head? = some k → s.focusOn x.team x.idx = some y → y.warp = x →
      let v := y.settleHome line
      target (128 * line) ≠ .peer → (v.homeLine line).excl = none → v.hostGone = false →
      v.owes y.team.handle x.idx (x.land k).order (· == line) = false →
      ∃ t, exec (.homeLoadServe core line) s = .next t ∧ (t.warp.land k).on line = [] ∧ (∀ j, (t.warp.land j).dest = (x.land j).dest) ∧
        ∀ j, j ≠ k → t.warp.land j = x.land j) ∧
    (∀ n e, u.warp.unproduced[n]? = some e → u.ripe e = true →
      ((∀ a ∈ u.core.atoms, a.seq = e.seq → a.held = true) → exec (.resultProduced h w n) s = .next (u.produce e.seq id).wake) ∧
      ∃ t, exec (.resultProduced h w n) s = .next t) ∧
    (let v := u.settleOwn;
      v.warp.hostWritten = true → v.outstanding = false → v.hostPending = false → v.hostGone = false →
      ∃ t, exec (.roundTripCompletion h w) s = .next t ∧ t.warp.hostWritten = false)

/-- R210, R236, R237 and R252: MONTO_EXPIRY ends a MONW whose deadline has come, unsatisfied, once each word that it still wants can be read
through its present translation; a lane without a monitor polls again after 256 ns, through its present translation likewise. -/
def Sys2Proof.Claims.MonitorsExpireAndPoll : Prop :=
  ∀ (h w id : Nat) (s u : State) (o : Monw), s.focusOn h w = some u → (u.warp.monws.find? fun o => o.id == id) = some o →
    (∀ d, o.deadline = some d → o.result = none →
      (d ≤ u.gtc → ∀ v l, u.monWords o.lanes = some (v, l) → ∃ t, exec (.montoExpiry h w id) s = .next t ∧
        (∃ x ∈ t.warp.monws, x.id = id) ∧
        ∀ x ∈ t.warp.monws, x.id = id → ∃ y m, x.held = some (y, m) ∧ ∀ L, L < 32 →
          (m.getLsbD L = true ↔ ∃ z ∈ o.lanes, z.lane = L ∧ z.value.isSome = true)) ∧
      (d ≤ u.gtc → u.monWords o.lanes = none → exec (.montoExpiry h w id) s = .fault .cannotHappen) ∧
      (u.gtc < d → exec (.montoExpiry h w id) s = .fault .cannotHappen)) ∧
    ∀ (L : BitVec 5) l, o.held = none → (o.lanes.find? fun l => l.lane == L.toNat && !l.armed && l.value.isNone) = some l →
      l.nextPoll ≤ u.gtc → ∀ pa, (u.monRead l).2 = .at pa →
      ∃ t, exec (.monitorPoll h w id L) s = .next t ∧ ∃ x ∈ t.warp.monws, x.id = id ∧
        ∃ y ∈ x.lanes, y.lane = L.toNat ∧ y.nextPoll = u.gtc + 256

/-- R199, R206, R207, R211, R212: leases of a line granted, for the LEASE ns of its range, and returned; evictions of a line from its slice,
whose evicted maximum takes its Lmax, and from an L1, which keeps a line that it cannot write back now. -/
def Sys2Proof.Claims.LeasesAndEvictions : Prop :=
  ∀ (core line : Nat) (s : State),
    (let v := (s.settleHome line).focusCore core;
      let h := v.homeLine line;
      h.excl = none → h.pend = [] → max h.lmax h.lastTw ≤ v.gtc → (∃ a ∈ v.core.atoms, AtomOp.wants line a = true) →
      ∃ t, exec (.atomLeaseGrant core line) s = .next t ∧ (t.homeLine line).excl = some (core, s.gtc + (v.leaseRat line).lease)) ∧
    (∀ g, (s.homeLine line).excl = some (core, g) →
      ∃ t, exec (.atomLeaseReturn core line) s = .next t ∧ (t.homeLine line).excl = none) ∧
    (∀ h, (s.settleHome line).home.find? (fun x => x.line == line) = some h →
      ∃ t, exec (.l2Evict line) s = .next t ∧ (t.homeLine line).cached = false ∧
        (h.excl = none → h.pend = [] → (∀ x ∈ t.home, x.line ≠ line) ∧ h.lmax ≤ (t.homeLine line).lmax) ∧
        ((h.excl.isSome = true ∨ h.pend ≠ []) → t.homeLine line = { h with cached := false })) ∧
    (let v := s.focusCore core
      ∀ l, v.core.line? line = some l →
        (v.canEvict l = true → ∃ t, exec (.l1Evict core line) s = .next t ∧ (t.coreOf core).line? line = none) ∧
        (v.canEvict l = false → exec (.l1Evict core line) s = .fault .cannotHappen))

/-- R232, R233, R275, R376: an ATOM or RED on a host route whose lane is done at the completer, which the completer does not support, or
whose emulation record, the first of the die's queue, has been served; and sample records. -/
def Sys2Proof.Claims.HostAtomicsAndSamples : Prop :=
  ∀ (core id : Nat) (s u : State) (op : AtomOp),
    (s.focusAtom core id = some (u, op) →
      let free (a : AtomLane) : Prop :=
        let v := u.settleHome (lineOf a.pa)
        (v.homeLine (lineOf a.pa)).pend = [] ∧ (v.homeLine (lineOf a.pa)).excl = none ∧ v.hostGone = false ∧
          max (v.homeLine (lineOf a.pa)).lmax (v.homeLine (lineOf a.pa)).lastTw ≤ v.gtc
      let did (a : AtomLane) (t : State) : Prop := t.mem = ((u.settleHome (lineOf a.pa)).leaseLane op a).mem
      (∀ a l, op.lanes = a :: l → a.route = .host →
        (l = [] → u.core.atoms.find? (fun x => x.id == id) = some op → free a →
          ∃ t, exec (.atomicopCompletion core id) s = .next t ∧ did a t ∧
            ∀ x, t.core.atoms.find? (fun x => x.id == id) = some x → x.lanes = []) ∧
        (¬ free a → exec (.atomicopCompletion core id) s = .fault .cannotHappen) ∧
        (a.fallback = true → ∃ t, exec (.atomicopUr core id) s = .next t ∧ t.mem = u.mem ∧
          ∀ x ∈ t.core.atoms, x.id = id → ∀ y ∈ x.lanes, y.route = .emulate ∧ y.begun = true) ∧
        (a.fallback = false → op.who = 0 →
          ∃ t, exec (.atomicopUr core id) s = .next t ∧ (∀ x ∈ t.core.atoms, x.id ≠ id) ∧ t.mem = u.mem) ∧
        (∀ c, a.fallback = false → op.who ≠ 0 → u.team.copies.find? (fun c => c.uid == op.who) = some c →
          exec (.atomicopUr core id) s = .next (u.failCopy c a.va).wake)) ∧
      (∀ m, (u.emulations (dieOfCore u.core.num)).head? = some (id, m) → ∀ a, op.lanes = [a] → m.getLsbD a.lane = true →
        u.core.atoms.find? (fun x => x.id == id) = some op → free a → ∃ t, exec (.emulationReturn core id) s = .next t ∧ did a t) ∧
      (∀ x, (u.emulations (dieOfCore u.core.num)).head? = some x → x.1 ≠ id → exec (.emulationReturn core id) s = .fault .cannotHappen)) ∧
    (∀ (a : AtomLane), op.red = false → Memory.wf u.mem = true →
      let n := if 13 ≤ op.op then 8 else 4
      let t := u.leaseLane op a
      Memory.readNat t.mem a.pa n = atomNew op.op (Memory.readNat u.mem a.pa n) a.b.toNat a.d.toNat % 2 ^ (8 * n) ∧
        ∀ x, x < a.pa ∨ a.pa + n ≤ x → Memory.read t.mem x = Memory.read u.mem x) ∧
    ((∀ m ∈ (s.coreOf core).marks, s.returned m = false) → exec (.sampleRecord core) s = .fault .cannotHappen) ∧
    (∀ m, (s.coreOf core).marks.find? s.returned = some m →
      ∃ t, exec (.sampleRecord core) s = .next t ∧ (t.coreOf core).marks = (s.coreOf core).marks.erase m)

/-- Fences, MONW and its monitors. -/
def Obligations.FencesAndMonw : Prop :=
  Sys2Proof.Claims.FencesWaitForTheirScope ∧ Sys2Proof.Claims.MonwParksItsEntry ∧ Sys2Proof.Claims.MonitorsExpireAndPoll

/-- Leases, evictions, host atomics and sample records. -/
def Obligations.LeasesHostAtomicsAndSamples : Prop :=
  Sys2Proof.Claims.LeasesAndEvictions ∧ Sys2Proof.Claims.HostAtomicsAndSamples

/-- Every word of the instruction set has one meaning: the word that the encoder gives an instruction decodes to it, operand for operand,
and every word is the encoding of what it decodes to, or is no instruction. -/
def Obligations.DecodeAndEncodeAgree : Prop :=
  (∀ i, isEvent i = false → (∀ w, i ≠ .illegalWord w) → ∃ w, encode i = some w ∧ decode w = i ∧ decodeTableWord 32 w.toNat = some i) ∧
  ∀ w : BitVec 32, encode (decode w) = some w ∨ decode w = .illegalWord w

/-- Words written out from the encodings of spec/06 to spec/25, one for each format, and what they decode to; the first two are those of
spec/07. -/
def Obligations.WordsDecodeAsTheTableSays : Prop :=
  decode 0x560400C8 = .movi (.v 1) 100 ∧ decode 0x5813D780 = .sadd (.s 4) .lit .zero 0 ∧
  decode 0x06000000 = .yield ∧ decode 0x0816960F = .iadd (.v 5) (.latch 2) (.s 8) 1 1 3 ∧
  decode 0x40169403 = .iaddi (.v 5) (.latch 2) 513 1 ∧ decode 0x73902D20 = .sget (.s 100) (.v 5) (.latch 2) ∧
  decode 0x94169609 = .fdiv (.v 5) (.latch 2) (.s 8) 9 ∧ decode 0xB01690D7 = .cvt (.v 5) (.latch 2) 3 .i32 1 ∧
  decode 0xBB900302 = .grow (.s 100) 1 129 ∧ decode 0xC2170001 = .bnz (.v 5) 1 65537 ∧ decode 0xD0150001 = .tryRegion 1 1 65537 ∧
  decode 0xE4169609 = .ldgQ (.v 5) (.latch 2) (.s 8) 9 ∧ decode 0xF0000172 = .commit .i32 9 ∧
  decode 0xEE002D29 = .red (.v 5) (.latch 2) 9 ∧ decode 0xF62C8001 = .cpred (.s 100) 1 ∧ decode 0xF85C9E91 = .mst (.s 100) .lit 17 ∧
  decode 0xFA3C9E99 = .enqc (.s 100) .lit 1 9 ∧ decode 0xFC3C9061 = .csrw (.s 100) 65 33 ∧ decode 0xFCE0A0D9 = .lbrd (.v 5) 3 1 9

/-- A step runs the decoded instruction: where nothing has to take place at this time, the agenda is empty and nothing else is due, the warp
whose turn it is comes into focus, its first eligible entry's word is fetched, and exec of what it decodes to is the step, after which the
warps that rested on its partition rest no longer (R33). An agenda entry names the turn of a partition, a happening, or the passing of time
(the agenda and the turns are the model's own: log 1). -/
def Obligations.StepRunsTheDecodedInstruction : Prop :=
  ∀ (s : State),
    let issues (z : State) (w : Warp) : Prop :=
      ∀ u, (if (z.teamOf w.team).service then z.observed else z).focusOn w.team w.idx = some u → let v : State := { u with warp := { u.warp with runCount := w.runCount } }
        ∀ x, (v.fetch v.entry.pc).2 = .word x →
          (∀ t, exec (decode x) (v.fetch v.entry.pc).1 = .next t → step s = .next (State.turnOver w (z.coreOfWarp w) t)) ∧
            (∀ f, exec (decode x) (v.fetch v.entry.pc).1 = .fault f → step s = .fault f) ∧ (v.fetch v.entry.pc).1.warp.frontier = v.warp.frontier ∧
            v.warp.team = w.team ∧ v.warp.idx = w.idx
    s.timedNext = none →
    (s.agenda = [] → s.nextMonw = none → s.nextSvc = none → s.entriesNext = none → s.turns % 64 ≠ 63 → s.turns % 8 ≠ 7 → ∀ w, s.nextWarp = some w →
      issues s.counted w) ∧
    (∀ core p l w, s.agenda = .turn core p :: l → let z : State := { s with agenda := l }
      z.choose (z.readyOn core p) = some w → issues z w) ∧
    (∀ i l t, s.agenda = .event i :: l → isEvent i = true → exec i (({ s with agenda := l } : State).seenBy i) = .next t → step s = .next t) ∧
    (∀ n l, s.agenda = .wait n :: l → (∀ h ∈ s.home, ∀ x, h.excl = some x → s.gtc + n ≤ x.2) →
      (∀ e ∈ s.switchEntries, s.gtc + n ≤ s.dueAt e ∨ s.dueAt e ≤ s.gtc) →
      step s = .next (({ s with agenda := l } : State).pass n)) ∧
    (s.agenda = [] → (∀ w o, s.nextMonw = some (w, o) → step s = .next (s.finishMonw w o).wake) ∧
      ∀ t, s.nextMonw = none → s.nextSvc = some t → step s = .next t.wake)

/-- R31: of the READY warps of a partition, those of the highest launch priority come first; among them the warp that issued last goes on
while its run of 64 lasts, and otherwise the one that issued least recently issues. -/
def Obligations.ThePartitionChoosesByPriorityThenAge : Prop :=
  ∀ (s : State) (ws : List Warp) (w : Warp), s.choose ws = some w →
    ∃ x ∈ ws, w.team = x.team ∧ w.idx = x.idx ∧ (∀ y ∈ ws, s.prioOf y.team ≤ s.prioOf x.team) ∧
      ((x.issued ≠ 0 ∧ x.issued = s.lastOn x ∧ x.runCount < 64 ∧ w = x) ∨
       ((∀ y ∈ ws, s.prioOf y.team = s.prioOf x.team → ¬ (y.issued ≠ 0 ∧ y.issued = s.lastOn y ∧ y.runCount < 64)) ∧ w.runCount = 0 ∧
        ∀ y ∈ ws, s.prioOf y.team = s.prioOf x.team → y.resident ≤ y.issued → x.resident ≤ x.issued → 0 < y.issued → 0 < x.issued →
          x.issued ≤ y.issued))

/-- Every instruction ends in a next state: no instruction is refused, and a word that a warp issues always answers one. -/
def Obligations.EveryIssuedWordAnswersANextState : Prop :=
  (∀ (i : Instr) (s : State) r, exec i s ≠ .refused r) ∧
  ∀ (i : Instr) (s : State), isEvent i = false → s.issuing.isSome = true → ∃ t, exec i s = .next t

/-- Every step keeps the canonical form of memory: addresses strictly rising, and no cell that holds what an unlisted address reads as. -/
def Obligations.EveryStepKeepsTheFormOfMemory : Prop := Kept fun s => Memory.wf s.mem = true

/-- What reset leaves: the values that the Reset columns of the register tables give, no warp, no team and no launch, no link, and bring-up
before its first step. -/
def Obligations.ResetLeavesTheTablesValues : Prop :=
  let s := State.reset
  Memory.wf s.mem = true ∧ s.mem = [] ∧ s.allWarps = [] ∧ s.allTeams = [] ∧ s.gtc = 0 ∧ s.pkg.stage = 0 ∧ s.pkg.linkUp = false ∧
  s.pkg.pwrcap = 3400 ∧ s.pkg.dberr = 0 ∧ s.pkg.qtbl = 0 ∧
  (∀ n, (s.ctxOf n).hangth = 0x1000000 ∧ (s.ctxOf n).tvb = 0 ∧ (s.ctxOf n).rgnbrk = 0 ∧ (s.ctxOf n).sampn = 0) ∧
  (∀ n, n < 4 → (s.dieAt n).pacthr = 256 ∧ (s.dieAt n).cmbwin = 64 ∧ (s.dieAt n).svcDone = 0 ∧ (s.dieAt n).slEn = false ∧ (s.dieAt n).slOps = 0x7F) ∧
  (∀ n, n < 16 → (s.port n).lanethr = 64 ∧ (s.port n).rate = 0 ∧ (s.port n).replay = 0) ∧
  (∀ n, (s.coreOf n).mpblim = 0 ∧ (s.coreOf n).mpbcore = 0 ∧ (s.coreOf n).mpbstall = 0)

/-- The main-file registers that the dead reads of an instruction touch (R55): those its dead v sources name, and those of the result that
a dead latch source names. -/
def Sys2Proof.Claims.deadRegs (p : State) (srcs : List Src) : List Nat :=
  (srcs.filter (·.dead)).flatMap fun x => (p.srcPlaces x).flatMap fun y => match y with
    | .reg r => [r]
    | .latch n => (p.warp.latchEntry n).regs.map (·.reg)
    | _ => []

/-- R52 to R58, R79, R105, R107: what a result changes, and nothing else: its destination in the active lanes, with its tag and not stale,
latch ^1, the flags, and the lane cc where the instruction sets it; a dead source's register becomes stale; the lanes go on at the next
word; every other register, latch apart, every special register, the exception registers, the team and memory stay. R124: a scalar result
likewise. A wait changes nothing but the warp's STALLED mark and the time at which its context was last busy. -/
def Obligations.ResultsChangeTheirDestinationsAlone : Prop :=
  ∀ (p : State),
    let rest (t : State) : Prop :=
      t.mem = p.mem ∧ t.home = p.home ∧ t.poison = p.poison ∧ t.dies = p.dies ∧ t.pkg = p.pkg ∧ t.launch = p.launch ∧ t.teams = p.teams ∧
      t.deliveries = p.deliveries ∧ t.team.scratch = p.team.scratch ∧ t.team.bars = p.team.bars ∧ t.team.mrs = p.team.mrs ∧
      t.warp.tepc = p.warp.tepc ∧ t.warp.tcause = p.warp.tcause ∧ t.warp.tdepth = p.warp.tdepth ∧ t.warp.shadow = p.warp.shadow ∧
      t.warp.fsh = p.warp.fsh ∧ t.warp.slots = p.warp.slots ∧ t.warp.live = p.warp.live ∧ t.warp.wb = p.warp.wb ∧ t.warp.swb = p.warp.swb ∧
      t.warp.vvg = p.warp.vvg ∧ t.warp.monto = p.warp.monto ∧ t.warp.wct = p.warp.wct ∧ t.warp.rgn = p.warp.rgn ∧ t.warp.tries = p.warp.tries
    (∀ (srcs : List Src) (r : Result),
      let t := written p srcs r
      let dest (q : Nat) : Prop := p.place r.dst = .reg q ∨ (r.hi.isSome = true ∧ p.place r.dst 1 = .reg q)
      rest t ∧
      (∀ n, r.dst = .v n → p.warp.vtView = false → p.warp.wb + n.toNat < 256 →
        t.warp.regData (p.warp.wb + n.toNat) = mergeLanes p.mask r.lo (p.warp.regData (p.warp.wb + n.toNat)) ∧
        t.warp.regTag (p.warp.wb + n.toNat) = r.tag ∧ (t.warp.bankReg (p.warp.wb + n.toNat)).stale = false) ∧
      (∀ n y g, r.dst = .v n → p.warp.vtView = false → p.warp.wb + n.toNat + 1 < 256 → r.hi = some (y, g) →
        t.warp.regData (p.warp.wb + n.toNat + 1) = mergeLanes p.mask y (p.warp.regData (p.warp.wb + n.toNat + 1)) ∧
        t.warp.regTag (p.warp.wb + n.toNat + 1) = g) ∧
      (∀ q, q < 256 → ¬ dest q → q ∉ deadRegs p srcs → t.warp.regData q = p.warp.regData q ∧ t.warp.regTag q = p.warp.regTag q ∧
        (t.warp.bankReg q).stale = (p.warp.bankReg q).stale) ∧
      (∀ x ∈ srcs, x.dead = true → ∀ q, q < 256 → .reg q ∈ p.srcPlaces x → ¬ dest q → (t.warp.bankReg q).stale = true) ∧
      (t.warp.latchEntry 0).latch = mergeLanes p.mask r.lo (splat 0) ∧ (t.warp.latchEntry 0).tag = r.tag ∧ (t.warp.latchEntry 0).valid = true ∧
      (r.long = false →
        t.warp.frm = p.warp.frm ||| (r.flags &&& 0x7F00) ∧
        (r.hi = none → ∀ n, r.dst = .oc n → (look t.warp.oc Copy.blank n.toNat).valid = true ∧ (look t.warp.oc Copy.blank n.toNat).tag = r.tag ∧
          (look t.warp.oc Copy.blank n.toNat).data = mergeLanes p.mask r.lo
            (if (look p.warp.oc Copy.blank n.toNat).valid then (look p.warp.oc Copy.blank n.toNat).data else splat 0)) ∧
        ((∀ n, r.dst ≠ .oc n) → t.warp.oc = p.warp.oc) ∧ ((∀ n, r.dst ≠ .s n) → t.warp.sregs = p.warp.sregs) ∧
        (r.hi = none → ∀ n, r.dst = .s n → t.warp.sregs = (p.warp.setScalar (p.warp.swb + n.toNat) (p.firstOf r.lo)).sregs) ∧
        (r.hi = none → r.dst = .lit → t.warp.lit = p.firstOf r.lo) ∧ (r.dst ≠ .lit → t.warp.lit = p.warp.lit) ∧
        (r.cc = none → r.dst ≠ .cc → t.warp.ccl = p.warp.ccl) ∧
        (∀ m, r.cc = some m → t.warp.ccl = (p.warp.ccl &&& ~~~p.mask) ||| (m &&& p.mask)) ∧
        t.warp.ccs = p.warp.ccs) ∧
      (r.long = true → t.warp.frm = p.warp.frm ∧ t.warp.oc = p.warp.oc ∧ t.warp.sregs = p.warp.sregs ∧ t.warp.lit = p.warp.lit ∧
        t.warp.ccl = p.warp.ccl)) ∧
    (∀ (d : SOp) (v flags : Word) (cc : Option Bool),
      let t := scalarWritten p d v flags cc
      rest t ∧ t.warp.frm = p.warp.frm ||| (flags &&& 0x7F00) ∧ t.warp.oc = p.warp.oc ∧ t.warp.ccl = p.warp.ccl ∧
      (∀ q, q < 256 → t.warp.regData q = p.warp.regData q ∧ t.warp.regTag q = p.warp.regTag q) ∧
      (∀ n, d = .s n → t.warp.sregs = (p.warp.setScalar (p.warp.swb + n.val) v).sregs) ∧ ((∀ n, d ≠ .s n) → t.warp.sregs = p.warp.sregs) ∧
      (d = .lit → t.warp.lit = v) ∧ (d ≠ .lit → t.warp.lit = p.warp.lit) ∧ (d ≠ .cc → t.warp.ccs = cc.getD p.warp.ccs) ∧ (∀ c, cc = some c → t.warp.ccs = c) ∧
      (t.warp.latchEntry 0).valid = false) ∧
    (rest p.stall ∧ p.stall.warp.frontier = p.warp.frontier ∧ p.stall.warp.bank = p.warp.bank ∧ p.stall.warp.sregs = p.warp.sregs ∧
      p.stall.warp.window = p.warp.window ∧ p.stall.warp.frm = p.warp.frm) ∧
    (p.issuing.isSome = true → p.mask ≠ 0 → ∃ e ∈ p.advance.warp.frontier, e.pc = p.entry.pc + 4 ∧ e.wait = p.entry.wait ∧
      ∀ L, p.mask.getLsbD L = true → e.mask.getLsbD L = true)

/-- The instructions that act on registers and the frontier of their warp alone: arithmetic, moves, scalars, branches and jumps. -/
def Sys2Proof.Claims.registerOnly : Instr → Bool
  | .nop | .yield | .lit _ | .litHi _ | .blk _ _ => true
  | .iadd _ _ _ _ _ _ | .isub _ _ _ _ _ _ | .imul _ _ _ _ _ _ | .imad _ _ _ _ _ _ | .imin _ _ _ _ _ _ | .imax _ _ _ _ _ _ => true
  | .iabs _ _ _ _ | .andFam _ _ _ _ _ _ | .orFam _ _ _ _ _ _ | .xorFam _ _ _ _ _ _ | .shiftFam _ _ _ _ _ _ | .bfx _ _ _ _ _ _ => true
  | .bfi _ _ _ _ _ _ | .bitFam _ _ _ _ | .icmp _ _ _ _ _ _ | .icmpn _ _ _ _ _ _ | .sel _ _ _ _ _ | .lea _ _ _ _ _ _ => true
  | .addsubw _ _ _ _ _ _ | .mulw _ _ _ _ _ _ | .idiv _ _ _ _ | .ndiv _ _ _ _ | .shfl _ _ _ _ _ _ | .vote _ _ _ _ | .vred _ _ _ _ => true
  | .iaddi _ _ _ _ | .imuli _ _ _ _ | .andi _ _ _ _ | .ori _ _ _ _ | .xori _ _ _ _ | .shli _ _ _ _ | .shri _ _ _ _ | .sari _ _ _ _ => true
  | .icmpieq _ _ _ _ | .icmpilt _ _ _ _ | .icmpine _ _ _ _ | .movi _ _ => true
  | .sadd _ _ _ _ | .ssub _ _ _ _ | .smul _ _ _ _ | .slog _ _ _ _ | .sshf _ _ _ _ | .scmp _ _ _ _ | .ssel _ _ _ | .saddi _ _ _ => true
  | .smovi _ _ | .sminmax _ _ _ _ | .sldc _ _ _ _ | .sget _ _ _ => true
  | .fadd _ _ _ _ _ _ | .fsub _ _ _ _ _ _ | .fmul _ _ _ _ _ _ | .ffma _ _ _ _ _ _ | .fminmax _ _ _ _ _ _ | .fcmp _ _ _ _ _ _ => true
  | .fsign _ _ _ _ _ _ | .frcp _ _ _ | .frsq _ _ _ | .fsqrt _ _ _ | .fexp2 _ _ _ | .flog2 _ _ _ | .fsin _ _ _ | .fcos _ _ _ => true
  | .fdiv _ _ _ _ | .fdot2 _ _ _ _ _ | .idot4 _ _ _ _ _ _ | .fround _ _ _ _ => true
  | .radd _ _ _ _ _ | .rmul _ _ _ _ _ | .rmac _ _ _ _ _ | .rneg _ _ _ | .rcrt _ _ _ _ _ _ | .renc _ _ _ _ | .cvt _ _ _ _ _ => true
  | .tag _ _ _ _ | .mov _ _ _ | .movD _ _ _ | .ocmovRd _ _ | .ocmovWr _ _ _ | .lds _ _ _ _ | .xget _ _ | .barCount _ _ => true
  | .bra _ _ | .bnz _ _ _ | .bz _ _ _ | .call _ _ | .jmpr _ _ | .ret _ _ => true
  | _ => false

/-- Whatever a register instruction or a branch comes to, its effect, a wait or an exception, it leaves memory, the homes, the scratchpad,
the barriers, the matrix state, the landing slots, the trap registers and the warp's own limits as they were. -/
def Sys2Proof.Claims.RegisterInstructionsLeaveTheRest : Prop :=
  ∀ (i : Instr) (s t : State), registerOnly i = true → exec i s = .next t →
    t.mem = s.mem ∧ t.home = s.home ∧ t.poison = s.poison ∧ t.dies = s.dies ∧ t.pkg = s.pkg ∧ t.launches = s.launches ∧
    t.team.scratch = s.team.scratch ∧ t.team.bars = s.team.bars ∧ t.team.convs = s.team.convs ∧ t.team.mops = s.team.mops ∧
    t.team.copies = s.team.copies ∧ t.team.tries = s.team.tries ∧ t.warp.tepc = s.warp.tepc ∧ t.warp.tcause = s.warp.tcause ∧
    t.warp.tdepth = s.warp.tdepth ∧ t.warp.shadow = s.warp.shadow ∧ t.warp.fsh = s.warp.fsh ∧ t.warp.fshn = s.warp.fshn ∧
    t.warp.slots = s.warp.slots ∧ t.warp.live = s.warp.live ∧ t.warp.wb = s.warp.wb ∧ t.warp.swb = s.warp.swb ∧ t.warp.vvg = s.warp.vvg ∧
    t.warp.monto = s.warp.monto ∧ t.warp.wct = s.warp.wct ∧ t.warp.rgn = s.warp.rgn ∧ t.warp.tries = s.warp.tries ∧
    t.warp.record = s.warp.record

/-- What loads and stores leave as it was: a load changes nothing of memory but what its translations set; a store, where no older update is
due and no miss of its ranges counts (R249), changes no byte outside its lanes' addresses; neither changes another register, a scalar, the
flags or an exception register. -/
def Sys2Proof.Claims.AccessesChangeTheirBytesAlone : Prop :=
  ∀ (d a b : VOp) (e f g : SOp) (k : BitVec 4) (w : BitVec 2) (s : State) (lanes : List LaneLoad),
    let p := s.prelude
    let at' L : BitVec 64 := p.pair a p.firstLane + BitVec.ofNat 64 (lane (p.vec b) L).toNat
    let one := [(p.firstLane, p.scPair f + BitVec.ofNat 64 (p.sc g).toNat)]
    let specials (t : State) : Prop := t.warp.frm = s.warp.frm ∧ t.warp.ccl = s.warp.ccl ∧ t.warp.lit = s.warp.lit ∧ t.warp.tepc = s.warp.tepc ∧
      t.warp.tcause = s.warp.tcause ∧ t.warp.tdepth = s.warp.tdepth ∧ t.warp.oc = p.warp.oc ∧ t.team.scratch = s.team.scratch
    let loads (i : Instr) (n : Nat) : Prop :=
      Goes s (fun _ => { legal := i.wellFormed, srcs := [{ op := a, count := 2 }, { op := b }], dsts := [{ op := d, count := n }],
                         slot := some k.toNat }) →
      (p.check .load (4 * n) (p.active.map fun L => (L, at' L))).2 = .ok lanes →
      let c := (p.check .load (4 * n) (p.active.map fun L => (L, at' L))).1
      ∃ t, exec i s = .next t ∧ t.mem = c.mem ∧ t.home = c.home ∧ specials t ∧
        t.warp.sregs = s.warp.sregs ∧
        ∀ q, q < 256 → (∀ j, j < n → p.place d j ≠ .reg q) → t.warp.regData q = s.warp.regData q ∧ t.warp.regTag q = s.warp.regTag q
    let stores (i : Instr) (u : State → Uses) (width : Nat) (addrs : List (Nat × BitVec 64)) : Prop :=
      Goes s u → (p.check .store width addrs).2 = .ok lanes → (p.check .store width addrs).1.atomAhead lanes = false →
      (∀ h ∈ s.home, ∀ x ∈ h.pend, s.gtc < x.tw) → s.core.lines.length + lanes.length ≤ l1Lines →
      ∃ t, exec i s = .next t ∧
        ((∀ l ∈ lanes, ((p.check .store width addrs).1.rat p.ctx l.va).count = false) →
          ∀ x, (∀ l ∈ lanes, x < l.pa ∨ l.pa + width ≤ x) → Memory.wf s.mem = true →
          Memory.read t.mem x = Memory.read (p.check .store width addrs).1.mem x) ∧
        (p.team.paired = false → specials t ∧ t.warp.sregs = s.warp.sregs ∧
          ∀ q, q < 256 → t.warp.regData q = s.warp.regData q ∧ t.warp.regTag q = s.warp.regTag q)
    loads (.ldgW d a b k) 1 ∧ loads (.ldgD d a b k) 2 ∧ loads (.ldgQ d a b k) 4 ∧
    stores (.stg d a b w)
      (fun _ => { legal := (Instr.stg d a b w).wellFormed,
                  srcs := [{ op := d, count := if w = 1 then 2 else if w = 2 then 4 else 1 }, { op := a, count := 2 }, { op := b }] })
      (if w = 0 then 4 else if w = 1 then 8 else if w = 2 then 16 else 1) (p.active.map fun L => (L, at' L)) ∧
    (w.toNat < 2 → stores (.sst e f g w)
      (fun _ => { legal := (Instr.sst e f g w).wellFormed,
                  ssrcs := [{ op := e, count := if w = 1 then 2 else 1 }, { op := f, count := 2 }, { op := g }] })
      (if w = 1 then 8 else 4) one)

/-- What register instructions, loads and stores leave as it was. -/
def Obligations.FramesOfInstructions : Prop :=
  Sys2Proof.Claims.RegisterInstructionsLeaveTheRest ∧ Sys2Proof.Claims.AccessesChangeTheirBytesAlone

/-- R160 to R163, R170 to R173: every control form completes, with its own effect, under its checks and these conditions: aligned
targets, BLKs whose budgets fit, earlier accesses done, no throw open. CALL, CALLR, JMPR and RET send the lanes to their targets; BAR arrives,
waits and counts, and GRID.SYNC completes its generation when the last member arrives; ATTACH grants what the pool, once it has granted what
is due (log 89), leaves it; DETACH and EXIT let lanes go. -/
def Obligations.ControlFormsComplete : Prop :=
  ∀ (c a d : VOp) (e : SOp) (da : BitVec 1) (f : BitVec 2) (b : BitVec 4) (disp : BitVec 17) (s : State),
    let p := s.prelude
    let n := b.toNat
    let src : Src := { op := a, count := 2, dead := da == 1 }
    let gone (i : Instr) : Prop := ∃ t, exec i s = .next t ∧ t.gtc = gtcAfter s.gtc 1 ∧
      ∀ L, L < 32 → p.mask.getLsbD L = true → ∃ x ∈ t.warp.frontier, x.mask.getLsbD L = true ∧ x.pc = p.pair a L
    let yielded := (p.withWarp p.warp.yieldPoint).enterInvalid
    let aligned := ∀ L, p.mask.getLsbD L = true → (p.pair a L).toNat % 4 = 0
    (Goes s (fun _ => { legal := (Instr.call c disp).wellFormed, dsts := [{ op := c, count := 2 }] }) →
      ∃ t, exec (.call c disp) s = .next t ∧ t.gtc = gtcAfter s.gtc 1 ∧
        ∃ x ∈ t.warp.frontier, x.pc = p.entry.pc + 4 + BitVec.ofInt 64 (4 * disp.toInt) ∧ ∀ L, p.mask.getLsbD L = true → x.mask.getLsbD L = true) ∧
    (aligned → Goes s (fun _ => { legal := (Instr.jmpr a da).wellFormed, srcs := [src] }) → gone (.jmpr a da)) ∧
    (aligned → Goes s (fun _ => { legal := (Instr.ret a da).wellFormed, srcs := [src] }) → gone (.ret a da)) ∧
    (aligned → Goes s (fun _ => { legal := (Instr.callr d a da f).wellFormed, srcs := [src], dsts := [{ op := d, count := 2 }] }) →
      ∀ l, (p.fetchTargets (p.targets a)).2 = .budgets l → 0 ∉ l → 8 * l.foldl max 0 ≤ 8 * p.warp.vvg - p.warp.wb → gone (.callr d a da f)) ∧
    (p.mask = p.warp.live → p.accessesDone = true →
      (Goes s (bare (.barArrive b)) → exec (.barArrive b) s = .next (p.enterInvalid.barrier n false).finish) ∧
      (Goes s (fun _ => { legal := (Instr.barSync b).wellFormed, drains := true }) →
        exec (.barSync b) s = .next (yielded.barrier n true).finish) ∧
      (Goes s (fun _ => { legal := (Instr.barWait b).wellFormed, drains := true }) → look p.warp.barGen none n = none →
        exec (.barWait b) s = .next yielded.advance.finish)) ∧
    (p.mask = p.warp.live → Goes s (needs (.barCount d b) [] d) →
      exec (.barCount d b) s = .next (written p [] { dst := d, tag := .i32, lo := splat (BitVec.ofNat 32
        ((p.team.bar n).arrivals % 256 + 2 ^ 8 * (p.expected p.team n % 256) + 2 ^ 16 * ((p.team.bar n).gen % 2 ^ 16))) })) ∧
    (p.mask = p.warp.live → p.launch.coop = true → Settled p → Goes s (fun _ => { legal := Instr.barGridSync.wellFormed, drains := true }) →
      let w := yielded.holdAs (.grid p.launch.gridGen)
      let z : State := { w with launch := { w.launch with gridArrived := (w.team.handle, w.warp.idx) :: w.launch.gridArrived } }
      let everyone := ∀ m ∈ z.gridMembers z.launch.id, m ∈ z.launch.gridArrived
      exec .barGridSync s = .next (z.completeGrid z.launch.id).finish ∧
      (¬ everyone → z.completeGrid z.launch.id = z) ∧
      (everyone → (z.completeGrid z.launch.id).launch.gridGen = p.launch.gridGen + 1 ∧
        (z.completeGrid z.launch.id).launch.gridArrived = [])) ∧
    (p.mask = p.warp.live → p.unwinding = false →
      (Goes s (fun _ => { legal := (Instr.attach e disp).wellFormed, ssrcs := [{ op := e }], sdsts := [{ op := e }] }) →
        let q := p.arbitrate
        let g := q.attachGrant ((q.sc e).toNat % 32) ((q.sc e).toNat / 2 ^ 8 % 4)
        exec (.attach e disp) s = .next (((q.addWarps g ((q.sc e).toNat / 2 ^ 8 % 4)
          (q.entry.pc + 4 + BitVec.ofInt 64 (4 * disp.toInt))).status e (BitVec.ofNat 32 g)).advance).finish) ∧
      (Goes s (bare .detach) → p.team.namedOpen p.warp.idx = false → exec .detach s = .next (p.enterInvalid.depart).finish)) ∧
    (Goes s (fun _ => { legal := Instr.exit.wellFormed, drains := true }) →
      ∃ t, exec .exit s = .next t ∧ t.gtc = gtcAfter s.gtc 1 ∧ (p.warp.live &&& ~~~p.mask ≠ 0 → t.warp.live = p.warp.live &&& ~~~p.mask))

/-- R11, R177, R190, R334, R336 to R339, R349: the events of the work-graph units complete: a grid's record at the head of its queue's turn is
admitted, with no schedule, constants, cooperation or guard to check; the first entry of a pool is placed on the core that fits; its one
victim is preempted where none fits; the driver's resume lets a saved team in; and a team that has ended or is killed, and is not
the last of its launch, is gone. -/
def Obligations.WorkGraphEventsComplete : Prop :=
  ∀ (h : Nat) (die : BitVec 2) (queue : BitVec 12) (s z : State),
    let t := s.teamOf h
    let d := die.toNat
    (let x := s.settleDue.noteQueues
      let q := queue.toNat
      let y := x.queueDesc q
      let r := leNat (x.getBytes y.record 256).2
      s.pkg.d3hot = false → s.pkg.flr = false → 6 ≤ s.pkg.stage → x.queuesLost = false → x.queuesOpen = true → y.posted = true →
      (∀ k, k < 4096 → k ≠ q → (x.queueDesc k).posted = false) → target y.record = .hbm → x.linesOpen y.record 256 = true →
      recordOk r = true → fld r 0 0 12 = 1 → (gridForm r).ok = true → fld r 0x20 0 16 = 0 → fld r 0x30 0 7 = 0 →
      ∃ u, exec (.launchAdmission queue) s = .next u ∧
        ∃ l ∈ u.launches, l.name / 2 ^ 20 = q ∧ l.finished = false ∧ l.prio = y.prio ∧ l.ctx = y.ctx ∧ l.teams = fld r 4 0 24) ∧
    (∀ p rest c, s.poolOf d = p :: rest → s.pkg.d3hot = false → s.pkg.flr = false → s.stoppedEntry p = false → p.saved = none →
      let l := s.launchOf p.launch
      l.coop = false → l.paired = false → l.sched = [] → s.bestCore (s.needOf p) (coresOf d) = some c →
      exec (.teamPlacement die) s =
        .next ((s.takeEntry d p).placeWith l ((l.node? (p.node.getD 0)).getD default) [] p c false).wake) ∧
    (∀ p rest v, s.poolOf d = p :: rest → s.pkg.d3hot = false → s.pkg.flr = false → s.stoppedEntry p = false →
      (s.launchOf p.launch).paired = false → s.bestCore (s.needOf p) (coresOf d) = none →
      (∀ x ∈ s.allTeams, x.die = d → x.life ≠ .preempting) → s.bestVictims (s.needOf p) p.prio (coresOf d) = some [v] →
      (s.teamOf v).twin = none → (s.launchOf (s.teamOf v).launch).coop = false → s.preemptable v = true →
      exec (.preemptForHead die) s = .next (s.raisePreempt v).wake) ∧
    (let r := s.putCtx { s.ctxOf t.ctx with stopped := false }
      ∀ p rest c, t.handle = h → t.life = .saved → t.twin = none → r.poolOf t.die = p :: rest → p.saved = some h →
        r.pkg.d3hot = false → r.pkg.flr = false → r.stoppedEntry p = false → (r.launchOf p.launch).coop = false →
        r.bestCore (r.needOf p) (coresOf t.die) = some c →
        ∃ u, exec (.teamResume h) s = .next u ∧ (u.teamOf h).life = .resident ∧ (u.teamOf h).core = c) ∧
    (t.handle = h → t.life = .ending → t.doomed = none → s.teamQuiet h = true → t.paired = false → t.held = [] →
      s.focusTeam h = some z → (∃ x ∈ s.allTeams, x.handle ≠ h ∧ x.launch = z.launch.id) →
      ∃ u, exec (.teamEnd h) s = .next u ∧ ∀ x ∈ u.allTeams, x.handle ≠ h) ∧
    (∀ k, t.handle = h → t.doomed = some k → t.life ≠ .gone → t.matrixIdle = true → t.twin = none → s.stoppedTeam h = true →
      s.teamQuiet h = true → s.focusTeam h = some z → (∃ x ∈ s.allTeams, x.handle ≠ h ∧ x.launch = z.launch.id) →
      ∃ u, exec (.teamKill h) s = .next u ∧ ∀ x ∈ u.allTeams, x.handle ≠ h)

end
end

