-- ==== Sys2Proof/Laws/Memory.lean ====
section
/-! SUPPORT. Laws of the memory: what a read gives after a write, and that every write keeps the canonical form. -/

namespace Sys2Proof.Machine

/-- Every address of a list is above a bound. -/
def Memory.above (n : Nat) (m : List Host.Cell) : Prop := ∀ c ∈ m, n < c.1

theorem Memory.wf_cons {a : Nat} {v : Byte} {m : List Host.Cell} :
    Memory.wf ((a, v) :: m) = true ↔ v ≠ Memory.blank ∧ Memory.above a m ∧ Memory.wf m = true := by
  induction m generalizing a v with
  | nil => simp [Memory.wf, Memory.above]
  | cons c m ih =>
    obtain ⟨b, w⟩ := c
    have ih' := @ih b w
    constructor
    · intro h
      simp only [Memory.wf, Bool.and_eq_true, bne_iff_ne, decide_eq_true_eq] at h
      obtain ⟨⟨h1, h2⟩, h3⟩ := h
      refine ⟨h1, ?_, h3⟩
      intro c hc
      rcases List.mem_cons.1 hc with rfl | hc
      · exact h2
      · exact Nat.lt_trans h2 ((ih'.1 h3).2.1 c hc)
    · rintro ⟨h1, h2, h3⟩
      simp only [Memory.wf, Bool.and_eq_true, bne_iff_ne, decide_eq_true_eq]
      exact ⟨⟨h1, h2 (b, w) (List.mem_cons_self ..)⟩, h3⟩

theorem Memory.above_write {n a : Nat} {x : Byte} {m : List Host.Cell} (h : Memory.above n m) (ha : n < a) :
    Memory.above n (Memory.write m a x) := by
  induction m with
  | nil =>
    intro c hc
    simp only [Memory.write] at hc
    split at hc
    · cases hc
    · rcases List.mem_singleton.1 hc with rfl
      exact ha
  | cons c m ih =>
    obtain ⟨b, v⟩ := c
    have hm : Memory.above n m := fun c hc => h c (List.mem_cons_of_mem _ hc)
    have hb : n < b := h (b, v) (List.mem_cons_self ..)
    intro c hc
    simp only [Memory.write] at hc
    split at hc
    · split at hc
      · exact hm c hc
      · rcases List.mem_cons.1 hc with rfl | hc
        · exact ha
        · exact hm c hc
    · split at hc
      · split at hc
        · exact h c hc
        · rcases List.mem_cons.1 hc with rfl | hc
          · exact ha
          · exact h c hc
      · rcases List.mem_cons.1 hc with rfl | hc
        · exact hb
        · exact ih hm c hc

/-- A write of one byte keeps the canonical form. -/
theorem Memory.wf_write {m : List Host.Cell} (a : Nat) (x : Byte) (h : Memory.wf m = true) : Memory.wf (Memory.write m a x) = true := by
  induction m with
  | nil =>
    simp only [Memory.write]
    split
    · rfl
    · simpa [Memory.wf] using ‹_›
  | cons c m ih =>
    obtain ⟨b, v⟩ := c
    obtain ⟨h1, h2, h3⟩ := Memory.wf_cons.1 h
    simp only [Memory.write]
    split
    · subst a
      split
      · exact h3
      · exact Memory.wf_cons.2 ⟨‹_›, h2, h3⟩
    · split
      · split
        · exact h
        · refine Memory.wf_cons.2 ⟨‹_›, ?_, h⟩
          intro c hc
          rcases List.mem_cons.1 hc with rfl | hc
          · exact ‹a < b›
          · exact Nat.lt_trans ‹a < b› (h2 c hc)
      · exact Memory.wf_cons.2 ⟨h1, Memory.above_write h2 (by omega), ih h3⟩

theorem Memory.read_of_above {m : List Host.Cell} {a n : Nat} (h : Memory.above n m) (ha : a ≤ n) : Memory.read m a = Memory.blank := by
  cases m with
  | nil => rfl
  | cons c m =>
    obtain ⟨b, v⟩ := c
    have hb : n < b := h (b, v) (List.mem_cons_self ..)
    simp only [Memory.read]
    split
    · omega
    · split
      · rfl
      · omega

/-- A read at the address of a write gives what was written. -/
theorem Memory.read_write_same {m : List Host.Cell} (a : Nat) (x : Byte) (h : Memory.wf m = true) :
    Memory.read (Memory.write m a x) a = x := by
  induction m with
  | nil =>
    simp only [Memory.write]
    split
    · simp [Memory.read, *]
    · simp [Memory.read]
  | cons c m ih =>
    obtain ⟨b, v⟩ := c
    obtain ⟨h1, h2, h3⟩ := Memory.wf_cons.1 h
    simp only [Memory.write]
    split
    · subst a
      split
      · rw [Memory.read_of_above h2 (Nat.le_refl _)]; exact (‹x = Memory.blank›).symm
      · simp [Memory.read]
    · split
      · split
        · simp only [Memory.read]; split
          · omega
          · simp [*]
        · simp [Memory.read]
      · rw [Memory.read, if_neg ‹¬a = b›, if_neg ‹¬a < b›]
        exact ih h3

/-- A read elsewhere gives what it gave. -/
theorem Memory.read_write_other {m : List Host.Cell} {a b : Nat} (x : Byte) (hab : b ≠ a) (h : Memory.wf m = true) :
    Memory.read (Memory.write m a x) b = Memory.read m b := by
  induction m with
  | nil =>
    simp only [Memory.write]
    split
    · rfl
    · simp only [Memory.read]
      split
      · exact absurd ‹_› hab
      · split <;> rfl
  | cons c m ih =>
    obtain ⟨d, v⟩ := c
    obtain ⟨h1, h2, h3⟩ := Memory.wf_cons.1 h
    simp only [Memory.write]
    split
    · subst a
      split
      · simp only [Memory.read]
        split
        · exact absurd ‹_› hab
        · split
          · exact Memory.read_of_above h2 (by omega)
          · rfl
      · simp only [Memory.read]
        split
        · exact absurd ‹_› hab
        · rfl
    · split
      · split
        · rfl
        · rw [Memory.read]
          split
          · exact absurd ‹_› hab
          · split
            · simp only [Memory.read]
              split
              · omega
              · split
                · rfl
                · omega
            · rfl
      · simp only [Memory.read]
        split
        · rfl
        · split
          · rfl
          · exact ih h3

/-- Writes of bytes keep the canonical form. -/
theorem Memory.wf_writeBytes {m : List Host.Cell} (a : Nat) (l : List Byte) (h : Memory.wf m = true) :
    Memory.wf (Memory.writeBytes m a l) = true := by
  induction l generalizing m a with
  | nil => exact h
  | cons x l ih => exact ih (a + 1) (Memory.wf_write a x h)

theorem Memory.wf_writeMasked {m : List Host.Cell} (a : Nat) (l : List (Option Byte)) (h : Memory.wf m = true) :
    Memory.wf (Memory.writeMasked m a l) = true := by
  induction l generalizing m a with
  | nil => exact h
  | cons x l ih =>
    cases x with
    | none => exact ih (a + 1) h
    | some x => exact ih (a + 1) (Memory.wf_write a x h)

theorem Memory.wf_writeNat {m : List Host.Cell} (a n x : Nat) (h : Memory.wf m = true) : Memory.wf (Memory.writeNat m a n x) = true :=
  Memory.wf_writeBytes a _ h

/-- Cells taken away leave the canonical form. -/
theorem Memory.wf_filter {m : List Host.Cell} (p : Host.Cell → Bool) (h : Memory.wf m = true) : Memory.wf (m.filter p) = true := by
  induction m with
  | nil => rfl
  | cons c m ih =>
    obtain ⟨a, v⟩ := c
    obtain ⟨h1, h2, h3⟩ := Memory.wf_cons.1 h
    simp only [List.filter_cons]
    split
    · exact Memory.wf_cons.2 ⟨h1, fun c hc => h2 c (List.mem_filter.1 hc).1, ih h3⟩
    · exact ih h3

/-- A read outside the bytes written gives what it gave. -/
theorem Memory.read_writeBytes_other {m : List Host.Cell} {a b : Nat} (l : List Byte) (hb : b < a ∨ a + l.length ≤ b)
    (h : Memory.wf m = true) : Memory.read (Memory.writeBytes m a l) b = Memory.read m b := by
  induction l generalizing m a with
  | nil => rfl
  | cons x l ih =>
    simp only [List.length_cons] at hb
    rw [Memory.writeBytes, ih (by omega) (Memory.wf_write a x h), Memory.read_write_other x (by omega) h]

/-- A read of the bytes written gives them. -/
theorem Memory.readBytes_writeBytes {m : List Host.Cell} (a : Nat) (l : List Byte) (h : Memory.wf m = true) :
    Memory.readBytes (Memory.writeBytes m a l) a l.length = l := by
  induction l generalizing m a with
  | nil => rfl
  | cons x l ih =>
    simp only [List.length_cons, Memory.readBytes, Memory.writeBytes]
    rw [Memory.read_writeBytes_other l (by omega) (Memory.wf_write a x h), Memory.read_write_same a x h, ih (a + 1) (Memory.wf_write a x h)]

end Sys2Proof.Machine
end

