-- ==== Sys2Proof/Laws/State.lean ====
section
/-! SUPPORT. What each update of the machine leaves as it was, field by field. -/

namespace Sys2Proof.Machine

@[simp] theorem State.setHomeLine_agenda (s : State) (h : HomeLine) : (s.setHomeLine h).agenda = s.agenda := rfl
@[simp] theorem State.setHomeLine_warp (s : State) (h : HomeLine) : (s.setHomeLine h).warp = s.warp := rfl
@[simp] theorem State.setHomeLine_team (s : State) (h : HomeLine) : (s.setHomeLine h).team = s.team := rfl
@[simp] theorem State.setHomeLine_core (s : State) (h : HomeLine) : (s.setHomeLine h).core = s.core := rfl
@[simp] theorem State.setHomeLine_ctx (s : State) (h : HomeLine) : (s.setHomeLine h).ctx = s.ctx := rfl
@[simp] theorem State.setHomeLine_launch (s : State) (h : HomeLine) : (s.setHomeLine h).launch = s.launch := rfl
@[simp] theorem State.setHomeLine_warps (s : State) (h : HomeLine) : (s.setHomeLine h).warps = s.warps := rfl
@[simp] theorem State.setHomeLine_teams (s : State) (h : HomeLine) : (s.setHomeLine h).teams = s.teams := rfl
@[simp] theorem State.setHomeLine_cores (s : State) (h : HomeLine) : (s.setHomeLine h).cores = s.cores := rfl
@[simp] theorem State.setHomeLine_ctxs (s : State) (h : HomeLine) : (s.setHomeLine h).ctxs = s.ctxs := rfl
@[simp] theorem State.setHomeLine_launches (s : State) (h : HomeLine) : (s.setHomeLine h).launches = s.launches := rfl
@[simp] theorem State.setHomeLine_dies (s : State) (h : HomeLine) : (s.setHomeLine h).dies = s.dies := rfl
@[simp] theorem State.setHomeLine_pkg (s : State) (h : HomeLine) : (s.setHomeLine h).pkg = s.pkg := rfl
@[simp] theorem State.setHomeLine_mem (s : State) (h : HomeLine) : (s.setHomeLine h).mem = s.mem := rfl
@[simp] theorem State.setHomeLine_evicted (s : State) (h : HomeLine) : (s.setHomeLine h).evicted = s.evicted := rfl
@[simp] theorem State.setHomeLine_poison (s : State) (h : HomeLine) : (s.setHomeLine h).poison = s.poison := rfl
@[simp] theorem State.setHomeLine_contributions (s : State) (h : HomeLine) : (s.setHomeLine h).contributions = s.contributions := rfl
@[simp] theorem State.setHomeLine_switchEntries (s : State) (h : HomeLine) : (s.setHomeLine h).switchEntries = s.switchEntries := rfl
@[simp] theorem State.setHomeLine_deliveries (s : State) (h : HomeLine) : (s.setHomeLine h).deliveries = s.deliveries := rfl
@[simp] theorem State.setHomeLine_gtc (s : State) (h : HomeLine) : (s.setHomeLine h).gtc = s.gtc := rfl
@[simp] theorem State.setHomeLine_free (s : State) (h : HomeLine) : (s.setHomeLine h).free = s.free := rfl
@[simp] theorem State.setHomeLine_nextId (s : State) (h : HomeLine) : (s.setHomeLine h).nextId = s.nextId := rfl
@[simp] theorem State.setHomeLine_turns (s : State) (h : HomeLine) : (s.setHomeLine h).turns = s.turns := rfl

@[simp] theorem State.withWarp_agenda (s : State) (w : Warp) : (s.withWarp w).agenda = s.agenda := rfl
@[simp] theorem State.withWarp_team (s : State) (w : Warp) : (s.withWarp w).team = s.team := rfl
@[simp] theorem State.withWarp_core (s : State) (w : Warp) : (s.withWarp w).core = s.core := rfl
@[simp] theorem State.withWarp_ctx (s : State) (w : Warp) : (s.withWarp w).ctx = s.ctx := rfl
@[simp] theorem State.withWarp_launch (s : State) (w : Warp) : (s.withWarp w).launch = s.launch := rfl
@[simp] theorem State.withWarp_warps (s : State) (w : Warp) : (s.withWarp w).warps = s.warps := rfl
@[simp] theorem State.withWarp_teams (s : State) (w : Warp) : (s.withWarp w).teams = s.teams := rfl
@[simp] theorem State.withWarp_cores (s : State) (w : Warp) : (s.withWarp w).cores = s.cores := rfl
@[simp] theorem State.withWarp_ctxs (s : State) (w : Warp) : (s.withWarp w).ctxs = s.ctxs := rfl
@[simp] theorem State.withWarp_launches (s : State) (w : Warp) : (s.withWarp w).launches = s.launches := rfl
@[simp] theorem State.withWarp_dies (s : State) (w : Warp) : (s.withWarp w).dies = s.dies := rfl
@[simp] theorem State.withWarp_pkg (s : State) (w : Warp) : (s.withWarp w).pkg = s.pkg := rfl
@[simp] theorem State.withWarp_mem (s : State) (w : Warp) : (s.withWarp w).mem = s.mem := rfl
@[simp] theorem State.withWarp_home (s : State) (w : Warp) : (s.withWarp w).home = s.home := rfl
@[simp] theorem State.withWarp_evicted (s : State) (w : Warp) : (s.withWarp w).evicted = s.evicted := rfl
@[simp] theorem State.withWarp_poison (s : State) (w : Warp) : (s.withWarp w).poison = s.poison := rfl
@[simp] theorem State.withWarp_contributions (s : State) (w : Warp) : (s.withWarp w).contributions = s.contributions := rfl
@[simp] theorem State.withWarp_switchEntries (s : State) (w : Warp) : (s.withWarp w).switchEntries = s.switchEntries := rfl
@[simp] theorem State.withWarp_deliveries (s : State) (w : Warp) : (s.withWarp w).deliveries = s.deliveries := rfl
@[simp] theorem State.withWarp_gtc (s : State) (w : Warp) : (s.withWarp w).gtc = s.gtc := rfl
@[simp] theorem State.withWarp_free (s : State) (w : Warp) : (s.withWarp w).free = s.free := rfl
@[simp] theorem State.withWarp_nextId (s : State) (w : Warp) : (s.withWarp w).nextId = s.nextId := rfl
@[simp] theorem State.withWarp_turns (s : State) (w : Warp) : (s.withWarp w).turns = s.turns := rfl

@[simp] theorem State.moveTo_agenda (s : State) (pc : BitVec 64) : (s.moveTo pc).agenda = s.agenda := rfl
@[simp] theorem State.moveTo_team (s : State) (pc : BitVec 64) : (s.moveTo pc).team = s.team := rfl
@[simp] theorem State.moveTo_core (s : State) (pc : BitVec 64) : (s.moveTo pc).core = s.core := rfl
@[simp] theorem State.moveTo_ctx (s : State) (pc : BitVec 64) : (s.moveTo pc).ctx = s.ctx := rfl
@[simp] theorem State.moveTo_launch (s : State) (pc : BitVec 64) : (s.moveTo pc).launch = s.launch := rfl
@[simp] theorem State.moveTo_warps (s : State) (pc : BitVec 64) : (s.moveTo pc).warps = s.warps := rfl
@[simp] theorem State.moveTo_teams (s : State) (pc : BitVec 64) : (s.moveTo pc).teams = s.teams := rfl
@[simp] theorem State.moveTo_cores (s : State) (pc : BitVec 64) : (s.moveTo pc).cores = s.cores := rfl
@[simp] theorem State.moveTo_ctxs (s : State) (pc : BitVec 64) : (s.moveTo pc).ctxs = s.ctxs := rfl
@[simp] theorem State.moveTo_launches (s : State) (pc : BitVec 64) : (s.moveTo pc).launches = s.launches := rfl
@[simp] theorem State.moveTo_dies (s : State) (pc : BitVec 64) : (s.moveTo pc).dies = s.dies := rfl
@[simp] theorem State.moveTo_pkg (s : State) (pc : BitVec 64) : (s.moveTo pc).pkg = s.pkg := rfl
@[simp] theorem State.moveTo_mem (s : State) (pc : BitVec 64) : (s.moveTo pc).mem = s.mem := rfl
@[simp] theorem State.moveTo_home (s : State) (pc : BitVec 64) : (s.moveTo pc).home = s.home := rfl
@[simp] theorem State.moveTo_evicted (s : State) (pc : BitVec 64) : (s.moveTo pc).evicted = s.evicted := rfl
@[simp] theorem State.moveTo_poison (s : State) (pc : BitVec 64) : (s.moveTo pc).poison = s.poison := rfl
@[simp] theorem State.moveTo_contributions (s : State) (pc : BitVec 64) : (s.moveTo pc).contributions = s.contributions := rfl
@[simp] theorem State.moveTo_switchEntries (s : State) (pc : BitVec 64) : (s.moveTo pc).switchEntries = s.switchEntries := rfl
@[simp] theorem State.moveTo_deliveries (s : State) (pc : BitVec 64) : (s.moveTo pc).deliveries = s.deliveries := rfl
@[simp] theorem State.moveTo_gtc (s : State) (pc : BitVec 64) : (s.moveTo pc).gtc = s.gtc := rfl
@[simp] theorem State.moveTo_free (s : State) (pc : BitVec 64) : (s.moveTo pc).free = s.free := rfl
@[simp] theorem State.moveTo_nextId (s : State) (pc : BitVec 64) : (s.moveTo pc).nextId = s.nextId := rfl
@[simp] theorem State.moveTo_turns (s : State) (pc : BitVec 64) : (s.moveTo pc).turns = s.turns := rfl

@[simp] theorem State.advance_agenda (s : State) : (s.advance).agenda = s.agenda := rfl
@[simp] theorem State.advance_team (s : State) : (s.advance).team = s.team := rfl
@[simp] theorem State.advance_core (s : State) : (s.advance).core = s.core := rfl
@[simp] theorem State.advance_ctx (s : State) : (s.advance).ctx = s.ctx := rfl
@[simp] theorem State.advance_launch (s : State) : (s.advance).launch = s.launch := rfl
@[simp] theorem State.advance_warps (s : State) : (s.advance).warps = s.warps := rfl
@[simp] theorem State.advance_teams (s : State) : (s.advance).teams = s.teams := rfl
@[simp] theorem State.advance_cores (s : State) : (s.advance).cores = s.cores := rfl
@[simp] theorem State.advance_ctxs (s : State) : (s.advance).ctxs = s.ctxs := rfl
@[simp] theorem State.advance_launches (s : State) : (s.advance).launches = s.launches := rfl
@[simp] theorem State.advance_dies (s : State) : (s.advance).dies = s.dies := rfl
@[simp] theorem State.advance_pkg (s : State) : (s.advance).pkg = s.pkg := rfl
@[simp] theorem State.advance_mem (s : State) : (s.advance).mem = s.mem := rfl
@[simp] theorem State.advance_home (s : State) : (s.advance).home = s.home := rfl
@[simp] theorem State.advance_evicted (s : State) : (s.advance).evicted = s.evicted := rfl
@[simp] theorem State.advance_poison (s : State) : (s.advance).poison = s.poison := rfl
@[simp] theorem State.advance_contributions (s : State) : (s.advance).contributions = s.contributions := rfl
@[simp] theorem State.advance_switchEntries (s : State) : (s.advance).switchEntries = s.switchEntries := rfl
@[simp] theorem State.advance_deliveries (s : State) : (s.advance).deliveries = s.deliveries := rfl
@[simp] theorem State.advance_gtc (s : State) : (s.advance).gtc = s.gtc := rfl
@[simp] theorem State.advance_free (s : State) : (s.advance).free = s.free := rfl
@[simp] theorem State.advance_nextId (s : State) : (s.advance).nextId = s.nextId := rfl
@[simp] theorem State.advance_turns (s : State) : (s.advance).turns = s.turns := rfl

@[simp] theorem State.lateWrite_agenda (s : State) (l : LateWrite) : (s.lateWrite l).agenda = s.agenda := by first | rfl | (unfold State.lateWrite; split <;> rfl)
@[simp] theorem State.lateWrite_core (s : State) (l : LateWrite) : (s.lateWrite l).core = s.core := by first | rfl | (unfold State.lateWrite; split <;> rfl)
@[simp] theorem State.lateWrite_ctx (s : State) (l : LateWrite) : (s.lateWrite l).ctx = s.ctx := by first | rfl | (unfold State.lateWrite; split <;> rfl)
@[simp] theorem State.lateWrite_launch (s : State) (l : LateWrite) : (s.lateWrite l).launch = s.launch := by first | rfl | (unfold State.lateWrite; split <;> rfl)
@[simp] theorem State.lateWrite_warps (s : State) (l : LateWrite) : (s.lateWrite l).warps = s.warps := by first | rfl | (unfold State.lateWrite; split <;> rfl)
@[simp] theorem State.lateWrite_teams (s : State) (l : LateWrite) : (s.lateWrite l).teams = s.teams := by first | rfl | (unfold State.lateWrite; split <;> rfl)
@[simp] theorem State.lateWrite_cores (s : State) (l : LateWrite) : (s.lateWrite l).cores = s.cores := by first | rfl | (unfold State.lateWrite; split <;> rfl)
@[simp] theorem State.lateWrite_ctxs (s : State) (l : LateWrite) : (s.lateWrite l).ctxs = s.ctxs := by first | rfl | (unfold State.lateWrite; split <;> rfl)
@[simp] theorem State.lateWrite_launches (s : State) (l : LateWrite) : (s.lateWrite l).launches = s.launches := by first | rfl | (unfold State.lateWrite; split <;> rfl)
@[simp] theorem State.lateWrite_dies (s : State) (l : LateWrite) : (s.lateWrite l).dies = s.dies := by first | rfl | (unfold State.lateWrite; split <;> rfl)
@[simp] theorem State.lateWrite_pkg (s : State) (l : LateWrite) : (s.lateWrite l).pkg = s.pkg := by first | rfl | (unfold State.lateWrite; split <;> rfl)
@[simp] theorem State.lateWrite_mem (s : State) (l : LateWrite) : (s.lateWrite l).mem = s.mem := by first | rfl | (unfold State.lateWrite; split <;> rfl)
@[simp] theorem State.lateWrite_home (s : State) (l : LateWrite) : (s.lateWrite l).home = s.home := by first | rfl | (unfold State.lateWrite; split <;> rfl)
@[simp] theorem State.lateWrite_evicted (s : State) (l : LateWrite) : (s.lateWrite l).evicted = s.evicted := by first | rfl | (unfold State.lateWrite; split <;> rfl)
@[simp] theorem State.lateWrite_poison (s : State) (l : LateWrite) : (s.lateWrite l).poison = s.poison := by first | rfl | (unfold State.lateWrite; split <;> rfl)
@[simp] theorem State.lateWrite_contributions (s : State) (l : LateWrite) : (s.lateWrite l).contributions = s.contributions := by first | rfl | (unfold State.lateWrite; split <;> rfl)
@[simp] theorem State.lateWrite_switchEntries (s : State) (l : LateWrite) : (s.lateWrite l).switchEntries = s.switchEntries := by first | rfl | (unfold State.lateWrite; split <;> rfl)
@[simp] theorem State.lateWrite_deliveries (s : State) (l : LateWrite) : (s.lateWrite l).deliveries = s.deliveries := by first | rfl | (unfold State.lateWrite; split <;> rfl)
@[simp] theorem State.lateWrite_gtc (s : State) (l : LateWrite) : (s.lateWrite l).gtc = s.gtc := by first | rfl | (unfold State.lateWrite; split <;> rfl)
@[simp] theorem State.lateWrite_free (s : State) (l : LateWrite) : (s.lateWrite l).free = s.free := by first | rfl | (unfold State.lateWrite; split <;> rfl)
@[simp] theorem State.lateWrite_nextId (s : State) (l : LateWrite) : (s.lateWrite l).nextId = s.nextId := by first | rfl | (unfold State.lateWrite; split <;> rfl)
@[simp] theorem State.lateWrite_turns (s : State) (l : LateWrite) : (s.lateWrite l).turns = s.turns := by first | rfl | (unfold State.lateWrite; split <;> rfl)

@[simp] theorem State.mapWarps_agenda (s : State) (f : Warp → Warp) : (s.mapWarps f).agenda = s.agenda := rfl
@[simp] theorem State.mapWarps_team (s : State) (f : Warp → Warp) : (s.mapWarps f).team = s.team := rfl
@[simp] theorem State.mapWarps_core (s : State) (f : Warp → Warp) : (s.mapWarps f).core = s.core := rfl
@[simp] theorem State.mapWarps_ctx (s : State) (f : Warp → Warp) : (s.mapWarps f).ctx = s.ctx := rfl
@[simp] theorem State.mapWarps_launch (s : State) (f : Warp → Warp) : (s.mapWarps f).launch = s.launch := rfl
@[simp] theorem State.mapWarps_teams (s : State) (f : Warp → Warp) : (s.mapWarps f).teams = s.teams := rfl
@[simp] theorem State.mapWarps_cores (s : State) (f : Warp → Warp) : (s.mapWarps f).cores = s.cores := rfl
@[simp] theorem State.mapWarps_ctxs (s : State) (f : Warp → Warp) : (s.mapWarps f).ctxs = s.ctxs := rfl
@[simp] theorem State.mapWarps_launches (s : State) (f : Warp → Warp) : (s.mapWarps f).launches = s.launches := rfl
@[simp] theorem State.mapWarps_dies (s : State) (f : Warp → Warp) : (s.mapWarps f).dies = s.dies := rfl
@[simp] theorem State.mapWarps_pkg (s : State) (f : Warp → Warp) : (s.mapWarps f).pkg = s.pkg := rfl
@[simp] theorem State.mapWarps_mem (s : State) (f : Warp → Warp) : (s.mapWarps f).mem = s.mem := rfl
@[simp] theorem State.mapWarps_home (s : State) (f : Warp → Warp) : (s.mapWarps f).home = s.home := rfl
@[simp] theorem State.mapWarps_evicted (s : State) (f : Warp → Warp) : (s.mapWarps f).evicted = s.evicted := rfl
@[simp] theorem State.mapWarps_poison (s : State) (f : Warp → Warp) : (s.mapWarps f).poison = s.poison := rfl
@[simp] theorem State.mapWarps_contributions (s : State) (f : Warp → Warp) : (s.mapWarps f).contributions = s.contributions := rfl
@[simp] theorem State.mapWarps_switchEntries (s : State) (f : Warp → Warp) : (s.mapWarps f).switchEntries = s.switchEntries := rfl
@[simp] theorem State.mapWarps_deliveries (s : State) (f : Warp → Warp) : (s.mapWarps f).deliveries = s.deliveries := rfl
@[simp] theorem State.mapWarps_gtc (s : State) (f : Warp → Warp) : (s.mapWarps f).gtc = s.gtc := rfl
@[simp] theorem State.mapWarps_free (s : State) (f : Warp → Warp) : (s.mapWarps f).free = s.free := rfl
@[simp] theorem State.mapWarps_nextId (s : State) (f : Warp → Warp) : (s.mapWarps f).nextId = s.nextId := rfl
@[simp] theorem State.mapWarps_turns (s : State) (f : Warp → Warp) : (s.mapWarps f).turns = s.turns := rfl

@[simp] theorem State.mapTeams_agenda (s : State) (f : Team → Team) : (s.mapTeams f).agenda = s.agenda := rfl
@[simp] theorem State.mapTeams_warp (s : State) (f : Team → Team) : (s.mapTeams f).warp = s.warp := rfl
@[simp] theorem State.mapTeams_core (s : State) (f : Team → Team) : (s.mapTeams f).core = s.core := rfl
@[simp] theorem State.mapTeams_ctx (s : State) (f : Team → Team) : (s.mapTeams f).ctx = s.ctx := rfl
@[simp] theorem State.mapTeams_launch (s : State) (f : Team → Team) : (s.mapTeams f).launch = s.launch := rfl
@[simp] theorem State.mapTeams_warps (s : State) (f : Team → Team) : (s.mapTeams f).warps = s.warps := rfl
@[simp] theorem State.mapTeams_cores (s : State) (f : Team → Team) : (s.mapTeams f).cores = s.cores := rfl
@[simp] theorem State.mapTeams_ctxs (s : State) (f : Team → Team) : (s.mapTeams f).ctxs = s.ctxs := rfl
@[simp] theorem State.mapTeams_launches (s : State) (f : Team → Team) : (s.mapTeams f).launches = s.launches := rfl
@[simp] theorem State.mapTeams_dies (s : State) (f : Team → Team) : (s.mapTeams f).dies = s.dies := rfl
@[simp] theorem State.mapTeams_pkg (s : State) (f : Team → Team) : (s.mapTeams f).pkg = s.pkg := rfl
@[simp] theorem State.mapTeams_mem (s : State) (f : Team → Team) : (s.mapTeams f).mem = s.mem := rfl
@[simp] theorem State.mapTeams_home (s : State) (f : Team → Team) : (s.mapTeams f).home = s.home := rfl
@[simp] theorem State.mapTeams_evicted (s : State) (f : Team → Team) : (s.mapTeams f).evicted = s.evicted := rfl
@[simp] theorem State.mapTeams_poison (s : State) (f : Team → Team) : (s.mapTeams f).poison = s.poison := rfl
@[simp] theorem State.mapTeams_contributions (s : State) (f : Team → Team) : (s.mapTeams f).contributions = s.contributions := rfl
@[simp] theorem State.mapTeams_switchEntries (s : State) (f : Team → Team) : (s.mapTeams f).switchEntries = s.switchEntries := rfl
@[simp] theorem State.mapTeams_deliveries (s : State) (f : Team → Team) : (s.mapTeams f).deliveries = s.deliveries := rfl
@[simp] theorem State.mapTeams_gtc (s : State) (f : Team → Team) : (s.mapTeams f).gtc = s.gtc := rfl
@[simp] theorem State.mapTeams_free (s : State) (f : Team → Team) : (s.mapTeams f).free = s.free := rfl
@[simp] theorem State.mapTeams_nextId (s : State) (f : Team → Team) : (s.mapTeams f).nextId = s.nextId := rfl
@[simp] theorem State.mapTeams_turns (s : State) (f : Team → Team) : (s.mapTeams f).turns = s.turns := rfl

@[simp] theorem State.wake_agenda (s : State) : (s.wake).agenda = s.agenda := rfl
@[simp] theorem State.wake_team (s : State) : (s.wake).team = s.team := rfl
@[simp] theorem State.wake_core (s : State) : (s.wake).core = s.core := rfl
@[simp] theorem State.wake_ctx (s : State) : (s.wake).ctx = s.ctx := rfl
@[simp] theorem State.wake_launch (s : State) : (s.wake).launch = s.launch := rfl
@[simp] theorem State.wake_teams (s : State) : (s.wake).teams = s.teams := rfl
@[simp] theorem State.wake_cores (s : State) : (s.wake).cores = s.cores := rfl
@[simp] theorem State.wake_ctxs (s : State) : (s.wake).ctxs = s.ctxs := rfl
@[simp] theorem State.wake_launches (s : State) : (s.wake).launches = s.launches := rfl
@[simp] theorem State.wake_dies (s : State) : (s.wake).dies = s.dies := rfl
@[simp] theorem State.wake_pkg (s : State) : (s.wake).pkg = s.pkg := rfl
@[simp] theorem State.wake_mem (s : State) : (s.wake).mem = s.mem := rfl
@[simp] theorem State.wake_home (s : State) : (s.wake).home = s.home := rfl
@[simp] theorem State.wake_evicted (s : State) : (s.wake).evicted = s.evicted := rfl
@[simp] theorem State.wake_poison (s : State) : (s.wake).poison = s.poison := rfl
@[simp] theorem State.wake_contributions (s : State) : (s.wake).contributions = s.contributions := rfl
@[simp] theorem State.wake_switchEntries (s : State) : (s.wake).switchEntries = s.switchEntries := rfl
@[simp] theorem State.wake_deliveries (s : State) : (s.wake).deliveries = s.deliveries := rfl
@[simp] theorem State.wake_gtc (s : State) : (s.wake).gtc = s.gtc := rfl
@[simp] theorem State.wake_free (s : State) : (s.wake).free = s.free := rfl
@[simp] theorem State.wake_nextId (s : State) : (s.wake).nextId = s.nextId := rfl
@[simp] theorem State.wake_turns (s : State) : (s.wake).turns = s.turns := rfl

@[simp] theorem State.finish_agenda (s : State) : (s.finish).agenda = s.agenda := rfl
@[simp] theorem State.finish_team (s : State) : (s.finish).team = s.team := rfl
@[simp] theorem State.finish_launch (s : State) : (s.finish).launch = s.launch := rfl
@[simp] theorem State.finish_teams (s : State) : (s.finish).teams = s.teams := rfl
@[simp] theorem State.finish_cores (s : State) : (s.finish).cores = s.cores := rfl
@[simp] theorem State.finish_ctxs (s : State) : (s.finish).ctxs = s.ctxs := rfl
@[simp] theorem State.finish_launches (s : State) : (s.finish).launches = s.launches := rfl
@[simp] theorem State.finish_dies (s : State) : (s.finish).dies = s.dies := rfl
@[simp] theorem State.finish_pkg (s : State) : (s.finish).pkg = s.pkg := rfl
@[simp] theorem State.finish_mem (s : State) : (s.finish).mem = s.mem := rfl
@[simp] theorem State.finish_home (s : State) : (s.finish).home = s.home := rfl
@[simp] theorem State.finish_evicted (s : State) : (s.finish).evicted = s.evicted := rfl
@[simp] theorem State.finish_poison (s : State) : (s.finish).poison = s.poison := rfl
@[simp] theorem State.finish_contributions (s : State) : (s.finish).contributions = s.contributions := rfl
@[simp] theorem State.finish_switchEntries (s : State) : (s.finish).switchEntries = s.switchEntries := rfl
@[simp] theorem State.finish_deliveries (s : State) : (s.finish).deliveries = s.deliveries := rfl
@[simp] theorem State.finish_free (s : State) : (s.finish).free = s.free := rfl
@[simp] theorem State.finish_turns (s : State) : (s.finish).turns = s.turns := rfl

@[simp] theorem State.stall_agenda (s : State) : (s.stall).agenda = s.agenda := rfl
@[simp] theorem State.stall_team (s : State) : (s.stall).team = s.team := rfl
@[simp] theorem State.stall_core (s : State) : (s.stall).core = s.core := rfl
@[simp] theorem State.stall_launch (s : State) : (s.stall).launch = s.launch := rfl
@[simp] theorem State.stall_warps (s : State) : (s.stall).warps = s.warps := rfl
@[simp] theorem State.stall_teams (s : State) : (s.stall).teams = s.teams := rfl
@[simp] theorem State.stall_cores (s : State) : (s.stall).cores = s.cores := rfl
@[simp] theorem State.stall_ctxs (s : State) : (s.stall).ctxs = s.ctxs := rfl
@[simp] theorem State.stall_launches (s : State) : (s.stall).launches = s.launches := rfl
@[simp] theorem State.stall_dies (s : State) : (s.stall).dies = s.dies := rfl
@[simp] theorem State.stall_pkg (s : State) : (s.stall).pkg = s.pkg := rfl
@[simp] theorem State.stall_mem (s : State) : (s.stall).mem = s.mem := rfl
@[simp] theorem State.stall_home (s : State) : (s.stall).home = s.home := rfl
@[simp] theorem State.stall_evicted (s : State) : (s.stall).evicted = s.evicted := rfl
@[simp] theorem State.stall_poison (s : State) : (s.stall).poison = s.poison := rfl
@[simp] theorem State.stall_contributions (s : State) : (s.stall).contributions = s.contributions := rfl
@[simp] theorem State.stall_switchEntries (s : State) : (s.stall).switchEntries = s.switchEntries := rfl
@[simp] theorem State.stall_deliveries (s : State) : (s.stall).deliveries = s.deliveries := rfl
@[simp] theorem State.stall_gtc (s : State) : (s.stall).gtc = s.gtc := rfl
@[simp] theorem State.stall_free (s : State) : (s.stall).free = s.free := rfl
@[simp] theorem State.stall_nextId (s : State) : (s.stall).nextId = s.nextId := rfl
@[simp] theorem State.stall_turns (s : State) : (s.stall).turns = s.turns := rfl

@[simp] theorem State.doom_agenda (s : State) (code : BitVec 16) (pc addr : BitVec 64) : (s.doom code pc addr).agenda = s.agenda := by first | rfl | (unfold State.doom; split <;> rfl)
@[simp] theorem State.doom_warp (s : State) (code : BitVec 16) (pc addr : BitVec 64) : (s.doom code pc addr).warp = s.warp := by first | rfl | (unfold State.doom; split <;> rfl)
@[simp] theorem State.doom_core (s : State) (code : BitVec 16) (pc addr : BitVec 64) : (s.doom code pc addr).core = s.core := by first | rfl | (unfold State.doom; split <;> rfl)
@[simp] theorem State.doom_ctx (s : State) (code : BitVec 16) (pc addr : BitVec 64) : (s.doom code pc addr).ctx = s.ctx := by first | rfl | (unfold State.doom; split <;> rfl)
@[simp] theorem State.doom_launch (s : State) (code : BitVec 16) (pc addr : BitVec 64) : (s.doom code pc addr).launch = s.launch := by first | rfl | (unfold State.doom; split <;> rfl)
@[simp] theorem State.doom_warps (s : State) (code : BitVec 16) (pc addr : BitVec 64) : (s.doom code pc addr).warps = s.warps := by first | rfl | (unfold State.doom; split <;> rfl)
@[simp] theorem State.doom_teams (s : State) (code : BitVec 16) (pc addr : BitVec 64) : (s.doom code pc addr).teams = s.teams := by first | rfl | (unfold State.doom; split <;> rfl)
@[simp] theorem State.doom_cores (s : State) (code : BitVec 16) (pc addr : BitVec 64) : (s.doom code pc addr).cores = s.cores := by first | rfl | (unfold State.doom; split <;> rfl)
@[simp] theorem State.doom_ctxs (s : State) (code : BitVec 16) (pc addr : BitVec 64) : (s.doom code pc addr).ctxs = s.ctxs := by first | rfl | (unfold State.doom; split <;> rfl)
@[simp] theorem State.doom_launches (s : State) (code : BitVec 16) (pc addr : BitVec 64) : (s.doom code pc addr).launches = s.launches := by first | rfl | (unfold State.doom; split <;> rfl)
@[simp] theorem State.doom_dies (s : State) (code : BitVec 16) (pc addr : BitVec 64) : (s.doom code pc addr).dies = s.dies := by first | rfl | (unfold State.doom; split <;> rfl)
@[simp] theorem State.doom_pkg (s : State) (code : BitVec 16) (pc addr : BitVec 64) : (s.doom code pc addr).pkg = s.pkg := by first | rfl | (unfold State.doom; split <;> rfl)
@[simp] theorem State.doom_mem (s : State) (code : BitVec 16) (pc addr : BitVec 64) : (s.doom code pc addr).mem = s.mem := by first | rfl | (unfold State.doom; split <;> rfl)
@[simp] theorem State.doom_home (s : State) (code : BitVec 16) (pc addr : BitVec 64) : (s.doom code pc addr).home = s.home := by first | rfl | (unfold State.doom; split <;> rfl)
@[simp] theorem State.doom_evicted (s : State) (code : BitVec 16) (pc addr : BitVec 64) : (s.doom code pc addr).evicted = s.evicted := by first | rfl | (unfold State.doom; split <;> rfl)
@[simp] theorem State.doom_poison (s : State) (code : BitVec 16) (pc addr : BitVec 64) : (s.doom code pc addr).poison = s.poison := by first | rfl | (unfold State.doom; split <;> rfl)
@[simp] theorem State.doom_contributions (s : State) (code : BitVec 16) (pc addr : BitVec 64) : (s.doom code pc addr).contributions = s.contributions := by first | rfl | (unfold State.doom; split <;> rfl)
@[simp] theorem State.doom_switchEntries (s : State) (code : BitVec 16) (pc addr : BitVec 64) : (s.doom code pc addr).switchEntries = s.switchEntries := by first | rfl | (unfold State.doom; split <;> rfl)
@[simp] theorem State.doom_deliveries (s : State) (code : BitVec 16) (pc addr : BitVec 64) : (s.doom code pc addr).deliveries = s.deliveries := by first | rfl | (unfold State.doom; split <;> rfl)
@[simp] theorem State.doom_gtc (s : State) (code : BitVec 16) (pc addr : BitVec 64) : (s.doom code pc addr).gtc = s.gtc := by first | rfl | (unfold State.doom; split <;> rfl)
@[simp] theorem State.doom_free (s : State) (code : BitVec 16) (pc addr : BitVec 64) : (s.doom code pc addr).free = s.free := by first | rfl | (unfold State.doom; split <;> rfl)
@[simp] theorem State.doom_nextId (s : State) (code : BitVec 16) (pc addr : BitVec 64) : (s.doom code pc addr).nextId = s.nextId := by first | rfl | (unfold State.doom; split <;> rfl)
@[simp] theorem State.doom_turns (s : State) (code : BitVec 16) (pc addr : BitVec 64) : (s.doom code pc addr).turns = s.turns := by first | rfl | (unfold State.doom; split <;> rfl)

@[simp] theorem State.parkAt_agenda (s : State) (code : BitVec 16) (lanes : Mask) (pc addr : BitVec 64) : (s.parkAt code lanes pc addr).agenda = s.agenda := rfl
@[simp] theorem State.parkAt_team (s : State) (code : BitVec 16) (lanes : Mask) (pc addr : BitVec 64) : (s.parkAt code lanes pc addr).team = s.team := rfl
@[simp] theorem State.parkAt_core (s : State) (code : BitVec 16) (lanes : Mask) (pc addr : BitVec 64) : (s.parkAt code lanes pc addr).core = s.core := rfl
@[simp] theorem State.parkAt_ctx (s : State) (code : BitVec 16) (lanes : Mask) (pc addr : BitVec 64) : (s.parkAt code lanes pc addr).ctx = s.ctx := rfl
@[simp] theorem State.parkAt_launch (s : State) (code : BitVec 16) (lanes : Mask) (pc addr : BitVec 64) : (s.parkAt code lanes pc addr).launch = s.launch := rfl
@[simp] theorem State.parkAt_warps (s : State) (code : BitVec 16) (lanes : Mask) (pc addr : BitVec 64) : (s.parkAt code lanes pc addr).warps = s.warps := rfl
@[simp] theorem State.parkAt_teams (s : State) (code : BitVec 16) (lanes : Mask) (pc addr : BitVec 64) : (s.parkAt code lanes pc addr).teams = s.teams := rfl
@[simp] theorem State.parkAt_cores (s : State) (code : BitVec 16) (lanes : Mask) (pc addr : BitVec 64) : (s.parkAt code lanes pc addr).cores = s.cores := rfl
@[simp] theorem State.parkAt_ctxs (s : State) (code : BitVec 16) (lanes : Mask) (pc addr : BitVec 64) : (s.parkAt code lanes pc addr).ctxs = s.ctxs := rfl
@[simp] theorem State.parkAt_launches (s : State) (code : BitVec 16) (lanes : Mask) (pc addr : BitVec 64) : (s.parkAt code lanes pc addr).launches = s.launches := rfl
@[simp] theorem State.parkAt_dies (s : State) (code : BitVec 16) (lanes : Mask) (pc addr : BitVec 64) : (s.parkAt code lanes pc addr).dies = s.dies := rfl
@[simp] theorem State.parkAt_pkg (s : State) (code : BitVec 16) (lanes : Mask) (pc addr : BitVec 64) : (s.parkAt code lanes pc addr).pkg = s.pkg := rfl
@[simp] theorem State.parkAt_mem (s : State) (code : BitVec 16) (lanes : Mask) (pc addr : BitVec 64) : (s.parkAt code lanes pc addr).mem = s.mem := rfl
@[simp] theorem State.parkAt_home (s : State) (code : BitVec 16) (lanes : Mask) (pc addr : BitVec 64) : (s.parkAt code lanes pc addr).home = s.home := rfl
@[simp] theorem State.parkAt_evicted (s : State) (code : BitVec 16) (lanes : Mask) (pc addr : BitVec 64) : (s.parkAt code lanes pc addr).evicted = s.evicted := rfl
@[simp] theorem State.parkAt_poison (s : State) (code : BitVec 16) (lanes : Mask) (pc addr : BitVec 64) : (s.parkAt code lanes pc addr).poison = s.poison := rfl
@[simp] theorem State.parkAt_contributions (s : State) (code : BitVec 16) (lanes : Mask) (pc addr : BitVec 64) : (s.parkAt code lanes pc addr).contributions = s.contributions := rfl
@[simp] theorem State.parkAt_switchEntries (s : State) (code : BitVec 16) (lanes : Mask) (pc addr : BitVec 64) : (s.parkAt code lanes pc addr).switchEntries = s.switchEntries := rfl
@[simp] theorem State.parkAt_deliveries (s : State) (code : BitVec 16) (lanes : Mask) (pc addr : BitVec 64) : (s.parkAt code lanes pc addr).deliveries = s.deliveries := rfl
@[simp] theorem State.parkAt_gtc (s : State) (code : BitVec 16) (lanes : Mask) (pc addr : BitVec 64) : (s.parkAt code lanes pc addr).gtc = s.gtc := rfl
@[simp] theorem State.parkAt_free (s : State) (code : BitVec 16) (lanes : Mask) (pc addr : BitVec 64) : (s.parkAt code lanes pc addr).free = s.free := rfl
@[simp] theorem State.parkAt_nextId (s : State) (code : BitVec 16) (lanes : Mask) (pc addr : BitVec 64) : (s.parkAt code lanes pc addr).nextId = s.nextId := rfl
@[simp] theorem State.parkAt_turns (s : State) (code : BitVec 16) (lanes : Mask) (pc addr : BitVec 64) : (s.parkAt code lanes pc addr).turns = s.turns := rfl

@[simp] theorem State.parkDouble_agenda (s : State) (code : BitVec 16) (lanes : Mask) (pc : BitVec 64) : (s.parkDouble code lanes pc).agenda = s.agenda := rfl
@[simp] theorem State.parkDouble_team (s : State) (code : BitVec 16) (lanes : Mask) (pc : BitVec 64) : (s.parkDouble code lanes pc).team = s.team := rfl
@[simp] theorem State.parkDouble_core (s : State) (code : BitVec 16) (lanes : Mask) (pc : BitVec 64) : (s.parkDouble code lanes pc).core = s.core := rfl
@[simp] theorem State.parkDouble_ctx (s : State) (code : BitVec 16) (lanes : Mask) (pc : BitVec 64) : (s.parkDouble code lanes pc).ctx = s.ctx := rfl
@[simp] theorem State.parkDouble_launch (s : State) (code : BitVec 16) (lanes : Mask) (pc : BitVec 64) : (s.parkDouble code lanes pc).launch = s.launch := rfl
@[simp] theorem State.parkDouble_warps (s : State) (code : BitVec 16) (lanes : Mask) (pc : BitVec 64) : (s.parkDouble code lanes pc).warps = s.warps := rfl
@[simp] theorem State.parkDouble_teams (s : State) (code : BitVec 16) (lanes : Mask) (pc : BitVec 64) : (s.parkDouble code lanes pc).teams = s.teams := rfl
@[simp] theorem State.parkDouble_cores (s : State) (code : BitVec 16) (lanes : Mask) (pc : BitVec 64) : (s.parkDouble code lanes pc).cores = s.cores := rfl
@[simp] theorem State.parkDouble_ctxs (s : State) (code : BitVec 16) (lanes : Mask) (pc : BitVec 64) : (s.parkDouble code lanes pc).ctxs = s.ctxs := rfl
@[simp] theorem State.parkDouble_launches (s : State) (code : BitVec 16) (lanes : Mask) (pc : BitVec 64) : (s.parkDouble code lanes pc).launches = s.launches := rfl
@[simp] theorem State.parkDouble_dies (s : State) (code : BitVec 16) (lanes : Mask) (pc : BitVec 64) : (s.parkDouble code lanes pc).dies = s.dies := rfl
@[simp] theorem State.parkDouble_pkg (s : State) (code : BitVec 16) (lanes : Mask) (pc : BitVec 64) : (s.parkDouble code lanes pc).pkg = s.pkg := rfl
@[simp] theorem State.parkDouble_mem (s : State) (code : BitVec 16) (lanes : Mask) (pc : BitVec 64) : (s.parkDouble code lanes pc).mem = s.mem := rfl
@[simp] theorem State.parkDouble_home (s : State) (code : BitVec 16) (lanes : Mask) (pc : BitVec 64) : (s.parkDouble code lanes pc).home = s.home := rfl
@[simp] theorem State.parkDouble_evicted (s : State) (code : BitVec 16) (lanes : Mask) (pc : BitVec 64) : (s.parkDouble code lanes pc).evicted = s.evicted := rfl
@[simp] theorem State.parkDouble_poison (s : State) (code : BitVec 16) (lanes : Mask) (pc : BitVec 64) : (s.parkDouble code lanes pc).poison = s.poison := rfl
@[simp] theorem State.parkDouble_contributions (s : State) (code : BitVec 16) (lanes : Mask) (pc : BitVec 64) : (s.parkDouble code lanes pc).contributions = s.contributions := rfl
@[simp] theorem State.parkDouble_switchEntries (s : State) (code : BitVec 16) (lanes : Mask) (pc : BitVec 64) : (s.parkDouble code lanes pc).switchEntries = s.switchEntries := rfl
@[simp] theorem State.parkDouble_deliveries (s : State) (code : BitVec 16) (lanes : Mask) (pc : BitVec 64) : (s.parkDouble code lanes pc).deliveries = s.deliveries := rfl
@[simp] theorem State.parkDouble_gtc (s : State) (code : BitVec 16) (lanes : Mask) (pc : BitVec 64) : (s.parkDouble code lanes pc).gtc = s.gtc := rfl
@[simp] theorem State.parkDouble_free (s : State) (code : BitVec 16) (lanes : Mask) (pc : BitVec 64) : (s.parkDouble code lanes pc).free = s.free := rfl
@[simp] theorem State.parkDouble_nextId (s : State) (code : BitVec 16) (lanes : Mask) (pc : BitVec 64) : (s.parkDouble code lanes pc).nextId = s.nextId := rfl
@[simp] theorem State.parkDouble_turns (s : State) (code : BitVec 16) (lanes : Mask) (pc : BitVec 64) : (s.parkDouble code lanes pc).turns = s.turns := rfl

@[simp] theorem State.prelude_agenda (s : State) : (s.prelude).agenda = s.agenda := rfl
@[simp] theorem State.prelude_team (s : State) : (s.prelude).team = s.team := rfl
@[simp] theorem State.prelude_core (s : State) : (s.prelude).core = s.core := rfl
@[simp] theorem State.prelude_ctx (s : State) : (s.prelude).ctx = s.ctx := rfl
@[simp] theorem State.prelude_launch (s : State) : (s.prelude).launch = s.launch := rfl
@[simp] theorem State.prelude_warps (s : State) : (s.prelude).warps = s.warps := rfl
@[simp] theorem State.prelude_teams (s : State) : (s.prelude).teams = s.teams := rfl
@[simp] theorem State.prelude_cores (s : State) : (s.prelude).cores = s.cores := rfl
@[simp] theorem State.prelude_ctxs (s : State) : (s.prelude).ctxs = s.ctxs := rfl
@[simp] theorem State.prelude_launches (s : State) : (s.prelude).launches = s.launches := rfl
@[simp] theorem State.prelude_dies (s : State) : (s.prelude).dies = s.dies := rfl
@[simp] theorem State.prelude_pkg (s : State) : (s.prelude).pkg = s.pkg := rfl
@[simp] theorem State.prelude_mem (s : State) : (s.prelude).mem = s.mem := rfl
@[simp] theorem State.prelude_home (s : State) : (s.prelude).home = s.home := rfl
@[simp] theorem State.prelude_evicted (s : State) : (s.prelude).evicted = s.evicted := rfl
@[simp] theorem State.prelude_poison (s : State) : (s.prelude).poison = s.poison := rfl
@[simp] theorem State.prelude_contributions (s : State) : (s.prelude).contributions = s.contributions := rfl
@[simp] theorem State.prelude_switchEntries (s : State) : (s.prelude).switchEntries = s.switchEntries := rfl
@[simp] theorem State.prelude_deliveries (s : State) : (s.prelude).deliveries = s.deliveries := rfl
@[simp] theorem State.prelude_gtc (s : State) : (s.prelude).gtc = s.gtc := rfl
@[simp] theorem State.prelude_free (s : State) : (s.prelude).free = s.free := rfl
@[simp] theorem State.prelude_nextId (s : State) : (s.prelude).nextId = s.nextId := rfl
@[simp] theorem State.prelude_turns (s : State) : (s.prelude).turns = s.turns := rfl

@[simp] theorem State.holdAs_agenda (s : State) (h : Hold) : (s.holdAs h).agenda = s.agenda := rfl
@[simp] theorem State.holdAs_team (s : State) (h : Hold) : (s.holdAs h).team = s.team := rfl
@[simp] theorem State.holdAs_core (s : State) (h : Hold) : (s.holdAs h).core = s.core := rfl
@[simp] theorem State.holdAs_ctx (s : State) (h : Hold) : (s.holdAs h).ctx = s.ctx := rfl
@[simp] theorem State.holdAs_launch (s : State) (h : Hold) : (s.holdAs h).launch = s.launch := rfl
@[simp] theorem State.holdAs_warps (s : State) (h : Hold) : (s.holdAs h).warps = s.warps := rfl
@[simp] theorem State.holdAs_teams (s : State) (h : Hold) : (s.holdAs h).teams = s.teams := rfl
@[simp] theorem State.holdAs_cores (s : State) (h : Hold) : (s.holdAs h).cores = s.cores := rfl
@[simp] theorem State.holdAs_ctxs (s : State) (h : Hold) : (s.holdAs h).ctxs = s.ctxs := rfl
@[simp] theorem State.holdAs_launches (s : State) (h : Hold) : (s.holdAs h).launches = s.launches := rfl
@[simp] theorem State.holdAs_dies (s : State) (h : Hold) : (s.holdAs h).dies = s.dies := rfl
@[simp] theorem State.holdAs_pkg (s : State) (h : Hold) : (s.holdAs h).pkg = s.pkg := rfl
@[simp] theorem State.holdAs_mem (s : State) (h : Hold) : (s.holdAs h).mem = s.mem := rfl
@[simp] theorem State.holdAs_home (s : State) (h : Hold) : (s.holdAs h).home = s.home := rfl
@[simp] theorem State.holdAs_evicted (s : State) (h : Hold) : (s.holdAs h).evicted = s.evicted := rfl
@[simp] theorem State.holdAs_poison (s : State) (h : Hold) : (s.holdAs h).poison = s.poison := rfl
@[simp] theorem State.holdAs_contributions (s : State) (h : Hold) : (s.holdAs h).contributions = s.contributions := rfl
@[simp] theorem State.holdAs_switchEntries (s : State) (h : Hold) : (s.holdAs h).switchEntries = s.switchEntries := rfl
@[simp] theorem State.holdAs_deliveries (s : State) (h : Hold) : (s.holdAs h).deliveries = s.deliveries := rfl
@[simp] theorem State.holdAs_gtc (s : State) (h : Hold) : (s.holdAs h).gtc = s.gtc := rfl
@[simp] theorem State.holdAs_free (s : State) (h : Hold) : (s.holdAs h).free = s.free := rfl
@[simp] theorem State.holdAs_nextId (s : State) (h : Hold) : (s.holdAs h).nextId = s.nextId := rfl
@[simp] theorem State.holdAs_turns (s : State) (h : Hold) : (s.holdAs h).turns = s.turns := rfl

@[simp] theorem State.status_agenda (s : State) (d : SOp) (x : Word) : (s.status d x).agenda = s.agenda := rfl
@[simp] theorem State.status_team (s : State) (d : SOp) (x : Word) : (s.status d x).team = s.team := rfl
@[simp] theorem State.status_core (s : State) (d : SOp) (x : Word) : (s.status d x).core = s.core := rfl
@[simp] theorem State.status_ctx (s : State) (d : SOp) (x : Word) : (s.status d x).ctx = s.ctx := rfl
@[simp] theorem State.status_launch (s : State) (d : SOp) (x : Word) : (s.status d x).launch = s.launch := rfl
@[simp] theorem State.status_warps (s : State) (d : SOp) (x : Word) : (s.status d x).warps = s.warps := rfl
@[simp] theorem State.status_teams (s : State) (d : SOp) (x : Word) : (s.status d x).teams = s.teams := rfl
@[simp] theorem State.status_cores (s : State) (d : SOp) (x : Word) : (s.status d x).cores = s.cores := rfl
@[simp] theorem State.status_ctxs (s : State) (d : SOp) (x : Word) : (s.status d x).ctxs = s.ctxs := rfl
@[simp] theorem State.status_launches (s : State) (d : SOp) (x : Word) : (s.status d x).launches = s.launches := rfl
@[simp] theorem State.status_dies (s : State) (d : SOp) (x : Word) : (s.status d x).dies = s.dies := rfl
@[simp] theorem State.status_pkg (s : State) (d : SOp) (x : Word) : (s.status d x).pkg = s.pkg := rfl
@[simp] theorem State.status_mem (s : State) (d : SOp) (x : Word) : (s.status d x).mem = s.mem := rfl
@[simp] theorem State.status_home (s : State) (d : SOp) (x : Word) : (s.status d x).home = s.home := rfl
@[simp] theorem State.status_evicted (s : State) (d : SOp) (x : Word) : (s.status d x).evicted = s.evicted := rfl
@[simp] theorem State.status_poison (s : State) (d : SOp) (x : Word) : (s.status d x).poison = s.poison := rfl
@[simp] theorem State.status_contributions (s : State) (d : SOp) (x : Word) : (s.status d x).contributions = s.contributions := rfl
@[simp] theorem State.status_switchEntries (s : State) (d : SOp) (x : Word) : (s.status d x).switchEntries = s.switchEntries := rfl
@[simp] theorem State.status_deliveries (s : State) (d : SOp) (x : Word) : (s.status d x).deliveries = s.deliveries := rfl
@[simp] theorem State.status_gtc (s : State) (d : SOp) (x : Word) : (s.status d x).gtc = s.gtc := rfl
@[simp] theorem State.status_free (s : State) (d : SOp) (x : Word) : (s.status d x).free = s.free := rfl
@[simp] theorem State.status_turns (s : State) (d : SOp) (x : Word) : (s.status d x).turns = s.turns := rfl

@[simp] theorem State.pass_agenda (s : State) (ns : Nat) : (s.pass ns).agenda = s.agenda := rfl
@[simp] theorem State.pass_team (s : State) (ns : Nat) : (s.pass ns).team = s.team := rfl
@[simp] theorem State.pass_core (s : State) (ns : Nat) : (s.pass ns).core = s.core := rfl
@[simp] theorem State.pass_ctx (s : State) (ns : Nat) : (s.pass ns).ctx = s.ctx := rfl
@[simp] theorem State.pass_launch (s : State) (ns : Nat) : (s.pass ns).launch = s.launch := rfl
@[simp] theorem State.pass_teams (s : State) (ns : Nat) : (s.pass ns).teams = s.teams := rfl
@[simp] theorem State.pass_cores (s : State) (ns : Nat) : (s.pass ns).cores = s.cores := rfl
@[simp] theorem State.pass_ctxs (s : State) (ns : Nat) : (s.pass ns).ctxs = s.ctxs := rfl
@[simp] theorem State.pass_launches (s : State) (ns : Nat) : (s.pass ns).launches = s.launches := rfl
@[simp] theorem State.pass_dies (s : State) (ns : Nat) : (s.pass ns).dies = s.dies := rfl
@[simp] theorem State.pass_pkg (s : State) (ns : Nat) : (s.pass ns).pkg = s.pkg := rfl
@[simp] theorem State.pass_mem (s : State) (ns : Nat) : (s.pass ns).mem = s.mem := rfl
@[simp] theorem State.pass_home (s : State) (ns : Nat) : (s.pass ns).home = s.home := rfl
@[simp] theorem State.pass_evicted (s : State) (ns : Nat) : (s.pass ns).evicted = s.evicted := rfl
@[simp] theorem State.pass_poison (s : State) (ns : Nat) : (s.pass ns).poison = s.poison := rfl
@[simp] theorem State.pass_contributions (s : State) (ns : Nat) : (s.pass ns).contributions = s.contributions := rfl
@[simp] theorem State.pass_switchEntries (s : State) (ns : Nat) : (s.pass ns).switchEntries = s.switchEntries := rfl
@[simp] theorem State.pass_deliveries (s : State) (ns : Nat) : (s.pass ns).deliveries = s.deliveries := rfl
@[simp] theorem State.pass_free (s : State) (ns : Nat) : (s.pass ns).free = s.free := rfl
@[simp] theorem State.pass_nextId (s : State) (ns : Nat) : (s.pass ns).nextId = s.nextId := rfl
@[simp] theorem State.pass_turns (s : State) (ns : Nat) : (s.pass ns).turns = s.turns := rfl

@[simp] theorem State.counted_agenda (s : State) : (s.counted).agenda = s.agenda := rfl
@[simp] theorem State.counted_warp (s : State) : (s.counted).warp = s.warp := rfl
@[simp] theorem State.counted_team (s : State) : (s.counted).team = s.team := rfl
@[simp] theorem State.counted_core (s : State) : (s.counted).core = s.core := rfl
@[simp] theorem State.counted_ctx (s : State) : (s.counted).ctx = s.ctx := rfl
@[simp] theorem State.counted_launch (s : State) : (s.counted).launch = s.launch := rfl
@[simp] theorem State.counted_warps (s : State) : (s.counted).warps = s.warps := rfl
@[simp] theorem State.counted_teams (s : State) : (s.counted).teams = s.teams := rfl
@[simp] theorem State.counted_cores (s : State) : (s.counted).cores = s.cores := rfl
@[simp] theorem State.counted_ctxs (s : State) : (s.counted).ctxs = s.ctxs := rfl
@[simp] theorem State.counted_launches (s : State) : (s.counted).launches = s.launches := rfl
@[simp] theorem State.counted_dies (s : State) : (s.counted).dies = s.dies := rfl
@[simp] theorem State.counted_pkg (s : State) : (s.counted).pkg = s.pkg := rfl
@[simp] theorem State.counted_mem (s : State) : (s.counted).mem = s.mem := rfl
@[simp] theorem State.counted_home (s : State) : (s.counted).home = s.home := rfl
@[simp] theorem State.counted_evicted (s : State) : (s.counted).evicted = s.evicted := rfl
@[simp] theorem State.counted_poison (s : State) : (s.counted).poison = s.poison := rfl
@[simp] theorem State.counted_contributions (s : State) : (s.counted).contributions = s.contributions := rfl
@[simp] theorem State.counted_switchEntries (s : State) : (s.counted).switchEntries = s.switchEntries := rfl
@[simp] theorem State.counted_deliveries (s : State) : (s.counted).deliveries = s.deliveries := rfl
@[simp] theorem State.counted_gtc (s : State) : (s.counted).gtc = s.gtc := rfl
@[simp] theorem State.counted_free (s : State) : (s.counted).free = s.free := rfl
@[simp] theorem State.counted_nextId (s : State) : (s.counted).nextId = s.nextId := rfl

@[simp] theorem State.storeWord_agenda (s : State) (pa nbits w : Nat) : (s.storeWord pa nbits w).agenda = s.agenda := rfl
@[simp] theorem State.storeWord_warp (s : State) (pa nbits w : Nat) : (s.storeWord pa nbits w).warp = s.warp := rfl
@[simp] theorem State.storeWord_team (s : State) (pa nbits w : Nat) : (s.storeWord pa nbits w).team = s.team := rfl
@[simp] theorem State.storeWord_core (s : State) (pa nbits w : Nat) : (s.storeWord pa nbits w).core = s.core := rfl
@[simp] theorem State.storeWord_ctx (s : State) (pa nbits w : Nat) : (s.storeWord pa nbits w).ctx = s.ctx := rfl
@[simp] theorem State.storeWord_warps (s : State) (pa nbits w : Nat) : (s.storeWord pa nbits w).warps = s.warps := rfl
@[simp] theorem State.storeWord_teams (s : State) (pa nbits w : Nat) : (s.storeWord pa nbits w).teams = s.teams := rfl
@[simp] theorem State.storeWord_cores (s : State) (pa nbits w : Nat) : (s.storeWord pa nbits w).cores = s.cores := rfl
@[simp] theorem State.storeWord_ctxs (s : State) (pa nbits w : Nat) : (s.storeWord pa nbits w).ctxs = s.ctxs := rfl
@[simp] theorem State.storeWord_launches (s : State) (pa nbits w : Nat) : (s.storeWord pa nbits w).launches = s.launches := rfl
@[simp] theorem State.storeWord_dies (s : State) (pa nbits w : Nat) : (s.storeWord pa nbits w).dies = s.dies := rfl
@[simp] theorem State.storeWord_pkg (s : State) (pa nbits w : Nat) : (s.storeWord pa nbits w).pkg = s.pkg := rfl
@[simp] theorem State.storeWord_home (s : State) (pa nbits w : Nat) : (s.storeWord pa nbits w).home = s.home := rfl
@[simp] theorem State.storeWord_evicted (s : State) (pa nbits w : Nat) : (s.storeWord pa nbits w).evicted = s.evicted := rfl
@[simp] theorem State.storeWord_poison (s : State) (pa nbits w : Nat) : (s.storeWord pa nbits w).poison = s.poison := rfl
@[simp] theorem State.storeWord_contributions (s : State) (pa nbits w : Nat) : (s.storeWord pa nbits w).contributions = s.contributions := rfl
@[simp] theorem State.storeWord_switchEntries (s : State) (pa nbits w : Nat) : (s.storeWord pa nbits w).switchEntries = s.switchEntries := rfl
@[simp] theorem State.storeWord_deliveries (s : State) (pa nbits w : Nat) : (s.storeWord pa nbits w).deliveries = s.deliveries := rfl
@[simp] theorem State.storeWord_gtc (s : State) (pa nbits w : Nat) : (s.storeWord pa nbits w).gtc = s.gtc := rfl
@[simp] theorem State.storeWord_free (s : State) (pa nbits w : Nat) : (s.storeWord pa nbits w).free = s.free := rfl
@[simp] theorem State.storeWord_nextId (s : State) (pa nbits w : Nat) : (s.storeWord pa nbits w).nextId = s.nextId := rfl
@[simp] theorem State.storeWord_turns (s : State) (pa nbits w : Nat) : (s.storeWord pa nbits w).turns = s.turns := rfl

end Sys2Proof.Machine
end

