-- ==== Sys2Proof/Laws/Ops.lean ====
section
/-! SUPPORT. What the shared operations of issue can do: window entry, the checks of Table 6-6, issue, and exception entry. -/

namespace Sys2Proof.Machine

/-! ## Folds -/

/-- What each step of a fold keeps, the fold keeps. -/
theorem State.foldl_keeps {α β : Type} (p : State → β) (f : State → α → State) (h : ∀ s a, p (f s a) = p s) (l : List α) (s : State) :
    p (l.foldl f s) = p s := by
  induction l generalizing s with
  | nil => rfl
  | cons a l ih => rw [List.foldl_cons, ih, h]

/-- A field that late writes keep, an entry of the window keeps. -/
theorem State.enter_keeps {β : Type} (p : State → β) (e : WinEntry) (s : State) (hl : ∀ s l, p (State.lateWrite s l) = p s)
    (hw : ∀ (s : State) w, p { s with warp := w } = p s) (hn : ∀ (s : State) n, p { s with nextId := n } = p s) : p (s.enter e) = p s := by
  have hwn : ∀ (s : State) w n, p { s with warp := w, nextId := n } = p s := fun s w n => (hn { s with warp := w } n).trans (hw s w)
  unfold State.enter
  simp only [hwn]
  split
  · rw [State.foldl_keeps p _ hl, hw]
  · rfl

theorem State.deadRead_keeps {β : Type} (p : State → β) (x : Src) (s : State) (hw : ∀ (s : State) w, p { s with warp := w } = p s) :
    p (s.deadRead x) = p s := by
  unfold State.deadRead
  split
  · refine State.foldl_keeps p _ ?_ _ s
    intro s a
    cases a <;> simp [hw]
  · rfl

/-- A field that no warp holds and no late write reaches, an issue's operands and result keep. -/
theorem State.settle_keeps {β : Type} (p : State → β) (xs : List Src) (e : WinEntry) (s : State)
    (hl : ∀ s l, p (State.lateWrite s l) = p s) (hw : ∀ (s : State) w, p { s with warp := w } = p s)
    (hn : ∀ (s : State) n, p { s with nextId := n } = p s) : p (s.settle xs e) = p s := by
  unfold State.settle
  rw [State.enter_keeps p e _ hl hw hn, State.foldl_keeps p _ (fun s a => State.deadRead_keeps p a s hw)]

/-! ## What an entry of the window, a dead read and a settled instruction leave as they were -/

@[simp] theorem State.enter_agenda (s : State) (e : WinEntry) : (s.enter e).agenda = s.agenda :=
  State.enter_keeps (·.agenda) e s (by simp) (fun _ _ => rfl) fun _ _ => rfl
@[simp] theorem State.enter_core (s : State) (e : WinEntry) : (s.enter e).core = s.core :=
  State.enter_keeps (·.core) e s (by simp) (fun _ _ => rfl) fun _ _ => rfl
@[simp] theorem State.enter_ctx (s : State) (e : WinEntry) : (s.enter e).ctx = s.ctx :=
  State.enter_keeps (·.ctx) e s (by simp) (fun _ _ => rfl) fun _ _ => rfl
@[simp] theorem State.enter_launch (s : State) (e : WinEntry) : (s.enter e).launch = s.launch :=
  State.enter_keeps (·.launch) e s (by simp) (fun _ _ => rfl) fun _ _ => rfl
@[simp] theorem State.enter_warps (s : State) (e : WinEntry) : (s.enter e).warps = s.warps :=
  State.enter_keeps (·.warps) e s (by simp) (fun _ _ => rfl) fun _ _ => rfl
@[simp] theorem State.enter_teams (s : State) (e : WinEntry) : (s.enter e).teams = s.teams :=
  State.enter_keeps (·.teams) e s (by simp) (fun _ _ => rfl) fun _ _ => rfl
@[simp] theorem State.enter_cores (s : State) (e : WinEntry) : (s.enter e).cores = s.cores :=
  State.enter_keeps (·.cores) e s (by simp) (fun _ _ => rfl) fun _ _ => rfl
@[simp] theorem State.enter_ctxs (s : State) (e : WinEntry) : (s.enter e).ctxs = s.ctxs :=
  State.enter_keeps (·.ctxs) e s (by simp) (fun _ _ => rfl) fun _ _ => rfl
@[simp] theorem State.enter_launches (s : State) (e : WinEntry) : (s.enter e).launches = s.launches :=
  State.enter_keeps (·.launches) e s (by simp) (fun _ _ => rfl) fun _ _ => rfl
@[simp] theorem State.enter_dies (s : State) (e : WinEntry) : (s.enter e).dies = s.dies :=
  State.enter_keeps (·.dies) e s (by simp) (fun _ _ => rfl) fun _ _ => rfl
@[simp] theorem State.enter_pkg (s : State) (e : WinEntry) : (s.enter e).pkg = s.pkg :=
  State.enter_keeps (·.pkg) e s (by simp) (fun _ _ => rfl) fun _ _ => rfl
@[simp] theorem State.enter_mem (s : State) (e : WinEntry) : (s.enter e).mem = s.mem :=
  State.enter_keeps (·.mem) e s (by simp) (fun _ _ => rfl) fun _ _ => rfl
@[simp] theorem State.enter_home (s : State) (e : WinEntry) : (s.enter e).home = s.home :=
  State.enter_keeps (·.home) e s (by simp) (fun _ _ => rfl) fun _ _ => rfl
@[simp] theorem State.enter_evicted (s : State) (e : WinEntry) : (s.enter e).evicted = s.evicted :=
  State.enter_keeps (·.evicted) e s (by simp) (fun _ _ => rfl) fun _ _ => rfl
@[simp] theorem State.enter_poison (s : State) (e : WinEntry) : (s.enter e).poison = s.poison :=
  State.enter_keeps (·.poison) e s (by simp) (fun _ _ => rfl) fun _ _ => rfl
@[simp] theorem State.enter_contributions (s : State) (e : WinEntry) : (s.enter e).contributions = s.contributions :=
  State.enter_keeps (·.contributions) e s (by simp) (fun _ _ => rfl) fun _ _ => rfl
@[simp] theorem State.enter_switchEntries (s : State) (e : WinEntry) : (s.enter e).switchEntries = s.switchEntries :=
  State.enter_keeps (·.switchEntries) e s (by simp) (fun _ _ => rfl) fun _ _ => rfl
@[simp] theorem State.enter_deliveries (s : State) (e : WinEntry) : (s.enter e).deliveries = s.deliveries :=
  State.enter_keeps (·.deliveries) e s (by simp) (fun _ _ => rfl) fun _ _ => rfl
@[simp] theorem State.enter_gtc (s : State) (e : WinEntry) : (s.enter e).gtc = s.gtc :=
  State.enter_keeps (·.gtc) e s (by simp) (fun _ _ => rfl) fun _ _ => rfl
@[simp] theorem State.enter_free (s : State) (e : WinEntry) : (s.enter e).free = s.free :=
  State.enter_keeps (·.free) e s (by simp) (fun _ _ => rfl) fun _ _ => rfl
@[simp] theorem State.enter_turns (s : State) (e : WinEntry) : (s.enter e).turns = s.turns :=
  State.enter_keeps (·.turns) e s (by simp) (fun _ _ => rfl) fun _ _ => rfl

@[simp] theorem State.deadRead_agenda (s : State) (x : Src) : (s.deadRead x).agenda = s.agenda :=
  State.deadRead_keeps (·.agenda) x s fun _ _ => rfl
@[simp] theorem State.deadRead_core (s : State) (x : Src) : (s.deadRead x).core = s.core :=
  State.deadRead_keeps (·.core) x s fun _ _ => rfl
@[simp] theorem State.deadRead_ctx (s : State) (x : Src) : (s.deadRead x).ctx = s.ctx :=
  State.deadRead_keeps (·.ctx) x s fun _ _ => rfl
@[simp] theorem State.deadRead_launch (s : State) (x : Src) : (s.deadRead x).launch = s.launch :=
  State.deadRead_keeps (·.launch) x s fun _ _ => rfl
@[simp] theorem State.deadRead_warps (s : State) (x : Src) : (s.deadRead x).warps = s.warps :=
  State.deadRead_keeps (·.warps) x s fun _ _ => rfl
@[simp] theorem State.deadRead_teams (s : State) (x : Src) : (s.deadRead x).teams = s.teams :=
  State.deadRead_keeps (·.teams) x s fun _ _ => rfl
@[simp] theorem State.deadRead_cores (s : State) (x : Src) : (s.deadRead x).cores = s.cores :=
  State.deadRead_keeps (·.cores) x s fun _ _ => rfl
@[simp] theorem State.deadRead_ctxs (s : State) (x : Src) : (s.deadRead x).ctxs = s.ctxs :=
  State.deadRead_keeps (·.ctxs) x s fun _ _ => rfl
@[simp] theorem State.deadRead_launches (s : State) (x : Src) : (s.deadRead x).launches = s.launches :=
  State.deadRead_keeps (·.launches) x s fun _ _ => rfl
@[simp] theorem State.deadRead_dies (s : State) (x : Src) : (s.deadRead x).dies = s.dies :=
  State.deadRead_keeps (·.dies) x s fun _ _ => rfl
@[simp] theorem State.deadRead_pkg (s : State) (x : Src) : (s.deadRead x).pkg = s.pkg :=
  State.deadRead_keeps (·.pkg) x s fun _ _ => rfl
@[simp] theorem State.deadRead_mem (s : State) (x : Src) : (s.deadRead x).mem = s.mem :=
  State.deadRead_keeps (·.mem) x s fun _ _ => rfl
@[simp] theorem State.deadRead_home (s : State) (x : Src) : (s.deadRead x).home = s.home :=
  State.deadRead_keeps (·.home) x s fun _ _ => rfl
@[simp] theorem State.deadRead_evicted (s : State) (x : Src) : (s.deadRead x).evicted = s.evicted :=
  State.deadRead_keeps (·.evicted) x s fun _ _ => rfl
@[simp] theorem State.deadRead_poison (s : State) (x : Src) : (s.deadRead x).poison = s.poison :=
  State.deadRead_keeps (·.poison) x s fun _ _ => rfl
@[simp] theorem State.deadRead_contributions (s : State) (x : Src) : (s.deadRead x).contributions = s.contributions :=
  State.deadRead_keeps (·.contributions) x s fun _ _ => rfl
@[simp] theorem State.deadRead_switchEntries (s : State) (x : Src) : (s.deadRead x).switchEntries = s.switchEntries :=
  State.deadRead_keeps (·.switchEntries) x s fun _ _ => rfl
@[simp] theorem State.deadRead_deliveries (s : State) (x : Src) : (s.deadRead x).deliveries = s.deliveries :=
  State.deadRead_keeps (·.deliveries) x s fun _ _ => rfl
@[simp] theorem State.deadRead_gtc (s : State) (x : Src) : (s.deadRead x).gtc = s.gtc :=
  State.deadRead_keeps (·.gtc) x s fun _ _ => rfl
@[simp] theorem State.deadRead_free (s : State) (x : Src) : (s.deadRead x).free = s.free :=
  State.deadRead_keeps (·.free) x s fun _ _ => rfl
@[simp] theorem State.deadRead_turns (s : State) (x : Src) : (s.deadRead x).turns = s.turns :=
  State.deadRead_keeps (·.turns) x s fun _ _ => rfl
@[simp] theorem State.deadRead_team (s : State) (x : Src) : (s.deadRead x).team = s.team :=
  State.deadRead_keeps (·.team) x s fun _ _ => rfl
@[simp] theorem State.deadRead_nextId (s : State) (x : Src) : (s.deadRead x).nextId = s.nextId :=
  State.deadRead_keeps (·.nextId) x s fun _ _ => rfl

@[simp] theorem State.settle_agenda (s : State) (xs : List Src) (e : WinEntry) : (s.settle xs e).agenda = s.agenda :=
  State.settle_keeps (·.agenda) xs e s (by simp) (fun _ _ => rfl) fun _ _ => rfl
@[simp] theorem State.settle_core (s : State) (xs : List Src) (e : WinEntry) : (s.settle xs e).core = s.core :=
  State.settle_keeps (·.core) xs e s (by simp) (fun _ _ => rfl) fun _ _ => rfl
@[simp] theorem State.settle_ctx (s : State) (xs : List Src) (e : WinEntry) : (s.settle xs e).ctx = s.ctx :=
  State.settle_keeps (·.ctx) xs e s (by simp) (fun _ _ => rfl) fun _ _ => rfl
@[simp] theorem State.settle_launch (s : State) (xs : List Src) (e : WinEntry) : (s.settle xs e).launch = s.launch :=
  State.settle_keeps (·.launch) xs e s (by simp) (fun _ _ => rfl) fun _ _ => rfl
@[simp] theorem State.settle_warps (s : State) (xs : List Src) (e : WinEntry) : (s.settle xs e).warps = s.warps :=
  State.settle_keeps (·.warps) xs e s (by simp) (fun _ _ => rfl) fun _ _ => rfl
@[simp] theorem State.settle_teams (s : State) (xs : List Src) (e : WinEntry) : (s.settle xs e).teams = s.teams :=
  State.settle_keeps (·.teams) xs e s (by simp) (fun _ _ => rfl) fun _ _ => rfl
@[simp] theorem State.settle_cores (s : State) (xs : List Src) (e : WinEntry) : (s.settle xs e).cores = s.cores :=
  State.settle_keeps (·.cores) xs e s (by simp) (fun _ _ => rfl) fun _ _ => rfl
@[simp] theorem State.settle_ctxs (s : State) (xs : List Src) (e : WinEntry) : (s.settle xs e).ctxs = s.ctxs :=
  State.settle_keeps (·.ctxs) xs e s (by simp) (fun _ _ => rfl) fun _ _ => rfl
@[simp] theorem State.settle_launches (s : State) (xs : List Src) (e : WinEntry) : (s.settle xs e).launches = s.launches :=
  State.settle_keeps (·.launches) xs e s (by simp) (fun _ _ => rfl) fun _ _ => rfl
@[simp] theorem State.settle_dies (s : State) (xs : List Src) (e : WinEntry) : (s.settle xs e).dies = s.dies :=
  State.settle_keeps (·.dies) xs e s (by simp) (fun _ _ => rfl) fun _ _ => rfl
@[simp] theorem State.settle_pkg (s : State) (xs : List Src) (e : WinEntry) : (s.settle xs e).pkg = s.pkg :=
  State.settle_keeps (·.pkg) xs e s (by simp) (fun _ _ => rfl) fun _ _ => rfl
@[simp] theorem State.settle_mem (s : State) (xs : List Src) (e : WinEntry) : (s.settle xs e).mem = s.mem :=
  State.settle_keeps (·.mem) xs e s (by simp) (fun _ _ => rfl) fun _ _ => rfl
@[simp] theorem State.settle_home (s : State) (xs : List Src) (e : WinEntry) : (s.settle xs e).home = s.home :=
  State.settle_keeps (·.home) xs e s (by simp) (fun _ _ => rfl) fun _ _ => rfl
@[simp] theorem State.settle_evicted (s : State) (xs : List Src) (e : WinEntry) : (s.settle xs e).evicted = s.evicted :=
  State.settle_keeps (·.evicted) xs e s (by simp) (fun _ _ => rfl) fun _ _ => rfl
@[simp] theorem State.settle_poison (s : State) (xs : List Src) (e : WinEntry) : (s.settle xs e).poison = s.poison :=
  State.settle_keeps (·.poison) xs e s (by simp) (fun _ _ => rfl) fun _ _ => rfl
@[simp] theorem State.settle_contributions (s : State) (xs : List Src) (e : WinEntry) : (s.settle xs e).contributions = s.contributions :=
  State.settle_keeps (·.contributions) xs e s (by simp) (fun _ _ => rfl) fun _ _ => rfl
@[simp] theorem State.settle_switchEntries (s : State) (xs : List Src) (e : WinEntry) : (s.settle xs e).switchEntries = s.switchEntries :=
  State.settle_keeps (·.switchEntries) xs e s (by simp) (fun _ _ => rfl) fun _ _ => rfl
@[simp] theorem State.settle_deliveries (s : State) (xs : List Src) (e : WinEntry) : (s.settle xs e).deliveries = s.deliveries :=
  State.settle_keeps (·.deliveries) xs e s (by simp) (fun _ _ => rfl) fun _ _ => rfl
@[simp] theorem State.settle_gtc (s : State) (xs : List Src) (e : WinEntry) : (s.settle xs e).gtc = s.gtc :=
  State.settle_keeps (·.gtc) xs e s (by simp) (fun _ _ => rfl) fun _ _ => rfl
@[simp] theorem State.settle_free (s : State) (xs : List Src) (e : WinEntry) : (s.settle xs e).free = s.free :=
  State.settle_keeps (·.free) xs e s (by simp) (fun _ _ => rfl) fun _ _ => rfl
@[simp] theorem State.settle_turns (s : State) (xs : List Src) (e : WinEntry) : (s.settle xs e).turns = s.turns :=
  State.settle_keeps (·.turns) xs e s (by simp) (fun _ _ => rfl) fun _ _ => rfl

/-! ## Issue -/

/-- Everything that State.issue can answer. -/
theorem State.issue_cases {s t : State} {u : State → Uses} {e : State → State} (h : s.issue u e = .next t) :
    s.issuing.isSome ∧
      (t = s.stall ∨ (∃ r, s.prelude.gate (u s.prelude) = .raise r ∧ t = s.prelude.raise r) ∨
        (s.prelude.gate (u s.prelude) = .go ∧ t = (e s.prelude).finish)) := by
  unfold State.issue at h
  split at h
  · cases h
  · refine ⟨by simp [*], ?_⟩
    split at h
    · cases h; exact .inl rfl
    · dsimp only at h
      split at h
      · cases h; exact .inl rfl
      · cases h; exact .inr (.inl ⟨_, ‹_›, rfl⟩)
      · cases h; exact .inr (.inr ⟨‹_›, rfl⟩)

/-- Everything that State.attempt can answer. -/
theorem State.attempt_cases {s t : State} {u : State → Uses} {a : State → Attempt} (h : s.attempt u a = .next t) :
    s.issuing.isSome ∧
      (t = s.stall ∨ (∃ r, s.prelude.gate (u s.prelude) = .raise r ∧ t = s.prelude.raise r) ∨
        (s.prelude.gate (u s.prelude) = .go ∧
          ((∃ x, a s.prelude = .done x ∧ t = x.finish) ∨ (∃ x c, a s.prelude = .wait x c ∧ t = (if c then x.wake else x).stall) ∨
            ∃ x r, a s.prelude = .raise x r ∧ t = x.raise r))) := by
  unfold State.attempt at h
  split at h
  · cases h
  · refine ⟨by simp [*], ?_⟩
    split at h
    · cases h; exact .inl rfl
    · dsimp only at h
      split at h
      · cases h; exact .inl rfl
      · cases h; exact .inr (.inl ⟨_, ‹_›, rfl⟩)
      · split at h
        · cases h; exact .inr (.inr ⟨‹_›, .inl ⟨_, ‹_›, rfl⟩⟩)
        · cases h; exact .inr (.inr ⟨‹_›, .inr (.inl ⟨_, _, ‹_›, rfl⟩)⟩)
        · cases h; exact .inr (.inr ⟨‹_›, .inr (.inr ⟨_, _, ‹_›, rfl⟩)⟩)

/-- An issuer always gets a next state. -/
theorem State.issue_next {s : State} (u : State → Uses) (e : State → State) (h : s.issuing.isSome) : ∃ t, s.issue u e = .next t := by
  obtain ⟨x, hx⟩ := Option.isSome_iff_exists.1 h
  unfold State.issue
  simp only [hx]
  split
  · exact ⟨_, rfl⟩
  · split <;> exact ⟨_, rfl⟩

theorem State.attempt_next {s : State} (u : State → Uses) (a : State → Attempt) (h : s.issuing.isSome) :
    ∃ t, s.attempt u a = .next t := by
  obtain ⟨x, hx⟩ := Option.isSome_iff_exists.1 h
  unfold State.attempt
  simp only [hx]
  split
  · exact ⟨_, rfl⟩
  · split
    · exact ⟨_, rfl⟩
    · exact ⟨_, rfl⟩
    · split <;> exact ⟨_, rfl⟩

/-- An instruction that passes its checks takes its effect. -/
theorem State.issue_goes {s : State} {u : State → Uses} (e : State → State) (h : s.issuing.isSome = true)
    (hu : s.switches = true → s.warp.unproduced = []) (hg : s.prelude.gate (u s.prelude) = .go) :
    s.issue u e = .next (e s.prelude).finish := by
  obtain ⟨x, hx⟩ := Option.isSome_iff_exists.1 h
  have hs : (s.switches && !s.warp.unproduced.isEmpty) = false := by
    cases hw : s.switches
    · rfl
    · simp [hu hw]
  unfold State.issue
  simp only [hx, hs, hg, Bool.false_eq_true, if_false]

theorem State.attempt_goes {s : State} {u : State → Uses} (a : State → Attempt) (h : s.issuing.isSome = true)
    (hu : s.switches = true → s.warp.unproduced = []) (hg : s.prelude.gate (u s.prelude) = .go) :
    s.attempt u a = match a s.prelude with
      | .done t => .next t.finish
      | .wait t changed => .next (if changed then t.wake else t).stall
      | .raise t r => .next (t.raise r) := by
  obtain ⟨x, hx⟩ := Option.isSome_iff_exists.1 h
  have hs : (s.switches && !s.warp.unproduced.isEmpty) = false := by
    cases hw : s.switches
    · rfl
    · simp [hu hw]
  unfold State.attempt
  simp only [hx, hs, hg, Bool.false_eq_true, if_false]
  first | done | rfl

/-- An instruction that fails a check takes the exception, with no effect of its own. -/
theorem State.issue_raises {s : State} {u : State → Uses} (e : State → State) {r : Raise} (h : s.issuing.isSome = true)
    (hu : s.switches = true → s.warp.unproduced = []) (hg : s.prelude.gate (u s.prelude) = .raise r) :
    s.issue u e = .next (s.prelude.raise r) := by
  obtain ⟨x, hx⟩ := Option.isSome_iff_exists.1 h
  have hs : (s.switches && !s.warp.unproduced.isEmpty) = false := by
    cases hw : s.switches
    · rfl
    · simp [hu hw]
  unfold State.issue
  simp only [hx, hs, hg, Bool.false_eq_true, if_false]

/-- A ladder of checks that ends in go tells what it answers when the checks of privilege and of row 9 on are put anew. -/
theorem State.gate_ladder {x0 x1 x3 x4 x5 x6 x7 x8 x9 : Raise} {l P A W E F L M P' T' T V : Bool} {g g' : Gate}
    (h : (if (!l) = true then Gate.raise x0 else if P = true then .raise x1 else if A = true then .wait else if W = true then .raise x3
      else if E = true then .raise x4 else if F = true then .raise x5 else if L = true then .raise x6 else if M = true then .raise x7
      else if T = true then .raise x8 else if V = true then .raise x9 else g) = .go) :
    (if (!l) = true then Gate.raise x0 else if P' = true then .raise x1 else if A = true then .wait else if W = true then .raise x3
      else if E = true then .raise x4 else if F = true then .raise x5 else if L = true then .raise x6 else if M = true then .raise x7
      else if T' = true then .raise x8 else g') = if P' = true then .raise x1 else if T' = true then .raise x8 else g' := by
  cases l <;> cases A <;> cases W <;> cases E <;> cases F <;> cases L <;> cases M <;> cases P <;> simp_all

/-- Where the checks of Table 6-6 find nothing, those put anew for privilege, tags, VOID elements, uniformity and the instruction's own
case decide, in that order. -/
theorem State.gate_more {s : State} {u : Uses} (h : s.gate u = .go) (p t n r : Bool) (v : Mask) (x : Option Raise) :
    s.gate { u with privileged := p, tagsOk := t, voids := v, uniform := n, specific := x, retry := r } =
      if p && !s.privileged then s.raiseAll Code.privilege
      else if !t then s.raiseAll Code.tag
      else if frmVt s.warp.frm && v != 0 then .raise { code := Code.voidelem, lanes := v, addr := 0 }
      else if !n then s.raiseAll Code.uniform
      else match x with
        | some y => .raise y
        | none => if r then .wait else .go :=
  State.gate_ladder (V := frmVt s.warp.frm && u.voids != 0) h

end Sys2Proof.Machine
end

