-- ==== Sys2Proof/Laws/PerInstr.lean ====
section
/-! SUPPORT. Statements about each instruction as syntax, one lemma per constructor. RoundTrip: the word that the encoder gives an
instruction decodes to that instruction, every operand at every value. -/

set_option linter.unusedSimpArgs false

namespace Sys2Proof

/-- A field above the low part of a concatenation. -/
theorem extract_high {v w st len : Nat} (x : BitVec v) (y : BitVec w) (h : w ≤ st) :
    BitVec.extractLsb' (n := no_index (v + w)) st len (no_index (x ++ y)) = x.extractLsb' (st - w) len :=
  BitVec.extractLsb'_append_eq_of_le h

/-- A field within the low part of a concatenation. -/
theorem extract_low {v w st len : Nat} (x : BitVec v) (y : BitVec w) (h : st + len ≤ w) :
    BitVec.extractLsb' (n := no_index (v + w)) st len (no_index (x ++ y)) = y.extractLsb' st len :=
  BitVec.extractLsb'_append_eq_of_add_le h

/-- The word of an instruction decodes to it. -/
def Laws.RoundTrip.Statement (i : Instr) : Prop := ∀ w, encode i = some w → decode w = i

theorem Laws.RoundTrip.nop : Laws.RoundTrip.Statement (.nop) := by
  intro w h
  cases h
  have e : BitVec.extractLsb' 25 7 (0#7 ++ 0#25 : BitVec 32) = 0#7 := by
    simp (disch := omega) only [extract_high, Nat.reduceSub, Nat.sub_zero, BitVec.extractLsb'_eq_self]
  rw [decode, e]
  change decodeOp00 _ = _
  simp (disch := omega) [decodeOp00, extract_high, extract_low, VOp.ofCode_code, SOp.ofCode_code, Tag.ofCode_code]

theorem Laws.RoundTrip.yield : Laws.RoundTrip.Statement (.yield) := by
  intro w h
  cases h
  have e : BitVec.extractLsb' 25 7 (3#7 ++ 0#25 : BitVec 32) = 3#7 := by
    simp (disch := omega) only [extract_high, Nat.reduceSub, Nat.sub_zero, BitVec.extractLsb'_eq_self]
  rw [decode, e]
  change decodeOp03 _ = _
  simp (disch := omega) [decodeOp03, extract_high, extract_low, VOp.ofCode_code, SOp.ofCode_code, Tag.ofCode_code]

theorem Laws.RoundTrip.lit (v : BitVec 24) : Laws.RoundTrip.Statement (.lit v) := by
  intro w h
  cases h
  have e : BitVec.extractLsb' 25 7 (1#7 ++ 0#1 ++ v : BitVec 32) = 1#7 := by
    simp (disch := omega) only [extract_high, Nat.reduceSub, Nat.sub_zero, BitVec.extractLsb'_eq_self]
  rw [decode, e]
  change decodeOp01 _ = _
  simp (disch := omega) [decodeOp01, extract_high, extract_low, VOp.ofCode_code, SOp.ofCode_code, Tag.ofCode_code]

theorem Laws.RoundTrip.litHi (b : BitVec 8) : Laws.RoundTrip.Statement (.litHi b) := by
  intro w h
  cases h
  have e : BitVec.extractLsb' 25 7 (1#7 ++ 1#1 ++ 0#16 ++ b : BitVec 32) = 1#7 := by
    simp (disch := omega) only [extract_high, Nat.reduceSub, Nat.sub_zero, BitVec.extractLsb'_eq_self]
  rw [decode, e]
  change decodeOp01 _ = _
  simp (disch := omega) [decodeOp01, extract_high, extract_low, VOp.ofCode_code, SOp.ofCode_code, Tag.ofCode_code]

theorem Laws.RoundTrip.blk (r : BitVec 8) (p : BitVec 8) : Laws.RoundTrip.Statement (.blk r p) := by
  intro w h
  cases h
  have e : BitVec.extractLsb' 25 7 (2#7 ++ 0#9 ++ r ++ p : BitVec 32) = 2#7 := by
    simp (disch := omega) only [extract_high, Nat.reduceSub, Nat.sub_zero, BitVec.extractLsb'_eq_self]
  rw [decode, e]
  change decodeOp02 _ = _
  simp (disch := omega) [decodeOp02, extract_high, extract_low, VOp.ofCode_code, SOp.ofCode_code, Tag.ofCode_code]

theorem Laws.RoundTrip.iadd (d : VOp) (a : VOp) (b : VOp) (da : BitVec 1) (db : BitVec 1) (f : BitVec 2) : Laws.RoundTrip.Statement (.iadd d a b da db f) := by
  intro w h
  cases h
  have e : BitVec.extractLsb' 25 7 (4#7 ++ d.code ++ a.code ++ b.code ++ da ++ db ++ f : BitVec 32) = 4#7 := by
    simp (disch := omega) only [extract_high, Nat.reduceSub, Nat.sub_zero, BitVec.extractLsb'_eq_self]
  rw [decode, e]
  change decodeOp04 _ = _
  simp (disch := omega) [decodeOp04, extract_high, extract_low, VOp.ofCode_code, SOp.ofCode_code, Tag.ofCode_code]

theorem Laws.RoundTrip.isub (d : VOp) (a : VOp) (b : VOp) (da : BitVec 1) (db : BitVec 1) (f : BitVec 2) : Laws.RoundTrip.Statement (.isub d a b da db f) := by
  intro w h
  cases h
  have e : BitVec.extractLsb' 25 7 (5#7 ++ d.code ++ a.code ++ b.code ++ da ++ db ++ f : BitVec 32) = 5#7 := by
    simp (disch := omega) only [extract_high, Nat.reduceSub, Nat.sub_zero, BitVec.extractLsb'_eq_self]
  rw [decode, e]
  change decodeOp05 _ = _
  simp (disch := omega) [decodeOp05, extract_high, extract_low, VOp.ofCode_code, SOp.ofCode_code, Tag.ofCode_code]

theorem Laws.RoundTrip.imul (d : VOp) (a : VOp) (b : VOp) (da : BitVec 1) (db : BitVec 1) (f : BitVec 2) : Laws.RoundTrip.Statement (.imul d a b da db f) := by
  intro w h
  cases h
  have e : BitVec.extractLsb' 25 7 (6#7 ++ d.code ++ a.code ++ b.code ++ da ++ db ++ f : BitVec 32) = 6#7 := by
    simp (disch := omega) only [extract_high, Nat.reduceSub, Nat.sub_zero, BitVec.extractLsb'_eq_self]
  rw [decode, e]
  change decodeOp06 _ = _
  simp (disch := omega) [decodeOp06, extract_high, extract_low, VOp.ofCode_code, SOp.ofCode_code, Tag.ofCode_code]

theorem Laws.RoundTrip.imad (d : VOp) (a : VOp) (b : VOp) (da : BitVec 1) (db : BitVec 1) (f : BitVec 2) : Laws.RoundTrip.Statement (.imad d a b da db f) := by
  intro w h
  cases h
  have e : BitVec.extractLsb' 25 7 (7#7 ++ d.code ++ a.code ++ b.code ++ da ++ db ++ f : BitVec 32) = 7#7 := by
    simp (disch := omega) only [extract_high, Nat.reduceSub, Nat.sub_zero, BitVec.extractLsb'_eq_self]
  rw [decode, e]
  change decodeOp07 _ = _
  simp (disch := omega) [decodeOp07, extract_high, extract_low, VOp.ofCode_code, SOp.ofCode_code, Tag.ofCode_code]

theorem Laws.RoundTrip.imin (d : VOp) (a : VOp) (b : VOp) (da : BitVec 1) (db : BitVec 1) (f : BitVec 2) : Laws.RoundTrip.Statement (.imin d a b da db f) := by
  intro w h
  cases h
  have e : BitVec.extractLsb' 25 7 (8#7 ++ d.code ++ a.code ++ b.code ++ da ++ db ++ f : BitVec 32) = 8#7 := by
    simp (disch := omega) only [extract_high, Nat.reduceSub, Nat.sub_zero, BitVec.extractLsb'_eq_self]
  rw [decode, e]
  change decodeOp08 _ = _
  simp (disch := omega) [decodeOp08, extract_high, extract_low, VOp.ofCode_code, SOp.ofCode_code, Tag.ofCode_code]

theorem Laws.RoundTrip.imax (d : VOp) (a : VOp) (b : VOp) (da : BitVec 1) (db : BitVec 1) (f : BitVec 2) : Laws.RoundTrip.Statement (.imax d a b da db f) := by
  intro w h
  cases h
  have e : BitVec.extractLsb' 25 7 (9#7 ++ d.code ++ a.code ++ b.code ++ da ++ db ++ f : BitVec 32) = 9#7 := by
    simp (disch := omega) only [extract_high, Nat.reduceSub, Nat.sub_zero, BitVec.extractLsb'_eq_self]
  rw [decode, e]
  change decodeOp09 _ = _
  simp (disch := omega) [decodeOp09, extract_high, extract_low, VOp.ofCode_code, SOp.ofCode_code, Tag.ofCode_code]

theorem Laws.RoundTrip.iabs (d : VOp) (a : VOp) (da : BitVec 1) (f : BitVec 2) : Laws.RoundTrip.Statement (.iabs d a da f) := by
  intro w h
  cases h
  have e : BitVec.extractLsb' 25 7 (10#7 ++ d.code ++ a.code ++ 0#7 ++ da ++ 0#1 ++ f : BitVec 32) = 10#7 := by
    simp (disch := omega) only [extract_high, Nat.reduceSub, Nat.sub_zero, BitVec.extractLsb'_eq_self]
  rw [decode, e]
  change decodeOp0A _ = _
  simp (disch := omega) [decodeOp0A, extract_high, extract_low, VOp.ofCode_code, SOp.ofCode_code, Tag.ofCode_code]

theorem Laws.RoundTrip.andFam (d : VOp) (a : VOp) (b : VOp) (da : BitVec 1) (db : BitVec 1) (f : BitVec 2) : Laws.RoundTrip.Statement (.andFam d a b da db f) := by
  intro w h
  cases h
  have e : BitVec.extractLsb' 25 7 (11#7 ++ d.code ++ a.code ++ b.code ++ da ++ db ++ f : BitVec 32) = 11#7 := by
    simp (disch := omega) only [extract_high, Nat.reduceSub, Nat.sub_zero, BitVec.extractLsb'_eq_self]
  rw [decode, e]
  change decodeOp0B _ = _
  simp (disch := omega) [decodeOp0B, extract_high, extract_low, VOp.ofCode_code, SOp.ofCode_code, Tag.ofCode_code]

theorem Laws.RoundTrip.orFam (d : VOp) (a : VOp) (b : VOp) (da : BitVec 1) (db : BitVec 1) (f : BitVec 2) : Laws.RoundTrip.Statement (.orFam d a b da db f) := by
  intro w h
  cases h
  have e : BitVec.extractLsb' 25 7 (12#7 ++ d.code ++ a.code ++ b.code ++ da ++ db ++ f : BitVec 32) = 12#7 := by
    simp (disch := omega) only [extract_high, Nat.reduceSub, Nat.sub_zero, BitVec.extractLsb'_eq_self]
  rw [decode, e]
  change decodeOp0C _ = _
  simp (disch := omega) [decodeOp0C, extract_high, extract_low, VOp.ofCode_code, SOp.ofCode_code, Tag.ofCode_code]

theorem Laws.RoundTrip.xorFam (d : VOp) (a : VOp) (b : VOp) (da : BitVec 1) (db : BitVec 1) (f : BitVec 2) : Laws.RoundTrip.Statement (.xorFam d a b da db f) := by
  intro w h
  cases h
  have e : BitVec.extractLsb' 25 7 (13#7 ++ d.code ++ a.code ++ b.code ++ da ++ db ++ f : BitVec 32) = 13#7 := by
    simp (disch := omega) only [extract_high, Nat.reduceSub, Nat.sub_zero, BitVec.extractLsb'_eq_self]
  rw [decode, e]
  change decodeOp0D _ = _
  simp (disch := omega) [decodeOp0D, extract_high, extract_low, VOp.ofCode_code, SOp.ofCode_code, Tag.ofCode_code]

theorem Laws.RoundTrip.shiftFam (d : VOp) (a : VOp) (b : VOp) (da : BitVec 1) (db : BitVec 1) (f : BitVec 2) : Laws.RoundTrip.Statement (.shiftFam d a b da db f) := by
  intro w h
  cases h
  have e : BitVec.extractLsb' 25 7 (14#7 ++ d.code ++ a.code ++ b.code ++ da ++ db ++ f : BitVec 32) = 14#7 := by
    simp (disch := omega) only [extract_high, Nat.reduceSub, Nat.sub_zero, BitVec.extractLsb'_eq_self]
  rw [decode, e]
  change decodeOp0E _ = _
  simp (disch := omega) [decodeOp0E, extract_high, extract_low, VOp.ofCode_code, SOp.ofCode_code, Tag.ofCode_code]

theorem Laws.RoundTrip.bfx (d : VOp) (a : VOp) (b : VOp) (da : BitVec 1) (db : BitVec 1) (f : BitVec 2) : Laws.RoundTrip.Statement (.bfx d a b da db f) := by
  intro w h
  cases h
  have e : BitVec.extractLsb' 25 7 (15#7 ++ d.code ++ a.code ++ b.code ++ da ++ db ++ f : BitVec 32) = 15#7 := by
    simp (disch := omega) only [extract_high, Nat.reduceSub, Nat.sub_zero, BitVec.extractLsb'_eq_self]
  rw [decode, e]
  change decodeOp0F _ = _
  simp (disch := omega) [decodeOp0F, extract_high, extract_low, VOp.ofCode_code, SOp.ofCode_code, Tag.ofCode_code]

theorem Laws.RoundTrip.bfi (d : VOp) (a : VOp) (b : VOp) (da : BitVec 1) (db : BitVec 1) (f : BitVec 2) : Laws.RoundTrip.Statement (.bfi d a b da db f) := by
  intro w h
  cases h
  have e : BitVec.extractLsb' 25 7 (16#7 ++ d.code ++ a.code ++ b.code ++ da ++ db ++ f : BitVec 32) = 16#7 := by
    simp (disch := omega) only [extract_high, Nat.reduceSub, Nat.sub_zero, BitVec.extractLsb'_eq_self]
  rw [decode, e]
  change decodeOp10 _ = _
  simp (disch := omega) [decodeOp10, extract_high, extract_low, VOp.ofCode_code, SOp.ofCode_code, Tag.ofCode_code]

theorem Laws.RoundTrip.bitFam (d : VOp) (a : VOp) (da : BitVec 1) (f : BitVec 2) : Laws.RoundTrip.Statement (.bitFam d a da f) := by
  intro w h
  cases h
  have e : BitVec.extractLsb' 25 7 (17#7 ++ d.code ++ a.code ++ 0#7 ++ da ++ 0#1 ++ f : BitVec 32) = 17#7 := by
    simp (disch := omega) only [extract_high, Nat.reduceSub, Nat.sub_zero, BitVec.extractLsb'_eq_self]
  rw [decode, e]
  change decodeOp11 _ = _
  simp (disch := omega) [decodeOp11, extract_high, extract_low, VOp.ofCode_code, SOp.ofCode_code, Tag.ofCode_code]

theorem Laws.RoundTrip.icmp (d : VOp) (a : VOp) (b : VOp) (da : BitVec 1) (db : BitVec 1) (f : BitVec 2) : Laws.RoundTrip.Statement (.icmp d a b da db f) := by
  intro w h
  cases h
  have e : BitVec.extractLsb' 25 7 (18#7 ++ d.code ++ a.code ++ b.code ++ da ++ db ++ f : BitVec 32) = 18#7 := by
    simp (disch := omega) only [extract_high, Nat.reduceSub, Nat.sub_zero, BitVec.extractLsb'_eq_self]
  rw [decode, e]
  change decodeOp12 _ = _
  simp (disch := omega) [decodeOp12, extract_high, extract_low, VOp.ofCode_code, SOp.ofCode_code, Tag.ofCode_code]

theorem Laws.RoundTrip.icmpn (d : VOp) (a : VOp) (b : VOp) (da : BitVec 1) (db : BitVec 1) (f : BitVec 2) : Laws.RoundTrip.Statement (.icmpn d a b da db f) := by
  intro w h
  cases h
  have e : BitVec.extractLsb' 25 7 (19#7 ++ d.code ++ a.code ++ b.code ++ da ++ db ++ f : BitVec 32) = 19#7 := by
    simp (disch := omega) only [extract_high, Nat.reduceSub, Nat.sub_zero, BitVec.extractLsb'_eq_self]
  rw [decode, e]
  change decodeOp13 _ = _
  simp (disch := omega) [decodeOp13, extract_high, extract_low, VOp.ofCode_code, SOp.ofCode_code, Tag.ofCode_code]

theorem Laws.RoundTrip.sel (d : VOp) (a : VOp) (b : VOp) (da : BitVec 1) (db : BitVec 1) : Laws.RoundTrip.Statement (.sel d a b da db) := by
  intro w h
  cases h
  have e : BitVec.extractLsb' 25 7 (20#7 ++ d.code ++ a.code ++ b.code ++ da ++ db ++ 0#2 : BitVec 32) = 20#7 := by
    simp (disch := omega) only [extract_high, Nat.reduceSub, Nat.sub_zero, BitVec.extractLsb'_eq_self]
  rw [decode, e]
  change decodeOp14 _ = _
  simp (disch := omega) [decodeOp14, extract_high, extract_low, VOp.ofCode_code, SOp.ofCode_code, Tag.ofCode_code]

theorem Laws.RoundTrip.lea (d : VOp) (a : VOp) (b : VOp) (da : BitVec 1) (db : BitVec 1) (f : BitVec 2) : Laws.RoundTrip.Statement (.lea d a b da db f) := by
  intro w h
  cases h
  have e : BitVec.extractLsb' 25 7 (21#7 ++ d.code ++ a.code ++ b.code ++ da ++ db ++ f : BitVec 32) = 21#7 := by
    simp (disch := omega) only [extract_high, Nat.reduceSub, Nat.sub_zero, BitVec.extractLsb'_eq_self]
  rw [decode, e]
  change decodeOp15 _ = _
  simp (disch := omega) [decodeOp15, extract_high, extract_low, VOp.ofCode_code, SOp.ofCode_code, Tag.ofCode_code]

theorem Laws.RoundTrip.addsubw (d : VOp) (a : VOp) (b : VOp) (da : BitVec 1) (db : BitVec 1) (f : BitVec 2) : Laws.RoundTrip.Statement (.addsubw d a b da db f) := by
  intro w h
  cases h
  have e : BitVec.extractLsb' 25 7 (22#7 ++ d.code ++ a.code ++ b.code ++ da ++ db ++ f : BitVec 32) = 22#7 := by
    simp (disch := omega) only [extract_high, Nat.reduceSub, Nat.sub_zero, BitVec.extractLsb'_eq_self]
  rw [decode, e]
  change decodeOp16 _ = _
  simp (disch := omega) [decodeOp16, extract_high, extract_low, VOp.ofCode_code, SOp.ofCode_code, Tag.ofCode_code]

theorem Laws.RoundTrip.mulw (d : VOp) (a : VOp) (b : VOp) (da : BitVec 1) (db : BitVec 1) (f : BitVec 2) : Laws.RoundTrip.Statement (.mulw d a b da db f) := by
  intro w h
  cases h
  have e : BitVec.extractLsb' 25 7 (23#7 ++ d.code ++ a.code ++ b.code ++ da ++ db ++ f : BitVec 32) = 23#7 := by
    simp (disch := omega) only [extract_high, Nat.reduceSub, Nat.sub_zero, BitVec.extractLsb'_eq_self]
  rw [decode, e]
  change decodeOp17 _ = _
  simp (disch := omega) [decodeOp17, extract_high, extract_low, VOp.ofCode_code, SOp.ofCode_code, Tag.ofCode_code]

theorem Laws.RoundTrip.idiv (d : VOp) (a : VOp) (b : VOp) (k : BitVec 4) : Laws.RoundTrip.Statement (.idiv d a b k) := by
  intro w h
  cases h
  have e : BitVec.extractLsb' 25 7 (24#7 ++ d.code ++ a.code ++ b.code ++ k : BitVec 32) = 24#7 := by
    simp (disch := omega) only [extract_high, Nat.reduceSub, Nat.sub_zero, BitVec.extractLsb'_eq_self]
  rw [decode, e]
  change decodeOp18 _ = _
  simp (disch := omega) [decodeOp18, extract_high, extract_low, VOp.ofCode_code, SOp.ofCode_code, Tag.ofCode_code]

theorem Laws.RoundTrip.ndiv (d : VOp) (a : VOp) (b : VOp) (k : BitVec 4) : Laws.RoundTrip.Statement (.ndiv d a b k) := by
  intro w h
  cases h
  have e : BitVec.extractLsb' 25 7 (25#7 ++ d.code ++ a.code ++ b.code ++ k : BitVec 32) = 25#7 := by
    simp (disch := omega) only [extract_high, Nat.reduceSub, Nat.sub_zero, BitVec.extractLsb'_eq_self]
  rw [decode, e]
  change decodeOp19 _ = _
  simp (disch := omega) [decodeOp19, extract_high, extract_low, VOp.ofCode_code, SOp.ofCode_code, Tag.ofCode_code]

theorem Laws.RoundTrip.shfl (d : VOp) (a : VOp) (b : VOp) (da : BitVec 1) (db : BitVec 1) (f : BitVec 2) : Laws.RoundTrip.Statement (.shfl d a b da db f) := by
  intro w h
  cases h
  have e : BitVec.extractLsb' 25 7 (26#7 ++ d.code ++ a.code ++ b.code ++ da ++ db ++ f : BitVec 32) = 26#7 := by
    simp (disch := omega) only [extract_high, Nat.reduceSub, Nat.sub_zero, BitVec.extractLsb'_eq_self]
  rw [decode, e]
  change decodeOp1A _ = _
  simp (disch := omega) [decodeOp1A, extract_high, extract_low, VOp.ofCode_code, SOp.ofCode_code, Tag.ofCode_code]

theorem Laws.RoundTrip.vote (d : VOp) (a : VOp) (da : BitVec 1) (f : BitVec 2) : Laws.RoundTrip.Statement (.vote d a da f) := by
  intro w h
  cases h
  have e : BitVec.extractLsb' 25 7 (27#7 ++ d.code ++ a.code ++ 0#7 ++ da ++ 0#1 ++ f : BitVec 32) = 27#7 := by
    simp (disch := omega) only [extract_high, Nat.reduceSub, Nat.sub_zero, BitVec.extractLsb'_eq_self]
  rw [decode, e]
  change decodeOp1B _ = _
  simp (disch := omega) [decodeOp1B, extract_high, extract_low, VOp.ofCode_code, SOp.ofCode_code, Tag.ofCode_code]

theorem Laws.RoundTrip.vred (d : VOp) (a : VOp) (da : BitVec 1) (f : BitVec 2) : Laws.RoundTrip.Statement (.vred d a da f) := by
  intro w h
  cases h
  have e : BitVec.extractLsb' 25 7 (28#7 ++ d.code ++ a.code ++ 0#7 ++ da ++ 0#1 ++ f : BitVec 32) = 28#7 := by
    simp (disch := omega) only [extract_high, Nat.reduceSub, Nat.sub_zero, BitVec.extractLsb'_eq_self]
  rw [decode, e]
  change decodeOp1C _ = _
  simp (disch := omega) [decodeOp1C, extract_high, extract_low, VOp.ofCode_code, SOp.ofCode_code, Tag.ofCode_code]

theorem Laws.RoundTrip.iaddi (d : VOp) (a : VOp) (imm : BitVec 10) (da : BitVec 1) : Laws.RoundTrip.Statement (.iaddi d a imm da) := by
  intro w h
  cases h
  have e : BitVec.extractLsb' 25 7 (32#7 ++ d.code ++ a.code ++ imm ++ da : BitVec 32) = 32#7 := by
    simp (disch := omega) only [extract_high, Nat.reduceSub, Nat.sub_zero, BitVec.extractLsb'_eq_self]
  rw [decode, e]
  change decodeOp20 _ = _
  simp (disch := omega) [decodeOp20, extract_high, extract_low, VOp.ofCode_code, SOp.ofCode_code, Tag.ofCode_code]

theorem Laws.RoundTrip.imuli (d : VOp) (a : VOp) (imm : BitVec 10) (da : BitVec 1) : Laws.RoundTrip.Statement (.imuli d a imm da) := by
  intro w h
  cases h
  have e : BitVec.extractLsb' 25 7 (33#7 ++ d.code ++ a.code ++ imm ++ da : BitVec 32) = 33#7 := by
    simp (disch := omega) only [extract_high, Nat.reduceSub, Nat.sub_zero, BitVec.extractLsb'_eq_self]
  rw [decode, e]
  change decodeOp21 _ = _
  simp (disch := omega) [decodeOp21, extract_high, extract_low, VOp.ofCode_code, SOp.ofCode_code, Tag.ofCode_code]

theorem Laws.RoundTrip.andi (d : VOp) (a : VOp) (imm : BitVec 10) (da : BitVec 1) : Laws.RoundTrip.Statement (.andi d a imm da) := by
  intro w h
  cases h
  have e : BitVec.extractLsb' 25 7 (34#7 ++ d.code ++ a.code ++ imm ++ da : BitVec 32) = 34#7 := by
    simp (disch := omega) only [extract_high, Nat.reduceSub, Nat.sub_zero, BitVec.extractLsb'_eq_self]
  rw [decode, e]
  change decodeOp22 _ = _
  simp (disch := omega) [decodeOp22, extract_high, extract_low, VOp.ofCode_code, SOp.ofCode_code, Tag.ofCode_code]

theorem Laws.RoundTrip.ori (d : VOp) (a : VOp) (imm : BitVec 10) (da : BitVec 1) : Laws.RoundTrip.Statement (.ori d a imm da) := by
  intro w h
  cases h
  have e : BitVec.extractLsb' 25 7 (35#7 ++ d.code ++ a.code ++ imm ++ da : BitVec 32) = 35#7 := by
    simp (disch := omega) only [extract_high, Nat.reduceSub, Nat.sub_zero, BitVec.extractLsb'_eq_self]
  rw [decode, e]
  change decodeOp23 _ = _
  simp (disch := omega) [decodeOp23, extract_high, extract_low, VOp.ofCode_code, SOp.ofCode_code, Tag.ofCode_code]

theorem Laws.RoundTrip.xori (d : VOp) (a : VOp) (imm : BitVec 10) (da : BitVec 1) : Laws.RoundTrip.Statement (.xori d a imm da) := by
  intro w h
  cases h
  have e : BitVec.extractLsb' 25 7 (36#7 ++ d.code ++ a.code ++ imm ++ da : BitVec 32) = 36#7 := by
    simp (disch := omega) only [extract_high, Nat.reduceSub, Nat.sub_zero, BitVec.extractLsb'_eq_self]
  rw [decode, e]
  change decodeOp24 _ = _
  simp (disch := omega) [decodeOp24, extract_high, extract_low, VOp.ofCode_code, SOp.ofCode_code, Tag.ofCode_code]

theorem Laws.RoundTrip.shli (d : VOp) (a : VOp) (m : BitVec 5) (da : BitVec 1) : Laws.RoundTrip.Statement (.shli d a m da) := by
  intro w h
  cases h
  have e : BitVec.extractLsb' 25 7 (37#7 ++ d.code ++ a.code ++ 0#5 ++ m ++ da : BitVec 32) = 37#7 := by
    simp (disch := omega) only [extract_high, Nat.reduceSub, Nat.sub_zero, BitVec.extractLsb'_eq_self]
  rw [decode, e]
  change decodeOp25 _ = _
  simp (disch := omega) [decodeOp25, extract_high, extract_low, VOp.ofCode_code, SOp.ofCode_code, Tag.ofCode_code]

theorem Laws.RoundTrip.shri (d : VOp) (a : VOp) (m : BitVec 5) (da : BitVec 1) : Laws.RoundTrip.Statement (.shri d a m da) := by
  intro w h
  cases h
  have e : BitVec.extractLsb' 25 7 (38#7 ++ d.code ++ a.code ++ 0#5 ++ m ++ da : BitVec 32) = 38#7 := by
    simp (disch := omega) only [extract_high, Nat.reduceSub, Nat.sub_zero, BitVec.extractLsb'_eq_self]
  rw [decode, e]
  change decodeOp26 _ = _
  simp (disch := omega) [decodeOp26, extract_high, extract_low, VOp.ofCode_code, SOp.ofCode_code, Tag.ofCode_code]

theorem Laws.RoundTrip.sari (d : VOp) (a : VOp) (m : BitVec 5) (da : BitVec 1) : Laws.RoundTrip.Statement (.sari d a m da) := by
  intro w h
  cases h
  have e : BitVec.extractLsb' 25 7 (39#7 ++ d.code ++ a.code ++ 0#5 ++ m ++ da : BitVec 32) = 39#7 := by
    simp (disch := omega) only [extract_high, Nat.reduceSub, Nat.sub_zero, BitVec.extractLsb'_eq_self]
  rw [decode, e]
  change decodeOp27 _ = _
  simp (disch := omega) [decodeOp27, extract_high, extract_low, VOp.ofCode_code, SOp.ofCode_code, Tag.ofCode_code]

theorem Laws.RoundTrip.icmpieq (d : VOp) (a : VOp) (imm : BitVec 10) (da : BitVec 1) : Laws.RoundTrip.Statement (.icmpieq d a imm da) := by
  intro w h
  cases h
  have e : BitVec.extractLsb' 25 7 (40#7 ++ d.code ++ a.code ++ imm ++ da : BitVec 32) = 40#7 := by
    simp (disch := omega) only [extract_high, Nat.reduceSub, Nat.sub_zero, BitVec.extractLsb'_eq_self]
  rw [decode, e]
  change decodeOp28 _ = _
  simp (disch := omega) [decodeOp28, extract_high, extract_low, VOp.ofCode_code, SOp.ofCode_code, Tag.ofCode_code]

theorem Laws.RoundTrip.icmpilt (d : VOp) (a : VOp) (imm : BitVec 10) (da : BitVec 1) : Laws.RoundTrip.Statement (.icmpilt d a imm da) := by
  intro w h
  cases h
  have e : BitVec.extractLsb' 25 7 (41#7 ++ d.code ++ a.code ++ imm ++ da : BitVec 32) = 41#7 := by
    simp (disch := omega) only [extract_high, Nat.reduceSub, Nat.sub_zero, BitVec.extractLsb'_eq_self]
  rw [decode, e]
  change decodeOp29 _ = _
  simp (disch := omega) [decodeOp29, extract_high, extract_low, VOp.ofCode_code, SOp.ofCode_code, Tag.ofCode_code]

theorem Laws.RoundTrip.icmpine (d : VOp) (a : VOp) (imm : BitVec 10) (da : BitVec 1) : Laws.RoundTrip.Statement (.icmpine d a imm da) := by
  intro w h
  cases h
  have e : BitVec.extractLsb' 25 7 (42#7 ++ d.code ++ a.code ++ imm ++ da : BitVec 32) = 42#7 := by
    simp (disch := omega) only [extract_high, Nat.reduceSub, Nat.sub_zero, BitVec.extractLsb'_eq_self]
  rw [decode, e]
  change decodeOp2A _ = _
  simp (disch := omega) [decodeOp2A, extract_high, extract_low, VOp.ofCode_code, SOp.ofCode_code, Tag.ofCode_code]

theorem Laws.RoundTrip.movi (d : VOp) (imm : BitVec 10) : Laws.RoundTrip.Statement (.movi d imm) := by
  intro w h
  cases h
  have e : BitVec.extractLsb' 25 7 (43#7 ++ d.code ++ 0#7 ++ imm ++ 0#1 : BitVec 32) = 43#7 := by
    simp (disch := omega) only [extract_high, Nat.reduceSub, Nat.sub_zero, BitVec.extractLsb'_eq_self]
  rw [decode, e]
  change decodeOp2B _ = _
  simp (disch := omega) [decodeOp2B, extract_high, extract_low, VOp.ofCode_code, SOp.ofCode_code, Tag.ofCode_code]

theorem Laws.RoundTrip.sadd (d : SOp) (a : SOp) (b : SOp) (f : BitVec 2) : Laws.RoundTrip.Statement (.sadd d a b f) := by
  intro w h
  cases h
  have e : BitVec.extractLsb' 25 7 (44#7 ++ d.code ++ a.code ++ b.code ++ 0#1 ++ 0#1 ++ f : BitVec 32) = 44#7 := by
    simp (disch := omega) only [extract_high, Nat.reduceSub, Nat.sub_zero, BitVec.extractLsb'_eq_self]
  rw [decode, e]
  change decodeOp2C _ = _
  simp (disch := omega) [decodeOp2C, extract_high, extract_low, VOp.ofCode_code, SOp.ofCode_code, Tag.ofCode_code]

theorem Laws.RoundTrip.ssub (d : SOp) (a : SOp) (b : SOp) (f : BitVec 2) : Laws.RoundTrip.Statement (.ssub d a b f) := by
  intro w h
  cases h
  have e : BitVec.extractLsb' 25 7 (45#7 ++ d.code ++ a.code ++ b.code ++ 0#1 ++ 0#1 ++ f : BitVec 32) = 45#7 := by
    simp (disch := omega) only [extract_high, Nat.reduceSub, Nat.sub_zero, BitVec.extractLsb'_eq_self]
  rw [decode, e]
  change decodeOp2D _ = _
  simp (disch := omega) [decodeOp2D, extract_high, extract_low, VOp.ofCode_code, SOp.ofCode_code, Tag.ofCode_code]

theorem Laws.RoundTrip.smul (d : SOp) (a : SOp) (b : SOp) (f : BitVec 2) : Laws.RoundTrip.Statement (.smul d a b f) := by
  intro w h
  cases h
  have e : BitVec.extractLsb' 25 7 (46#7 ++ d.code ++ a.code ++ b.code ++ 0#1 ++ 0#1 ++ f : BitVec 32) = 46#7 := by
    simp (disch := omega) only [extract_high, Nat.reduceSub, Nat.sub_zero, BitVec.extractLsb'_eq_self]
  rw [decode, e]
  change decodeOp2E _ = _
  simp (disch := omega) [decodeOp2E, extract_high, extract_low, VOp.ofCode_code, SOp.ofCode_code, Tag.ofCode_code]

theorem Laws.RoundTrip.slog (d : SOp) (a : SOp) (b : SOp) (f : BitVec 2) : Laws.RoundTrip.Statement (.slog d a b f) := by
  intro w h
  cases h
  have e : BitVec.extractLsb' 25 7 (47#7 ++ d.code ++ a.code ++ b.code ++ 0#1 ++ 0#1 ++ f : BitVec 32) = 47#7 := by
    simp (disch := omega) only [extract_high, Nat.reduceSub, Nat.sub_zero, BitVec.extractLsb'_eq_self]
  rw [decode, e]
  change decodeOp2F _ = _
  simp (disch := omega) [decodeOp2F, extract_high, extract_low, VOp.ofCode_code, SOp.ofCode_code, Tag.ofCode_code]

theorem Laws.RoundTrip.sshf (d : SOp) (a : SOp) (b : SOp) (f : BitVec 2) : Laws.RoundTrip.Statement (.sshf d a b f) := by
  intro w h
  cases h
  have e : BitVec.extractLsb' 25 7 (48#7 ++ d.code ++ a.code ++ b.code ++ 0#1 ++ 0#1 ++ f : BitVec 32) = 48#7 := by
    simp (disch := omega) only [extract_high, Nat.reduceSub, Nat.sub_zero, BitVec.extractLsb'_eq_self]
  rw [decode, e]
  change decodeOp30 _ = _
  simp (disch := omega) [decodeOp30, extract_high, extract_low, VOp.ofCode_code, SOp.ofCode_code, Tag.ofCode_code]

theorem Laws.RoundTrip.scmp (d : SOp) (a : SOp) (b : SOp) (f : BitVec 2) : Laws.RoundTrip.Statement (.scmp d a b f) := by
  intro w h
  cases h
  have e : BitVec.extractLsb' 25 7 (49#7 ++ d.code ++ a.code ++ b.code ++ 0#1 ++ 0#1 ++ f : BitVec 32) = 49#7 := by
    simp (disch := omega) only [extract_high, Nat.reduceSub, Nat.sub_zero, BitVec.extractLsb'_eq_self]
  rw [decode, e]
  change decodeOp31 _ = _
  simp (disch := omega) [decodeOp31, extract_high, extract_low, VOp.ofCode_code, SOp.ofCode_code, Tag.ofCode_code]

theorem Laws.RoundTrip.ssel (d : SOp) (a : SOp) (b : SOp) : Laws.RoundTrip.Statement (.ssel d a b) := by
  intro w h
  cases h
  have e : BitVec.extractLsb' 25 7 (50#7 ++ d.code ++ a.code ++ b.code ++ 0#1 ++ 0#1 ++ 0#2 : BitVec 32) = 50#7 := by
    simp (disch := omega) only [extract_high, Nat.reduceSub, Nat.sub_zero, BitVec.extractLsb'_eq_self]
  rw [decode, e]
  change decodeOp32 _ = _
  simp (disch := omega) [decodeOp32, extract_high, extract_low, VOp.ofCode_code, SOp.ofCode_code, Tag.ofCode_code]

theorem Laws.RoundTrip.saddi (d : SOp) (a : SOp) (imm : BitVec 10) : Laws.RoundTrip.Statement (.saddi d a imm) := by
  intro w h
  cases h
  have e : BitVec.extractLsb' 25 7 (51#7 ++ d.code ++ a.code ++ imm ++ 0#1 : BitVec 32) = 51#7 := by
    simp (disch := omega) only [extract_high, Nat.reduceSub, Nat.sub_zero, BitVec.extractLsb'_eq_self]
  rw [decode, e]
  change decodeOp33 _ = _
  simp (disch := omega) [decodeOp33, extract_high, extract_low, VOp.ofCode_code, SOp.ofCode_code, Tag.ofCode_code]

theorem Laws.RoundTrip.smovi (d : SOp) (imm : BitVec 10) : Laws.RoundTrip.Statement (.smovi d imm) := by
  intro w h
  cases h
  have e : BitVec.extractLsb' 25 7 (52#7 ++ d.code ++ 0#7 ++ imm ++ 0#1 : BitVec 32) = 52#7 := by
    simp (disch := omega) only [extract_high, Nat.reduceSub, Nat.sub_zero, BitVec.extractLsb'_eq_self]
  rw [decode, e]
  change decodeOp34 _ = _
  simp (disch := omega) [decodeOp34, extract_high, extract_low, VOp.ofCode_code, SOp.ofCode_code, Tag.ofCode_code]

theorem Laws.RoundTrip.sminmax (d : SOp) (a : SOp) (b : SOp) (f : BitVec 2) : Laws.RoundTrip.Statement (.sminmax d a b f) := by
  intro w h
  cases h
  have e : BitVec.extractLsb' 25 7 (53#7 ++ d.code ++ a.code ++ b.code ++ 0#1 ++ 0#1 ++ f : BitVec 32) = 53#7 := by
    simp (disch := omega) only [extract_high, Nat.reduceSub, Nat.sub_zero, BitVec.extractLsb'_eq_self]
  rw [decode, e]
  change decodeOp35 _ = _
  simp (disch := omega) [decodeOp35, extract_high, extract_low, VOp.ofCode_code, SOp.ofCode_code, Tag.ofCode_code]

theorem Laws.RoundTrip.sldc (d : SOp) (a : SOp) (b : SOp) (k : BitVec 4) : Laws.RoundTrip.Statement (.sldc d a b k) := by
  intro w h
  cases h
  have e : BitVec.extractLsb' 25 7 (54#7 ++ d.code ++ a.code ++ b.code ++ k : BitVec 32) = 54#7 := by
    simp (disch := omega) only [extract_high, Nat.reduceSub, Nat.sub_zero, BitVec.extractLsb'_eq_self]
  rw [decode, e]
  change decodeOp36 _ = _
  simp (disch := omega) [decodeOp36, extract_high, extract_low, VOp.ofCode_code, SOp.ofCode_code, Tag.ofCode_code]

theorem Laws.RoundTrip.sld (d : SOp) (a : SOp) (b : SOp) (k : BitVec 4) : Laws.RoundTrip.Statement (.sld d a b k) := by
  intro w h
  cases h
  have e : BitVec.extractLsb' 25 7 (55#7 ++ d.code ++ a.code ++ b.code ++ k : BitVec 32) = 55#7 := by
    simp (disch := omega) only [extract_high, Nat.reduceSub, Nat.sub_zero, BitVec.extractLsb'_eq_self]
  rw [decode, e]
  change decodeOp37 _ = _
  simp (disch := omega) [decodeOp37, extract_high, extract_low, VOp.ofCode_code, SOp.ofCode_code, Tag.ofCode_code]

theorem Laws.RoundTrip.sst (d : SOp) (a : SOp) (b : SOp) (w : BitVec 2) : Laws.RoundTrip.Statement (.sst d a b w) := by
  intro w h
  cases h
  have e : BitVec.extractLsb' 25 7 (56#7 ++ d.code ++ a.code ++ b.code ++ 0#2 ++ w : BitVec 32) = 56#7 := by
    simp (disch := omega) only [extract_high, Nat.reduceSub, Nat.sub_zero, BitVec.extractLsb'_eq_self]
  rw [decode, e]
  change decodeOp38 _ = _
  simp (disch := omega) [decodeOp38, extract_high, extract_low, VOp.ofCode_code, SOp.ofCode_code, Tag.ofCode_code]

theorem Laws.RoundTrip.sget (d : SOp) (a : VOp) (b : VOp) : Laws.RoundTrip.Statement (.sget d a b) := by
  intro w h
  cases h
  have e : BitVec.extractLsb' 25 7 (57#7 ++ d.code ++ a.code ++ b.code ++ 0#1 ++ 0#1 ++ 0#2 : BitVec 32) = 57#7 := by
    simp (disch := omega) only [extract_high, Nat.reduceSub, Nat.sub_zero, BitVec.extractLsb'_eq_self]
  rw [decode, e]
  change decodeOp39 _ = _
  simp (disch := omega) [decodeOp39, extract_high, extract_low, VOp.ofCode_code, SOp.ofCode_code, Tag.ofCode_code]

theorem Laws.RoundTrip.fadd (d : VOp) (a : VOp) (b : VOp) (da : BitVec 1) (db : BitVec 1) (f : BitVec 2) : Laws.RoundTrip.Statement (.fadd d a b da db f) := by
  intro w h
  cases h
  have e : BitVec.extractLsb' 25 7 (60#7 ++ d.code ++ a.code ++ b.code ++ da ++ db ++ f : BitVec 32) = 60#7 := by
    simp (disch := omega) only [extract_high, Nat.reduceSub, Nat.sub_zero, BitVec.extractLsb'_eq_self]
  rw [decode, e]
  change decodeOp3C _ = _
  simp (disch := omega) [decodeOp3C, extract_high, extract_low, VOp.ofCode_code, SOp.ofCode_code, Tag.ofCode_code]

theorem Laws.RoundTrip.fsub (d : VOp) (a : VOp) (b : VOp) (da : BitVec 1) (db : BitVec 1) (f : BitVec 2) : Laws.RoundTrip.Statement (.fsub d a b da db f) := by
  intro w h
  cases h
  have e : BitVec.extractLsb' 25 7 (61#7 ++ d.code ++ a.code ++ b.code ++ da ++ db ++ f : BitVec 32) = 61#7 := by
    simp (disch := omega) only [extract_high, Nat.reduceSub, Nat.sub_zero, BitVec.extractLsb'_eq_self]
  rw [decode, e]
  change decodeOp3D _ = _
  simp (disch := omega) [decodeOp3D, extract_high, extract_low, VOp.ofCode_code, SOp.ofCode_code, Tag.ofCode_code]

theorem Laws.RoundTrip.fmul (d : VOp) (a : VOp) (b : VOp) (da : BitVec 1) (db : BitVec 1) (f : BitVec 2) : Laws.RoundTrip.Statement (.fmul d a b da db f) := by
  intro w h
  cases h
  have e : BitVec.extractLsb' 25 7 (62#7 ++ d.code ++ a.code ++ b.code ++ da ++ db ++ f : BitVec 32) = 62#7 := by
    simp (disch := omega) only [extract_high, Nat.reduceSub, Nat.sub_zero, BitVec.extractLsb'_eq_self]
  rw [decode, e]
  change decodeOp3E _ = _
  simp (disch := omega) [decodeOp3E, extract_high, extract_low, VOp.ofCode_code, SOp.ofCode_code, Tag.ofCode_code]

theorem Laws.RoundTrip.ffma (d : VOp) (a : VOp) (b : VOp) (da : BitVec 1) (db : BitVec 1) (f : BitVec 2) : Laws.RoundTrip.Statement (.ffma d a b da db f) := by
  intro w h
  cases h
  have e : BitVec.extractLsb' 25 7 (63#7 ++ d.code ++ a.code ++ b.code ++ da ++ db ++ f : BitVec 32) = 63#7 := by
    simp (disch := omega) only [extract_high, Nat.reduceSub, Nat.sub_zero, BitVec.extractLsb'_eq_self]
  rw [decode, e]
  change decodeOp3F _ = _
  simp (disch := omega) [decodeOp3F, extract_high, extract_low, VOp.ofCode_code, SOp.ofCode_code, Tag.ofCode_code]

theorem Laws.RoundTrip.fminmax (d : VOp) (a : VOp) (b : VOp) (da : BitVec 1) (db : BitVec 1) (f : BitVec 2) : Laws.RoundTrip.Statement (.fminmax d a b da db f) := by
  intro w h
  cases h
  have e : BitVec.extractLsb' 25 7 (64#7 ++ d.code ++ a.code ++ b.code ++ da ++ db ++ f : BitVec 32) = 64#7 := by
    simp (disch := omega) only [extract_high, Nat.reduceSub, Nat.sub_zero, BitVec.extractLsb'_eq_self]
  rw [decode, e]
  change decodeOp40 _ = _
  simp (disch := omega) [decodeOp40, extract_high, extract_low, VOp.ofCode_code, SOp.ofCode_code, Tag.ofCode_code]

theorem Laws.RoundTrip.fcmp (d : VOp) (a : VOp) (b : VOp) (da : BitVec 1) (db : BitVec 1) (f : BitVec 2) : Laws.RoundTrip.Statement (.fcmp d a b da db f) := by
  intro w h
  cases h
  have e : BitVec.extractLsb' 25 7 (65#7 ++ d.code ++ a.code ++ b.code ++ da ++ db ++ f : BitVec 32) = 65#7 := by
    simp (disch := omega) only [extract_high, Nat.reduceSub, Nat.sub_zero, BitVec.extractLsb'_eq_self]
  rw [decode, e]
  change decodeOp41 _ = _
  simp (disch := omega) [decodeOp41, extract_high, extract_low, VOp.ofCode_code, SOp.ofCode_code, Tag.ofCode_code]

theorem Laws.RoundTrip.fsign (d : VOp) (a : VOp) (b : VOp) (da : BitVec 1) (db : BitVec 1) (f : BitVec 2) : Laws.RoundTrip.Statement (.fsign d a b da db f) := by
  intro w h
  cases h
  have e : BitVec.extractLsb' 25 7 (66#7 ++ d.code ++ a.code ++ b.code ++ da ++ db ++ f : BitVec 32) = 66#7 := by
    simp (disch := omega) only [extract_high, Nat.reduceSub, Nat.sub_zero, BitVec.extractLsb'_eq_self]
  rw [decode, e]
  change decodeOp42 _ = _
  simp (disch := omega) [decodeOp42, extract_high, extract_low, VOp.ofCode_code, SOp.ofCode_code, Tag.ofCode_code]

theorem Laws.RoundTrip.frcp (d : VOp) (a : VOp) (k : BitVec 4) : Laws.RoundTrip.Statement (.frcp d a k) := by
  intro w h
  cases h
  have e : BitVec.extractLsb' 25 7 (67#7 ++ d.code ++ a.code ++ 0#7 ++ k : BitVec 32) = 67#7 := by
    simp (disch := omega) only [extract_high, Nat.reduceSub, Nat.sub_zero, BitVec.extractLsb'_eq_self]
  rw [decode, e]
  change decodeOp43 _ = _
  simp (disch := omega) [decodeOp43, extract_high, extract_low, VOp.ofCode_code, SOp.ofCode_code, Tag.ofCode_code]

theorem Laws.RoundTrip.frsq (d : VOp) (a : VOp) (k : BitVec 4) : Laws.RoundTrip.Statement (.frsq d a k) := by
  intro w h
  cases h
  have e : BitVec.extractLsb' 25 7 (68#7 ++ d.code ++ a.code ++ 0#7 ++ k : BitVec 32) = 68#7 := by
    simp (disch := omega) only [extract_high, Nat.reduceSub, Nat.sub_zero, BitVec.extractLsb'_eq_self]
  rw [decode, e]
  change decodeOp44 _ = _
  simp (disch := omega) [decodeOp44, extract_high, extract_low, VOp.ofCode_code, SOp.ofCode_code, Tag.ofCode_code]

theorem Laws.RoundTrip.fsqrt (d : VOp) (a : VOp) (k : BitVec 4) : Laws.RoundTrip.Statement (.fsqrt d a k) := by
  intro w h
  cases h
  have e : BitVec.extractLsb' 25 7 (69#7 ++ d.code ++ a.code ++ 0#7 ++ k : BitVec 32) = 69#7 := by
    simp (disch := omega) only [extract_high, Nat.reduceSub, Nat.sub_zero, BitVec.extractLsb'_eq_self]
  rw [decode, e]
  change decodeOp45 _ = _
  simp (disch := omega) [decodeOp45, extract_high, extract_low, VOp.ofCode_code, SOp.ofCode_code, Tag.ofCode_code]

theorem Laws.RoundTrip.fexp2 (d : VOp) (a : VOp) (k : BitVec 4) : Laws.RoundTrip.Statement (.fexp2 d a k) := by
  intro w h
  cases h
  have e : BitVec.extractLsb' 25 7 (70#7 ++ d.code ++ a.code ++ 0#7 ++ k : BitVec 32) = 70#7 := by
    simp (disch := omega) only [extract_high, Nat.reduceSub, Nat.sub_zero, BitVec.extractLsb'_eq_self]
  rw [decode, e]
  change decodeOp46 _ = _
  simp (disch := omega) [decodeOp46, extract_high, extract_low, VOp.ofCode_code, SOp.ofCode_code, Tag.ofCode_code]

theorem Laws.RoundTrip.flog2 (d : VOp) (a : VOp) (k : BitVec 4) : Laws.RoundTrip.Statement (.flog2 d a k) := by
  intro w h
  cases h
  have e : BitVec.extractLsb' 25 7 (71#7 ++ d.code ++ a.code ++ 0#7 ++ k : BitVec 32) = 71#7 := by
    simp (disch := omega) only [extract_high, Nat.reduceSub, Nat.sub_zero, BitVec.extractLsb'_eq_self]
  rw [decode, e]
  change decodeOp47 _ = _
  simp (disch := omega) [decodeOp47, extract_high, extract_low, VOp.ofCode_code, SOp.ofCode_code, Tag.ofCode_code]

theorem Laws.RoundTrip.fsin (d : VOp) (a : VOp) (k : BitVec 4) : Laws.RoundTrip.Statement (.fsin d a k) := by
  intro w h
  cases h
  have e : BitVec.extractLsb' 25 7 (72#7 ++ d.code ++ a.code ++ 0#7 ++ k : BitVec 32) = 72#7 := by
    simp (disch := omega) only [extract_high, Nat.reduceSub, Nat.sub_zero, BitVec.extractLsb'_eq_self]
  rw [decode, e]
  change decodeOp48 _ = _
  simp (disch := omega) [decodeOp48, extract_high, extract_low, VOp.ofCode_code, SOp.ofCode_code, Tag.ofCode_code]

theorem Laws.RoundTrip.fcos (d : VOp) (a : VOp) (k : BitVec 4) : Laws.RoundTrip.Statement (.fcos d a k) := by
  intro w h
  cases h
  have e : BitVec.extractLsb' 25 7 (73#7 ++ d.code ++ a.code ++ 0#7 ++ k : BitVec 32) = 73#7 := by
    simp (disch := omega) only [extract_high, Nat.reduceSub, Nat.sub_zero, BitVec.extractLsb'_eq_self]
  rw [decode, e]
  change decodeOp49 _ = _
  simp (disch := omega) [decodeOp49, extract_high, extract_low, VOp.ofCode_code, SOp.ofCode_code, Tag.ofCode_code]

theorem Laws.RoundTrip.fdiv (d : VOp) (a : VOp) (b : VOp) (k : BitVec 4) : Laws.RoundTrip.Statement (.fdiv d a b k) := by
  intro w h
  cases h
  have e : BitVec.extractLsb' 25 7 (74#7 ++ d.code ++ a.code ++ b.code ++ k : BitVec 32) = 74#7 := by
    simp (disch := omega) only [extract_high, Nat.reduceSub, Nat.sub_zero, BitVec.extractLsb'_eq_self]
  rw [decode, e]
  change decodeOp4A _ = _
  simp (disch := omega) [decodeOp4A, extract_high, extract_low, VOp.ofCode_code, SOp.ofCode_code, Tag.ofCode_code]

theorem Laws.RoundTrip.fdot2 (d : VOp) (a : VOp) (b : VOp) (da : BitVec 1) (db : BitVec 1) : Laws.RoundTrip.Statement (.fdot2 d a b da db) := by
  intro w h
  cases h
  have e : BitVec.extractLsb' 25 7 (75#7 ++ d.code ++ a.code ++ b.code ++ da ++ db ++ 0#2 : BitVec 32) = 75#7 := by
    simp (disch := omega) only [extract_high, Nat.reduceSub, Nat.sub_zero, BitVec.extractLsb'_eq_self]
  rw [decode, e]
  change decodeOp4B _ = _
  simp (disch := omega) [decodeOp4B, extract_high, extract_low, VOp.ofCode_code, SOp.ofCode_code, Tag.ofCode_code]

theorem Laws.RoundTrip.idot4 (d : VOp) (a : VOp) (b : VOp) (da : BitVec 1) (db : BitVec 1) (f : BitVec 2) : Laws.RoundTrip.Statement (.idot4 d a b da db f) := by
  intro w h
  cases h
  have e : BitVec.extractLsb' 25 7 (76#7 ++ d.code ++ a.code ++ b.code ++ da ++ db ++ f : BitVec 32) = 76#7 := by
    simp (disch := omega) only [extract_high, Nat.reduceSub, Nat.sub_zero, BitVec.extractLsb'_eq_self]
  rw [decode, e]
  change decodeOp4C _ = _
  simp (disch := omega) [decodeOp4C, extract_high, extract_low, VOp.ofCode_code, SOp.ofCode_code, Tag.ofCode_code]

theorem Laws.RoundTrip.fround (d : VOp) (a : VOp) (da : BitVec 1) (f : BitVec 2) : Laws.RoundTrip.Statement (.fround d a da f) := by
  intro w h
  cases h
  have e : BitVec.extractLsb' 25 7 (77#7 ++ d.code ++ a.code ++ 0#7 ++ da ++ 0#1 ++ f : BitVec 32) = 77#7 := by
    simp (disch := omega) only [extract_high, Nat.reduceSub, Nat.sub_zero, BitVec.extractLsb'_eq_self]
  rw [decode, e]
  change decodeOp4D _ = _
  simp (disch := omega) [decodeOp4D, extract_high, extract_low, VOp.ofCode_code, SOp.ofCode_code, Tag.ofCode_code]

theorem Laws.RoundTrip.radd (d : VOp) (a : VOp) (b : VOp) (da : BitVec 1) (db : BitVec 1) : Laws.RoundTrip.Statement (.radd d a b da db) := by
  intro w h
  cases h
  have e : BitVec.extractLsb' 25 7 (80#7 ++ d.code ++ a.code ++ b.code ++ da ++ db ++ 0#2 : BitVec 32) = 80#7 := by
    simp (disch := omega) only [extract_high, Nat.reduceSub, Nat.sub_zero, BitVec.extractLsb'_eq_self]
  rw [decode, e]
  change decodeOp50 _ = _
  simp (disch := omega) [decodeOp50, extract_high, extract_low, VOp.ofCode_code, SOp.ofCode_code, Tag.ofCode_code]

theorem Laws.RoundTrip.rmul (d : VOp) (a : VOp) (b : VOp) (da : BitVec 1) (db : BitVec 1) : Laws.RoundTrip.Statement (.rmul d a b da db) := by
  intro w h
  cases h
  have e : BitVec.extractLsb' 25 7 (81#7 ++ d.code ++ a.code ++ b.code ++ da ++ db ++ 0#2 : BitVec 32) = 81#7 := by
    simp (disch := omega) only [extract_high, Nat.reduceSub, Nat.sub_zero, BitVec.extractLsb'_eq_self]
  rw [decode, e]
  change decodeOp51 _ = _
  simp (disch := omega) [decodeOp51, extract_high, extract_low, VOp.ofCode_code, SOp.ofCode_code, Tag.ofCode_code]

theorem Laws.RoundTrip.rmac (d : VOp) (a : VOp) (b : VOp) (da : BitVec 1) (db : BitVec 1) : Laws.RoundTrip.Statement (.rmac d a b da db) := by
  intro w h
  cases h
  have e : BitVec.extractLsb' 25 7 (82#7 ++ d.code ++ a.code ++ b.code ++ da ++ db ++ 0#2 : BitVec 32) = 82#7 := by
    simp (disch := omega) only [extract_high, Nat.reduceSub, Nat.sub_zero, BitVec.extractLsb'_eq_self]
  rw [decode, e]
  change decodeOp52 _ = _
  simp (disch := omega) [decodeOp52, extract_high, extract_low, VOp.ofCode_code, SOp.ofCode_code, Tag.ofCode_code]

theorem Laws.RoundTrip.rneg (d : VOp) (a : VOp) (da : BitVec 1) : Laws.RoundTrip.Statement (.rneg d a da) := by
  intro w h
  cases h
  have e : BitVec.extractLsb' 25 7 (83#7 ++ d.code ++ a.code ++ 0#7 ++ da ++ 0#1 ++ 0#2 : BitVec 32) = 83#7 := by
    simp (disch := omega) only [extract_high, Nat.reduceSub, Nat.sub_zero, BitVec.extractLsb'_eq_self]
  rw [decode, e]
  change decodeOp53 _ = _
  simp (disch := omega) [decodeOp53, extract_high, extract_low, VOp.ofCode_code, SOp.ofCode_code, Tag.ofCode_code]

theorem Laws.RoundTrip.rcrt (d : VOp) (a : VOp) (b : VOp) (da : BitVec 1) (db : BitVec 1) (f : BitVec 2) : Laws.RoundTrip.Statement (.rcrt d a b da db f) := by
  intro w h
  cases h
  have e : BitVec.extractLsb' 25 7 (84#7 ++ d.code ++ a.code ++ b.code ++ da ++ db ++ f : BitVec 32) = 84#7 := by
    simp (disch := omega) only [extract_high, Nat.reduceSub, Nat.sub_zero, BitVec.extractLsb'_eq_self]
  rw [decode, e]
  change decodeOp54 _ = _
  simp (disch := omega) [decodeOp54, extract_high, extract_low, VOp.ofCode_code, SOp.ofCode_code, Tag.ofCode_code]

theorem Laws.RoundTrip.renc (d : VOp) (a : VOp) (g : Tag) (da : BitVec 1) : Laws.RoundTrip.Statement (.renc d a g da) := by
  intro w h
  cases h
  have e : BitVec.extractLsb' 25 7 (85#7 ++ d.code ++ a.code ++ 0#2 ++ g.code ++ da ++ 0#1 ++ 0#2 : BitVec 32) = 85#7 := by
    simp (disch := omega) only [extract_high, Nat.reduceSub, Nat.sub_zero, BitVec.extractLsb'_eq_self]
  rw [decode, e]
  change decodeOp55 _ = _
  simp (disch := omega) [decodeOp55, extract_high, extract_low, VOp.ofCode_code, SOp.ofCode_code, Tag.ofCode_code]

theorem Laws.RoundTrip.cvt (d : VOp) (a : VOp) (r : BitVec 2) (g : Tag) (da : BitVec 1) : Laws.RoundTrip.Statement (.cvt d a r g da) := by
  intro w h
  cases h
  have e : BitVec.extractLsb' 25 7 (88#7 ++ d.code ++ a.code ++ 0#3 ++ r ++ g.code ++ da : BitVec 32) = 88#7 := by
    simp (disch := omega) only [extract_high, Nat.reduceSub, Nat.sub_zero, BitVec.extractLsb'_eq_self]
  rw [decode, e]
  change decodeOp58 _ = _
  simp (disch := omega) [decodeOp58, extract_high, extract_low, VOp.ofCode_code, SOp.ofCode_code, Tag.ofCode_code]

theorem Laws.RoundTrip.tag (d : VOp) (a : VOp) (g : Tag) (da : BitVec 1) : Laws.RoundTrip.Statement (.tag d a g da) := by
  intro w h
  cases h
  have e : BitVec.extractLsb' 25 7 (89#7 ++ d.code ++ a.code ++ 0#5 ++ g.code ++ da : BitVec 32) = 89#7 := by
    simp (disch := omega) only [extract_high, Nat.reduceSub, Nat.sub_zero, BitVec.extractLsb'_eq_self]
  rw [decode, e]
  change decodeOp59 _ = _
  simp (disch := omega) [decodeOp59, extract_high, extract_low, VOp.ofCode_code, SOp.ofCode_code, Tag.ofCode_code]

theorem Laws.RoundTrip.mov (d : VOp) (a : VOp) (da : BitVec 1) : Laws.RoundTrip.Statement (.mov d a da) := by
  intro w h
  cases h
  have e : BitVec.extractLsb' 25 7 (90#7 ++ d.code ++ a.code ++ 0#7 ++ da ++ 0#1 ++ 0#2 : BitVec 32) = 90#7 := by
    simp (disch := omega) only [extract_high, Nat.reduceSub, Nat.sub_zero, BitVec.extractLsb'_eq_self]
  rw [decode, e]
  change decodeOp5A _ = _
  simp (disch := omega) [decodeOp5A, extract_high, extract_low, VOp.ofCode_code, SOp.ofCode_code, Tag.ofCode_code]

theorem Laws.RoundTrip.movD (d : VOp) (a : VOp) (da : BitVec 1) : Laws.RoundTrip.Statement (.movD d a da) := by
  intro w h
  cases h
  have e : BitVec.extractLsb' 25 7 (90#7 ++ d.code ++ a.code ++ 0#7 ++ da ++ 0#1 ++ 1#2 : BitVec 32) = 90#7 := by
    simp (disch := omega) only [extract_high, Nat.reduceSub, Nat.sub_zero, BitVec.extractLsb'_eq_self]
  rw [decode, e]
  change decodeOp5A _ = _
  simp (disch := omega) [decodeOp5A, extract_high, extract_low, VOp.ofCode_code, SOp.ofCode_code, Tag.ofCode_code]

theorem Laws.RoundTrip.winb (q : BitVec 5) : Laws.RoundTrip.Statement (.winb q) := by
  intro w h
  cases h
  have e : BitVec.extractLsb' 25 7 (91#7 ++ 0#7 ++ 0#7 ++ 0#5 ++ q ++ 0#1 : BitVec 32) = 91#7 := by
    simp (disch := omega) only [extract_high, Nat.reduceSub, Nat.sub_zero, BitVec.extractLsb'_eq_self]
  rw [decode, e]
  change decodeOp5B _ = _
  simp (disch := omega) [decodeOp5B, extract_high, extract_low, VOp.ofCode_code, SOp.ofCode_code, Tag.ofCode_code]

theorem Laws.RoundTrip.swinb (q : BitVec 6) : Laws.RoundTrip.Statement (.swinb q) := by
  intro w h
  cases h
  have e : BitVec.extractLsb' 25 7 (92#7 ++ 0#7 ++ 0#7 ++ 0#4 ++ q ++ 0#1 : BitVec 32) = 92#7 := by
    simp (disch := omega) only [extract_high, Nat.reduceSub, Nat.sub_zero, BitVec.extractLsb'_eq_self]
  rw [decode, e]
  change decodeOp5C _ = _
  simp (disch := omega) [decodeOp5C, extract_high, extract_low, VOp.ofCode_code, SOp.ofCode_code, Tag.ofCode_code]

theorem Laws.RoundTrip.grow (d : SOp) (blocking : BitVec 1) (g : BitVec 8) : Laws.RoundTrip.Statement (.grow d blocking g) := by
  intro w h
  cases h
  have e : BitVec.extractLsb' 25 7 (93#7 ++ d.code ++ 0#7 ++ 0#1 ++ blocking ++ g ++ 0#1 : BitVec 32) = 93#7 := by
    simp (disch := omega) only [extract_high, Nat.reduceSub, Nat.sub_zero, BitVec.extractLsb'_eq_self]
  rw [decode, e]
  change decodeOp5D _ = _
  simp (disch := omega) [decodeOp5D, extract_high, extract_low, VOp.ofCode_code, SOp.ofCode_code, Tag.ofCode_code]

theorem Laws.RoundTrip.shrink (d : SOp) (g : BitVec 8) : Laws.RoundTrip.Statement (.shrink d g) := by
  intro w h
  cases h
  have e : BitVec.extractLsb' 25 7 (94#7 ++ d.code ++ 0#7 ++ 0#2 ++ g ++ 0#1 : BitVec 32) = 94#7 := by
    simp (disch := omega) only [extract_high, Nat.reduceSub, Nat.sub_zero, BitVec.extractLsb'_eq_self]
  rw [decode, e]
  change decodeOp5E _ = _
  simp (disch := omega) [decodeOp5E, extract_high, extract_low, VOp.ofCode_code, SOp.ofCode_code, Tag.ofCode_code]

theorem Laws.RoundTrip.ocmovRd (d : VOp) (b : VOp) : Laws.RoundTrip.Statement (.ocmovRd d b) := by
  intro w h
  cases h
  have e : BitVec.extractLsb' 25 7 (95#7 ++ d.code ++ 0#7 ++ b.code ++ 0#1 ++ 0#1 ++ 0#2 : BitVec 32) = 95#7 := by
    simp (disch := omega) only [extract_high, Nat.reduceSub, Nat.sub_zero, BitVec.extractLsb'_eq_self]
  rw [decode, e]
  change decodeOp5F _ = _
  simp (disch := omega) [decodeOp5F, extract_high, extract_low, VOp.ofCode_code, SOp.ofCode_code, Tag.ofCode_code]

theorem Laws.RoundTrip.ocmovWr (a : VOp) (b : VOp) (da : BitVec 1) : Laws.RoundTrip.Statement (.ocmovWr a b da) := by
  intro w h
  cases h
  have e : BitVec.extractLsb' 25 7 (95#7 ++ 0#7 ++ a.code ++ b.code ++ da ++ 0#1 ++ 1#2 : BitVec 32) = 95#7 := by
    simp (disch := omega) only [extract_high, Nat.reduceSub, Nat.sub_zero, BitVec.extractLsb'_eq_self]
  rw [decode, e]
  change decodeOp5F _ = _
  simp (disch := omega) [decodeOp5F, extract_high, extract_low, VOp.ofCode_code, SOp.ofCode_code, Tag.ofCode_code]

theorem Laws.RoundTrip.bra (u : BitVec 1) (disp : BitVec 17) : Laws.RoundTrip.Statement (.bra u disp) := by
  intro w h
  cases h
  have e : BitVec.extractLsb' 25 7 (96#7 ++ 0#7 ++ u ++ disp : BitVec 32) = 96#7 := by
    simp (disch := omega) only [extract_high, Nat.reduceSub, Nat.sub_zero, BitVec.extractLsb'_eq_self]
  rw [decode, e]
  change decodeOp60 _ = _
  simp (disch := omega) [decodeOp60, extract_high, extract_low, VOp.ofCode_code, SOp.ofCode_code, Tag.ofCode_code]

theorem Laws.RoundTrip.bnz (c : VOp) (u : BitVec 1) (disp : BitVec 17) : Laws.RoundTrip.Statement (.bnz c u disp) := by
  intro w h
  cases h
  have e : BitVec.extractLsb' 25 7 (97#7 ++ c.code ++ u ++ disp : BitVec 32) = 97#7 := by
    simp (disch := omega) only [extract_high, Nat.reduceSub, Nat.sub_zero, BitVec.extractLsb'_eq_self]
  rw [decode, e]
  change decodeOp61 _ = _
  simp (disch := omega) [decodeOp61, extract_high, extract_low, VOp.ofCode_code, SOp.ofCode_code, Tag.ofCode_code]

theorem Laws.RoundTrip.bz (c : VOp) (u : BitVec 1) (disp : BitVec 17) : Laws.RoundTrip.Statement (.bz c u disp) := by
  intro w h
  cases h
  have e : BitVec.extractLsb' 25 7 (98#7 ++ c.code ++ u ++ disp : BitVec 32) = 98#7 := by
    simp (disch := omega) only [extract_high, Nat.reduceSub, Nat.sub_zero, BitVec.extractLsb'_eq_self]
  rw [decode, e]
  change decodeOp62 _ = _
  simp (disch := omega) [decodeOp62, extract_high, extract_low, VOp.ofCode_code, SOp.ofCode_code, Tag.ofCode_code]

theorem Laws.RoundTrip.call (c : VOp) (disp : BitVec 17) : Laws.RoundTrip.Statement (.call c disp) := by
  intro w h
  cases h
  have e : BitVec.extractLsb' 25 7 (99#7 ++ c.code ++ 0#1 ++ disp : BitVec 32) = 99#7 := by
    simp (disch := omega) only [extract_high, Nat.reduceSub, Nat.sub_zero, BitVec.extractLsb'_eq_self]
  rw [decode, e]
  change decodeOp63 _ = _
  simp (disch := omega) [decodeOp63, extract_high, extract_low, VOp.ofCode_code, SOp.ofCode_code, Tag.ofCode_code]

theorem Laws.RoundTrip.callr (d : VOp) (a : VOp) (da : BitVec 1) (f : BitVec 2) : Laws.RoundTrip.Statement (.callr d a da f) := by
  intro w h
  cases h
  have e : BitVec.extractLsb' 25 7 (100#7 ++ d.code ++ a.code ++ 0#7 ++ da ++ 0#1 ++ f : BitVec 32) = 100#7 := by
    simp (disch := omega) only [extract_high, Nat.reduceSub, Nat.sub_zero, BitVec.extractLsb'_eq_self]
  rw [decode, e]
  change decodeOp64 _ = _
  simp (disch := omega) [decodeOp64, extract_high, extract_low, VOp.ofCode_code, SOp.ofCode_code, Tag.ofCode_code]

theorem Laws.RoundTrip.jmpr (a : VOp) (da : BitVec 1) : Laws.RoundTrip.Statement (.jmpr a da) := by
  intro w h
  cases h
  have e : BitVec.extractLsb' 25 7 (101#7 ++ 0#7 ++ a.code ++ 0#7 ++ da ++ 0#1 ++ 0#2 : BitVec 32) = 101#7 := by
    simp (disch := omega) only [extract_high, Nat.reduceSub, Nat.sub_zero, BitVec.extractLsb'_eq_self]
  rw [decode, e]
  change decodeOp65 _ = _
  simp (disch := omega) [decodeOp65, extract_high, extract_low, VOp.ofCode_code, SOp.ofCode_code, Tag.ofCode_code]

theorem Laws.RoundTrip.ret (a : VOp) (da : BitVec 1) : Laws.RoundTrip.Statement (.ret a da) := by
  intro w h
  cases h
  have e : BitVec.extractLsb' 25 7 (102#7 ++ 0#7 ++ a.code ++ 0#7 ++ da ++ 0#1 ++ 0#2 : BitVec 32) = 102#7 := by
    simp (disch := omega) only [extract_high, Nat.reduceSub, Nat.sub_zero, BitVec.extractLsb'_eq_self]
  rw [decode, e]
  change decodeOp66 _ = _
  simp (disch := omega) [decodeOp66, extract_high, extract_low, VOp.ofCode_code, SOp.ofCode_code, Tag.ofCode_code]

theorem Laws.RoundTrip.exit : Laws.RoundTrip.Statement (.exit) := by
  intro w h
  cases h
  have e : BitVec.extractLsb' 25 7 (103#7 ++ 0#25 : BitVec 32) = 103#7 := by
    simp (disch := omega) only [extract_high, Nat.reduceSub, Nat.sub_zero, BitVec.extractLsb'_eq_self]
  rw [decode, e]
  change decodeOp67 _ = _
  simp (disch := omega) [decodeOp67, extract_high, extract_low, VOp.ofCode_code, SOp.ofCode_code, Tag.ofCode_code]

theorem Laws.RoundTrip.tryRegion (f : BitVec 1) (l : BitVec 2) (disp : BitVec 17) : Laws.RoundTrip.Statement (.tryRegion f l disp) := by
  intro w h
  cases h
  have e : BitVec.extractLsb' 25 7 (104#7 ++ 0#4 ++ f ++ l ++ 0#1 ++ disp : BitVec 32) = 104#7 := by
    simp (disch := omega) only [extract_high, Nat.reduceSub, Nat.sub_zero, BitVec.extractLsb'_eq_self]
  rw [decode, e]
  change decodeOp68 _ = _
  simp (disch := omega) [decodeOp68, extract_high, extract_low, VOp.ofCode_code, SOp.ofCode_code, Tag.ofCode_code]

theorem Laws.RoundTrip.endtry (l : BitVec 2) : Laws.RoundTrip.Statement (.endtry l) := by
  intro w h
  cases h
  have e : BitVec.extractLsb' 25 7 (105#7 ++ 0#23 ++ l : BitVec 32) = 105#7 := by
    simp (disch := omega) only [extract_high, Nat.reduceSub, Nat.sub_zero, BitVec.extractLsb'_eq_self]
  rw [decode, e]
  change decodeOp69 _ = _
  simp (disch := omega) [decodeOp69, extract_high, extract_low, VOp.ofCode_code, SOp.ofCode_code, Tag.ofCode_code]

theorem Laws.RoundTrip.throwCode (a : VOp) (da : BitVec 1) : Laws.RoundTrip.Statement (.throwCode a da) := by
  intro w h
  cases h
  have e : BitVec.extractLsb' 25 7 (106#7 ++ 0#7 ++ a.code ++ 0#7 ++ da ++ 0#1 ++ 0#2 : BitVec 32) = 106#7 := by
    simp (disch := omega) only [extract_high, Nat.reduceSub, Nat.sub_zero, BitVec.extractLsb'_eq_self]
  rw [decode, e]
  change decodeOp6A _ = _
  simp (disch := omega) [decodeOp6A, extract_high, extract_low, VOp.ofCode_code, SOp.ofCode_code, Tag.ofCode_code]

theorem Laws.RoundTrip.rethrow : Laws.RoundTrip.Statement (.rethrow) := by
  intro w h
  cases h
  have e : BitVec.extractLsb' 25 7 (106#7 ++ 0#23 ++ 1#2 : BitVec 32) = 106#7 := by
    simp (disch := omega) only [extract_high, Nat.reduceSub, Nat.sub_zero, BitVec.extractLsb'_eq_self]
  rw [decode, e]
  change decodeOp6A _ = _
  simp (disch := omega) [decodeOp6A, extract_high, extract_low, VOp.ofCode_code, SOp.ofCode_code, Tag.ofCode_code]

theorem Laws.RoundTrip.xget (d : VOp) (sel : BitVec 10) : Laws.RoundTrip.Statement (.xget d sel) := by
  intro w h
  cases h
  have e : BitVec.extractLsb' 25 7 (107#7 ++ d.code ++ 0#7 ++ sel ++ 0#1 : BitVec 32) = 107#7 := by
    simp (disch := omega) only [extract_high, Nat.reduceSub, Nat.sub_zero, BitVec.extractLsb'_eq_self]
  rw [decode, e]
  change decodeOp6B _ = _
  simp (disch := omega) [decodeOp6B, extract_high, extract_low, VOp.ofCode_code, SOp.ofCode_code, Tag.ofCode_code]

theorem Laws.RoundTrip.barArrive (b : BitVec 4) : Laws.RoundTrip.Statement (.barArrive b) := by
  intro w h
  cases h
  have e : BitVec.extractLsb' 25 7 (108#7 ++ 0#7 ++ 0#7 ++ 0#4 ++ 0#2 ++ b ++ 0#1 : BitVec 32) = 108#7 := by
    simp (disch := omega) only [extract_high, Nat.reduceSub, Nat.sub_zero, BitVec.extractLsb'_eq_self]
  rw [decode, e]
  change decodeOp6C _ = _
  simp (disch := omega) [decodeOp6C, extract_high, extract_low, VOp.ofCode_code, SOp.ofCode_code, Tag.ofCode_code]

theorem Laws.RoundTrip.barWait (b : BitVec 4) : Laws.RoundTrip.Statement (.barWait b) := by
  intro w h
  cases h
  have e : BitVec.extractLsb' 25 7 (108#7 ++ 0#7 ++ 0#7 ++ 0#4 ++ 1#2 ++ b ++ 0#1 : BitVec 32) = 108#7 := by
    simp (disch := omega) only [extract_high, Nat.reduceSub, Nat.sub_zero, BitVec.extractLsb'_eq_self]
  rw [decode, e]
  change decodeOp6C _ = _
  simp (disch := omega) [decodeOp6C, extract_high, extract_low, VOp.ofCode_code, SOp.ofCode_code, Tag.ofCode_code]

theorem Laws.RoundTrip.barSync (b : BitVec 4) : Laws.RoundTrip.Statement (.barSync b) := by
  intro w h
  cases h
  have e : BitVec.extractLsb' 25 7 (108#7 ++ 0#7 ++ 0#7 ++ 0#4 ++ 2#2 ++ b ++ 0#1 : BitVec 32) = 108#7 := by
    simp (disch := omega) only [extract_high, Nat.reduceSub, Nat.sub_zero, BitVec.extractLsb'_eq_self]
  rw [decode, e]
  change decodeOp6C _ = _
  simp (disch := omega) [decodeOp6C, extract_high, extract_low, VOp.ofCode_code, SOp.ofCode_code, Tag.ofCode_code]

theorem Laws.RoundTrip.barCount (d : VOp) (b : BitVec 4) : Laws.RoundTrip.Statement (.barCount d b) := by
  intro w h
  cases h
  have e : BitVec.extractLsb' 25 7 (108#7 ++ d.code ++ 0#7 ++ 0#4 ++ 3#2 ++ b ++ 0#1 : BitVec 32) = 108#7 := by
    simp (disch := omega) only [extract_high, Nat.reduceSub, Nat.sub_zero, BitVec.extractLsb'_eq_self]
  rw [decode, e]
  change decodeOp6C _ = _
  simp (disch := omega) [decodeOp6C, extract_high, extract_low, VOp.ofCode_code, SOp.ofCode_code, Tag.ofCode_code]

theorem Laws.RoundTrip.barGridSync : Laws.RoundTrip.Statement (.barGridSync) := by
  intro w h
  cases h
  have e : BitVec.extractLsb' 25 7 (108#7 ++ 0#7 ++ 0#7 ++ 0#3 ++ 1#1 ++ 2#2 ++ 0#4 ++ 0#1 : BitVec 32) = 108#7 := by
    simp (disch := omega) only [extract_high, Nat.reduceSub, Nat.sub_zero, BitVec.extractLsb'_eq_self]
  rw [decode, e]
  change decodeOp6C _ = _
  simp (disch := omega) [decodeOp6C, extract_high, extract_low, VOp.ofCode_code, SOp.ofCode_code, Tag.ofCode_code]

theorem Laws.RoundTrip.attach (c : SOp) (disp : BitVec 17) : Laws.RoundTrip.Statement (.attach c disp) := by
  intro w h
  cases h
  have e : BitVec.extractLsb' 25 7 (109#7 ++ c.code ++ 0#1 ++ disp : BitVec 32) = 109#7 := by
    simp (disch := omega) only [extract_high, Nat.reduceSub, Nat.sub_zero, BitVec.extractLsb'_eq_self]
  rw [decode, e]
  change decodeOp6D _ = _
  simp (disch := omega) [decodeOp6D, extract_high, extract_low, VOp.ofCode_code, SOp.ofCode_code, Tag.ofCode_code]

theorem Laws.RoundTrip.detach : Laws.RoundTrip.Statement (.detach) := by
  intro w h
  cases h
  have e : BitVec.extractLsb' 25 7 (110#7 ++ 0#25 : BitVec 32) = 110#7 := by
    simp (disch := omega) only [extract_high, Nat.reduceSub, Nat.sub_zero, BitVec.extractLsb'_eq_self]
  rw [decode, e]
  change decodeOp6E _ = _
  simp (disch := omega) [decodeOp6E, extract_high, extract_low, VOp.ofCode_code, SOp.ofCode_code, Tag.ofCode_code]

theorem Laws.RoundTrip.ldgW (d : VOp) (a : VOp) (b : VOp) (k : BitVec 4) : Laws.RoundTrip.Statement (.ldgW d a b k) := by
  intro w h
  cases h
  have e : BitVec.extractLsb' 25 7 (112#7 ++ d.code ++ a.code ++ b.code ++ k : BitVec 32) = 112#7 := by
    simp (disch := omega) only [extract_high, Nat.reduceSub, Nat.sub_zero, BitVec.extractLsb'_eq_self]
  rw [decode, e]
  change decodeOp70 _ = _
  simp (disch := omega) [decodeOp70, extract_high, extract_low, VOp.ofCode_code, SOp.ofCode_code, Tag.ofCode_code]

theorem Laws.RoundTrip.ldgD (d : VOp) (a : VOp) (b : VOp) (k : BitVec 4) : Laws.RoundTrip.Statement (.ldgD d a b k) := by
  intro w h
  cases h
  have e : BitVec.extractLsb' 25 7 (113#7 ++ d.code ++ a.code ++ b.code ++ k : BitVec 32) = 113#7 := by
    simp (disch := omega) only [extract_high, Nat.reduceSub, Nat.sub_zero, BitVec.extractLsb'_eq_self]
  rw [decode, e]
  change decodeOp71 _ = _
  simp (disch := omega) [decodeOp71, extract_high, extract_low, VOp.ofCode_code, SOp.ofCode_code, Tag.ofCode_code]

theorem Laws.RoundTrip.ldgQ (d : VOp) (a : VOp) (b : VOp) (k : BitVec 4) : Laws.RoundTrip.Statement (.ldgQ d a b k) := by
  intro w h
  cases h
  have e : BitVec.extractLsb' 25 7 (114#7 ++ d.code ++ a.code ++ b.code ++ k : BitVec 32) = 114#7 := by
    simp (disch := omega) only [extract_high, Nat.reduceSub, Nat.sub_zero, BitVec.extractLsb'_eq_self]
  rw [decode, e]
  change decodeOp72 _ = _
  simp (disch := omega) [decodeOp72, extract_high, extract_low, VOp.ofCode_code, SOp.ofCode_code, Tag.ofCode_code]

theorem Laws.RoundTrip.stg (d : VOp) (a : VOp) (b : VOp) (w : BitVec 2) : Laws.RoundTrip.Statement (.stg d a b w) := by
  intro w h
  cases h
  have e : BitVec.extractLsb' 25 7 (115#7 ++ d.code ++ a.code ++ b.code ++ 0#2 ++ w : BitVec 32) = 115#7 := by
    simp (disch := omega) only [extract_high, Nat.reduceSub, Nat.sub_zero, BitVec.extractLsb'_eq_self]
  rw [decode, e]
  change decodeOp73 _ = _
  simp (disch := omega) [decodeOp73, extract_high, extract_low, VOp.ofCode_code, SOp.ofCode_code, Tag.ofCode_code]

theorem Laws.RoundTrip.lds (d : VOp) (a : VOp) (b : VOp) (k : BitVec 4) : Laws.RoundTrip.Statement (.lds d a b k) := by
  intro w h
  cases h
  have e : BitVec.extractLsb' 25 7 (116#7 ++ d.code ++ a.code ++ b.code ++ k : BitVec 32) = 116#7 := by
    simp (disch := omega) only [extract_high, Nat.reduceSub, Nat.sub_zero, BitVec.extractLsb'_eq_self]
  rw [decode, e]
  change decodeOp74 _ = _
  simp (disch := omega) [decodeOp74, extract_high, extract_low, VOp.ofCode_code, SOp.ofCode_code, Tag.ofCode_code]

theorem Laws.RoundTrip.sts (d : VOp) (a : VOp) (b : VOp) : Laws.RoundTrip.Statement (.sts d a b) := by
  intro w h
  cases h
  have e : BitVec.extractLsb' 25 7 (117#7 ++ d.code ++ a.code ++ b.code ++ 0#4 : BitVec 32) = 117#7 := by
    simp (disch := omega) only [extract_high, Nat.reduceSub, Nat.sub_zero, BitVec.extractLsb'_eq_self]
  rw [decode, e]
  change decodeOp75 _ = _
  simp (disch := omega) [decodeOp75, extract_high, extract_low, VOp.ofCode_code, SOp.ofCode_code, Tag.ofCode_code]

theorem Laws.RoundTrip.atom (d : VOp) (a : VOp) (b : VOp) (k : BitVec 4) : Laws.RoundTrip.Statement (.atom d a b k) := by
  intro w h
  cases h
  have e : BitVec.extractLsb' 25 7 (118#7 ++ d.code ++ a.code ++ b.code ++ k : BitVec 32) = 118#7 := by
    simp (disch := omega) only [extract_high, Nat.reduceSub, Nat.sub_zero, BitVec.extractLsb'_eq_self]
  rw [decode, e]
  change decodeOp76 _ = _
  simp (disch := omega) [decodeOp76, extract_high, extract_low, VOp.ofCode_code, SOp.ofCode_code, Tag.ofCode_code]

theorem Laws.RoundTrip.red (a : VOp) (b : VOp) (k : BitVec 4) : Laws.RoundTrip.Statement (.red a b k) := by
  intro w h
  cases h
  have e : BitVec.extractLsb' 25 7 (119#7 ++ 0#7 ++ a.code ++ b.code ++ k : BitVec 32) = 119#7 := by
    simp (disch := omega) only [extract_high, Nat.reduceSub, Nat.sub_zero, BitVec.extractLsb'_eq_self]
  rw [decode, e]
  change decodeOp77 _ = _
  simp (disch := omega) [decodeOp77, extract_high, extract_low, VOp.ofCode_code, SOp.ofCode_code, Tag.ofCode_code]

theorem Laws.RoundTrip.commit (g : Tag) (slot : BitVec 4) : Laws.RoundTrip.Statement (.commit g slot) := by
  intro w h
  cases h
  have e : BitVec.extractLsb' 25 7 (120#7 ++ 0#7 ++ 0#7 ++ 0#1 ++ g.code ++ slot ++ 0#1 : BitVec 32) = 120#7 := by
    simp (disch := omega) only [extract_high, Nat.reduceSub, Nat.sub_zero, BitVec.extractLsb'_eq_self]
  rw [decode, e]
  change decodeOp78 _ = _
  simp (disch := omega) [decodeOp78, extract_high, extract_low, VOp.ofCode_code, SOp.ofCode_code, Tag.ofCode_code]

theorem Laws.RoundTrip.commitAll (g : Tag) : Laws.RoundTrip.Statement (.commitAll g) := by
  intro w h
  cases h
  have e : BitVec.extractLsb' 25 7 (120#7 ++ 0#7 ++ 0#7 ++ 1#1 ++ g.code ++ 0#4 ++ 0#1 : BitVec 32) = 120#7 := by
    simp (disch := omega) only [extract_high, Nat.reduceSub, Nat.sub_zero, BitVec.extractLsb'_eq_self]
  rw [decode, e]
  change decodeOp78 _ = _
  simp (disch := omega) [decodeOp78, extract_high, extract_low, VOp.ofCode_code, SOp.ofCode_code, Tag.ofCode_code]

theorem Laws.RoundTrip.fence (k : BitVec 2) (scope : BitVec 2) : Laws.RoundTrip.Statement (.fence k scope) := by
  intro w h
  cases h
  have e : BitVec.extractLsb' 25 7 (121#7 ++ 0#7 ++ 0#7 ++ 0#6 ++ k ++ scope ++ 0#1 : BitVec 32) = 121#7 := by
    simp (disch := omega) only [extract_high, Nat.reduceSub, Nat.sub_zero, BitVec.extractLsb'_eq_self]
  rw [decode, e]
  change decodeOp79 _ = _
  simp (disch := omega) [decodeOp79, extract_high, extract_low, VOp.ofCode_code, SOp.ofCode_code, Tag.ofCode_code]

theorem Laws.RoundTrip.monw (d : VOp) (a : VOp) (b : VOp) (k : BitVec 4) : Laws.RoundTrip.Statement (.monw d a b k) := by
  intro w h
  cases h
  have e : BitVec.extractLsb' 25 7 (122#7 ++ d.code ++ a.code ++ b.code ++ k : BitVec 32) = 122#7 := by
    simp (disch := omega) only [extract_high, Nat.reduceSub, Nat.sub_zero, BitVec.extractLsb'_eq_self]
  rw [decode, e]
  change decodeOp7A _ = _
  simp (disch := omega) [decodeOp7A, extract_high, extract_low, VOp.ofCode_code, SOp.ofCode_code, Tag.ofCode_code]

theorem Laws.RoundTrip.cpstage : Laws.RoundTrip.Statement (.cpstage) := by
  intro w h
  cases h
  have e : BitVec.extractLsb' 25 7 (123#7 ++ 0#5 ++ 0#7 ++ 0#7 ++ 0#6 : BitVec 32) = 123#7 := by
    simp (disch := omega) only [extract_high, Nat.reduceSub, Nat.sub_zero, BitVec.extractLsb'_eq_self]
  rw [decode, e]
  change decodeOp7B _ = _
  simp (disch := omega) [decodeOp7B, extract_high, extract_low, VOp.ofCode_code, SOp.ofCode_code, Tag.ofCode_code]

theorem Laws.RoundTrip.cpgo (a : SOp) : Laws.RoundTrip.Statement (.cpgo a) := by
  intro w h
  cases h
  have e : BitVec.extractLsb' 25 7 (123#7 ++ 1#5 ++ a.code ++ 0#7 ++ 0#6 : BitVec 32) = 123#7 := by
    simp (disch := omega) only [extract_high, Nat.reduceSub, Nat.sub_zero, BitVec.extractLsb'_eq_self]
  rw [decode, e]
  change decodeOp7B _ = _
  simp (disch := omega) [decodeOp7B, extract_high, extract_low, VOp.ofCode_code, SOp.ofCode_code, Tag.ofCode_code]

theorem Laws.RoundTrip.cpred (a : SOp) (any : BitVec 1) : Laws.RoundTrip.Statement (.cpred a any) := by
  intro w h
  cases h
  have e : BitVec.extractLsb' 25 7 (123#7 ++ 2#5 ++ a.code ++ 0#7 ++ 0#5 ++ any : BitVec 32) = 123#7 := by
    simp (disch := omega) only [extract_high, Nat.reduceSub, Nat.sub_zero, BitVec.extractLsb'_eq_self]
  rw [decode, e]
  change decodeOp7B _ = _
  simp (disch := omega) [decodeOp7B, extract_high, extract_low, VOp.ofCode_code, SOp.ofCode_code, Tag.ofCode_code]

theorem Laws.RoundTrip.cpcancel (id : BitVec 6) : Laws.RoundTrip.Statement (.cpcancel id) := by
  intro w h
  cases h
  have e : BitVec.extractLsb' 25 7 (123#7 ++ 3#5 ++ 0#7 ++ 0#7 ++ id : BitVec 32) = 123#7 := by
    simp (disch := omega) only [extract_high, Nat.reduceSub, Nat.sub_zero, BitVec.extractLsb'_eq_self]
  rw [decode, e]
  change decodeOp7B _ = _
  simp (disch := omega) [decodeOp7B, extract_high, extract_low, VOp.ofCode_code, SOp.ofCode_code, Tag.ofCode_code]

theorem Laws.RoundTrip.cpq (d : SOp) (id : BitVec 6) : Laws.RoundTrip.Statement (.cpq d id) := by
  intro w h
  cases h
  have e : BitVec.extractLsb' 25 7 (123#7 ++ 4#5 ++ d.code ++ 0#7 ++ id : BitVec 32) = 123#7 := by
    simp (disch := omega) only [extract_high, Nat.reduceSub, Nat.sub_zero, BitVec.extractLsb'_eq_self]
  rw [decode, e]
  change decodeOp7B _ = _
  simp (disch := omega) [decodeOp7B, extract_high, extract_low, VOp.ofCode_code, SOp.ofCode_code, Tag.ofCode_code]

theorem Laws.RoundTrip.mconv (a : SOp) (b : SOp) (k : BitVec 4) : Laws.RoundTrip.Statement (.mconv a b k) := by
  intro w h
  cases h
  have e : BitVec.extractLsb' 25 7 (124#7 ++ 0#5 ++ a.code ++ b.code ++ 0#2 ++ k : BitVec 32) = 124#7 := by
    simp (disch := omega) only [extract_high, Nat.reduceSub, Nat.sub_zero, BitVec.extractLsb'_eq_self]
  rw [decode, e]
  change decodeOp7C _ = _
  simp (disch := omega) [decodeOp7C, extract_high, extract_low, VOp.ofCode_code, SOp.ofCode_code, Tag.ofCode_code]

theorem Laws.RoundTrip.mma (a : SOp) (b : SOp) (k : BitVec 4) : Laws.RoundTrip.Statement (.mma a b k) := by
  intro w h
  cases h
  have e : BitVec.extractLsb' 25 7 (124#7 ++ 1#5 ++ a.code ++ b.code ++ 0#2 ++ k : BitVec 32) = 124#7 := by
    simp (disch := omega) only [extract_high, Nat.reduceSub, Nat.sub_zero, BitVec.extractLsb'_eq_self]
  rw [decode, e]
  change decodeOp7C _ = _
  simp (disch := omega) [decodeOp7C, extract_high, extract_low, VOp.ofCode_code, SOp.ofCode_code, Tag.ofCode_code]

theorem Laws.RoundTrip.mset (a : SOp) (b : SOp) (n : BitVec 6) : Laws.RoundTrip.Statement (.mset a b n) := by
  intro w h
  cases h
  have e : BitVec.extractLsb' 25 7 (124#7 ++ 2#5 ++ a.code ++ b.code ++ n : BitVec 32) = 124#7 := by
    simp (disch := omega) only [extract_high, Nat.reduceSub, Nat.sub_zero, BitVec.extractLsb'_eq_self]
  rw [decode, e]
  change decodeOp7C _ = _
  simp (disch := omega) [decodeOp7C, extract_high, extract_low, VOp.ofCode_code, SOp.ofCode_code, Tag.ofCode_code]

theorem Laws.RoundTrip.mmask (a : SOp) (n : BitVec 6) : Laws.RoundTrip.Statement (.mmask a n) := by
  intro w h
  cases h
  have e : BitVec.extractLsb' 25 7 (124#7 ++ 3#5 ++ a.code ++ 0#7 ++ n : BitVec 32) = 124#7 := by
    simp (disch := omega) only [extract_high, Nat.reduceSub, Nat.sub_zero, BitVec.extractLsb'_eq_self]
  rw [decode, e]
  change decodeOp7C _ = _
  simp (disch := omega) [decodeOp7C, extract_high, extract_low, VOp.ofCode_code, SOp.ofCode_code, Tag.ofCode_code]

theorem Laws.RoundTrip.mld (a : SOp) (b : SOp) (t : BitVec 5) : Laws.RoundTrip.Statement (.mld a b t) := by
  intro w h
  cases h
  have e : BitVec.extractLsb' 25 7 (124#7 ++ 4#5 ++ a.code ++ b.code ++ 0#1 ++ t : BitVec 32) = 124#7 := by
    simp (disch := omega) only [extract_high, Nat.reduceSub, Nat.sub_zero, BitVec.extractLsb'_eq_self]
  rw [decode, e]
  change decodeOp7C _ = _
  simp (disch := omega) [decodeOp7C, extract_high, extract_low, VOp.ofCode_code, SOp.ofCode_code, Tag.ofCode_code]

theorem Laws.RoundTrip.mst (a : SOp) (b : SOp) (t : BitVec 5) : Laws.RoundTrip.Statement (.mst a b t) := by
  intro w h
  cases h
  have e : BitVec.extractLsb' 25 7 (124#7 ++ 5#5 ++ a.code ++ b.code ++ 0#1 ++ t : BitVec 32) = 124#7 := by
    simp (disch := omega) only [extract_high, Nat.reduceSub, Nat.sub_zero, BitVec.extractLsb'_eq_self]
  rw [decode, e]
  change decodeOp7C _ = _
  simp (disch := omega) [decodeOp7C, extract_high, extract_low, VOp.ofCode_code, SOp.ofCode_code, Tag.ofCode_code]

theorem Laws.RoundTrip.mcvt (a : VOp) (b : SOp) : Laws.RoundTrip.Statement (.mcvt a b) := by
  intro w h
  cases h
  have e : BitVec.extractLsb' 25 7 (124#7 ++ 5#5 ++ a.code ++ b.code ++ 32#6 : BitVec 32) = 124#7 := by
    simp (disch := omega) only [extract_high, Nat.reduceSub, Nat.sub_zero, BitVec.extractLsb'_eq_self]
  rw [decode, e]
  change decodeOp7C _ = _
  simp (disch := omega) [decodeOp7C, extract_high, extract_low, VOp.ofCode_code, SOp.ofCode_code, Tag.ofCode_code]

theorem Laws.RoundTrip.mzero (t : BitVec 5) : Laws.RoundTrip.Statement (.mzero t) := by
  intro w h
  cases h
  have e : BitVec.extractLsb' 25 7 (124#7 ++ 6#5 ++ 0#7 ++ 0#7 ++ 0#1 ++ t : BitVec 32) = 124#7 := by
    simp (disch := omega) only [extract_high, Nat.reduceSub, Nat.sub_zero, BitVec.extractLsb'_eq_self]
  rw [decode, e]
  change decodeOp7C _ = _
  simp (disch := omega) [decodeOp7C, extract_high, extract_low, VOp.ofCode_code, SOp.ofCode_code, Tag.ofCode_code]

theorem Laws.RoundTrip.mwait (a : SOp) (b : SOp) (all : BitVec 1) : Laws.RoundTrip.Statement (.mwait a b all) := by
  intro w h
  cases h
  have e : BitVec.extractLsb' 25 7 (124#7 ++ 7#5 ++ a.code ++ b.code ++ all ++ 0#5 : BitVec 32) = 124#7 := by
    simp (disch := omega) only [extract_high, Nat.reduceSub, Nat.sub_zero, BitVec.extractLsb'_eq_self]
  rw [decode, e]
  change decodeOp7C _ = _
  simp (disch := omega) [decodeOp7C, extract_high, extract_low, VOp.ofCode_code, SOp.ofCode_code, Tag.ofCode_code]

theorem Laws.RoundTrip.mprog (a : SOp) (k : BitVec 4) : Laws.RoundTrip.Statement (.mprog a k) := by
  intro w h
  cases h
  have e : BitVec.extractLsb' 25 7 (124#7 ++ 8#5 ++ a.code ++ 0#7 ++ 0#2 ++ k : BitVec 32) = 124#7 := by
    simp (disch := omega) only [extract_high, Nat.reduceSub, Nat.sub_zero, BitVec.extractLsb'_eq_self]
  rw [decode, e]
  change decodeOp7C _ = _
  simp (disch := omega) [decodeOp7C, extract_high, extract_low, VOp.ofCode_code, SOp.ofCode_code, Tag.ofCode_code]

theorem Laws.RoundTrip.malloc (a : SOp) (blocking : BitVec 1) (c : BitVec 5) : Laws.RoundTrip.Statement (.malloc a blocking c) := by
  intro w h
  cases h
  have e : BitVec.extractLsb' 25 7 (124#7 ++ 9#5 ++ a.code ++ 0#7 ++ blocking ++ c : BitVec 32) = 124#7 := by
    simp (disch := omega) only [extract_high, Nat.reduceSub, Nat.sub_zero, BitVec.extractLsb'_eq_self]
  rw [decode, e]
  change decodeOp7C _ = _
  simp (disch := omega) [decodeOp7C, extract_high, extract_low, VOp.ofCode_code, SOp.ofCode_code, Tag.ofCode_code]

theorem Laws.RoundTrip.mfree (c : BitVec 5) : Laws.RoundTrip.Statement (.mfree c) := by
  intro w h
  cases h
  have e : BitVec.extractLsb' 25 7 (124#7 ++ 10#5 ++ 0#7 ++ 0#7 ++ 0#1 ++ c : BitVec 32) = 124#7 := by
    simp (disch := omega) only [extract_high, Nat.reduceSub, Nat.sub_zero, BitVec.extractLsb'_eq_self]
  rw [decode, e]
  change decodeOp7C _ = _
  simp (disch := omega) [decodeOp7C, extract_high, extract_low, VOp.ofCode_code, SOp.ofCode_code, Tag.ofCode_code]

theorem Laws.RoundTrip.trace (a : VOp) (b : VOp) (any : BitVec 1) (root : BitVec 1) (k : BitVec 4) : Laws.RoundTrip.Statement (.trace a b any root k) := by
  intro w h
  cases h
  have e : BitVec.extractLsb' 25 7 (125#7 ++ 0#5 ++ a.code ++ b.code ++ any ++ root ++ k : BitVec 32) = 125#7 := by
    simp (disch := omega) only [extract_high, Nat.reduceSub, Nat.sub_zero, BitVec.extractLsb'_eq_self]
  rw [decode, e]
  change decodeOp7D _ = _
  simp (disch := omega) [decodeOp7D, extract_high, extract_low, VOp.ofCode_code, SOp.ofCode_code, Tag.ofCode_code]

theorem Laws.RoundTrip.regroup (a : VOp) (b : VOp) (n : BitVec 6) : Laws.RoundTrip.Statement (.regroup a b n) := by
  intro w h
  cases h
  have e : BitVec.extractLsb' 25 7 (125#7 ++ 1#5 ++ a.code ++ b.code ++ n : BitVec 32) = 125#7 := by
    simp (disch := omega) only [extract_high, Nat.reduceSub, Nat.sub_zero, BitVec.extractLsb'_eq_self]
  rw [decode, e]
  change decodeOp7D _ = _
  simp (disch := omega) [decodeOp7D, extract_high, extract_low, VOp.ofCode_code, SOp.ofCode_code, Tag.ofCode_code]

theorem Laws.RoundTrip.enq (a : VOp) (b : SOp) (blocking : BitVec 1) (e : BitVec 4) : Laws.RoundTrip.Statement (.enq a b blocking e) := by
  intro w h
  cases h
  have e : BitVec.extractLsb' 25 7 (125#7 ++ 2#5 ++ a.code ++ b.code ++ 0#1 ++ blocking ++ e : BitVec 32) = 125#7 := by
    simp (disch := omega) only [extract_high, Nat.reduceSub, Nat.sub_zero, BitVec.extractLsb'_eq_self]
  rw [decode, e]
  change decodeOp7D _ = _
  simp (disch := omega) [decodeOp7D, extract_high, extract_low, VOp.ofCode_code, SOp.ofCode_code, Tag.ofCode_code]

theorem Laws.RoundTrip.enqc (a : SOp) (b : SOp) (blocking : BitVec 1) (e : BitVec 4) : Laws.RoundTrip.Statement (.enqc a b blocking e) := by
  intro w h
  cases h
  have e : BitVec.extractLsb' 25 7 (125#7 ++ 3#5 ++ a.code ++ b.code ++ 0#1 ++ blocking ++ e : BitVec 32) = 125#7 := by
    simp (disch := omega) only [extract_high, Nat.reduceSub, Nat.sub_zero, BitVec.extractLsb'_eq_self]
  rw [decode, e]
  change decodeOp7D _ = _
  simp (disch := omega) [decodeOp7D, extract_high, extract_low, VOp.ofCode_code, SOp.ofCode_code, Tag.ofCode_code]

theorem Laws.RoundTrip.svc (a : VOp) (fn : BitVec 6) : Laws.RoundTrip.Statement (.svc a fn) := by
  intro w h
  cases h
  have e : BitVec.extractLsb' 25 7 (125#7 ++ 4#5 ++ a.code ++ 0#7 ++ fn : BitVec 32) = 125#7 := by
    simp (disch := omega) only [extract_high, Nat.reduceSub, Nat.sub_zero, BitVec.extractLsb'_eq_self]
  rw [decode, e]
  change decodeOp7D _ = _
  simp (disch := omega) [decodeOp7D, extract_high, extract_low, VOp.ofCode_code, SOp.ofCode_code, Tag.ofCode_code]

theorem Laws.RoundTrip.qstat (a : SOp) (sel : BitVec 2) (e : BitVec 4) : Laws.RoundTrip.Statement (.qstat a sel e) := by
  intro w h
  cases h
  have e : BitVec.extractLsb' 25 7 (125#7 ++ 5#5 ++ a.code ++ 0#7 ++ sel ++ e : BitVec 32) = 125#7 := by
    simp (disch := omega) only [extract_high, Nat.reduceSub, Nat.sub_zero, BitVec.extractLsb'_eq_self]
  rw [decode, e]
  change decodeOp7D _ = _
  simp (disch := omega) [decodeOp7D, extract_high, extract_low, VOp.ofCode_code, SOp.ofCode_code, Tag.ofCode_code]

theorem Laws.RoundTrip.trap (n : BitVec 6) : Laws.RoundTrip.Statement (.trap n) := by
  intro w h
  cases h
  have e : BitVec.extractLsb' 25 7 (126#7 ++ 0#5 ++ 0#7 ++ 0#7 ++ n : BitVec 32) = 126#7 := by
    simp (disch := omega) only [extract_high, Nat.reduceSub, Nat.sub_zero, BitVec.extractLsb'_eq_self]
  rw [decode, e]
  change decodeOp7E _ = _
  simp (disch := omega) [decodeOp7E, extract_high, extract_low, VOp.ofCode_code, SOp.ofCode_code, Tag.ofCode_code]

theorem Laws.RoundTrip.tret : Laws.RoundTrip.Statement (.tret) := by
  intro w h
  cases h
  have e : BitVec.extractLsb' 25 7 (126#7 ++ 1#5 ++ 0#7 ++ 0#7 ++ 0#6 : BitVec 32) = 126#7 := by
    simp (disch := omega) only [extract_high, Nat.reduceSub, Nat.sub_zero, BitVec.extractLsb'_eq_self]
  rw [decode, e]
  change decodeOp7E _ = _
  simp (disch := omega) [decodeOp7E, extract_high, extract_low, VOp.ofCode_code, SOp.ofCode_code, Tag.ofCode_code]

theorem Laws.RoundTrip.csrr (a : SOp) (b : BitVec 7) (n : BitVec 6) : Laws.RoundTrip.Statement (.csrr a b n) := by
  intro w h
  cases h
  have e : BitVec.extractLsb' 25 7 (126#7 ++ 2#5 ++ a.code ++ b ++ n : BitVec 32) = 126#7 := by
    simp (disch := omega) only [extract_high, Nat.reduceSub, Nat.sub_zero, BitVec.extractLsb'_eq_self]
  rw [decode, e]
  change decodeOp7E _ = _
  simp (disch := omega) [decodeOp7E, extract_high, extract_low, VOp.ofCode_code, SOp.ofCode_code, Tag.ofCode_code]

theorem Laws.RoundTrip.csrw (a : SOp) (b : BitVec 7) (n : BitVec 6) : Laws.RoundTrip.Statement (.csrw a b n) := by
  intro w h
  cases h
  have e : BitVec.extractLsb' 25 7 (126#7 ++ 3#5 ++ a.code ++ b ++ n : BitVec 32) = 126#7 := by
    simp (disch := omega) only [extract_high, Nat.reduceSub, Nat.sub_zero, BitVec.extractLsb'_eq_self]
  rw [decode, e]
  change decodeOp7E _ = _
  simp (disch := omega) [decodeOp7E, extract_high, extract_low, VOp.ofCode_code, SOp.ofCode_code, Tag.ofCode_code]

theorem Laws.RoundTrip.cflush (a : SOp) (b : SOp) : Laws.RoundTrip.Statement (.cflush a b) := by
  intro w h
  cases h
  have e : BitVec.extractLsb' 25 7 (126#7 ++ 4#5 ++ a.code ++ b.code ++ 0#6 : BitVec 32) = 126#7 := by
    simp (disch := omega) only [extract_high, Nat.reduceSub, Nat.sub_zero, BitVec.extractLsb'_eq_self]
  rw [decode, e]
  change decodeOp7E _ = _
  simp (disch := omega) [decodeOp7E, extract_high, extract_low, VOp.ofCode_code, SOp.ofCode_code, Tag.ofCode_code]

theorem Laws.RoundTrip.cinv (a : SOp) (b : SOp) : Laws.RoundTrip.Statement (.cinv a b) := by
  intro w h
  cases h
  have e : BitVec.extractLsb' 25 7 (126#7 ++ 5#5 ++ a.code ++ b.code ++ 0#6 : BitVec 32) = 126#7 := by
    simp (disch := omega) only [extract_high, Nat.reduceSub, Nat.sub_zero, BitVec.extractLsb'_eq_self]
  rw [decode, e]
  change decodeOp7E _ = _
  simp (disch := omega) [decodeOp7E, extract_high, extract_low, VOp.ofCode_code, SOp.ofCode_code, Tag.ofCode_code]

theorem Laws.RoundTrip.cinvDiscard (a : SOp) (b : SOp) : Laws.RoundTrip.Statement (.cinvDiscard a b) := by
  intro w h
  cases h
  have e : BitVec.extractLsb' 25 7 (126#7 ++ 5#5 ++ a.code ++ b.code ++ 1#6 : BitVec 32) = 126#7 := by
    simp (disch := omega) only [extract_high, Nat.reduceSub, Nat.sub_zero, BitVec.extractLsb'_eq_self]
  rw [decode, e]
  change decodeOp7E _ = _
  simp (disch := omega) [decodeOp7E, extract_high, extract_low, VOp.ofCode_code, SOp.ofCode_code, Tag.ofCode_code]

theorem Laws.RoundTrip.pref (a : SOp) (b : SOp) (l2 : BitVec 1) : Laws.RoundTrip.Statement (.pref a b l2) := by
  intro w h
  cases h
  have e : BitVec.extractLsb' 25 7 (126#7 ++ 6#5 ++ a.code ++ b.code ++ 0#5 ++ l2 : BitVec 32) = 126#7 := by
    simp (disch := omega) only [extract_high, Nat.reduceSub, Nat.sub_zero, BitVec.extractLsb'_eq_self]
  rw [decode, e]
  change decodeOp7E _ = _
  simp (disch := omega) [decodeOp7E, extract_high, extract_low, VOp.ofCode_code, SOp.ofCode_code, Tag.ofCode_code]

theorem Laws.RoundTrip.tlbinv (a : SOp) (b : SOp) : Laws.RoundTrip.Statement (.tlbinv a b) := by
  intro w h
  cases h
  have e : BitVec.extractLsb' 25 7 (126#7 ++ 7#5 ++ a.code ++ b.code ++ 0#6 : BitVec 32) = 126#7 := by
    simp (disch := omega) only [extract_high, Nat.reduceSub, Nat.sub_zero, BitVec.extractLsb'_eq_self]
  rw [decode, e]
  change decodeOp7E _ = _
  simp (disch := omega) [decodeOp7E, extract_high, extract_low, VOp.ofCode_code, SOp.ofCode_code, Tag.ofCode_code]

theorem Laws.RoundTrip.tlbinvAll : Laws.RoundTrip.Statement (.tlbinvAll) := by
  intro w h
  cases h
  have e : BitVec.extractLsb' 25 7 (126#7 ++ 7#5 ++ 0#7 ++ 0#7 ++ 1#6 : BitVec 32) = 126#7 := by
    simp (disch := omega) only [extract_high, Nat.reduceSub, Nat.sub_zero, BitVec.extractLsb'_eq_self]
  rw [decode, e]
  change decodeOp7E _ = _
  simp (disch := omega) [decodeOp7E, extract_high, extract_low, VOp.ofCode_code, SOp.ofCode_code, Tag.ofCode_code]

theorem Laws.RoundTrip.rgne (a : SOp) : Laws.RoundTrip.Statement (.rgne a) := by
  intro w h
  cases h
  have e : BitVec.extractLsb' 25 7 (126#7 ++ 8#5 ++ a.code ++ 0#7 ++ 0#6 : BitVec 32) = 126#7 := by
    simp (disch := omega) only [extract_high, Nat.reduceSub, Nat.sub_zero, BitVec.extractLsb'_eq_self]
  rw [decode, e]
  change decodeOp7E _ = _
  simp (disch := omega) [decodeOp7E, extract_high, extract_low, VOp.ofCode_code, SOp.ofCode_code, Tag.ofCode_code]

theorem Laws.RoundTrip.rgnl : Laws.RoundTrip.Statement (.rgnl) := by
  intro w h
  cases h
  have e : BitVec.extractLsb' 25 7 (126#7 ++ 9#5 ++ 0#7 ++ 0#7 ++ 0#6 : BitVec 32) = 126#7 := by
    simp (disch := omega) only [extract_high, Nat.reduceSub, Nat.sub_zero, BitVec.extractLsb'_eq_self]
  rw [decode, e]
  change decodeOp7E _ = _
  simp (disch := omega) [decodeOp7E, extract_high, extract_low, VOp.ofCode_code, SOp.ofCode_code, Tag.ofCode_code]

theorem Laws.RoundTrip.ocrd (a : VOp) (n : BitVec 4) : Laws.RoundTrip.Statement (.ocrd a n) := by
  intro w h
  cases h
  have e : BitVec.extractLsb' 25 7 (126#7 ++ 10#5 ++ a.code ++ 0#7 ++ 0#2 ++ n : BitVec 32) = 126#7 := by
    simp (disch := omega) only [extract_high, Nat.reduceSub, Nat.sub_zero, BitVec.extractLsb'_eq_self]
  rw [decode, e]
  change decodeOp7E _ = _
  simp (disch := omega) [decodeOp7E, extract_high, extract_low, VOp.ofCode_code, SOp.ofCode_code, Tag.ofCode_code]

theorem Laws.RoundTrip.ocwr (a : VOp) (n : BitVec 4) : Laws.RoundTrip.Statement (.ocwr a n) := by
  intro w h
  cases h
  have e : BitVec.extractLsb' 25 7 (126#7 ++ 11#5 ++ a.code ++ 0#7 ++ 0#2 ++ n : BitVec 32) = 126#7 := by
    simp (disch := omega) only [extract_high, Nat.reduceSub, Nat.sub_zero, BitVec.extractLsb'_eq_self]
  rw [decode, e]
  change decodeOp7E _ = _
  simp (disch := omega) [decodeOp7E, extract_high, extract_low, VOp.ofCode_code, SOp.ofCode_code, Tag.ofCode_code]

theorem Laws.RoundTrip.ltrd (a : VOp) (n : BitVec 3) : Laws.RoundTrip.Statement (.ltrd a n) := by
  intro w h
  cases h
  have e : BitVec.extractLsb' 25 7 (126#7 ++ 12#5 ++ a.code ++ 0#7 ++ 0#3 ++ n : BitVec 32) = 126#7 := by
    simp (disch := omega) only [extract_high, Nat.reduceSub, Nat.sub_zero, BitVec.extractLsb'_eq_self]
  rw [decode, e]
  change decodeOp7E _ = _
  simp (disch := omega) [decodeOp7E, extract_high, extract_low, VOp.ofCode_code, SOp.ofCode_code, Tag.ofCode_code]

theorem Laws.RoundTrip.ltwr (a : VOp) (n : BitVec 3) : Laws.RoundTrip.Statement (.ltwr a n) := by
  intro w h
  cases h
  have e : BitVec.extractLsb' 25 7 (126#7 ++ 13#5 ++ a.code ++ 0#7 ++ 0#3 ++ n : BitVec 32) = 126#7 := by
    simp (disch := omega) only [extract_high, Nat.reduceSub, Nat.sub_zero, BitVec.extractLsb'_eq_self]
  rw [decode, e]
  change decodeOp7E _ = _
  simp (disch := omega) [decodeOp7E, extract_high, extract_low, VOp.ofCode_code, SOp.ofCode_code, Tag.ofCode_code]

theorem Laws.RoundTrip.lbrd (a : VOp) (w : BitVec 2) (m : BitVec 1) (slot : BitVec 4) : Laws.RoundTrip.Statement (.lbrd a w m slot) := by
  intro w h
  cases h
  have e : BitVec.extractLsb' 25 7 (126#7 ++ 14#5 ++ a.code ++ 0#5 ++ w ++ 0#1 ++ m ++ slot : BitVec 32) = 126#7 := by
    simp (disch := omega) only [extract_high, Nat.reduceSub, Nat.sub_zero, BitVec.extractLsb'_eq_self]
  rw [decode, e]
  change decodeOp7E _ = _
  simp (disch := omega) [decodeOp7E, extract_high, extract_low, VOp.ofCode_code, SOp.ofCode_code, Tag.ofCode_code]

theorem Laws.RoundTrip.lbwr (a : VOp) (w : BitVec 2) (m : BitVec 1) (slot : BitVec 4) : Laws.RoundTrip.Statement (.lbwr a w m slot) := by
  intro w h
  cases h
  have e : BitVec.extractLsb' 25 7 (126#7 ++ 15#5 ++ a.code ++ 0#5 ++ w ++ 0#1 ++ m ++ slot : BitVec 32) = 126#7 := by
    simp (disch := omega) only [extract_high, Nat.reduceSub, Nat.sub_zero, BitVec.extractLsb'_eq_self]
  rw [decode, e]
  change decodeOp7E _ = _
  simp (disch := omega) [decodeOp7E, extract_high, extract_low, VOp.ofCode_code, SOp.ofCode_code, Tag.ofCode_code]

theorem Laws.RoundTrip.halt : Laws.RoundTrip.Statement (.halt) := by
  intro w h
  cases h
  have e : BitVec.extractLsb' 25 7 (126#7 ++ 16#5 ++ 0#7 ++ 0#7 ++ 0#6 : BitVec 32) = 126#7 := by
    simp (disch := omega) only [extract_high, Nat.reduceSub, Nat.sub_zero, BitVec.extractLsb'_eq_self]
  rw [decode, e]
  change decodeOp7E _ = _
  simp (disch := omega) [decodeOp7E, extract_high, extract_low, VOp.ofCode_code, SOp.ofCode_code, Tag.ofCode_code]

theorem Laws.RoundTrip.illegalWord (w : BitVec 32) : Laws.RoundTrip.Statement (.illegalWord w) := by
  intro w h
  cases h

theorem Laws.RoundTrip.parkcmdResume (h w : Nat) : Laws.RoundTrip.Statement (.parkcmdResume h w) := by
  intro w h
  cases h

theorem Laws.RoundTrip.parkcmdKill (h w : Nat) : Laws.RoundTrip.Statement (.parkcmdKill h w) := by
  intro w h
  cases h

theorem Laws.RoundTrip.parkcmdInject (h w : Nat) (code : BitVec 16) : Laws.RoundTrip.Statement (.parkcmdInject h w code) := by
  intro w h
  cases h

theorem Laws.RoundTrip.rgnstatDepthWrite (h w : Nat) (depth : BitVec 5) : Laws.RoundTrip.Statement (.rgnstatDepthWrite h w depth) := by
  intro w h
  cases h

theorem Laws.RoundTrip.fshnWrite (h w : Nat) (count : BitVec 6) : Laws.RoundTrip.Statement (.fshnWrite h w count) := by
  intro w h
  cases h

theorem Laws.RoundTrip.dbgctlStop : Laws.RoundTrip.Statement (.dbgctlStop) := by
  intro w h
  cases h

theorem Laws.RoundTrip.hostctlRearm : Laws.RoundTrip.Statement (.hostctlRearm) := by
  intro w h
  cases h

theorem Laws.RoundTrip.nlctlRetrain (port : BitVec 4) : Laws.RoundTrip.Statement (.nlctlRetrain port) := by
  intro w h
  cases h

theorem Laws.RoundTrip.svcdone (die : BitVec 2) (index : BitVec 16) : Laws.RoundTrip.Statement (.svcdone die index) := by
  intro w h
  cases h

theorem Laws.RoundTrip.bar0CsrAccess (write : Bool) (off : BitVec 25) (v : BitVec 32) : Laws.RoundTrip.Statement (.bar0CsrAccess write off v) := by
  intro w h
  cases h

theorem Laws.RoundTrip.doorbell (write : Bool) (off : BitVec 20) (len : Nat) (v : BitVec 32) : Laws.RoundTrip.Statement (.doorbell write off len v) := by
  intro w h
  cases h

theorem Laws.RoundTrip.bar4Access (op : HostOp) (off : BitVec 40) (len v : Nat) : Laws.RoundTrip.Statement (.bar4Access op off len v) := by
  intro w h
  cases h

theorem Laws.RoundTrip.cxlMemAccess (op : HostOp) (off : BitVec 40) (len v : Nat) : Laws.RoundTrip.Statement (.cxlMemAccess op off len v) := by
  intro w h
  cases h

theorem Laws.RoundTrip.hostSnoop (line : Nat) : Laws.RoundTrip.Statement (.hostSnoop line) := by
  intro w h
  cases h

theorem Laws.RoundTrip.hostLinkLoss : Laws.RoundTrip.Statement (.hostLinkLoss) := by
  intro w h
  cases h

theorem Laws.RoundTrip.functionLevelReset : Laws.RoundTrip.Statement (.functionLevelReset) := by
  intro w h
  cases h

theorem Laws.RoundTrip.powerOnBringUp : Laws.RoundTrip.Statement (.powerOnBringUp) := by
  intro w h
  cases h

theorem Laws.RoundTrip.hostPortTrain (width : BitVec 5) : Laws.RoundTrip.Statement (.hostPortTrain width) := by
  intro w h
  cases h

theorem Laws.RoundTrip.d3hotEntry : Laws.RoundTrip.Statement (.d3hotEntry) := by
  intro w h
  cases h

theorem Laws.RoundTrip.d0Return : Laws.RoundTrip.Statement (.d0Return) := by
  intro w h
  cases h

theorem Laws.RoundTrip.powerRemoval : Laws.RoundTrip.Statement (.powerRemoval) := by
  intro w h
  cases h

theorem Laws.RoundTrip.clockStep (up : Bool) : Laws.RoundTrip.Statement (.clockStep up) := by
  intro w h
  cases h

theorem Laws.RoundTrip.flitReceive (port : BitVec 4) (flit : BitVec 2048) : Laws.RoundTrip.Statement (.flitReceive port flit) := by
  intro w h
  cases h

theorem Laws.RoundTrip.nakReplay (port : BitVec 4) (ack : BitVec 8) : Laws.RoundTrip.Statement (.nakReplay port ack) := by
  intro w h
  cases h

theorem Laws.RoundTrip.portRetrainOnReplays (port : BitVec 4) : Laws.RoundTrip.Statement (.portRetrainOnReplays port) := by
  intro w h
  cases h

theorem Laws.RoundTrip.norozlinkReceiveWrite (port : BitVec 4) : Laws.RoundTrip.Statement (.norozlinkReceiveWrite port) := by
  intro w h
  cases h

theorem Laws.RoundTrip.peerWindowAccess (id : Nat) (v : BitVec 1024) : Laws.RoundTrip.Statement (.peerWindowAccess id v) := by
  intro w h
  cases h

theorem Laws.RoundTrip.peerAck (id : Nat) : Laws.RoundTrip.Statement (.peerAck id) := by
  intro w h
  cases h

theorem Laws.RoundTrip.launchAdmission (queue : BitVec 12) : Laws.RoundTrip.Statement (.launchAdmission queue) := by
  intro w h
  cases h

theorem Laws.RoundTrip.teamPlacement (die : BitVec 2) : Laws.RoundTrip.Statement (.teamPlacement die) := by
  intro w h
  cases h

theorem Laws.RoundTrip.preemptForHead (die : BitVec 2) : Laws.RoundTrip.Statement (.preemptForHead die) := by
  intro w h
  cases h

theorem Laws.RoundTrip.preempt (h : Nat) : Laws.RoundTrip.Statement (.preempt h) := by
  intro w h
  cases h

theorem Laws.RoundTrip.teamStateSave (h : Nat) : Laws.RoundTrip.Statement (.teamStateSave h) := by
  intro w h
  cases h

theorem Laws.RoundTrip.teamResume (h : Nat) : Laws.RoundTrip.Statement (.teamResume h) := by
  intro w h
  cases h

theorem Laws.RoundTrip.trapEntry (h w : Nat) : Laws.RoundTrip.Statement (.trapEntry h w) := by
  intro w h
  cases h

theorem Laws.RoundTrip.swapOut (h : Nat) : Laws.RoundTrip.Statement (.swapOut h) := by
  intro w h
  cases h

theorem Laws.RoundTrip.swapRestore (h : Nat) : Laws.RoundTrip.Statement (.swapRestore h) := by
  intro w h
  cases h

theorem Laws.RoundTrip.hangDetect (ctx : BitVec 16) : Laws.RoundTrip.Statement (.hangDetect ctx) := by
  intro w h
  cases h

theorem Laws.RoundTrip.poolVictim (core : Nat) : Laws.RoundTrip.Statement (.poolVictim core) := by
  intro w h
  cases h

theorem Laws.RoundTrip.poolGrant (core : Nat) : Laws.RoundTrip.Statement (.poolGrant core) := by
  intro w h
  cases h

theorem Laws.RoundTrip.teamEnd (h : Nat) : Laws.RoundTrip.Statement (.teamEnd h) := by
  intro w h
  cases h

theorem Laws.RoundTrip.catchEntry (delivery : Nat) : Laws.RoundTrip.Statement (.catchEntry delivery) := by
  intro w h
  cases h

theorem Laws.RoundTrip.teamKill (h : Nat) : Laws.RoundTrip.Statement (.teamKill h) := by
  intro w h
  cases h

theorem Laws.RoundTrip.warpPark (h w : Nat) : Laws.RoundTrip.Statement (.warpPark h w) := by
  intro w h
  cases h

theorem Laws.RoundTrip.parkRecordPost (die : BitVec 2) : Laws.RoundTrip.Statement (.parkRecordPost die) := by
  intro w h
  cases h

theorem Laws.RoundTrip.loadLanding (h w : Nat) (slot : BitVec 4) : Laws.RoundTrip.Statement (.loadLanding h w slot) := by
  intro w h
  cases h

theorem Laws.RoundTrip.homeLoadServe (core line : Nat) : Laws.RoundTrip.Statement (.homeLoadServe core line) := by
  intro w h
  cases h

theorem Laws.RoundTrip.homeUpdatePerform (line : Nat) : Laws.RoundTrip.Statement (.homeUpdatePerform line) := by
  intro w h
  cases h

theorem Laws.RoundTrip.montoExpiry (h w id : Nat) : Laws.RoundTrip.Statement (.montoExpiry h w id) := by
  intro w h
  cases h

theorem Laws.RoundTrip.monitorPoll (h w id : Nat) (lane : BitVec 5) : Laws.RoundTrip.Statement (.monitorPoll h w id lane) := by
  intro w h
  cases h

theorem Laws.RoundTrip.atomLeaseGrant (core line : Nat) : Laws.RoundTrip.Statement (.atomLeaseGrant core line) := by
  intro w h
  cases h

theorem Laws.RoundTrip.atomLeaseReturn (core line : Nat) : Laws.RoundTrip.Statement (.atomLeaseReturn core line) := by
  intro w h
  cases h

theorem Laws.RoundTrip.l2Evict (line : Nat) : Laws.RoundTrip.Statement (.l2Evict line) := by
  intro w h
  cases h

theorem Laws.RoundTrip.l1Evict (core line : Nat) : Laws.RoundTrip.Statement (.l1Evict core line) := by
  intro w h
  cases h

theorem Laws.RoundTrip.atomicopCompletion (core id : Nat) : Laws.RoundTrip.Statement (.atomicopCompletion core id) := by
  intro w h
  cases h

theorem Laws.RoundTrip.atomicopUr (core id : Nat) : Laws.RoundTrip.Statement (.atomicopUr core id) := by
  intro w h
  cases h

theorem Laws.RoundTrip.emulationReturn (core id : Nat) : Laws.RoundTrip.Statement (.emulationReturn core id) := by
  intro w h
  cases h

theorem Laws.RoundTrip.copyArrive (h id : Nat) : Laws.RoundTrip.Statement (.copyArrive h id) := by
  intro w h
  cases h

theorem Laws.RoundTrip.copyComplete (h id : Nat) : Laws.RoundTrip.Statement (.copyComplete h id) := by
  intro w h
  cases h

theorem Laws.RoundTrip.copyfault (h id : Nat) : Laws.RoundTrip.Statement (.copyfault h id) := by
  intro w h
  cases h

theorem Laws.RoundTrip.combineContribution (id : Nat) : Laws.RoundTrip.Statement (.combineContribution id) := by
  intro w h
  cases h

theorem Laws.RoundTrip.combineDeliver (id : Nat) : Laws.RoundTrip.Statement (.combineDeliver id) := by
  intro w h
  cases h

theorem Laws.RoundTrip.matrixStart (core : Nat) : Laws.RoundTrip.Statement (.matrixStart core) := by
  intro w h
  cases h

theorem Laws.RoundTrip.matrixComplete (h id : Nat) : Laws.RoundTrip.Statement (.matrixComplete h id) := by
  intro w h
  cases h

theorem Laws.RoundTrip.matrixFetchFault (h id : Nat) : Laws.RoundTrip.Statement (.matrixFetchFault h id) := by
  intro w h
  cases h

theorem Laws.RoundTrip.mpbWindowExpiry (core : Nat) : Laws.RoundTrip.Statement (.mpbWindowExpiry core) := by
  intro w h
  cases h

theorem Laws.RoundTrip.traceLanding (h w : Nat) (slot : BitVec 4) : Laws.RoundTrip.Statement (.traceLanding h w slot) := by
  intro w h
  cases h

theorem Laws.RoundTrip.sampleRecord (core : Nat) : Laws.RoundTrip.Statement (.sampleRecord core) := by
  intro w h
  cases h

theorem Laws.RoundTrip.resultProduced (h w : Nat) (index : Nat) : Laws.RoundTrip.Statement (.resultProduced h w index) := by
  intro w h
  cases h

theorem Laws.RoundTrip.spareCoreTakeover (core : Nat) : Laws.RoundTrip.Statement (.spareCoreTakeover core) := by
  intro w h
  cases h

theorem Laws.RoundTrip.svcBatchPost (die : BitVec 2) : Laws.RoundTrip.Statement (.svcBatchPost die) := by
  intro w h
  cases h

theorem Laws.RoundTrip.roundTripCompletion (h w : Nat) : Laws.RoundTrip.Statement (.roundTripCompletion h w) := by
  intro w h
  cases h

theorem Laws.RoundTrip.retrainingComplete (port : BitVec 4) : Laws.RoundTrip.Statement (.retrainingComplete port) := by
  intro w h
  cases h

theorem Laws.RoundTrip.configurationRequest : Laws.RoundTrip.Statement (.configurationRequest) := by
  intro w h
  cases h

theorem Laws.RoundTrip.copySourceRangeRead (h id : Nat) : Laws.RoundTrip.Statement (.copySourceRangeRead h id) := by
  intro w h
  cases h

end Sys2Proof
end

