-- ==== Sys2Proof/Laws/Window.lean ====
section
/-! SUPPORT. Laws of the result window: what a register reads after a result enters, a result leaves and the window drains. -/

namespace Sys2Proof.Machine

/-- The value and tag of register r where the results l have not reached the bank's register b. -/
def valueOf (l : List WinEntry) (b : VReg) (r : Nat) : Lanes × Tag :=
  match l.findSome? fun e => e.reg? r with
  | some x => (x.image, x.tag)
  | none => (b.data, b.tag)

/-- What a source reads of register r, with its tag. -/
def Warp.value (w : Warp) (r : Nat) : Lanes × Tag := valueOf (w.window ++ w.outs) (w.bankReg r) r

theorem Warp.value_eq (w : Warp) (r : Nat) : w.value r = (w.regData r, w.regTag r) := by
  unfold Warp.value valueOf Warp.regData Warp.regTag Warp.live?
  split <;> simp [*]

theorem valueOf_cons (e : WinEntry) (l : List WinEntry) (b : VReg) (r : Nat) :
    valueOf (e :: l) b r = match e.reg? r with | some x => (x.image, x.tag) | none => valueOf l b r := by
  unfold valueOf
  rw [List.findSome?_cons]
  cases h : e.reg? r <;> simp

theorem valueOf_append (k l : List WinEntry) (b : VReg) (r : Nat) :
    valueOf (k ++ l) b r = match k.findSome? fun e => e.reg? r with | some x => (x.image, x.tag) | none => valueOf l b r := by
  induction k with
  | nil => rfl
  | cons e k ih =>
    rw [List.cons_append, valueOf_cons, List.findSome?_cons, ih]
    cases e.reg? r <;> rfl

/-! ## Results that stop being live -/

theorem killReg_reg?_same (r : Nat) (e : WinEntry) : (killReg r e).reg? r = none := by
  simp only [WinEntry.reg?, killReg, List.find?_eq_none, List.mem_map]
  rintro y ⟨x, -, rfl⟩
  split <;> simp_all

theorem killReg_reg?_other {q r : Nat} (h : r ≠ q) (e : WinEntry) : (killReg q e).reg? r = e.reg? r := by
  simp only [WinEntry.reg?, killReg]
  induction e.regs with
  | nil => rfl
  | cons x l ih =>
    rw [List.map_cons, List.find?_cons, List.find?_cons, ih]
    by_cases hx : x.reg = q
    · simp [hx]
      have : (q == r) = false := by simp; omega
      simp [this]
    · simp [hx]

theorem killReg_findSome?_same (r : Nat) (l : List WinEntry) : (l.map (killReg r)).findSome? (fun e => e.reg? r) = none := by
  simp [List.findSome?_eq_none_iff, killReg_reg?_same]

theorem killReg_findSome?_other {q r : Nat} (h : r ≠ q) (l : List WinEntry) :
    (l.map (killReg q)).findSome? (fun e => e.reg? r) = l.findSome? fun e => e.reg? r := by
  induction l with
  | nil => rfl
  | cons e l ih => rw [List.map_cons, List.findSome?_cons, List.findSome?_cons, killReg_reg?_other h, ih]

theorem valueOf_killReg_other {q r : Nat} (h : r ≠ q) (l : List WinEntry) (b : VReg) :
    valueOf (l.map (killReg q)) b r = valueOf l b r := by
  unfold valueOf
  rw [killReg_findSome?_other h]

/-! ## The bank -/

theorem Warp.bankReg_setBank_same (w : Warp) (r : Nat) (x : VReg) (h : r < 256) : (w.setBank r x).bankReg r = x := by
  simp [Warp.setBank, Warp.bankReg, h]

theorem Warp.bankReg_setBank_other (w : Warp) {q r : Nat} (x : VReg) (h : r ≠ q) : (w.setBank q x).bankReg r = w.bankReg r := by
  simp only [Warp.setBank, Warp.bankReg]
  exact look_put_of_ne _ _ _ _ _ (Ne.symm h)

@[simp] theorem Warp.setBank_window (w : Warp) (r : Nat) (x : VReg) : (w.setBank r x).window = w.window := rfl
@[simp] theorem Warp.setBank_outs (w : Warp) (r : Nat) (x : VReg) : (w.setBank r x).outs = w.outs := rfl

/-! ## Results that leave the window -/

@[simp] theorem Warp.writeBack_window (w : Warp) (x : WinReg) : (w.writeBack x).window = w.window := by
  unfold Warp.writeBack; split <;> rfl

/-- A result that reaches its bank is what its register then reads among the results not in the window. -/
theorem Warp.writeBack_value (w : Warp) (x : WinReg) (r : Nat) (hr : r < 256) :
    valueOf (w.writeBack x).outs ((w.writeBack x).bankReg r) r =
      if x.reg = r ∧ x.life = .live then (x.image, x.tag) else valueOf w.outs (w.bankReg r) r := by
  unfold Warp.writeBack
  by_cases hl : x.life = .live
  · simp only [hl, if_true, and_true]
    by_cases hx : x.reg = r
    · subst hx
      simp only [if_true, valueOf, killReg_findSome?_same]
      have e : (w.setBank x.reg { w.bankReg x.reg with data := x.image, tag := x.tag }).bankReg x.reg =
          { w.bankReg x.reg with data := x.image, tag := x.tag } := Warp.bankReg_setBank_same w _ _ hr
      simp only [Warp.bankReg] at e ⊢
      rw [e]
    · have e : (w.setBank x.reg { w.bankReg x.reg with data := x.image, tag := x.tag }).bankReg r = w.bankReg r :=
        Warp.bankReg_setBank_other w _ (Ne.symm hx)
      simp only [Warp.bankReg] at e ⊢
      simp only [hx, if_false]
      rw [valueOf_killReg_other (Ne.symm hx), e]
  · simp [hl]

theorem Warp.writeBackAll_window (w : Warp) (e : WinEntry) : (w.writeBackAll e).window = w.window := by
  unfold Warp.writeBackAll
  induction e.regs with
  | nil => rfl
  | cons x l ih => rw [List.foldr_cons, Warp.writeBack_window, ih]

theorem Warp.writeBackAll_value (w : Warp) (e : WinEntry) (r : Nat) (hr : r < 256) :
    valueOf (w.writeBackAll e).outs ((w.writeBackAll e).bankReg r) r = valueOf (e :: w.outs) (w.bankReg r) r := by
  rw [valueOf_cons]
  unfold Warp.writeBackAll WinEntry.reg?
  induction e.regs with
  | nil => rfl
  | cons x l ih =>
    rw [List.foldr_cons, Warp.writeBack_value _ _ _ hr, List.find?_cons]
    by_cases hx : x.reg = r ∧ x.life = .live
    · simp [hx]
    · have : (x.reg == r && x.life == .live) = false := by
        rw [Bool.and_eq_false_iff]
        rcases not_and_or.1 hx with h | h
        · left; simpa using h
        · right; simpa using h
      simp only [hx, if_false, this, ih]

theorem Warp.leave_window (w : Warp) (e : WinEntry) : (w.leave e).window = w.window := by
  unfold Warp.leave
  split
  · exact Warp.writeBackAll_window w e
  · rfl

theorem Warp.leave_value (w : Warp) (e : WinEntry) (r : Nat) (hr : r < 256) :
    valueOf (w.leave e).outs ((w.leave e).bankReg r) r = valueOf (e :: w.outs) (w.bankReg r) r := by
  unfold Warp.leave
  split
  · exact Warp.writeBackAll_value w e r hr
  · rfl

theorem Warp.leaveAll_value (w : Warp) (l : List WinEntry) (r : Nat) (hr : r < 256) :
    (l.reverse.foldl Warp.leave w).window = w.window ∧
      valueOf (l.reverse.foldl Warp.leave w).outs ((l.reverse.foldl Warp.leave w).bankReg r) r = valueOf (l ++ w.outs) (w.bankReg r) r := by
  rw [List.foldl_reverse]
  induction l with
  | nil => exact ⟨rfl, rfl⟩
  | cons e l ih =>
    rw [List.foldr_cons]
    refine ⟨(Warp.leave_window _ e).trans ih.1, ?_⟩
    rw [Warp.leave_value _ _ _ hr, valueOf_cons, ih.2, List.cons_append, valueOf_cons]

/-- The drain of the window changes no register's value or tag. -/
theorem Warp.drain_value (w : Warp) (r : Nat) (hr : r < 256) : w.drain.value r = w.value r := by
  have key : ∀ l : List WinEntry, (l.reverse.foldl Warp.writeBackAll w).window = w.window ∧
      valueOf (l.reverse.foldl Warp.writeBackAll w).outs ((l.reverse.foldl Warp.writeBackAll w).bankReg r) r =
        valueOf (l ++ w.outs) (w.bankReg r) r := by
    intro l
    rw [List.foldl_reverse]
    induction l with
    | nil => exact ⟨rfl, rfl⟩
    | cons e l ih =>
      rw [List.foldr_cons]
      refine ⟨(Warp.writeBackAll_window _ e).trans ih.1, ?_⟩
      rw [Warp.writeBackAll_value _ _ _ hr, valueOf_cons, ih.2, List.cons_append, valueOf_cons]
  exact (key w.window).2

/-! ## Results that enter the window -/

/-- The first half of a push: older results for the registers of the new one stop being live. -/
theorem killAll_other (l : List WinReg) (r : Nat) (w : Warp) (h : ∀ x ∈ l, x.reg ≠ r) :
    let v := l.foldl (fun w x => (w.killReg x.reg).setStale x.reg false) w
    v.bankReg r = w.bankReg r ∧ ∃ f : WinEntry → WinEntry, v.window = w.window.map f ∧ v.outs = w.outs.map f ∧
      ∀ e, (f e).reg? r = e.reg? r := by
  induction l generalizing w with
  | nil => exact ⟨rfl, id, by simp, by simp, fun _ => rfl⟩
  | cons x l ih =>
    have hx : r ≠ x.reg := Ne.symm (h x (List.mem_cons_self ..))
    obtain ⟨hb, f, h1, h2, h3⟩ := ih ((w.killReg x.reg).setStale x.reg false) fun y hy => h y (List.mem_cons_of_mem _ hy)
    refine ⟨hb.trans ?_, f ∘ killReg x.reg, ?_, ?_, fun e => (h3 _).trans (killReg_reg?_other hx e)⟩
    · exact Warp.bankReg_setBank_other _ _ hx
    · rw [List.foldl_cons, h1]; simp [Warp.setStale, Warp.killReg]
    · rw [List.foldl_cons, h2]; simp [Warp.setStale, Warp.killReg]

theorem valueOf_map {f : WinEntry → WinEntry} {r : Nat} (h : ∀ e, (f e).reg? r = e.reg? r) (l : List WinEntry) (b : VReg) :
    valueOf (l.map f) b r = valueOf l b r := by
  induction l with
  | nil => rfl
  | cons e l ih => rw [List.map_cons, valueOf_cons, valueOf_cons, h, ih]

theorem Warp.push_window (w : Warp) (e : WinEntry) : ∃ l, (w.push e).window = e :: l := by
  refine ⟨((e.regs.foldl (fun w x => (w.killReg x.reg).setStale x.reg false) w).window.take 7), ?_⟩
  unfold Warp.push
  exact (Warp.leaveAll_value _ _ 0 (by omega)).1

/-- Latch ^1 is the result that entered last. -/
theorem Warp.push_latch (w : Warp) (e : WinEntry) : (w.push e).latchEntry 0 = e := by
  obtain ⟨l, h⟩ := w.push_window e
  simp [Warp.latchEntry, h]

/-- A register that the new result does not name reads as before. -/
theorem Warp.push_value_other (w : Warp) (e : WinEntry) (r : Nat) (hr : r < 256) (h : ∀ x ∈ e.regs, x.reg ≠ r) :
    (w.push e).value r = w.value r := by
  have he : e.reg? r = none := by
    simp only [WinEntry.reg?, List.find?_eq_none]
    intro x hx
    simp [h x hx]
  obtain ⟨hb, f, h1, h2, h3⟩ := killAll_other e.regs r w h
  unfold Warp.push Warp.value
  obtain ⟨k1, k2⟩ := Warp.leaveAll_value
    { (e.regs.foldl (fun w x => (w.killReg x.reg).setStale x.reg false) w) with
        window := e :: (e.regs.foldl (fun w x => (w.killReg x.reg).setStale x.reg false) w).window.take 7
        pushed := (e.regs.foldl (fun w x => (w.killReg x.reg).setStale x.reg false) w).pushed + 1 }
    ((e.regs.foldl (fun w x => (w.killReg x.reg).setStale x.reg false) w).window.drop 7) r hr
  dsimp only
  rw [k1, List.cons_append, valueOf_cons, he]
  dsimp only
  rw [valueOf_append, k2]
  change (match List.findSome? (fun e => e.reg? r) (List.take 7 (e.regs.foldl _ w).window) with
    | some x => (x.image, x.tag)
    | none => valueOf ((List.drop 7 (e.regs.foldl _ w).window) ++ (e.regs.foldl _ w).outs) ((e.regs.foldl _ w).bankReg r) r) = _
  rw [← valueOf_append, ← List.append_assoc, List.take_append_drop, hb, h1, h2, ← List.map_append, valueOf_map h3]

/-- A register that the new result writes reads it. -/
theorem Warp.push_value_same (w : Warp) (e : WinEntry) (x : WinReg) (r : Nat) (h : e.reg? r = some x) :
    (w.push e).value r = (x.image, x.tag) := by
  obtain ⟨l, hl⟩ := w.push_window e
  unfold Warp.value
  rw [hl, List.cons_append, valueOf_cons, h]

end Sys2Proof.Machine
end

