-- ==== Sys2Proof/Tests/Slice0.lean ====
section
/-! SUPPORT. Tests: ill-formed terms that the checks refuse, words written out from the encodings of spec/, one small step of each
instruction with a value worked out by hand from its rule, and a state and operands that meet the hypotheses of each obligation. -/

namespace Sys2Proof.Tests

open Sys2Proof Sys2Proof.Machine Sys2Proof.Claims

/-! ## Small states -/

/-- A register that holds w in every lane. -/
def reg (t : Tag) (w : Word) : VReg := { data := splat w, tag := t, stale := false, pending := false }

def thread : Entry := { id := 1, prio := 32, pc := 0x1000, mask := 0xFFFFFFFF, wait := .ready }

/-- A leaf that gives a user every right to the 2 MiB from address 0, as a cached translation. -/
def page : Tlb := { ctx := 0, va := 0, size := 0x200000, pa := 0, pte := 0xDF, ptePa := 0x300000 }

def busy : Warp :=
  { Warp.blank with
    team := 1, live := 0xFFFFFFFF, frontier := [thread], vvg := 32, bank := Vector.replicate 256 (reg .i32 0) }

def crew : Team := { Team.blank with handle := 1, life := .resident, scratchSize := 1024, tiles := [Tile.blank, Tile.blank] }

/-- One warp of a team in focus, all its lanes active at 0x1000, every register 0. -/
def box : State :=
  { State.reset with
    warp := busy, team := crew, core := { Core.blank 0 with tlb := [page] }, launch := { Launch.blank with finished := false },
    gtc := 1000, nextId := 100 }

/-- box with register n of the main file. -/
def setV (s : State) (n : Nat) (t : Tag) (w : Word) : State :=
  { s with warp := { s.warp with bank := put s.warp.bank n (reg t w) } }

/-- box with v2 and v8, and 9 in v5. -/
def two (t : Tag) (a b : Word) : State := setV (setV (setV box 2 t a) 8 t b) 5 t 9

/-- box with s4 and s6. -/
def three (a b : Word) : State :=
  { box with warp := { busy with sregs := put (put busy.sregs 4 a) 6 b } }

/-- box with privilege: in its trap routine. -/
def trap : State := { box with warp := { busy with tdepth := true } }

/-- The state after an instruction; reset where there is none. -/
def ran (i : Instr) (s : State) : State :=
  match exec i s with
  | .next t => t
  | _ => State.reset

/-- Lane 7 of v5 after an instruction. -/
def r5 (i : Instr) (s : State) : Word := lane ((ran i s).warp.regData 5) 7

/-- s2 after an instruction. -/
def s2 (i : Instr) (s : State) : Word := look (ran i s).warp.sregs 0 2

/-- The PC of the first entry after an instruction. -/
def pcOf (i : Instr) (s : State) : Option (BitVec 64) := (ran i s).warp.frontier.head?.map (·.pc)

/-- The code that a warp parks with. -/
def code (i : Instr) (s : State) : Option (BitVec 16) := (ran i s).warp.park.map (·.code)

/-! ## What the well-formedness check refuses -/

theorem test_ill_budget : (Instr.blk 33 0).wellFormed = false := by decide
theorem test_ill_void_source : (Instr.mov (.v 1) .void 0).wellFormed = false := by decide
theorem test_ill_latch_destination : (Instr.movi (.latch 1) 5).wellFormed = false := by decide
theorem test_ill_zero_scalar_destination : (Instr.smovi .zero 5).wellFormed = false := by decide
theorem test_ill_dead_scalar : (Instr.mov (.v 1) (.s 3) 1).wellFormed = false := by decide
theorem test_ill_two_scalars : (Instr.iadd (.v 1) (.s 3) (.s 4) 0 0 0).wellFormed = false := by decide
theorem test_ill_selector : (Instr.imad (.v 1) (.v 2) (.v 3) 0 0 3).wellFormed = false := by decide
theorem test_ill_accumulator : (Instr.imad .void (.v 2) (.v 3) 0 0 0).wellFormed = false := by decide
theorem test_ill_odd_pair : (Instr.mulw (.v 5) (.v 2) (.v 3) 0 0 0).wellFormed = false := by decide
theorem test_ill_odd_quad : (Instr.ldgQ (.v 6) (.s 4) (.v 9) 0).wellFormed = false := by decide
theorem test_ill_untagged_residue : (Instr.radd (.v 1) (.v 2) .lane 0 0).wellFormed = false := by decide
theorem test_ill_encode_tag : (Instr.renc (.v 1) (.v 2) .i32 0).wellFormed = false := by decide
theorem test_ill_convert_tag : (Instr.cvt (.v 1) (.v 2) 0 .raw 0).wellFormed = false := by decide
theorem test_ill_cache_field : (Instr.ocmovRd (.v 1) (.v 2)).wellFormed = false := by decide
theorem test_ill_level : (Instr.tryRegion 0 3 0).wellFormed = false := by decide
theorem test_ill_record_selector : (Instr.xget (.v 1) 0x13).wellFormed = false := by decide
theorem test_ill_base : (Instr.ldgW (.v 4) (.s 5) (.v 9) 0).wellFormed = false := by decide
theorem test_ill_scratch_base : (Instr.lds (.v 1) (.v 2) (.v 3) 0).wellFormed = false := by decide
theorem test_ill_address : (Instr.atom (.v 1) (.v 3) (.v 4) 0).wellFormed = false := by decide
theorem test_ill_reduction : (Instr.red (.v 2) (.v 4) 12).wellFormed = false := by decide
theorem test_ill_second_scalar : (Instr.red (.s 2) (.s 2) 0).wellFormed = false := by decide
theorem test_ill_descriptor : (Instr.cpgo (.s 4)).wellFormed = false := by decide
theorem test_ill_matrix_selector : (Instr.mset (.s 4) (.s 0) 0x30).wellFormed = false := by decide
theorem test_ill_mask_selector : (Instr.mmask (.s 4) 3).wellFormed = false := by decide
theorem test_ill_ray : (Instr.trace (.v 4) (.v 8) 0 0 0).wellFormed = false := by decide
theorem test_ill_regroup : (Instr.regroup (.v 5) (.v 60) 5).wellFormed = false := by decide
theorem test_ill_edge : (Instr.qstat (.s 7) 1 2).wellFormed = false := by decide
theorem test_ill_csr : (Instr.csrr (.s 4) 0x0C 0).wellFormed = false := by decide
theorem test_ill_row : (Instr.lbrd (.v 5) 2 1 0).wellFormed = false := by decide
theorem test_ill_event : (Instr.preempt 3).wellFormed = false := by decide
theorem test_ill_word : (Instr.illegalWord 0xFFFFFFFF).wellFormed = false := by decide

/-! ## Decoding -/

/-- Words that spec/ gives with its examples (spec/04, 07, 08, 11, 12, 17, 20, 22, 23, 25). -/
theorem test_decode_examples :
    [0x080C0821, 0x0814082E, 0x5813D780, 0xBA080208, 0xD403D000, 0xD6200024, 0xDA040003, 0xE212E095, 0xF0000560, 0xE61EE093, 0xEC2810B9,
      0xEE02E0B0, 0xF432E0D4, 0xFC408180, 0xFC708180, 0xFCB06009].map decode =
    [.iadd (.v 3) (.v 1) (.v 2) 0 0 1, .iadd (.v 5) (.v 1) (.v 2) 1 1 2, .sadd (.s 4) .lit .zero 0, .grow (.s 2) 1 4, .throwCode .lit 0,
      .xget (.v 8) 0x12, .attach (.s 1) 3, .ldgD (.v 4) (.s 4) (.v 9) 5, .commitAll .i32, .stg (.v 7) (.s 4) (.v 9) 3,
      .atom (.v 10) (.v 2) (.v 11) 9, .red (.s 4) (.v 11) 0, .monw (.v 12) (.s 4) (.v 13) 4, .cflush (.s 4) (.s 6),
      .tlbinv (.s 4) (.s 6), .ocwr (.v 3) 9] := by decide

theorem test_decode_examples_engines :
    [0xF6000000, 0xF6110000, 0xF6220001, 0xF6300005, 0xF630003F, 0xF6406005, 0xF8014302, 0xF8108182, 0xF8228000, 0xF8328001, 0xF8408201,
      0xF8510400, 0xF8518260, 0xF8600000, 0xF8718340, 0xF8701FE0, 0xF880A002, 0xF8904021, 0xF8A00001, 0xFA10A144, 0xFA2080C0, 0xFA320081,
      0xFA50E002, 0xFA410005, 0xFC208080, 0xFC30A206, 0xFC812000, 0xFC900000, 0xFD000000].map decode =
    [.cpstage, .cpgo (.s 8), .cpred (.s 16) 1, .cpcancel 5, .cpcancel 63, .cpq (.s 3) 5, .mconv (.s 10) (.s 12) 2, .mma (.s 4) (.s 6) 2,
      .mset (.s 20) (.s 0) 0, .mmask (.s 20) 1, .mld (.s 4) (.s 8) 1, .mst (.s 8) (.s 16) 0, .mcvt (.v 12) (.s 9), .mzero 0,
      .mwait (.s 12) (.s 13) 0, .mwait (.s 0) .void 1, .mprog (.s 5) 2, .malloc (.s 2) 1 1, .mfree 1, .regroup (.v 5) (.v 5) 4,
      .enq (.v 4) (.s 3) 0 0, .enqc (.s 16) (.s 2) 0 1, .qstat (.s 7) 0 2, .svc (.v 8) 5, .csrr (.s 4) 2 0, .csrw (.s 5) 8 6,
      .rgne (.s 9), .rgnl, .halt] := by decide

/-- Reserved words are no instruction: an op without a row, a set reserved bit, an unused sub. -/
theorem test_decode_refuses :
    [0xFFFFFFFF, 0x00000001, 0xFCF0E100, 0xF6500000, 0x05FFFFFF].map decode =
      [.illegalWord 0xFFFFFFFF, .illegalWord 1, .illegalWord 0xFCF0E100, .illegalWord 0xF6500000, .illegalWord 0x05FFFFFF] := by decide

/-- The words of the core control, integer, compare and lane instructions, written from the op, sub and field places of the encoding
  tables. -/
theorem test_decode_core :
    [0x00000000, 0x06000000, 0x02800001, 0x03000081, 0x04008181, 0x0816960F, 0x0A16960F, 0x0C16960F, 0x0E16960F, 0x1016960F, 0x1216960F,
      0x1416900B, 0x1616960F, 0x1816960F, 0x1A16960F, 0x1C16960F, 0x1E16960F, 0x2016960F, 0x2216900B, 0x2416960F, 0x2616960F,
      0x2816960C, 0x2A16960F, 0x2C16960F, 0x2E16960F, 0x30169609, 0x32169609, 0x3416960F, 0x3616900B, 0x3816900B].map decode =
      [.nop, .yield, .lit 8388609, .litHi 129, .blk 129 129, .iadd (.v 5) (.latch 2) (.s 8) 1 1 3, .isub (.v 5) (.latch 2) (.s 8) 1 1 3,
        .imul (.v 5) (.latch 2) (.s 8) 1 1 3, .imad (.v 5) (.latch 2) (.s 8) 1 1 3, .imin (.v 5) (.latch 2) (.s 8) 1 1 3, .imax (.v 5)
        (.latch 2) (.s 8) 1 1 3, .iabs (.v 5) (.latch 2) 1 3, .andFam (.v 5) (.latch 2) (.s 8) 1 1 3, .orFam (.v 5) (.latch 2) (.s 8) 1
        1 3, .xorFam (.v 5) (.latch 2) (.s 8) 1 1 3, .shiftFam (.v 5) (.latch 2) (.s 8) 1 1 3, .bfx (.v 5) (.latch 2) (.s 8) 1 1 3, .bfi
        (.v 5) (.latch 2) (.s 8) 1 1 3, .bitFam (.v 5) (.latch 2) 1 3, .icmp (.v 5) (.latch 2) (.s 8) 1 1 3, .icmpn (.v 5) (.latch 2)
        (.s 8) 1 1 3, .sel (.v 5) (.latch 2) (.s 8) 1 1, .lea (.v 5) (.latch 2) (.s 8) 1 1 3, .addsubw (.v 5) (.latch 2) (.s 8) 1 1 3,
        .mulw (.v 5) (.latch 2) (.s 8) 1 1 3, .idiv (.v 5) (.latch 2) (.s 8) 9, .ndiv (.v 5) (.latch 2) (.s 8) 9, .shfl (.v 5) (.latch
        2) (.s 8) 1 1 3, .vote (.v 5) (.latch 2) 1 3, .vred (.v 5) (.latch 2) 1 3] := by decide

/-- The words of the immediate and scalar instructions, written from the op, sub and field places of the encoding tables. -/
theorem test_decode_scalar :
    [0x40169403, 0x42169403, 0x44169403, 0x46169403, 0x48169403, 0x4A169023, 0x4C169023, 0x4E169023, 0x50169403, 0x52169403, 0x54169403,
      0x56140402, 0x5993D783, 0x5B93D783, 0x5D93D783, 0x5F93D783, 0x6193D783, 0x6393D783, 0x6593D780, 0x6793D402, 0x69900402,
      0x6B93D783, 0x6D93D789, 0x6F93D789, 0x7193D783, 0x73902D20].map decode =
      [.iaddi (.v 5) (.latch 2) 513 1, .imuli (.v 5) (.latch 2) 513 1, .andi (.v 5) (.latch 2) 513 1, .ori (.v 5) (.latch 2) 513 1,
        .xori (.v 5) (.latch 2) 513 1, .shli (.v 5) (.latch 2) 17 1, .shri (.v 5) (.latch 2) 17 1, .sari (.v 5) (.latch 2) 17 1,
        .icmpieq (.v 5) (.latch 2) 513 1, .icmpilt (.v 5) (.latch 2) 513 1, .icmpine (.v 5) (.latch 2) 513 1, .movi (.v 5) 513, .sadd
        (.s 100) .lit .zero 3, .ssub (.s 100) .lit .zero 3, .smul (.s 100) .lit .zero 3, .slog (.s 100) .lit .zero 3, .sshf (.s 100)
        .lit .zero 3, .scmp (.s 100) .lit .zero 3, .ssel (.s 100) .lit .zero, .saddi (.s 100) .lit 513, .smovi (.s 100) 513, .sminmax
        (.s 100) .lit .zero 3, .sldc (.s 100) .lit .zero 9, .sld (.s 100) .lit .zero 9, .sst (.s 100) .lit .zero 3, .sget (.s 100) (.v
        5) (.latch 2)] := by decide

/-- The words of the float instructions, written from the op, sub and field places of the encoding tables. -/
theorem test_decode_float :
    [0x7816960F, 0x7A16960F, 0x7C16960F, 0x7E16960F, 0x8016960F, 0x8216960F, 0x8416960F, 0x86169009, 0x88169009, 0x8A169009, 0x8C169009,
      0x8E169009, 0x90169009, 0x92169009, 0x94169609, 0x9616960C, 0x9816960F, 0x9A16900B].map decode =
      [.fadd (.v 5) (.latch 2) (.s 8) 1 1 3, .fsub (.v 5) (.latch 2) (.s 8) 1 1 3, .fmul (.v 5) (.latch 2) (.s 8) 1 1 3, .ffma (.v 5)
        (.latch 2) (.s 8) 1 1 3, .fminmax (.v 5) (.latch 2) (.s 8) 1 1 3, .fcmp (.v 5) (.latch 2) (.s 8) 1 1 3, .fsign (.v 5) (.latch 2)
        (.s 8) 1 1 3, .frcp (.v 5) (.latch 2) 9, .frsq (.v 5) (.latch 2) 9, .fsqrt (.v 5) (.latch 2) 9, .fexp2 (.v 5) (.latch 2) 9,
        .flog2 (.v 5) (.latch 2) 9, .fsin (.v 5) (.latch 2) 9, .fcos (.v 5) (.latch 2) 9, .fdiv (.v 5) (.latch 2) (.s 8) 9, .fdot2 (.v
        5) (.latch 2) (.s 8) 1 1, .idot4 (.v 5) (.latch 2) (.s 8) 1 1 3, .fround (.v 5) (.latch 2) 1 3] := by decide

/-- The words of the residue, conversion, move and window instructions, written from the op, sub and field places of the encoding
  tables. -/
theorem test_decode_residue :
    [0xA016960C, 0xA216960C, 0xA416960C, 0xA6169008, 0xA816960F, 0xAA1690B8, 0xB01690D7, 0xB2169017, 0xB4169008, 0xB4169009, 0xB6000022,
      0xB8000042, 0xBB900302, 0xBD900102, 0xBE140520, 0xBE002D29].map decode =
      [.radd (.v 5) (.latch 2) (.s 8) 1 1, .rmul (.v 5) (.latch 2) (.s 8) 1 1, .rmac (.v 5) (.latch 2) (.s 8) 1 1, .rneg (.v 5) (.latch
        2) 1, .rcrt (.v 5) (.latch 2) (.s 8) 1 1 3, .renc (.v 5) (.latch 2) .i32 1, .cvt (.v 5) (.latch 2) 3 .i32 1, .tag (.v 5) (.latch
        2) .i32 1, .mov (.v 5) (.latch 2) 1, .movD (.v 5) (.latch 2) 1, .winb 17, .swinb 33, .grow (.s 100) 1 129, .shrink (.s 100) 129,
        .ocmovRd (.v 5) (.latch 2), .ocmovWr (.v 5) (.latch 2) 1] := by decide

/-- The words of the control flow, throws and barriers, written from the op, sub and field places of the encoding tables. -/
theorem test_decode_control :
    [0xC0030001, 0xC2170001, 0xC4170001, 0xC6150001, 0xC816900B, 0xCA002808, 0xCC002808, 0xCE000000, 0xD0150001, 0xD2000002, 0xD4002808,
      0xD4000001, 0xD6140402, 0xD8000012, 0xD8000032, 0xD8000052, 0xD8140072, 0xD80000C0, 0xDB910001, 0xDC000000].map decode =
      [.bra 1 65537, .bnz (.v 5) 1 65537, .bz (.v 5) 1 65537, .call (.v 5) 65537, .callr (.v 5) (.latch 2) 1 3, .jmpr (.v 5) 1, .ret (.v
        5) 1, .exit, .tryRegion 1 1 65537, .endtry 2, .throwCode (.v 5) 1, .rethrow, .xget (.v 5) 513, .barArrive 9, .barWait 9,
        .barSync 9, .barCount (.v 5) 9, .barGridSync, .attach (.s 100) 65537, .detach] := by decide

/-- The words of the memory instructions, written from the op, sub and field places of the encoding tables. -/
theorem test_decode_memory :
    [0xE0169609, 0xE2169609, 0xE4169609, 0xE6169603, 0xE8169609, 0xEA169600, 0xEC169609, 0xEE002D29, 0xF0000172, 0xF0000560, 0xF2000012,
      0xF4169609].map decode =
      [.ldgW (.v 5) (.latch 2) (.s 8) 9, .ldgD (.v 5) (.latch 2) (.s 8) 9, .ldgQ (.v 5) (.latch 2) (.s 8) 9, .stg (.v 5) (.latch 2) (.s
        8) 3, .lds (.v 5) (.latch 2) (.s 8) 9, .sts (.v 5) (.latch 2) (.s 8), .atom (.v 5) (.latch 2) (.s 8) 9, .red (.v 5) (.latch 2)
        9, .commit .i32 9, .commitAll .i32, .fence 2 1, .monw (.v 5) (.latch 2) (.s 8) 9] := by decide

/-- The words of the copies, matrix operations, traversal and queues, written from the op, sub and field places of the encoding tables. -/
theorem test_decode_engines :
    [0xF6000000, 0xF61C8000, 0xF62C8001, 0xF6300021, 0xF64C8021, 0xF80C9E89, 0xF81C9E89, 0xF82C9EA1, 0xF83C8021, 0xF84C9E91, 0xF85C9E91,
      0xF850B920, 0xF8600011, 0xF87C9EA0, 0xF88C8009, 0xF89C8031, 0xF8A00011, 0xFA00B4B9, 0xFA10B4A1, 0xFA20B919, 0xFA3C9E99,
      0xFA40A021, 0xFA5C8039].map decode =
      [.cpstage, .cpgo (.s 100), .cpred (.s 100) 1, .cpcancel 33, .cpq (.s 100) 33, .mconv (.s 100) .lit 9, .mma (.s 100) .lit 9, .mset
        (.s 100) .lit 33, .mmask (.s 100) 33, .mld (.s 100) .lit 17, .mst (.s 100) .lit 17, .mcvt (.v 5) (.s 100), .mzero 17, .mwait (.s
        100) .lit 1, .mprog (.s 100) 9, .malloc (.s 100) 1 17, .mfree 17, .trace (.v 5) (.latch 2) 1 1 9, .regroup (.v 5) (.latch 2) 33,
        .enq (.v 5) (.s 100) 1 9, .enqc (.s 100) .lit 1 9, .svc (.v 5) 33, .qstat (.s 100) 3 9] := by decide

/-- The words of the system instructions, written from the op, sub and field places of the encoding tables. -/
theorem test_decode_system :
    [0xFC000021, 0xFC100000, 0xFC2C9061, 0xFC3C9061, 0xFC4C9E80, 0xFC5C9E80, 0xFC5C9E81, 0xFC6C9E81, 0xFC7C9E80, 0xFC700001, 0xFC8C8000,
      0xFC900000, 0xFCA0A009, 0xFCB0A009, 0xFCC0A005, 0xFCD0A005, 0xFCE0A0D9, 0xFCF0A0D9, 0xFD000000].map decode =
      [.trap 33, .tret, .csrr (.s 100) 65 33, .csrw (.s 100) 65 33, .cflush (.s 100) .lit, .cinv (.s 100) .lit, .cinvDiscard (.s 100)
        .lit, .pref (.s 100) .lit 1, .tlbinv (.s 100) .lit, .tlbinvAll, .rgne (.s 100), .rgnl, .ocrd (.v 5) 9, .ocwr (.v 5) 9, .ltrd (.v
        5) 5, .ltwr (.v 5) 5, .lbrd (.v 5) 3 1 9, .lbwr (.v 5) 3 1 9, .halt] := by decide


/-! ## One step of each instruction: registers and control -/

theorem test_iadd_wraps : r5 (.iadd (.v 5) (.v 2) (.v 8) 0 0 0) (two .i32 0xFFFFFFFF 2) = 1 := by decide
/-- The first fragment of spec/07 (Table 7-10). -/
theorem test_packed_add_saturates : r5 (.iadd (.v 5) (.v 2) (.v 8) 0 0 1) (two .i8 0x00407F05 0x005001FB) = 0x007F7F00 := by decide
theorem test_packed_add_unsigned : r5 (.iadd (.v 5) (.v 2) (.v 8) 0 0 2) (two .i8 0x00407F05 0x005001FB) = 0x009080FF := by decide
theorem test_isub_saturates : r5 (.isub (.v 5) (.v 2) (.v 8) 0 0 1) (two .i32 0x80000000 1) = 0x80000000 := by decide
theorem test_imul_upper : r5 (.imul (.v 5) (.v 2) (.v 8) 0 0 1) (two .i32 0xFFFFFFFF 2) = 0xFFFFFFFF := by decide
theorem test_imad : r5 (.imad (.v 5) (.v 2) (.v 8) 0 0 0) (two .i32 3 4) = 21 := by decide
theorem test_imin_unsigned : r5 (.imin (.v 5) (.v 2) (.v 8) 0 0 1) (two .i32 0xFFFFFFFF 2) = 2 := by decide
theorem test_imax_signed : r5 (.imax (.v 5) (.v 2) (.v 8) 0 0 0) (two .i32 0xFFFFFFFF 2) = 2 := by decide
theorem test_iabs_saturates : r5 (.iabs (.v 5) (.v 2) 0 1) (two .i32 0x80000000 0) = 0x7FFFFFFF := by decide
theorem test_and_not : r5 (.andFam (.v 5) (.v 2) (.v 8) 0 0 1) (two .i32 0xFF 0x0F) = 0xF0 := by decide
theorem test_nor : r5 (.orFam (.v 5) (.v 2) (.v 8) 0 0 2) (two .i32 0xF0 0x0F) = 0xFFFFFF00 := by decide
theorem test_xnor : r5 (.xorFam (.v 5) (.v 2) (.v 8) 0 0 1) (two .i32 0xFF 0x0F) = 0xFFFFFF0F := by decide
theorem test_shift_arithmetic : r5 (.shiftFam (.v 5) (.v 2) (.v 8) 0 0 2) (two .i32 0x80000000 33) = 0xC0000000 := by decide
theorem test_rotate : r5 (.shiftFam (.v 5) (.v 2) (.v 8) 0 0 3) (two .i32 0x80000001 1) = 3 := by decide
theorem test_bfx_signed : r5 (.bfx (.v 5) (.v 2) (.v 8) 0 0 1) (two .i32 0xF0 0x404) = 0xFFFFFFFF := by decide
theorem test_bfi : r5 (.bfi (.v 5) (.v 2) (.v 8) 0 0 0) (two .i32 3 0x204) = 0x39 := by decide
theorem test_clz : r5 (.bitFam (.v 5) (.v 2) 0 1) (two .i32 1 0) = 31 := by decide
theorem test_brev : r5 (.bitFam (.v 5) (.v 2) 0 2) (two .i32 1 0) = 0x80000000 := by decide
theorem test_icmp_signed : r5 (.icmp (.v 5) (.v 2) (.v 8) 0 0 2) (two .i32 0xFFFFFFFF 2) = 0xFFFFFFFF := by decide
theorem test_icmpn_unsigned : r5 (.icmpn (.v 5) (.v 2) (.v 8) 0 0 2) (two .i32 0xFFFFFFFF 2) = 0 := by decide
theorem test_sel : r5 (.sel (.v 5) (.v 2) (.v 8) 0 0) (two .i32 3 4) = 4 := by decide
theorem test_lea : r5 (.lea (.v 5) (.v 2) (.v 8) 0 0 2) (two .i32 5 3) = 17 := by decide
theorem test_wide_sum_carries : r5 (.addsubw (.v 4) (.v 2) (.v 8) 0 0 0) (two .i32 0xFFFFFFFF 1) = 1 := by decide
theorem test_mulw_high : r5 (.mulw (.v 4) (.v 2) (.v 8) 0 0 1) (two .i32 0xFFFFFFFF 0xFFFFFFFF) = 0xFFFFFFFE := by decide
theorem test_idiv_toward_zero : r5 (.idiv (.v 5) (.v 2) (.v 8) 0) (two .i32 0xFFFFFFF9 2) = 0xFFFFFFFD := by decide
theorem test_ndiv_by_zero : code (.ndiv (.v 5) (.v 2) (.v 8) 0) (two .i32 7 0) = some 0x0010 := by decide
theorem test_shfl_up :
    r5 (.shfl (.v 5) (.v 2) (.v 8) 0 0 1) ({ box with warp := { busy with bank := put (put busy.bank 2 { reg .i32 0 with data := lanesOf fun L => BitVec.ofNat 32 L }) 8 (reg .i32 1) } }) = 6 := by decide
theorem test_ballot :
    r5 (.vote (.v 5) (.v 2) 0 2) ({ box with warp := { busy with bank := put (put busy.bank 2 { reg .i32 0 with data := lanesOf fun L => BitVec.ofNat 32 L }) 8 (reg .i32 1) } }) = 0xFFFFFFFE := by decide
theorem test_vred_sum :
    r5 (.vred (.v 5) (.v 2) 0 0) ({ box with warp := { busy with bank := put (put busy.bank 2 { reg .i32 0 with data := lanesOf fun L => BitVec.ofNat 32 L }) 8 (reg .i32 1) } }) = 496 := by decide
theorem test_iaddi : r5 (.iaddi (.v 5) (.v 2) 1023 0) (two .i32 5 0) = 4 := by decide
theorem test_imuli : r5 (.imuli (.v 5) (.v 2) 1022 0) (two .i32 3 0) = 0xFFFFFFFA := by decide
theorem test_andi : r5 (.andi (.v 5) (.v 2) 1008 0) (two .i32 0x1FF 0) = 0x1F0 := by decide
theorem test_ori : r5 (.ori (.v 5) (.v 2) 512 0) (two .i32 1 0) = 0xFFFFFE01 := by decide
theorem test_xori : r5 (.xori (.v 5) (.v 2) 1023 0) (two .i32 1 0) = 0xFFFFFFFE := by decide
theorem test_shli : r5 (.shli (.v 5) (.v 2) 31 0) (two .i32 3 0) = 0x80000000 := by decide
theorem test_shri : r5 (.shri (.v 5) (.v 2) 4 0) (two .i32 0x80000000 0) = 0x08000000 := by decide
theorem test_sari : r5 (.sari (.v 5) (.v 2) 4 0) (two .i32 0x80000000 0) = 0xF8000000 := by decide
theorem test_icmpieq : r5 (.icmpieq (.v 5) (.v 2) 1023 0) (two .i32 0xFFFFFFFF 0) = 0xFFFFFFFF := by decide
theorem test_icmpilt : r5 (.icmpilt (.v 5) (.v 2) 0 0) (two .i32 0x80000000 0) = 0xFFFFFFFF := by decide
theorem test_icmpine : r5 (.icmpine (.v 5) (.v 2) 5 0) (two .i32 5 0) = 0 := by decide
theorem test_movi : r5 (.movi (.v 5) 1019) (box) = 0xFFFFFFFB := by decide
theorem test_sadd_saturates : s2 (.sadd (.s 2) (.s 4) (.s 6) 1) (three 0x7FFFFFFF 1) = 0x7FFFFFFF := by decide
theorem test_ssub_usat : s2 (.ssub (.s 2) (.s 4) (.s 6) 2) (three 3 4) = 0 := by decide
theorem test_smul_upper : s2 (.smul (.s 2) (.s 4) (.s 6) 2) (three 0x80000000 6) = 3 := by decide
theorem test_slog_andn : s2 (.slog (.s 2) (.s 4) (.s 6) 3) (three 0xFF 0x0F) = 0xF0 := by decide
theorem test_sshf_right : s2 (.sshf (.s 2) (.s 4) (.s 6) 1) (three 0x80000000 36) = 0x08000000 := by decide
theorem test_scmp : s2 (.scmp (.s 2) (.s 4) (.s 6) 2) (three 0xFFFFFFFF 0) = 0xFFFFFFFF := by decide
theorem test_ssel : s2 (.ssel (.s 2) (.s 4) (.s 6)) (three 3 4) = 4 := by decide
theorem test_sminmax : s2 (.sminmax (.s 2) (.s 4) (.s 6) 3) (three 0xFFFFFFFF 2) = 0xFFFFFFFF := by decide
theorem test_saddi : s2 (.saddi (.s 2) (.s 4) 1023) (three 5 0) = 4 := by decide
theorem test_smovi : s2 (.smovi (.s 2) 512) (three 0 0) = 0xFFFFFE00 := by decide
theorem test_sldc_outside : code (.sldc (.s 2) (.s 4) (.s 6) 0) (three 0 0) = some 0x0021 := by decide
theorem test_sldc_misaligned : code (.sldc (.s 2) (.s 4) (.s 6) 0) (three 1 1) = some 0x0022 := by decide
theorem test_sget :
    s2 (.sget (.s 2) (.v 2) (.v 8)) ({ box with warp := { busy with bank := put (put busy.bank 2 { reg .i32 0 with data := lanesOf fun L => BitVec.ofNat 32 L }) 8 (reg .i32 1) } }) = 1 := by decide
theorem test_fadd : r5 (.fadd (.v 5) (.v 2) (.v 8) 0 0 0) (two .fp32 0x3F800000 0x40000000) = 0x40400000 := by decide
theorem test_fsub_toward_zero : r5 (.fsub (.v 5) (.v 2) (.v 8) 0 0 1) (two .fp32 0x3F800000 0x00000001) = 0x3F7FFFFF := by decide
/-- spec/08: the product 1 + 2^-25 rounds to 1. -/
theorem test_fmul_of_the_worked_example :
    r5 (.fmul (.v 5) (.v 2) (.v 8) 0 0 0) (two .fp32 0x3EAAAAAB 0x40400000) = 0x3F800000 := by decide
/-- spec/08: the fused sum keeps 2^-25. -/
theorem test_ffma_of_the_worked_example :
    r5 (.ffma (.v 5) (.v 2) (.v 8) 0 0 0) (setV (two .fp32 0x3EAAAAAB 0x40400000) 5 .fp32 0xBF800000) = 0x33000000 := by decide
theorem test_fmin_zeros : r5 (.fminmax (.v 5) (.v 2) (.v 8) 0 0 0) (two .fp32 0x00000000 0x80000000) = 0x80000000 := by decide
theorem test_fcmp_less : r5 (.fcmp (.v 5) (.v 2) (.v 8) 0 0 1) (two .fp32 0x3F800000 0x40000000) = 0xFFFFFFFF := by decide
theorem test_fneg : r5 (.fsign (.v 5) (.v 2) (.v 0) 0 0 0) (two .fp32 0x7FC00000 0) = 0xFFC00000 := by decide
theorem test_frcp : r5 (.frcp (.v 5) (.v 2) 0) (two .fp32 0x40000000 0) = 0x3F000000 := by decide
theorem test_frsq : r5 (.frsq (.v 5) (.v 2) 0) (two .fp32 0x40800000 0) = 0x3F000000 := by decide +kernel
theorem test_fsqrt : r5 (.fsqrt (.v 5) (.v 2) 0) (two .fp32 0x40800000 0) = 0x40000000 := by decide +kernel
theorem test_fexp2 : r5 (.fexp2 (.v 5) (.v 2) 0) (two .fp32 0x40400000 0) = 0x41000000 := by decide
theorem test_flog2 : r5 (.flog2 (.v 5) (.v 2) 0) (two .fp32 0x41000000 0) = 0x40400000 := by decide
theorem test_fsin_zero : r5 (.fsin (.v 5) (.v 2) 0) (two .fp32 0x00000000 0) = 0x00000000 := by decide
theorem test_fcos_zero : r5 (.fcos (.v 5) (.v 2) 0) (two .fp32 0x00000000 0) = 0x3F800000 := by decide
/-- spec/08: 1/3. -/
theorem test_fdiv_of_the_worked_example : r5 (.fdiv (.v 5) (.v 2) (.v 8) 0) (two .fp32 0x3F800000 0x40400000) = 0x3EAAAAAB := by decide
theorem test_fdot2 :
    r5 (.fdot2 (.v 5) (.v 2) (.v 8) 0 0) (setV (two .fp16 0x3C003C00 0x3C004000) 5 .fp32 0x40000000) = 0x40A00000 := by decide
theorem test_idot4 : r5 (.idot4 (.v 5) (.v 2) (.v 8) 0 0 0) (setV (two .i8 0x010101FF 0x02020202) 5 .i32 9) = 13 := by decide
theorem test_fround_to_even : r5 (.fround (.v 5) (.v 2) 0 0) (two .fp32 0x40200000 0) = 0x40000000 := by decide
/-- spec/05: 50 + 10 wraps to byte 0x80. -/
theorem test_radd_of_the_spec : r5 (.radd (.v 5) (.v 2) (.v 8) 0 0) (two .rs8 0x22 0x61) = 0x80 := by decide
theorem test_rneg_void_reads_zero : r5 (.rneg (.v 5) (.v 2) 0) (two .rs8 0x03 0) = 0x00 := by decide
theorem test_rmul : r5 (.rmul (.v 5) (.v 2) (.v 8) 0 0) (two .rs8 0x8D 0x25) = 0x8D := by decide
theorem test_rmac : r5 (.rmac (.v 4) (.v 2) (.v 8) 0 0) (setV (setV (two .rs8 0x8D 0x25) 4 .rw 0) 5 .rw 0) = 0xFFF0 := by decide
/-- spec/05: 0x8D decodes as -17. -/
theorem test_rcrt_of_the_spec : r5 (.rcrt (.v 5) (.v 2) .zero 0 0 0) (two .rs8 0x8D 0) = 0xFFFFFFEF := by decide
/-- spec/05: -17 encodes as 0x8D. -/
theorem test_renc_of_the_spec : r5 (.renc (.v 5) (.v 2) .rs8 0) (two .i32 0xFFFFFFEF 0) = 0x8D := by decide
/-- spec/05: 500.0 to FP8A gives 448. -/
theorem test_cvt_of_the_spec : r5 (.cvt (.v 5) (.v 2) 0 .fp8a 0) (two .fp32 0x43FA0000 0) = 0x7E := by decide
theorem test_cvt_nearest : r5 (.cvt (.v 5) (.v 2) 0 .fp4 0) (two .fp32 0x40266666 0) = 5 := by decide
theorem test_tag : (ran (.tag (.v 5) (.v 2) .i8 0) (two .i32 7 0)).warp.regTag 5 = .i8 := by decide
theorem test_mov : r5 (.mov (.v 5) (.v 2) 0) (two .i32 7 0) = 7 := by decide
theorem test_mov_pair : r5 (.movD (.v 4) (.v 2) 0) (setV box 3 .i32 8) = 8 := by decide
theorem test_nop : pcOf .nop box = some 0x1004 := by decide
theorem test_yield_drains : (ran .yield (ran (.movi (.v 5) 1) box)).warp.window.length = 1 := by decide
theorem test_lit : (ran (.lit 0xFFFFFF) box).warp.lit = 0xFFFFFFFF := by decide
theorem test_lit_hi : (ran (.litHi 0) (ran (.lit 0xFFFFFF) box)).warp.lit = 0x00FFFFFF := by decide
theorem test_blk : pcOf (.blk 8 32) box = some 0x1004 := by decide
theorem test_winb : (ran (.winb 24) box).warp.wb = 192 := by decide
theorem test_winb_outside : code (.winb 25) box = some 0x0008 := by decide
theorem test_swinb : (ran (.swinb 33) box).warp.swb = 264 := by decide
theorem test_grow_limit : (ran (.grow (.s 2) 0 1) box).warp.window.map (·.late) = [[.scalar 2 2]] := by decide
theorem test_shrink : (ran (.shrink (.s 2) 4) box).warp.vvg = 28 := by decide
theorem test_ocmov_empty : (ran (.ocmovRd (.v 5) (.oc 3)) box).warp.regTag 5 = .raw := by decide
theorem test_ocmov_valid : (look (ran (.ocmovWr (.v 5) (.oc 3) 0) box).warp.oc Copy.blank 3).valid = true := by decide
theorem test_bra_back : pcOf (.bra 0 0x1FFFF) box = some 0x1000 := by decide
theorem test_bnz_falls : pcOf (.bnz (.v 2) 0 16) box = some 0x1004 := by decide
theorem test_bz_goes : pcOf (.bz (.v 2) 0 16) box = some 0x1044 := by decide
theorem test_bnz_splits :
    (ran (.bnz (.v 2) 0 16) ({ box with warp := { busy with bank := put (put busy.bank 2 { reg .i32 0 with data := lanesOf fun L => BitVec.ofNat 32 L }) 8 (reg .i32 1) } })).warp.frontier.map (fun e => (e.pc, e.mask)) = [(0x1004, 1), (0x1044, 0xFFFFFFFE)] := by decide
theorem test_call_links : lane ((ran (.call (.v 4) 16) box).warp.regData 4) 7 = 0x1004 := by decide
theorem test_callr_no_block : code (.callr (.v 4) (.v 2) 0 0) box = some 0x000B := by decide
theorem test_jmpr : pcOf (.jmpr (.v 2) 0) (two .raw 0x2000 0) = some 0x2000 := by decide
theorem test_ret_misaligned : code (.ret (.v 2) 0) (two .raw 0x2002 0) = some 0x0022 := by decide
theorem test_exit : (ran .exit box).warp.live = 0 := by decide
theorem test_try : (ran (.tryRegion 1 0 16) box).warp.tries.map (fun r => (r.catchPc, r.f)) = [(0x1044, true)] := by decide
theorem test_endtry_without_region : code (.endtry 0) box = some 0x0001 := by decide
theorem test_throw_code : code (.throwCode (.v 2) 0) (two .i32 0x3FF 0) = some 0x000C := by decide
theorem test_rethrow_without_record : code .rethrow box = some 0x0001 := by decide
theorem test_xget : r5 (.xget (.v 5) 3) ({ box with warp := { busy with record := put busy.record 3 77 } }) = 77 := by decide

/-! ## States that meet the hypotheses of the obligations

Each theorem is named after the statement (and the clause) whose hypotheses its state and operands meet together. -/

/-- The conditions of Goes as one value. -/
def goes (s : State) (u : State → Uses) : Bool :=
  s.issuing.isSome && (!s.switches || s.warp.unproduced.isEmpty) && decide (s.prelude.gate (u s.prelude) = .go)

theorem goes_of {s : State} {u : State → Uses} (h : goes s u = true) : Goes s u := by
  simp only [goes, Bool.and_eq_true, Bool.or_eq_true, Bool.not_eq_true', decide_eq_true_eq, List.isEmpty_iff] at h
  refine ⟨h.1.1, fun hs => ?_, h.2⟩
  rcases h.1.2 with h' | h'
  · rw [hs] at h'; cases h'
  · exact h'

theorem goes_all {l : List Instr} {s : State} {u : Instr → State → Uses} (h : (l.all fun i => goes s (u i)) = true) :
    ∀ i ∈ l, Goes s (u i) := fun i hi => goes_of (List.all_eq_true.mp h i hi)

/-- A property of every active lane, checked lane by lane. -/
theorem active_all {m : Mask} {P : Nat → Prop} (h : ∀ L ∈ List.range 32, m.getLsbD L = true → P L) : ∀ L, m.getLsbD L = true → P L := by
  intro L hL
  exact h L (List.mem_range.mpr (BitVec.lt_of_getLsbD hL)) hL

theorem below_all {n : Nat} {P : Nat → Prop} (h : ∀ L ∈ List.range n, P L) : ∀ L, L < n → P L := fun L hL => h L (List.mem_range.mpr hL)

def ab : List Src := [srcA (.v 2) 1, srcA (.v 8) 0]
def abd : List Src := [srcA (.v 2) 1, srcA (.v 8) 0, { op := .v 5 }]

theorem witness_IntegerArithmeticPerElement :
    let s := two .i16 0x7FFF8000 0x00010001
    commonTag packedTags false (ab.map fun a => s.prelude.srcTag a.op) = some .i16 ∧
    commonTag packedTags false (abd.map fun a => s.prelude.srcTag a.op) = some .i16 ∧
    (∀ i ∈ [Instr.iadd (.v 5) (.v 2) (.v 8) 1 0 0, .iadd (.v 5) (.v 2) (.v 8) 1 0 1, .iadd (.v 5) (.v 2) (.v 8) 1 0 2,
        .isub (.v 5) (.v 2) (.v 8) 1 0 0, .isub (.v 5) (.v 2) (.v 8) 1 0 1, .isub (.v 5) (.v 2) (.v 8) 1 0 2,
        .imul (.v 5) (.v 2) (.v 8) 1 0 0, .imul (.v 5) (.v 2) (.v 8) 1 0 1, .imul (.v 5) (.v 2) (.v 8) 1 0 2,
        .imul (.v 5) (.v 2) (.v 8) 1 0 3, .imin (.v 5) (.v 2) (.v 8) 1 0 0, .imin (.v 5) (.v 2) (.v 8) 1 0 1,
        .imax (.v 5) (.v 2) (.v 8) 1 0 0, .imax (.v 5) (.v 2) (.v 8) 1 0 1], Goes s (needs i ab (.v 5))) ∧
    (∀ i ∈ [Instr.imad (.v 5) (.v 2) (.v 8) 1 0 0, .imad (.v 5) (.v 2) (.v 8) 1 0 1, .imad (.v 5) (.v 2) (.v 8) 1 0 2],
      Goes s (needs i abd (.v 5))) ∧
    (∀ i ∈ [Instr.iabs (.v 5) (.v 2) 1 0, .iabs (.v 5) (.v 2) 1 1], Goes s (needs i [srcA (.v 2) 1] (.v 5))) :=
  ⟨by decide, by decide, goes_all (by decide), goes_all (by decide), goes_all (by decide)⟩

theorem witness_IntegerArithmeticPerElement_lea :
    let s := two .i32 5 0xFFFFFFFF
    commonTag wordTags false (ab.map fun a => s.prelude.srcTag a.op) = some .i32 ∧
    ∀ i ∈ [Instr.lea (.v 5) (.v 2) (.v 8) 1 0 0, .lea (.v 5) (.v 2) (.v 8) 1 0 3], Goes s (needs i ab (.v 5)) :=
  ⟨by decide, goes_all (by decide)⟩

theorem witness_CarryWideAndDivision_carry :
    let s := two .i32 0xFFFFFFFF 1
    wordTag [.v 2, .v 8] s.prelude = some .i32 ∧
    ∀ i ∈ [Instr.iadd (.v 5) (.v 2) (.v 8) 1 0 3, .isub (.v 5) (.v 2) (.v 8) 1 0 3], Goes s (needs i ab (.v 5) true) :=
  ⟨by decide, goes_all (by decide)⟩

theorem witness_CarryWideAndDivision_wide :
    let s := two .i32 0xFFFFFFFF 1
    commonTag wordTags false (s.prelude.wideTags (.v 2) ++ s.prelude.wideTags (.v 8)) = some .i32 ∧
    (∀ x ∈ [VOp.v 2, .v 8], x.isV = true → s.prelude.srcTag x = s.prelude.srcTag x 1) ∧
    (∀ i ∈ [Instr.addsubw (.v 4) (.v 2) (.v 8) 0 0 0, .addsubw (.v 4) (.v 2) (.v 8) 0 0 1],
      Goes s (fun _ => { legal := i.wellFormed, srcs := [wideSrc (.v 2) 0, wideSrc (.v 8) 0], dsts := [{ op := .v 4, count := 2 }],
                         ccAwait := true })) ∧
    wordTag [.v 2, .v 8] s.prelude = some .i32 ∧
    ∀ i ∈ [Instr.mulw (.v 4) (.v 2) (.v 8) 1 0 0, .mulw (.v 4) (.v 2) (.v 8) 1 0 1],
      Goes s (fun _ => { legal := i.wellFormed, srcs := ab, dsts := [{ op := .v 4, count := 2 }] }) :=
  ⟨by decide, by decide,
    goes_all (u := fun i _ => { legal := i.wellFormed, srcs := [wideSrc (.v 2) 0, wideSrc (.v 8) 0], dsts := [{ op := .v 4, count := 2 }],
                                ccAwait := true }) (by decide), by decide,
    goes_all (u := fun i _ => { legal := i.wellFormed, srcs := ab, dsts := [{ op := .v 4, count := 2 }] }) (by decide)⟩

/-- A division that completes, with the quotient 2^31 of the least number by -1, and one by zero in every lane. -/
theorem witness_CarryWideAndDivision_division :
    let s := two .i32 0x80000000 0xFFFFFFFF
    let z := two .i32 7 0
    wordTag [.v 2, .v 8] s.prelude = some .i32 ∧
    (∀ i ∈ [Instr.idiv (.v 5) (.v 2) (.v 8) 0, .ndiv (.v 5) (.v 2) (.v 8) 15], Goes s (needs i [{ op := .v 2 }, { op := .v 8 }] (.v 5))) ∧
    (∀ L, s.prelude.mask.getLsbD L = true → lane (s.prelude.vec (.v 8)) L ≠ 0) ∧
    wordTag [.v 2, .v 8] z.prelude = some .i32 ∧
    (∀ i ∈ [Instr.idiv (.v 5) (.v 2) (.v 8) 0, .ndiv (.v 5) (.v 2) (.v 8) 15], Goes z (needs i [{ op := .v 2 }, { op := .v 8 }] (.v 5))) ∧
    z.prelude.mask.getLsbD 0 = true ∧ lane (z.prelude.vec (.v 8)) 0 = 0 :=
  ⟨by decide, goes_all (by decide), active_all (by decide), by decide, goes_all (by decide), by decide, by decide⟩

theorem witness_LogicShiftsAndBitFields :
    let s := two .raw 0xF0 0x404
    bitTag [.v 2, .v 8] s.prelude = some .raw ∧ bitTag [.v 2, .v 8, .v 5] s.prelude = some .raw ∧ bitTag [.v 2] s.prelude = some .raw ∧
    (∀ i ∈ [Instr.andFam (.v 5) (.v 2) (.v 8) 1 0 0, .andFam (.v 5) (.v 2) (.v 8) 1 0 1, .andFam (.v 5) (.v 2) (.v 8) 1 0 2,
        .orFam (.v 5) (.v 2) (.v 8) 1 0 0, .orFam (.v 5) (.v 2) (.v 8) 1 0 1, .orFam (.v 5) (.v 2) (.v 8) 1 0 2,
        .xorFam (.v 5) (.v 2) (.v 8) 1 0 0, .xorFam (.v 5) (.v 2) (.v 8) 1 0 1, .shiftFam (.v 5) (.v 2) (.v 8) 1 0 0,
        .shiftFam (.v 5) (.v 2) (.v 8) 1 0 1, .shiftFam (.v 5) (.v 2) (.v 8) 1 0 2, .shiftFam (.v 5) (.v 2) (.v 8) 1 0 3,
        .bfx (.v 5) (.v 2) (.v 8) 1 0 0, .bfx (.v 5) (.v 2) (.v 8) 1 0 1], Goes s (needs i ab (.v 5))) ∧
    Goes s (needs (.bfi (.v 5) (.v 2) (.v 8) 1 0 0) abd (.v 5)) ∧
    ∀ i ∈ [Instr.bitFam (.v 5) (.v 2) 1 0, .bitFam (.v 5) (.v 2) 1 1, .bitFam (.v 5) (.v 2) 1 2, .bitFam (.v 5) (.v 2) 1 3],
      Goes s (needs i [srcA (.v 2) 1] (.v 5)) :=
  ⟨by decide, by decide, by decide, goes_all (by decide), goes_of (by decide), goes_all (by decide)⟩

theorem witness_ComparesAndSelect :
    let s := two .n32 0xFFFFFFFF 2
    commonTag wordTags false (ab.map fun a => s.prelude.srcTag a.op) = some .n32 ∧
    (∀ i ∈ [Instr.icmp (.v 5) (.v 2) (.v 8) 1 0 0, .icmp (.v 5) (.v 2) (.v 8) 1 0 1, .icmp (.v 5) (.v 2) (.v 8) 1 0 2,
        .icmp (.v 5) (.v 2) (.v 8) 1 0 3, .icmpn (.v 5) (.v 2) (.v 8) 1 0 2, .icmpn (.v 5) (.v 2) (.v 8) 1 0 3],
      Goes s (needs i ab (.v 5) true)) ∧
    (∀ i ∈ [Instr.icmpieq (.v 5) (.v 2) 512 1, .icmpilt (.v 5) (.v 2) 512 1, .icmpine (.v 5) (.v 2) 512 1],
      Goes s (needs i [srcA (.v 2) 1] (.v 5) true)) ∧
    selTag (s.prelude.srcTag (.v 2)) (s.prelude.srcTag (.v 8)) = some .n32 ∧
    Goes s (needs (.sel (.v 5) (.v 2) (.v 8) 1 0) ab (.v 5) true) :=
  ⟨by decide, goes_all (by decide), goes_all (by decide), by decide, goes_of (by decide)⟩

theorem witness_ImmediateForms :
    let s := two .i32 5 0
    wordTag [.v 2] s.prelude = some .i32 ∧ bitTag [.v 2] s.prelude = some .i32 ∧
    (∀ i ∈ [Instr.iaddi (.v 5) (.v 2) 512 1, .imuli (.v 5) (.v 2) 512 1, .andi (.v 5) (.v 2) 512 1, .ori (.v 5) (.v 2) 512 1,
        .xori (.v 5) (.v 2) 512 1, .shli (.v 5) (.v 2) 31 1, .shri (.v 5) (.v 2) 31 1, .sari (.v 5) (.v 2) 31 1],
      Goes s (needs i [srcA (.v 2) 1] (.v 5))) ∧
    Goes s (needs (.movi (.v 5) 512) [] (.v 5)) :=
  ⟨by decide, by decide, goes_all (by decide), goes_of (by decide)⟩

/-- The lane that a shuffle reads is active, and with one lane active it is not. -/
theorem witness_LanesExchange :
    let s := two .i32 5 1
    wordTag [.v 2] s.prelude = some .i32 ∧
    (∀ i ∈ [Instr.shfl (.v 5) (.v 2) (.v 8) 1 0 0, .shfl (.v 5) (.v 2) (.v 8) 1 0 1, .shfl (.v 5) (.v 2) (.v 8) 1 0 2,
        .shfl (.v 5) (.v 2) (.v 8) 1 0 3], Goes s (needs i ab (.v 5))) ∧
    (∀ i ∈ [Instr.vote (.v 5) (.v 2) 1 0, .vote (.v 5) (.v 2) 1 1, .vote (.v 5) (.v 2) 1 2, .vote (.v 5) (.v 2) 1 3,
        .vred (.v 5) (.v 2) 1 0, .vred (.v 5) (.v 2) 1 1, .vred (.v 5) (.v 2) 1 2, .vred (.v 5) (.v 2) 1 3],
      Goes s (needs i [srcA (.v 2) 1] (.v 5))) ∧
    s.prelude.mask.getLsbD 0 = true ∧ (s.prelude.active.map fun L => lane (s.prelude.vec (.v 2)) L) ≠ [] :=
  ⟨by decide, goes_all (by decide), goes_all (by decide), by decide, by decide⟩

theorem witness_ScalarsAndConstantReads :
    let s := three 0x7FFFFFFF 1
    (∀ i ∈ [Instr.sadd (.s 2) (.s 4) (.s 6) 0, .sadd (.s 2) (.s 4) (.s 6) 1, .sadd (.s 2) (.s 4) (.s 6) 2, .ssub (.s 2) (.s 4) (.s 6) 0,
        .ssub (.s 2) (.s 4) (.s 6) 1, .ssub (.s 2) (.s 4) (.s 6) 2, .smul (.s 2) (.s 4) (.s 6) 0, .smul (.s 2) (.s 4) (.s 6) 1,
        .smul (.s 2) (.s 4) (.s 6) 2, .slog (.s 2) (.s 4) (.s 6) 3, .sshf (.s 2) (.s 4) (.s 6) 3, .sminmax (.s 2) (.s 4) (.s 6) 3,
        .sldc (.s 2) (.s 4) (.s 6) 0], Goes s (scalarNeeds i [.s 4, .s 6] (.s 2) false)) ∧
    (∀ i ∈ [Instr.sadd (.s 2) (.s 4) (.s 6) 3, .ssub (.s 2) (.s 4) (.s 6) 3, .scmp (.s 2) (.s 4) (.s 6) 3, .ssel (.s 2) (.s 4) (.s 6)],
      Goes s (scalarNeeds i [.s 4, .s 6] (.s 2) true)) ∧
    Goes s (scalarNeeds (.saddi (.s 2) (.s 4) 512) [.s 4] (.s 2)) ∧ Goes s (scalarNeeds (.smovi (.s 2) 512) [] (.s 2)) ∧
    Goes s (fun _ => { legal := (Instr.sget (.s 2) (.v 2) (.v 8)).wellFormed, srcs := [{ op := .v 2 }, { op := .v 8 }],
                       sdsts := [{ op := .s 2 }] }) :=
  ⟨goes_all (u := fun i => scalarNeeds i [.s 4, .s 6] (.s 2) false) (by decide),
    goes_all (u := fun i => scalarNeeds i [.s 4, .s 6] (.s 2) true) (by decide), goes_of (by decide), goes_of (by decide),
    goes_of (by decide)⟩

/-- SLDC at the last word of the constant bank. -/
theorem witness_ScalarsAndConstantReads_bank :
    let s : State := { three 4 0 with team := { crew with consts := [1, 2, 3, 4, 5, 6, 7, 8] } }
    Goes s (scalarNeeds (.sldc (.s 2) (.s 4) (.s 6) 0) [.s 4, .s 6] (.s 2)) ∧ s.prelude.sc (.s 4) + s.prelude.sc (.s 6) = 4 ∧
      (ran (.sldc (.s 2) (.s 4) (.s 6) 0) s).warp.window.map (·.late) = [[.scalar 2 0x08070605]] :=
  ⟨goes_of (by decide), by decide, by decide⟩

theorem witness_FloatArithmeticIsExactOrRounded :
    let s := setV (two .fp16 0x3C003C00 0x40004000) 5 .fp16 0
    s.prelude.floatTag floatTags ([(VOp.v 2, (1 : BitVec 1)), (.v 8, 0)].map (·.1)) (.v 5) = some .fp16 ∧
    s.prelude.floatTag floatTags ([(VOp.v 2, (1 : BitVec 1)), (.v 8, 0), (.v 5, 0)].map (·.1)) (.v 5) = some .fp16 ∧
    (∀ i ∈ [Instr.fadd (.v 5) (.v 2) (.v 8) 1 0 0, .fsub (.v 5) (.v 2) (.v 8) 1 0 1, .fmul (.v 5) (.v 2) (.v 8) 1 0 3],
      Goes s (floatNeeds i [(.v 2, 1), (.v 8, 0)] (.v 5) .fp16)) ∧
    Goes s (floatNeeds (.ffma (.v 5) (.v 2) (.v 8) 1 0 2) [(.v 2, 1), (.v 8, 0), (.v 5, 0)] (.v 5) .fp16) :=
  ⟨by decide, by decide, goes_all (u := fun i => floatNeeds i [(.v 2, 1), (.v 8, 0)] (.v 5) .fp16) (by decide), goes_of (by decide)⟩

/-- The same in FP64, on register pairs. -/
theorem witness_FloatArithmeticIsExactOrRounded_pairs :
    let s := setV (setV (setV (setV box 2 .fp64 0) 3 .fp64 0x3FF00000) 8 .fp64 1) 9 .fp64 0x40000000
    s.prelude.floatTag floatTags ([(VOp.v 2, (1 : BitVec 1)), (.v 8, 0)].map (·.1)) (.v 4) = some .fp64 ∧
    Goes s (floatNeeds (.fadd (.v 4) (.v 2) (.v 8) 1 0 0) [(.v 2, 1), (.v 8, 0)] (.v 4) .fp64) :=
  ⟨by decide, goes_of (by decide)⟩

/-- Two exact numbers with a sum, a zero sum of opposite signs, and a quotient. -/
theorem witness_FloatArithmeticIsExactOrRounded_exact :
    FVal.finite (.num false 3 1 false) = true ∧ FVal.finite (.num true 6 0 false) = true ∧
    (∃ v, FVal.add 3 (.num false 3 1 false) (.num true 6 0 false) = some v) ∧
    (∃ v, FVal.mul (.num false 3 1 false) (.num true 6 0 false) = some v) ∧
    val (.num false 3 1 false) ≠ 0 ∧ val (.num true 6 0 false) ≠ 0 ∧ val (.num false 0 5 false) = 0 :=
  ⟨by decide, by decide, ⟨_, rfl⟩, ⟨_, rfl⟩, by norm_num [val], by norm_num [val], by norm_num [val]⟩

/-- A number halfway between two values of FP16, delivered in each mode. -/
theorem witness_DeliveryRoundsCorrectly :
    Tag.fp16 ∈ [Tag.fp64, .fp32, .fp19, .bf16, .fp16] ∧ FVal.finite (.num true 4097 (-12) false) = true ∧
    ∀ k ∈ [0, 1, 2, 3], FVal.finite ((fmt .fp16).decode ((fmt .fp16).round k (.num true 4097 (-12) false)).1) = true := by decide

theorem witness_FloatComparesFunctionsAndDotProducts :
    let s := two .fp32 0x80000000 0
    s.prelude.floatTag floatTags [.v 2, .v 8] (.v 5) = some .fp32 ∧ s.prelude.floatTag floatTags [.v 2, .v 8] (.v 5) false = some .fp32 ∧
    s.prelude.floatTag floatTags [.v 2] (.v 5) = some .fp32 ∧ s.prelude.floatTag shortTags [.v 2] (.v 5) = some .fp32 ∧
    (∀ i ∈ [Instr.fminmax (.v 5) (.v 2) (.v 8) 1 0 0, .fminmax (.v 5) (.v 2) (.v 8) 1 0 1, .fminmax (.v 5) (.v 2) (.v 8) 1 0 2,
        .fminmax (.v 5) (.v 2) (.v 8) 1 0 3, .fsign (.v 5) (.v 2) (.v 8) 1 0 2],
      Goes s (floatNeeds i [(.v 2, 1), (.v 8, 0)] (.v 5) .fp32)) ∧
    (∀ i ∈ [Instr.fcmp (.v 5) (.v 2) (.v 8) 1 0 0, .fcmp (.v 5) (.v 2) (.v 8) 1 0 3],
      Goes s (fun p => { legal := i.wellFormed, srcs := [p.floatSrc (.v 2) 1, p.floatSrc (.v 8) 0], dsts := [{ op := .v 5 }],
                         ccAwait := true })) ∧
    (∀ i ∈ [Instr.fsign (.v 5) (.v 2) (.v 0) 1 0 0, .fsign (.v 5) (.v 2) (.v 0) 1 0 1, .fround (.v 5) (.v 2) 1 0,
        .fround (.v 5) (.v 2) 1 3], Goes s (floatNeeds i [(.v 2, 1)] (.v 5) .fp32)) ∧
    (∀ i ∈ [Instr.fsqrt (.v 5) (.v 2) 0, .frcp (.v 5) (.v 2) 0, .frsq (.v 5) (.v 2) 0, .fexp2 (.v 5) (.v 2) 0, .flog2 (.v 5) (.v 2) 0,
        .fsin (.v 5) (.v 2) 0, .fcos (.v 5) (.v 2) 15], Goes s (floatNeeds i [(.v 2, 0)] (.v 5) .fp32)) ∧
    Goes s (floatNeeds (.fdiv (.v 5) (.v 2) (.v 8) 0) [(.v 2, 0), (.v 8, 0)] (.v 5) .fp32) :=
  ⟨by decide, by decide, by decide, by decide, goes_all (u := fun i => floatNeeds i [(.v 2, 1), (.v 8, 0)] (.v 5) .fp32) (by decide),
    goes_all (u := fun i p => { legal := i.wellFormed, srcs := [p.floatSrc (.v 2) 1, p.floatSrc (.v 8) 0], dsts := [{ op := .v 5 }],
                                ccAwait := true }) (by decide),
    goes_all (u := fun i => floatNeeds i [(.v 2, 1)] (.v 5) .fp32) (by decide),
    goes_all (u := fun i => floatNeeds i [(.v 2, 0)] (.v 5) .fp32) (by decide), goes_of (by decide)⟩

theorem witness_FloatComparesFunctionsAndDotProducts_dots :
    let s := setV (two .fp16 0x3C003C00 0x40004000) 5 .fp32 0
    let z := setV (two .i8 0x7F7F7F7F 0x80808080) 5 .i32 9
    s.prelude.srcTag (.v 2) = some .fp16 ∧ s.prelude.srcTag (.v 8) = some .fp16 ∧ (s.prelude.srcTag (.v 5)).getD .fp32 = .fp32 ∧
    Goes s (needs (.fdot2 (.v 5) (.v 2) (.v 8) 1 0) abd (.v 5)) ∧
    FVal.finite ((fmt .fp16).decode (elemBits .fp16 (lane (s.prelude.vec (.v 2)) 0) 1)) = true ∧
    dotTag (z.prelude.srcTag (.v 2)) (z.prelude.srcTag (.v 8)) = some .i8 ∧
    dotTag (z.prelude.srcTag (.v 8)) (z.prelude.srcTag (.v 2)) = some .i8 ∧ z.prelude.srcTag (.v 5) ∈ [none, some Tag.raw, some .i32] ∧
    ∀ i ∈ [Instr.idot4 (.v 5) (.v 2) (.v 8) 1 0 0, .idot4 (.v 5) (.v 2) (.v 8) 1 0 1], Goes z (needs i abd (.v 5)) :=
  ⟨by decide, by decide, by decide, goes_of (by decide), by decide, by decide, by decide, by decide, goes_all (by decide)⟩

/-- The ends of the range of RS8, with and without a VOID element. -/
theorem witness_ResidueCodesAndArithmetic :
    let s := two .rs8 0x228D0000 0x03256161
    Tag.isResidue .rs8 = true ∧ Tag.residueRange .rs8 = (-52, 52) ∧ s.prelude.residueTag [.v 2, .v 8] = some .rs8 ∧
    s.prelude.residueTag [.v 2] = some .rs8 ∧ frmVt s.prelude.warp.frm = false ∧
    (∀ i ∈ [Instr.radd (.v 5) (.v 2) (.v 8) 1 0, .rmul (.v 5) (.v 2) (.v 8) 1 0], Goes s (needs i ab (.v 5))) ∧
    Goes s (needs (.rneg (.v 5) (.v 2) 1) [srcA (.v 2) 1] (.v 5)) ∧
    isVoid .rs8 (elemBits .rs8 (lane (s.prelude.vec (.v 8)) 0) 3) = true ∧
    Goes s (needs (.rcrt (.v 5) (.v 2) (.v 8) 1 0 0) ab (.v 5)) :=
  ⟨by decide, by decide, by decide, by decide, by decide, goes_all (by decide), goes_of (by decide), by decide, goes_of (by decide)⟩

theorem witness_ResidueCodesAndArithmetic_pairs :
    let s := setV (setV (two .rs8 0x228D0000 0x25256161) 4 .rw 0xFFFEFFFE) 5 .rw 0x00010000
    let z := setV (two .i32 0x7FFFFFFF 0) 3 .i32 0
    s.prelude.residueTag [.v 2, .v 8] = some .rs8 ∧ s.prelude.srcTag (.v 4) = some .rw ∧ s.prelude.srcTag (.v 4) 1 = some .rw ∧
    Goes s (fun _ => { legal := (Instr.rmac (.v 4) (.v 2) (.v 8) 1 0).wellFormed, srcs := ab ++ [{ op := .v 4, count := 2 }],
                       dsts := [{ op := .v 4, count := 2 }] }) ∧
    Goes s (needs (.rcrt (.v 6) (.v 4) .zero 1 0 1) [{ op := .v 4, count := 2, dead := on 1 }, srcA .zero 0] (.v 6)) ∧
    (z.prelude.srcTag (.v 2)).getD .i32 = .i32 ∧
    Goes z (fun _ => { legal := (Instr.renc (.v 4) (.v 2) .rw 1).wellFormed, srcs := [srcA (.v 2) 1], dsts := [{ op := .v 4, count := 2 }] }) ∧
    Goes z (fun _ => { legal := (Instr.renc (.v 5) (.v 2) .rp6 1).wellFormed, srcs := [srcA (.v 2) 1], dsts := [{ op := .v 5 }] }) :=
  ⟨by decide, by decide, by decide, goes_of (by decide), goes_of (by decide), by decide, goes_of (by decide), goes_of (by decide)⟩

theorem witness_ConversionsAndTags :
    let s := two .fp32 0x43FA0000 0
    (s.prelude.srcTag (.v 2)).getD .i32 = .fp32 ∧
    Goes s (fun p => { legal := (Instr.cvt (.v 5) (.v 2) 0 .fp8a 1).wellFormed, srcs := [p.floatSrc (.v 2) 1], dsts := [{ op := .v 5 }] }) ∧
    Goes s (fun p => { legal := (Instr.cvt (.v 4) (.v 2) 0 .fp64 1).wellFormed, srcs := [p.floatSrc (.v 2) 1],
                       dsts := [{ op := .v 4, count := 2 }] }) ∧
    Goes s (fun _ => { legal := (Instr.tag (.v 5) (.v 2) .i32 1).wellFormed, srcs := [{ op := .v 2, count := 1, dead := on 1 }],
                       dsts := [{ op := .v 5, count := 1 }] }) ∧
    Goes s (fun _ => { legal := (Instr.tag (.v 4) (.v 2) .fp64 1).wellFormed, srcs := [{ op := .v 2, count := 2, dead := on 1 }],
                       dsts := [{ op := .v 4, count := 2 }] }) ∧
    Goes s (needs (.mov (.v 5) (.v 2) 1) [srcA (.v 2) 1] (.v 5)) ∧
    Goes s (fun _ => { legal := (Instr.movD (.v 4) (.v 2) 1).wellFormed, srcs := [{ op := .v 2, count := 2, dead := on 1 }],
                       dsts := [{ op := .v 4, count := 2 }] }) :=
  ⟨by decide, goes_of (by decide), goes_of (by decide), goes_of (by decide), goes_of (by decide), goes_of (by decide), goes_of (by decide)⟩

theorem witness_CoreControl :
    let s : State := { box with warp := { busy with oc := put busy.oc 3 { Copy.blank with valid := true } } }
    (∀ i ∈ [Instr.nop, .blk 32 255, .winb 24, .winb 25, .winb 0], Goes s (bare i)) ∧ (∀ i ∈ [Instr.swinb 33, .swinb 34], Goes s (bare i)) ∧
    Goes s (fun _ => { drains := true }) ∧ Goes s (fun _ => { sdsts := [{ op := .lit }] }) ∧
    (∀ n ∈ [(3 : BitVec 4), 4], Goes s (fun _ => { legal := (Instr.ocmovRd (.v 5) (.oc n)).wellFormed, srcs := [{ op := .oc n }],
                                                   dsts := [{ op := .v 5 }], readsEmpty := true })) ∧
    Goes s (fun _ => { legal := (Instr.ocmovWr (.v 5) (.oc 4) 1).wellFormed, srcs := [{ op := .v 5, dead := (1 : BitVec 1) == 1 }],
                       dsts := [{ op := .oc 4 }] }) :=
  ⟨goes_all (by decide), goes_all (by decide), goes_of (by decide), goes_of (by decide),
    fun n hn => goes_of (by revert n; decide), goes_of (by decide)⟩

/-- All lanes agree, or lane 0 alone falls through. -/
def parted : State :=
  { box with warp := { busy with bank := put busy.bank 2 { reg .i32 0 with data := lanesOf fun L => BitVec.ofNat 32 L } } }

theorem witness_BranchesAndSplits :
    Goes box (bare (.bra 1 0x10000)) ∧
    (∀ i ∈ [Instr.bnz (.v 2) 0 0x10000, .bz (.v 2) 0 0xFFFF, .bnz (.v 2) 1 0, .bz (.v 2) 1 0],
      Goes parted (fun _ => { legal := i.wellFormed, srcs := [{ op := .v 2 }] })) ∧
    (∀ L, L < 32 → ((0xFFFFFFFE : Mask).getLsbD L = true ↔ lane (parted.prelude.vec (.v 2)) L ≠ 0)) ∧
    ¬ ((1 : BitVec 1) = 0 ∨ parted.prelude.mask &&& 0xFFFFFFFE = 0 ∨ parted.prelude.mask &&& 0xFFFFFFFE = parted.prelude.mask) ∧
    box.issuing.isSome = true ∧ box.warp.frontier = [box.entry] :=
  ⟨goes_of (by decide), goes_all (u := fun i _ => { legal := i.wellFormed, srcs := [{ op := .v 2 }] }) (by decide),
    below_all (by decide), by decide, by decide, by decide⟩

theorem witness_CallsAndJumps :
    let s := two .raw 0x2000 0
    let z := two .raw 0x2002 0
    Goes s (fun _ => { legal := (Instr.call (.v 4) 0x10000).wellFormed, dsts := [{ op := .v 4, count := 2 }] }) ∧
    (∀ L, s.prelude.mask.getLsbD L = true → (s.prelude.pair (.v 2) L).toNat % 4 = 0) ∧
    (∀ i ∈ [Instr.jmpr (.v 2) 0, .ret (.v 2) 0],
      Goes s (fun _ => { legal := i.wellFormed, srcs := [{ op := .v 2, count := 2, dead := false }] })) ∧
    Goes z (fun _ => { legal := (Instr.ret (.v 2) 0).wellFormed, srcs := [{ op := .v 2, count := 2, dead := false }] }) ∧
    z.prelude.mask.getLsbD 0 = true ∧ (z.prelude.pair (.v 2) 0).toNat % 4 ≠ 0 :=
  ⟨goes_of (by decide), active_all (by decide),
    goes_all (u := fun i _ => { legal := i.wellFormed, srcs := [{ op := .v 2, count := 2, dead := false }] }) (by decide),
    goes_of (by decide), by decide, by decide⟩

/-- A call whose target at 0x2000 is a BLK with a budget of that many granules, in a warp with vvg granules. -/
def callee (budget : Byte) (vvg : Nat) : State :=
  let s := two .raw 0x2000 0
  { s with warp := { s.warp with vvg := vvg }, mem := [(0x2001, budget), (0x2003, 4)].filter fun c => c.2 != 0 }

/-- A target without a budget, one whose budget fits exactly, and one whose budget does not. -/
theorem witness_CallsAndJumps_callr :
    (∀ b ∈ [(0 : Byte), 4, 5], ∀ f ∈ [(0 : BitVec 2), 1],
      Goes (callee b 4) (fun _ => { legal := (Instr.callr (.v 4) (.v 2) 0 f).wellFormed, srcs := [{ op := .v 2, count := 2, dead := (0 : BitVec 1) == 1 }],
                                    dsts := [{ op := .v 4, count := 2 }] })) ∧
    (∀ b ∈ [(0 : Byte), 4, 5], (match ((callee b 4).prelude.fetchTargets ((callee b 4).prelude.targets (.v 2))).2 with
      | .budgets l => l == [b.toNat]
      | _ => false) = true) ∧
    (∀ L, (callee 4 4).prelude.mask.getLsbD L = true → ((callee 4 4).prelude.pair (.v 2) L).toNat % 4 = 0) :=
  ⟨fun b hb f hf => goes_of (by revert f; revert b; decide), by decide, active_all (by decide)⟩

theorem witness_ExitRemovesItsLanes : Goes box (fun _ => { legal := Instr.exit.wellFormed, drains := true }) := goes_of (by decide)

/-- Regions at their limits: eight at warp level, four of the team, two of the launch; and a launch that is not cooperative. -/
def regions (w t g : Nat) (coop : Bool) : State :=
  let r : Region := { catchPc := 0x1800, f := true, mask := 0xFFFFFFFF, stamp := 0, ended := [] }
  { box with warp := { busy with tries := List.replicate w r, jt := t, jg := g }, team := { crew with tries := List.replicate t r }
             launch := { box.launch with coop := coop, gtries := List.replicate g r } }

theorem witness_TryRegionsOpenAndClose :
    (∀ s ∈ [regions 0 0 0 true, regions 7 3 1 true, regions 8 4 2 true, regions 0 0 0 false],
      (∀ l ∈ [(0 : BitVec 2), 1, 2], Goes s (bare (.tryRegion 1 l 4)) ∧ Goes s (bare (.endtry l))) ∧ s.prelude.mask = s.prelude.warp.live) ∧
    (regions 8 4 2 true).prelude.warp.tries.length = 8 ∧ (regions 8 4 2 true).prelude.warp.jt = 4 ∧
    (regions 0 0 0 true).prelude.warp.jg = 0 :=
  ⟨fun s hs => ⟨fun l hl => ⟨goes_of (by revert l; revert s; decide), goes_of (by revert l; revert s; decide)⟩, by revert s; decide⟩,
    by decide, by decide, by decide⟩

/-- Lanes of a warp that are not in the entry. -/
theorem witness_TryRegionsOpenAndClose_diverged :
    let s : State := { box with warp := { (regions 1 1 1 true).warp with frontier := [{ thread with mask := 0xFFFF }] }, team := (regions 1 1 1 true).team }
    (∀ l ∈ [(1 : BitVec 2), 2], Goes s (bare (.tryRegion 1 l 4))) ∧ Goes s (bare (.endtry 0)) ∧ s.prelude.mask ≠ s.prelude.warp.live ∧
    (∃ r rest, s.prelude.warp.tries = r :: rest ∧ r.mask &&& s.prelude.warp.live &&& ~~~s.prelude.mask ≠ 0) :=
  ⟨fun l hl => goes_of (by revert l; decide), goes_of (by decide), by decide, ⟨_, _, rfl, by decide⟩⟩

/-- A wait that has ended. -/
def finished : Attempt → Bool
  | .done _ => true
  | _ => false

def released : Release → Bool
  | .done _ => true
  | _ => false

/-- The lanes of an access that has passed its checks. -/
def passed : Checked → Option (List LaneLoad)
  | .ok l => some l
  | _ => none

theorem passed_of {c : Checked} (h : (passed c).isSome = true) : ∃ l, c = .ok l := by
  cases c with
  | ok l => exact ⟨l, rfl⟩
  | raise r => simp [passed] at h
  | stall => simp [passed] at h

theorem released_of {r : Release} (h : released r = true) : ∃ t, r = .done t := by
  cases r with
  | done t => exact ⟨t, rfl⟩
  | wait t c => simp [released] at h
  | raise t r => simp [released] at h

theorem finished_of {r : Attempt} (h : finished r = true) : ∃ t, r = .done t := by
  cases r with
  | done t => exact ⟨t, rfl⟩
  | wait t c => simp [finished] at h
  | raise t r => simp [finished] at h

theorem some_of {α : Type} {x : Option α} (h : x.isSome = true) : ∃ a, x = some a := Option.isSome_iff_exists.mp h

theorem witness_ThrowsAndTheirRecord :
    let s := two .i32 0x400 0
    let z := two .i32 0x3FF 0
    let c : State := { box with warp := { busy with caught := true, record := put busy.record 0 0x10400 } }
    Goes s (fun _ => { legal := (Instr.throwCode (.v 2) 1).wellFormed, srcs := [{ op := .v 2, dead := (1 : BitVec 1) == 1 }] }) ∧
    (∀ L, s.prelude.mask.getLsbD L = true → 0x0400 ≤ ((lane (s.prelude.vec (.v 2)) L).setWidth 16 : BitVec 16).toNat) ∧
    Goes z (fun _ => { legal := (Instr.throwCode (.v 2) 1).wellFormed, srcs := [{ op := .v 2, dead := (1 : BitVec 1) == 1 }] }) ∧
    z.prelude.mask.getLsbD 0 = true ∧ ((lane (z.prelude.vec (.v 2)) 0).setWidth 16 : BitVec 16).toNat < 0x0400 ∧
    Goes box (bare .rethrow) ∧ box.prelude.warp.caught = false ∧ Goes c (bare .rethrow) ∧ c.prelude.warp.caught = true ∧
    (let y : State := { c with warp := { c.warp with tdepth := true } };
      Goes y (bare .rethrow) ∧ y.prelude.warp.caught = true ∧ y.prelude.enterInvalid.warp.tdepth = true) ∧
    (∀ i ∈ [Instr.xget (.v 5) 0, .xget (.v 5) 15, .xget (.v 5) 0x10, .xget (.v 5) 0x11, .xget (.v 5) 0x12], Goes box (needs i [] (.v 5))) :=
  ⟨goes_of (by decide), active_all (by decide), goes_of (by decide), by decide, by decide, goes_of (by decide), by decide,
    goes_of (by decide), by decide, ⟨goes_of (by decide), by decide, by decide⟩, goes_all (by decide)⟩

/-- A throw of lane 3, delivered at the warp's region and at the team's. -/
def thrown (level : Nat) : Delivery :=
  { id := 50, level := level, team := 1, warp := 0, launch := 0, stamp := 7,
    region := { catchPc := 0x1800, f := true, mask := 0xFFFFFFFF, stamp := 7, ended := [] }, gtc := 900,
    throwers := [{ team := 1, teamIndex := 0, warp := 0, lane := 3, tid := 3, code := 0x400, f := false, pc := 0x1000, addr := 0 }],
    stopped := [{ team := 1, warp := 0, lanes := 8, pcs := Vector.replicate 32 0x1000 }], swept := false, ncopy := 0, barmask := 0 }

theorem witness_ThrowsAndTheirRecord_open :
    let s : State := { box with deliveries := [thrown 0] }
    let r : Holder := { level := 0, region := (thrown 0).region }
    (box.deliveries.find? fun d => d.isFor r) = none ∧ (s.deliveries.find? fun d => d.isFor r) = some (thrown 0) ∧
    (firstThrower ((thrown 0).level == 2) (thrown 0).throwers).isSome = true ∧ (thrown 0).level < 4 ∧
    (let d : Delivery := { thrown 0 with throwers := (thrown 0).throwers.map fun f => { f with code := Code.sigmismatch, own := false } };
      (firstThrower (d.level == 2) d.throwers).map (fun f => (f.own, f.code == Code.sigmismatch, (d.stopPc f.team f.warp f.lane).isSome)) =
        some (false, true, true)) := by decide

theorem witness_ThrowsAndTheirRecord_catch :
    let s : State := { box with warp := { busy with tries := [(thrown 0).region] }, deliveries := [thrown 0] }
    let z : State := { s with team := { crew with mops := [{ (default : MatOp) with phase := .queued }] } }
    (∀ y ∈ [s, z], (y.deliveries.find? fun d => d.id == 50) = some (thrown 0) ∧ (thrown 0).swept = false ∧ y.stoppable (thrown 0) = true ∧
      (y.deliveries.any (thrown 0).nested) = false) ∧
    (s.sweepAll (thrown 0)).1.waitsOver (s.sweepAll (thrown 0)).2 = true ∧
    (z.sweepAll (thrown 0)).1.waitsOver (z.sweepAll (thrown 0)).2 = false ∧
    (thrown 0).stopPc 1 0 3 = some 0x1000 := by
  refine ⟨fun y hy => ?_, by decide +kernel, by decide +kernel, by decide⟩
  simp only [List.mem_cons, List.not_mem_nil, or_false] at hy
  rcases hy with rfl | rfl <;> exact ⟨rfl, by decide, by decide, by decide⟩

theorem witness_BarriersAndMembership :
    let s (g : Option Nat) : State :=
      { box with warp := { busy with barGen := put busy.barGen 9 g }, team := { crew with bars := put crew.bars 9 { Barrier.blank with gen := 5 } }
                 launch := { box.launch with coop := true } }
    (∀ g ∈ [none, some 4, some 5],
      (Goes (s g) (bare (.barArrive 9)) ∧ (s g).prelude.accessesDone = true ∧ (s g).prelude.mask = (s g).prelude.warp.live) ∧
      (∀ i ∈ [Instr.barSync 9, .barWait 9, .barGridSync], Goes (s g) (fun _ => { legal := i.wellFormed, drains := true })) ∧
      Goes (s g) (needs (.barCount (.v 5) 9) [] (.v 5)) ∧ released (s g).prelude.releaseDevice = true) ∧
    Goes box (fun _ => { legal := Instr.barGridSync.wellFormed, drains := true }) ∧ box.prelude.launch.coop = false := by
  refine ⟨fun g hg => ?_, goes_of (by decide), by decide⟩
  simp only [List.mem_cons, List.not_mem_nil, or_false] at hg
  rcases hg with rfl | rfl | rfl <;>
    exact ⟨⟨goes_of (by decide), by decide, by decide⟩, goes_all (u := fun i _ => { legal := i.wellFormed, drains := true }) (by decide),
      goes_of (by decide), by decide⟩

theorem witness_BarriersAndMembership_join :
    let s : State := { box with team := { crew with budget0 := 4 } }
    let z : State := { s with deliveries := [thrown 1] }
    let n : State := { s with team := { crew with convs := put crew.convs 2 { Conv.blank with state := .open, members := 1 } } }
    (∀ y ∈ [s, z], Goes y (fun _ => { legal := (Instr.attach (.s 4) 0).wellFormed, ssrcs := [{ op := .s 4 }], sdsts := [{ op := .s 4 }] }) ∧
      y.prelude.mask = y.prelude.warp.live) ∧
    s.prelude.unwinding = false ∧ z.prelude.unwinding = true ∧
    (∀ y ∈ [s, z, n], Goes y (bare .detach)) ∧ s.prelude.team.namedOpen s.prelude.warp.idx = false ∧
    n.prelude.team.namedOpen n.prelude.warp.idx = true :=
  ⟨fun y hy => ⟨goes_of (by revert y; decide), by revert y; decide⟩, by decide, by decide, fun y hy => goes_of (by revert y; decide),
    by decide, by decide⟩

/-- The last word of the scratchpad, one past it, and a misaligned address. -/
theorem witness_LoadsAndTheScratchpad :
    (∀ a ∈ [(1020 : Word), 1024, 1022],
      Goes (two .i32 7 a) (needs (.lds (.v 5) .zero (.v 8) 0) [{ op := .zero }, { op := .v 8 }] (.v 5)) ∧
      Goes (two .i32 7 a) (fun _ => { legal := (Instr.sts (.v 2) .zero (.v 8)).wellFormed, srcs := [{ op := .v 2 }, { op := .zero }, { op := .v 8 }] }) ∧
      (commonTag wordTags true [(two .i32 7 a).prelude.srcTag (.v 8)]).isSome = true ∧
      (two .i32 7 a).prelude.scoreboard false .zero (.v 8) = false ∧ (two .i32 7 a).prelude.scoreboard true .zero (.v 8) = false) ∧
    (∀ L, L < 32 → (two .i32 7 1020).prelude.mask.getLsbD L = true →
      (lane ((two .i32 7 1020).prelude.vec .zero) L + lane ((two .i32 7 1020).prelude.vec (.v 8)) L).toNat = 1020) ∧
    (two .i32 7 1020).prelude.team.scratchSize = 1024 ∧ Memory.wf (two .i32 7 1020).prelude.team.scratch = true := by
  refine ⟨fun a ha => ?_, below_all (by decide), by decide, by decide⟩
  simp only [List.mem_cons, List.not_mem_nil, or_false] at ha
  rcases ha with rfl | rfl | rfl <;> exact ⟨goes_of (by decide), goes_of (by decide), by decide, by decide, by decide⟩

theorem witness_LoadsAndTheScratchpad_loads :
    let s := two .i32 0 0x1FFFF0
    let at' (p : State) (L : Nat) : BitVec 64 := p.pair .zero p.firstLane + BitVec.ofNat 64 (lane (p.vec (.v 8)) L).toNat
    (Goes s (fun _ => { legal := (Instr.ldgW (.v 4) .zero (.v 8) 15).wellFormed, srcs := [{ op := .zero, count := 2 }, { op := .v 8 }],
                        dsts := [{ op := .v 4, count := 1 }], slot := some 15 }) ∧
     Goes s (fun _ => { legal := (Instr.ldgD (.v 4) .zero (.v 8) 15).wellFormed, srcs := [{ op := .zero, count := 2 }, { op := .v 8 }],
                        dsts := [{ op := .v 4, count := 2 }], slot := some 15 }) ∧
     Goes s (fun _ => { legal := (Instr.ldgQ (.v 4) .zero (.v 8) 15).wellFormed, srcs := [{ op := .zero, count := 2 }, { op := .v 8 }],
                        dsts := [{ op := .v 4, count := 4 }], slot := some 15 })) ∧
    (∀ n ∈ [1, 2, 4], ∃ l, (s.prelude.check .load (4 * n) (s.prelude.active.map fun L => (L, at' s.prelude L))).2 = .ok l) ∧
    Goes s (fun _ => { legal := (Instr.sld (.s 2) .zero (.s 6) 0).wellFormed, ssrcs := [{ op := .zero, count := 2 }, { op := .s 6 }],
                       sdsts := [{ op := .s 2 }], slot := some 0 }) ∧
    ∃ l, (s.prelude.check .load 4 [(s.prelude.firstLane, s.prelude.scPair .zero + BitVec.ofNat 64 (s.prelude.sc (.s 6)).toNat)]).2 = .ok l :=
  ⟨⟨goes_of (by decide), goes_of (by decide), goes_of (by decide)⟩, fun n hn => passed_of (by revert n; decide), goes_of (by decide),
    passed_of (by decide)⟩

/-- Slot 9 empty, in flight, landed, and landed with a poisoned or a lost lane. -/
def landing (st : SlotState) (poisoned lost : Mask) : State :=
  let todo : List LaneLoad := if st = .inflight then [{ lane := 3, va := 0x1000, pa := 0x1000 }] else []
  let x : Slot := { Slot.blank with state := st, dest := 5, mask := 0xFFFF, poisoned := poisoned, lost := lost, todo := todo }
  { box with warp := { busy with slots := put busy.slots 9 x } }

theorem witness_LoadsAndTheScratchpad_commit :
    (∀ s ∈ [landing .empty 0 0, landing .inflight 0 0, landing .landed 0 0, landing .landed 4 0, landing .landed 0 8],
      Goes s (bare (.commit .fp32 9)) ∧ Goes s (bare (.commit .fp64 9)) ∧ Goes s (bare (.commitAll .fp32)) ∧ s.prelude.warp.trslot = 0) ∧
    ((landing .inflight 0 0).prelude.warp.land 9).state = .inflight ∧
    (((landing .inflight 0 0).prelude.warp.land 9).tags .fp32 false).isSome = true ∧
    ((landing .landed 0 0).prelude.warp.land 9).marked = 0 ∧ (landing .landed 0 0).prelude.warp.live? 5 = none ∧
    ((landing .landed 4 0).prelude.warp.land 9).marked ≠ 0 ∧ ((landing .landed 0 8).prelude.warp.land 9).poisoned = 0 ∧
    ((landing .landed 0 8).prelude.warp.land 9).marked ≠ 0 ∧ (landing .landed 0 8).prelude.team.guarded = false ∧
    (match (landing .landed 0 0).prelude.commitSlots .fp32 (List.range 16) with
      | .pass _ => true
      | _ => false) = true :=
  ⟨fun s hs => ⟨goes_of (by revert s; decide), goes_of (by revert s; decide), goes_of (by revert s; decide), by revert s; decide⟩,
    by decide, by decide, by decide, by decide, by decide, by decide, by decide, by decide, by decide⟩

theorem witness_ChecksOfAnAccess :
    let l : List (Nat × BitVec 64) := [(3, 0x1000), (7, 0x1002)]
    (∀ x ∈ l, x.1 < 32) ∧ (l.map (·.1)).Nodup ∧ (∃ x ∈ l, x.2.toNat % 4 ≠ 0) ∧ Memory.wf box.mem = true := by decide

theorem witness_StoresReachTheirHomes :
    let s := two .i32 7 0x1FF0
    let addrs (p : State) := p.active.map fun L => (L, p.pair .zero p.firstLane + BitVec.ofNat 64 (lane (p.vec (.v 8)) L).toNat)
    (∀ w ∈ [((0 : BitVec 2), 1, 4), (1, 2, 8), (2, 4, 16), (3, 1, 1)],
      Goes s (fun _ => { legal := (Instr.stg (.v 4) .zero (.v 8) w.1).wellFormed,
                         srcs := [{ op := .v 4, count := w.2.1 }, { op := .zero, count := 2 }, { op := .v 8 }] }) ∧
      ∃ l, (s.prelude.check .store w.2.2 (addrs s.prelude)).2 = .ok l) ∧
    (∀ w ∈ [((0 : BitVec 2), 1), (1, 2)],
      Goes s (fun _ => { legal := (Instr.sst (.s 4) .zero (.s 6) w.1).wellFormed,
                         ssrcs := [{ op := .s 4, count := w.2 }, { op := .zero, count := 2 }, { op := .s 6 }] }) ∧
      ∃ l, (s.prelude.check .store (4 * w.2) [(s.prelude.firstLane, s.prelude.scPair .zero + BitVec.ofNat 64 (s.prelude.sc (.s 6)).toNat)]).2 = .ok l) ∧
    (s.rat s.ctx 0x1FF0).cls = 0 ∧ s.team.holds = false ∧ target 0x1FF0 = .hbm :=
  ⟨fun w hw => ⟨goes_of (by revert w; decide), passed_of (by revert w; decide)⟩,
    fun w hw => ⟨goes_of (by revert w; decide), passed_of (by revert w; decide)⟩, by decide, by decide, by decide⟩

/-- A line whose home has one update that is due. -/
def pending (k : UpdateKind) : State :=
  let u : Update := { uid := 9, core := 0, team := 1, warp := 0, ctx := 0, pa := 0x110, va := 0x110, kind := k, kept := false, tw := 1000 }
  { box with home := [{ line := 2, lmax := 0, lastTw := 0, excl := none, cached := true, pend := [u] }] }

theorem witness_StoresReachTheirHomes_update :
    ∀ s ∈ [pending (.bytes [1, 2, 3]), pending (.atomic 0 5 0 60 3)], (∃ u rest, (s.homeLine 2).pend = u :: rest ∧ u.tw ≤ s.gtc) ∧
      (s.homeLine 2).excl = none ∧ Memory.wf s.mem = true := by
  intro s hs
  simp only [List.mem_cons, List.not_mem_nil, or_false] at hs
  rcases hs with rfl | rfl
  · exact ⟨⟨_, _, rfl, by decide⟩, by decide, by decide⟩
  · exact ⟨⟨_, _, rfl, by decide⟩, by decide, by decide⟩

theorem witness_StoresReachTheirHomes_uncounted :
    ((pending (.bytes [1, 2, 3])).homeLine 2).pend.map (·.counted) = [false] ∧ ((pending (.bytes [1, 2, 3])).homeLine 2).cached = true := by decide

theorem witness_AtomicsBeginTheirLanes :
    let s := setV (two .i32 0x1000 5) 3 .i32 0
    let addrs (p : State) := (maskLanes p.atomMask).map fun L => (L, p.pair (.v 2) L)
    let lanes (p : State) := (passed (p.check .both 4 (addrs p)).2).getD []
    s.prelude.heldAtom = none ∧ s.prelude.secondary = false ∧ s.prelude.atomTag 0 (.v 5) (.v 8) = some .i32 ∧
    Goes s (fun _ => { legal := (Instr.atom (.v 5) (.v 2) (.v 8) 0).wellFormed, srcs := [{ op := .v 2, count := 2 }, { op := .v 8, count := 1 }],
                       dsts := [{ op := .v 5, count := 1 }] }) ∧
    (∃ l, (s.prelude.check .both 4 (addrs s.prelude)).2 = .ok l) ∧
    (∀ red ∈ [false, true], ∃ l, (s.prelude.check .both 4 (addrs s.prelude) red).2 = .ok l) ∧
    ((((s.prelude.check .both 4 (addrs s.prelude)).1.beginAfter false 0x76 0 (.v 5) .i32
      ((s.prelude.check .both 4 (addrs s.prelude)).1.atomLanes false 0 1 (.v 8) (.v 5) (lanes s.prelude))).map (·.2.held)) = some false) ∧
    s.prelude.redTagOk 0 (.v 8) = true ∧ s.prelude.redVoids 0 (.v 8) = 0 ∧ redWidth 0 = 4 ∧
    Goes s (fun _ => { legal := (Instr.red (.v 2) (.v 8) 0).wellFormed, srcs := [{ op := .v 2, count := 2 }, { op := .v 8, count := 1 }] }) ∧
    ((((s.prelude.check .both (redWidth 0) (addrs s.prelude) true).1.beginAfter true 0x77 0 .void .raw
      ((s.prelude.check .both (redWidth 0) (addrs s.prelude) true).1.redLanes 0 (.v 8) (lanes s.prelude))).map (·.2.held)) = some false) :=
  ⟨by decide, by decide, by decide, goes_of (by decide), passed_of (by decide),
    fun red h => passed_of (by revert red; decide), by decide, by decide, by decide, by decide, goes_of (by decide), by decide⟩

theorem witness_FencesAndMonw :
    (∀ k ∈ [(0 : BitVec 2), 1, 2], ∀ scope ∈ [(0 : BitVec 2), 1, 2, 3], Goes box (bare (.fence k scope)) ∧
      Goes (landing .inflight 0 0) (bare (.fence k scope)) ∧ ∃ t, box.prelude.fenceBy k.toNat scope.toNat = .done t) ∧
    box.prelude.accessesDone = true ∧ (landing .inflight 0 0).prelude.accessesDone = false ∧ ∃ t, box.prelude.releaseDevice = .done t :=
  ⟨fun k hk scope hs => ⟨goes_of (by revert scope; revert k; decide), goes_of (by revert scope; revert k; decide),
      released_of (by revert scope; revert k; decide)⟩, by decide, by decide, released_of (by decide)⟩

theorem witness_FencesAndMonw_monw :
    let s := setV (two .i32 0x1000 5) 3 .i32 0
    let addrs (p : State) := p.active.map fun L => (L, p.pair (.v 2) L)
    Goes s (fun _ => { legal := (Instr.monw (.v 5) (.v 2) (.v 8) 0).wellFormed, srcs := [{ op := .v 2, count := 2 }, { op := .v 8 }],
                       dsts := [{ op := .v 5 }], ccAwait := true, drains := true }) ∧
    (commonTag [.i32, .n32] true [s.prelude.srcTag (.v 8)]).isSome = true ∧ s.prelude.secondary = false ∧
    (∃ l, (s.prelude.check .load 4 (addrs s.prelude)).2 = .ok l) ∧
    ∀ l ∈ (passed (s.prelude.check .load 4 (addrs s.prelude)).2).getD [], s.prelude.homeShut l.pa = false :=
  ⟨goes_of (by decide), by decide, by decide, passed_of (by decide), by decide⟩

/-- A MONW whose lane 3 has no monitor, before and at its deadline. -/
def watching (deadline : Nat) : State :=
  { box with warp := { busy with monws := [{ id := 60, cond := 0, dest := 5, mask := 8, deadline := some deadline, since := 900, held := none
                                             lanes := [{ lane := 3, va := 0x1000, pa := 0x1000, cmp := 5, armed := false, nextPoll := 1000,
                                                         value := none }] }] } }

theorem witness_FencesAndMonw_expiry :
    ∀ d ∈ [1000, 1001], (watching d).focusOn 1 0 = some (watching d) ∧
      (((watching d).warp.monws.find? fun o => o.id == 60).map fun o => (o.deadline, o.result.isNone, o.held)) = some (some d, true, none) ∧
      ((((watching d).warp.monws.find? fun o => o.id == 60).bind fun o =>
        o.lanes.find? fun l => l.lane == 3 && !l.armed && l.value.isNone).map fun l => decide (l.nextPoll ≤ (watching d).gtc) &&
          !(watching d).homeShut l.pa) = some true := by
  intro d hd
  simp only [List.mem_cons, List.not_mem_nil, or_false] at hd
  rcases hd with rfl | rfl
  · exact ⟨rfl, by decide, by decide⟩
  · exact ⟨rfl, by decide, by decide⟩

/-- A copy descriptor in s8 to s15: 16 bytes from 0x1000 to the scratchpad, one row; with len 0 its hull is empty. -/
def copying (len : Nat) (dir : Nat) (gaddr : Word) : State :=
  { box with warp := { busy with sregs := put (put (put busy.sregs 8 gaddr) 12 (BitVec.ofNat 32 (2 ^ 20 + len))) 14 (BitVec.ofNat 32 dir) } }

theorem witness_CopyInstructionsForkCancelAndCount :
    let u (i : Instr) : State → Uses := fun _ => { legal := i.wellFormed, ssrcs := [{ op := .s 8, count := 8 }] }
    (∀ n ∈ [16, 0], Goes (copying n 0 0x1000) (u (.cpgo (.s 8))) ∧
      ((copying n 0 0x1000).prelude.descriptor (.s 8)).bad false (copying n 0 0x1000).prelude.team.scratchSize = none ∧
      (copying n 0 0x1000).prelude.team.ranges < 16) ∧
    (((copying 16 0 0x1000).prelude.descriptor (.s 8)).hull false).1 ≠ (((copying 16 0 0x1000).prelude.descriptor (.s 8)).hull false).2 ∧
    (((copying 0 0 0x1000).prelude.descriptor (.s 8)).hull false).1 = (((copying 0 0 0x1000).prelude.descriptor (.s 8)).hull false).2 ∧
    Goes (copying 16 0 0x1002) (u (.cpgo (.s 8))) ∧
    (∃ r, ((copying 16 0 0x1002).prelude.descriptor (.s 8)).bad false 1024 = some r) ∧
    Goes (copying 16 1 0x1000) (u (.cpred (.s 8) 1)) ∧
    ((copying 16 1 0x1000).prelude.descriptor (.s 8)).bad true 1024 = none ∧
    Goes box (bare .cpstage) ∧ box.prelude.team.ranges + box.prelude.team.stageEntries.length ≤ 16 ∧ box.prelude.team.sched = [] ∧
    (∀ i ∈ [Instr.cpcancel 63, .cpcancel 0], Goes box (bare i)) ∧
    ∀ i ∈ [Instr.cpq (.s 2) 62, .cpq (.s 2) 63], Goes box (scalarNeeds i [] (.s 2)) := by
  refine ⟨fun n hn => ?_, by decide, by decide, goes_of (by decide), some_of (by decide), goes_of (by decide), by decide, goes_of (by decide),
    by decide, by decide, goes_all (by decide), goes_all (u := fun i => scalarNeeds i [] (.s 2)) (by decide)⟩
  simp only [List.mem_cons, List.not_mem_nil, or_false] at hn
  rcases hn with rfl | rfl <;> exact ⟨goes_of (by decide), by decide, by decide⟩

/-- A copy of 16 bytes in flight. -/
def flying (dir : Bool) (tie : Option (Nat × Nat)) (gaddr : BitVec 64) : State :=
  let d : CopyDesc := { ((copying 16 0 0x1000).descriptor (.s 8)) with dir := dir, gaddr := gaddr }
  let c : CopyOp :=
    { uid := 70, desc := d, g0 := gaddr, red := false, anyorder := false, warp := 0, owner := 0, pc := 0x1000, tie := tie, range := true,
      begun := true, done := [], source := none, srcRead := false,
      moved := false, pending := 0, tw := 0, stamp := 1, cb4 := [], cb8 := [] }
  { box with team := { crew with copies := [c] }, core := { box.core with tlb := [page, { page with pipe := 2 }] } }

theorem witness_CopiesAndTheirSwitches :
    ((flying true none 0x1000).focusCopy 1 70).isSome = true ∧
    (((flying true none 0x1000).focusCopy 1 70).map fun x => x.1.team.works && x.1.mayBegin x.2 && x.2.desc.dir && !x.2.red && !x.2.srcRead &&
      (x.2.left.find? (fun y => y.1 == 0)).any fun y => y.1 == 0 && (x.1.probe 2 .store (y.2.pieces.map (·.1))).clear) = some true ∧
    (((flying false (some (3, 0)) 0x1000).readyCopy 1 70).map (·.2.tie.isSome)) = some true ∧
    (((flying false none 0x1000).readyCopy 1 70).map (·.2.tie)) = some none ∧
    (((flying false none 0x40000000).focusCopy 1 70).map fun x => x.1.team.works && x.1.mayBegin x.2 && !x.1.team.guarded &&
        !(x.2.left.flatMap fun p => (x.1.probe 2 x.2.access (p.2.pieces.map (·.1))).bad).isEmpty)
      = some true :=
  ⟨by decide, by decide +kernel, by decide +kernel, by decide +kernel, by decide +kernel⟩

/-- A contribution that joins its line's entry, that opens one, that finds the entry's window over, and that goes on alone; an entry that is
due and one that is not. -/
def combining (op : Nat) (line opened : Nat) : State :=
  let k : Contribution :=
    { id := 80, team := 1, copy := 70, core := 0, ctx := 0, line := line, va := 0, op := op, anyorder := false, host := false, route := 0,
      fallback := false, data := [some 1] }
  let e : SwitchEntry :=
    { id := 81, die := homeDie 8, cluster := homeCluster 8, ctx := 0, line := 8, va := 0, op := 0, opened := opened, data := [some 1],
      copies := [(1, 69)] }
  { box with contributions := [k], switchEntries := [e] }

theorem witness_CopiesAndTheirSwitches_switches :
    (∀ s ∈ [combining 0 8 1000, combining 0 9 1000, combining 0 8 0, combining 3 8 1000], (s.contributions.find? fun k => k.id == 80).isSome = true ∧
      (s.switchEntries.find? fun e => e.id == 81).isSome = true) ∧
    (∀ s ∈ [combining 0 8 1000, combining 0 9 1000, combining 0 8 0, combining 3 8 1000], s.lineHeld 8 = false ∧ s.lineHeld 9 = false) ∧
    ((combining 0 8 0).dieAt (homeDie 8)).cmbwin.toNat = 64 ∧ target (128 * 8) ≠ .peer ∧ target (128 * 9) ≠ .peer ∧
    0 + ((combining 0 8 0).dieAt (homeDie 8)).cmbwin.toNat ≤ (combining 0 8 0).gtc ∧
    (combining 3 8 1000).gtc < 1000 + ((combining 3 8 1000).dieAt (homeDie 8)).cmbwin.toNat := by decide

theorem witness_MatrixStateIsWritten :
    let s := three 0 1
    let goesAs (i : Instr) (srcs : List SSrc) := Goes s fun _ => { legal := Instr.wellFormed i, ssrcs := srcs }
    goesAs (.mset (.s 4) (.s 0) 0x00) [{ op := .s 4 }] ∧ goesAs (.mset (.s 4) (.s 6) 0x01) [{ op := .s 4 }, { op := .s 6 }] ∧
    goesAs (.mset (.s 4) (.s 6) 0x02) [{ op := .s 4 }, { op := .s 6 }] ∧ (s.prelude.sc (.s 6)).toNat % 32 = 1 ∧
    s.prelude.team.tiles.length = 2 ∧ s.prelude.team.pend 1 = 0 ∧ goesAs (.mset (.s 0) (.s 0) 0x03) [] ∧
    Tag.ofCode (((three 0x01 1).prelude.sc (.s 4)).setWidth 5) ∈ [Tag.fp32, .fp64, .rw] ∧
    goesAs (.mset (.s 4) (.s 0) 0x10) [{ op := .s 4, count := 2 }] ∧ goesAs (.mset (.s 4) (.s 0) 0x1F) [{ op := .s 4, count := 2 }] ∧
    goesAs (.mset (.s 4) (.s 0) 0x20) [{ op := .s 4, count := 2 }] ∧ goesAs (.mset (.s 4) (.s 0) 0x2F) [{ op := .s 4, count := 2 }] ∧
    goesAs (.mmask (.s 4) 0) [{ op := .s 4 }] ∧ goesAs (.mmask (.s 4) 1) [{ op := .s 4 }] ∧ goesAs (.mmask (.s 0) 2) [] :=
  ⟨goes_of (by decide), goes_of (by decide), goes_of (by decide), by decide, by decide, by decide, goes_of (by decide), by decide,
    goes_of (by decide), goes_of (by decide), goes_of (by decide), goes_of (by decide), goes_of (by decide), goes_of (by decide),
    goes_of (by decide)⟩

/-- Register 9 open for the warps of a mask, of FP16 operands on tiles 0 and 1 tagged FP32. -/
def converging (members : Mask) : State :=
  let s := three 1 0x100
  let tile : Tile := { Tile.blank with tag := .fp32 }
  let c : Conv := { Conv.blank with state := .open, c := 0, d := 1, members := members, afmt := .fp16, bfmt := .fp16 }
  { s with team := { crew with tiles := [tile, tile], convs := put crew.convs 9 c } }

theorem witness_ConvergenceOpensAndSigns :
    let s := three 1 0x100
    Goes s (fun _ => { legal := (Instr.mconv (.s 4) (.s 6) 9).wellFormed, ssrcs := [{ op := .s 4 }, { op := .s 6 }] }) ∧
    (s.prelude.team.conv 9).state = .free ∧ s.prelude.sc (.s 4) &&& s.prelude.teamMask ≠ 0 ∧ s.prelude.team.tiles.length = 2 ∧
    (∀ m ∈ [(1 : Mask), 3],
      Goes (converging m) (fun _ => { legal := (Instr.mma (.s 8) (.s 8) 9).wellFormed,
                                      ssrcs := [{ op := .s 8, count := 2 }, { op := .s 8, count := 2 }] }) ∧
      (converging m).prelude.mask = (converging m).prelude.warp.live ∧ (converging m).prelude.warp.idx < 32 ∧
      (converging m).prelude.signWaits 9 = false ∧
      (converging m).prelude.signCheck 9 ((converging m).prelude.scPair (.s 8)) ((converging m).prelude.scPair (.s 8)) = none) ∧
    Goes s (fun _ => { legal := (Instr.mprog (.s 2) 9).wellFormed, sdsts := [{ op := .s 2 }] }) := by
  refine ⟨goes_of (by decide), by decide, by decide, by decide, fun m hm => ?_, goes_of (by decide)⟩
  simp only [List.mem_cons, List.not_mem_nil, or_false] at hm
  rcases hm with rfl | rfl <;> exact ⟨goes_of (by decide), by decide, by decide, by decide, by decide⟩

theorem witness_MatrixOperationsForkAndJoin :
    let s : State := { three 0x1000 0x000B0001 with team := { crew with tiles := [Tile.blank, { Tile.blank with tag := .fp32 }] } }
    (1 : BitVec 5).toNat < s.prelude.team.tiles.length ∧ s.prelude.team.tiles.length ≤ (2 : BitVec 5).toNat ∧
    Goes s (fun _ => { legal := (Instr.mld (.s 4) .zero 1).wellFormed, ssrcs := [{ op := .s 4, count := 2 }, { op := .zero }] }) ∧
    (s.prelude.scPair (.s 4)).toNat % 8 = 0 ∧ (s.prelude.sc .zero).toNat % 8 = 0 ∧
    Goes s (fun _ => { legal := (Instr.mst (.s 4) (.s 2) 1).wellFormed, ssrcs := [{ op := .s 4, count := 2 }, { op := .s 2, count := 2 }] }) ∧
    Tag.ofCode ((s.prelude.sc (.s 2) 1).setWidth 5) = .raw ∧ (s.prelude.sc (.s 2)).toNat % 8 = 0 ∧
    (∀ i ∈ [Instr.mzero 1, .mzero 2], Goes s (bare i)) ∧
    Goes s (fun _ => { legal := (Instr.mcvt (.v 5) (.s 6)).wellFormed, ssrcs := [{ op := .s 6 }], dsts := [{ op := .v 5 }] }) ∧
    (s.prelude.sc (.s 6)).toNat % 32 = 1 ∧ mcvtTags.contains (Tag.ofCode ((s.prelude.sc (.s 6) >>> 16).setWidth 5)) = true ∧
    (s.prelude.team.tileAt 1).tag ≠ .raw ∧ s.prelude.team.pend 1 = 0 ∧
    Goes s (fun _ => { legal := (Instr.mwait (.s 0) (.s 2) 1).wellFormed, ssrcs := [], sdsts := [{ op := .s 2 }] }) ∧
    s.prelude.mwaitBusy (.s 0) 1 = false ∧
    Goes s (fun _ => { legal := (Instr.mwait (.s 0) (.s 2) 0).wellFormed, ssrcs := [{ op := .s 0 }], sdsts := [{ op := .s 2 }] }) ∧
    (∀ i, i < 32 → (s.prelude.sc (.s 0)).getLsbD i = true → i < s.prelude.team.tiles.length) :=
  ⟨by decide, by decide, goes_of (by decide), by decide, by decide, goes_of (by decide), by decide, by decide, goes_all (by decide),
    goes_of (by decide), by decide, by decide, by decide, by decide, goes_of (by decide), by decide, goes_of (by decide), below_all (by decide)⟩

theorem witness_MatrixOperationsForkAndJoin_busy :
    let s : State := { box with team := { crew with mops := [{ (default : MatOp) with kind := .mzero, d := 1, phase := .queued }] } }
    Goes s (fun _ => { legal := (Instr.mwait (.s 0) (.s 2) 1).wellFormed, ssrcs := [], sdsts := [{ op := .s 2 }] }) ∧
    s.prelude.mwaitBusy (.s 0) 1 = true := ⟨goes_of (by decide), by decide⟩

/-- A warp with few granules on a core whose pool is free, and on one whose pool is full. -/
def pooled (vvg : Nat) (full : Bool) : State :=
  let s : State := { box with warp := { busy with vvg := vvg } }
  let rest := (List.range 31).map fun i => { busy with idx := i + 1, vvg := 32 }
  let others := (List.range 16).map fun i => { busy with team := 2, idx := i, vvg := 32 }
  if full then { s with warps := rest ++ others, teams := [{ crew with handle := 2, place := 1 }] } else s

theorem witness_PoolAndItsQueue :
    (∀ i ∈ [Instr.grow (.s 2) 0 0, .grow (.s 2) 0 1, .grow (.s 2) 1 28, .grow (.s 2) 0 29, .malloc (.s 2) 0 0, .malloc (.s 2) 0 1,
        .malloc (.s 2) 1 30, .malloc (.s 2) 0 31, .shrink (.s 2) 0, .shrink (.s 2) 3, .shrink (.s 2) 4],
      Goes (pooled 4 false) (fun _ => { legal := i.wellFormed, sdsts := [{ op := .s 2 }] })) ∧
    ((pooled 4 false).prelude.poolQueue (pooled 4 false).prelude.core.num).isEmpty = true ∧
    28 ≤ (pooled 4 false).prelude.freeGranules (pooled 4 false).prelude.core.num ∧
    (∀ i ∈ [Instr.mfree 0, .mfree 2, .mfree 3], Goes (pooled 4 false) (bare i)) ∧
    (∀ x ∈ (pooled 4 false).prelude.team.convs.toList, x.state ≠ .open) ∧ (pooled 4 false).prelude.team.mops = [] ∧
    (pooled 4 true).freeGranules 0 = 1536 - (4 + 31 * 32 + 16 * 32 + 2 * 2 + 2 * 2) ∧
    Goes (pooled 4 true) (fun _ => { legal := (Instr.grow (.s 2) 1 28).wellFormed, sdsts := [{ op := .s 2 }] }) ∧
    Goes (pooled 4 true) (fun _ => { legal := (Instr.malloc (.s 2) 1 30).wellFormed, sdsts := [{ op := .s 2 }] }) :=
  ⟨goes_all (u := fun i _ => { legal := i.wellFormed, sdsts := [{ op := .s 2 }] }) (by decide), by decide, by decide, goes_all (by decide),
    by decide, by decide, by decide +kernel, goes_of (by decide), goes_of (by decide)⟩

/-- A blocking request at the head of the queue of core 0: one that fits, and one that no one can serve. -/
def queued (full : Bool) (g : Nat) : State :=
  let s := pooled 4 full
  { s with warp := { s.warp with hold := .pool (.grow (.s 2) g) }, warps := s.warps.map fun w => { w with hold := .endtry 1 } }

theorem witness_PoolAndItsQueue_head :
    (∀ x ∈ [(false, 28), (true, 28)], ((queued x.1 x.2).poolHead 0).map (fun w => (w.team, w.idx, w.request)) =
        some (1, 0, some (.grow (.s 2) x.2)) ∧ ((queued x.1 x.2).focusOn 1 0).isSome = true) ∧
    28 ≤ (queued false 28).freeGranules 0 ∧ (queued true 28).freeGranules 0 < 28 ∧
    ((queued true 28).poolVictim 0).map (fun w => (w.team, w.idx)) = some (1, 0) ∧
    ((queued true 28).coreWarps 0).all Warp.poolStuck = true ∧ (queued true 28).releasing 0 = false ∧
    (((queued false 28).focusOn 1 0).map fun q => ({ q with warp := { q.warp with hold := .none } } : State).issuing.isSome) = some true :=
  ⟨by decide +kernel, by decide +kernel, by decide +kernel, by decide +kernel, by decide +kernel, by decide +kernel, by decide +kernel⟩

/-- A register to be released that awaits a load. -/
theorem witness_PoolAndItsQueue_shrink :
    let s : State := { box with warp := { busy with bank := put busy.bank 255 { reg .i32 0 with pending := true } } }
    Goes s (fun _ => { legal := (Instr.shrink (.s 2) 1).wellFormed, sdsts := [{ op := .s 2 }] }) ∧
    (s.prelude.warp.bankReg 255).pending = true := ⟨goes_of (by decide), by decide⟩

def trapping : State → Uses := fun _ => { legal := (Instr.trap 63).wellFormed, drains := true }

theorem witness_TrapsAndReturns :
    Goes box trapping ∧ box.prelude.warp.tdepth = false ∧ box.prelude.warp.quiet = true ∧
    Goes (landing .inflight 0 0) trapping ∧ (landing .inflight 0 0).prelude.warp.quiet = false ∧
    Goes trap trapping ∧ trap.prelude.warp.tdepth = true :=
  ⟨goes_of (by decide), by decide, by decide, goes_of (by decide), by decide, goes_of (by decide), by decide⟩

/-- PREEMPT is raised in a warp. -/
theorem witness_TrapsAndReturns_preempt :
    let s : State := { box with warp := { busy with preempt := true } }
    (s.focusOn 1 0).map (fun q => (q.warp.preempt, q.warp.tdepth, q.warp.quiet, q.holdsAtom 1 0, q.warp.frontier.isEmpty, q.unwinding)) =
      some (true, false, true, false, false, false) := by decide

/-- A trap routine whose frontier shadow is sound, and one whose shadow is empty. -/
def returning (n : Nat) : State :=
  let e : ShadowEntry := { pc := 0x1004, mask := 0xFFFFFFFF, prio := 32, wait := 0 }
  { box with warp := { busy with tdepth := true, fshn := n, fsh := put busy.fsh 0 e } }

theorem witness_TrapsAndReturns_return :
    let u : State → Uses := fun _ => { legal := Instr.tret.wellFormed, drains := true }
    Goes box u ∧ box.prelude.privileged = false ∧ Goes (returning 0) u ∧ (returning 0).prelude.privileged = true ∧
    (returning 0).prelude.warp.shadowOk = false ∧ Goes (returning 1) u ∧ (returning 1).prelude.warp.tdepth = true ∧
    (returning 1).prelude.warp.shadowOk = true ∧
    (∃ x ∈ (returning 1).warp.shadowEntries, x.mask &&& (returning 1).warp.live ≠ 0 ∧ x.wait ≠ 4) :=
  ⟨goes_of (by decide), by decide, goes_of (by decide), by decide, by decide, goes_of (by decide), by decide, by decide, by decide⟩

/-- A fault in a trap routine, one that a region catches, and one that none does. -/
theorem witness_FaultsTakeTheirRoute :
    let r : Raise := { code := 0x0021, lanes := 8, addr := 0x1000 }
    ({ box with warp := { busy with park := some default } } : State).warp.parked = true ∧ trap.warp.parked = false ∧
    (regions 1 0 0 false).warp.parked = false ∧ box.warp.parked = false ∧ box.warp.tdepth = false ∧
    trap.warp.tdepth = true ∧ (regions 1 0 0 false).warp.tdepth = false ∧ maskLanes r.lanes ≠ [] ∧
    (∀ L, L ∈ maskLanes r.lanes → ∃ h, (regions 1 0 0 false).innermost L = some h ∧ h.region.f = true) ∧
    ¬ (∀ L, L ∈ maskLanes r.lanes → ∃ h, box.innermost L = some h ∧ h.region.f = true) := by
  refine ⟨by decide, by decide, by decide, by decide, by decide, by decide, by decide, by decide, fun L hL => ?_, fun h => ?_⟩
  · have e : maskLanes 8 = [3] := by decide
    rw [e, List.mem_singleton] at hL
    subst hL
    exact ⟨_, rfl, by decide⟩
  · obtain ⟨x, hx, _⟩ := h 3 (by decide)
    revert hx
    have e : box.innermost 3 = none := by decide
    rw [e]
    simp

/-- One instruction that fails each row of Table 6-6 and no row before it. -/
theorem witness_ChecksAndIllegalWords :
    (∀ c ∈ [(({ legal := false } : Uses), box), ({ privileged := true }, box), ({ window := false }, box), ({ srcs := [{ op := .v 2 }] }, { box with warp := Warp.blank }),
        ({ slot := some 9 }, landing .landed 0 0), ({ srcs := [{ op := .latch 0 }] }, box), ({ srcs := [{ op := .oc 0 }] }, box),
        ({ tagsOk := false }, box), ({ voids := 8 }, { box with warp := { busy with frm := 8 } }), ({ uniform := false }, box),
        ({ specific := some { code := 0x0022, lanes := 8, addr := 2 } }, box)], (match c.2.gate c.1 with
      | .raise _ => true
      | _ => false) = true) ∧
    box.gate { retry := true } = .wait ∧ box.gate {} = .go := by decide

theorem witness_ChecksAndIllegalWords_word :
    (∀ i ∈ [Instr.illegalWord 0xFFFFFFFF, .imad (.v 1) (.v 2) (.v 3) 0 0 3], isEvent i = false ∧ i.wellFormed = false) ∧
    box.issuing.isSome = true ∧ (box.switches = true → box.warp.unproduced = []) := by decide

theorem witness_CsrAccess :
    Goes box (fun _ => { legal := (Instr.csrr (.s 2) 2 0).wellFormed, sdsts := [{ op := .s 2 }], drains := true }) ∧
    (∃ v, box.prelude.csrValue box.prelude.ownReach 2 = some v) ∧
    Goes box (fun _ => { legal := (Instr.csrw (.s 4) 2 0).wellFormed, ssrcs := [{ op := .s 4 }], drains := true }) ∧
    csrPrivileged 2 = false ∧ csrPrivileged 0x301 = true ∧ box.prelude.privileged = false ∧ trap.prelude.privileged = true ∧
    (∀ s ∈ [box, trap], Goes s (fun _ => { legal := (Instr.csrw (.s 4) 1 6).wellFormed, ssrcs := [{ op := .s 4 }], drains := true })) := by
  refine ⟨goes_of (by decide), some_of (by decide), goes_of (by decide), by decide, by decide, by decide, by decide, fun s hs => ?_⟩
  simp only [List.mem_cons, List.not_mem_nil, or_false] at hs
  rcases hs with rfl | rfl <;> exact goes_of (by decide)

theorem witness_CacheAndTranslationMaintenance :
    let u (i : Instr) : State → Uses := fun _ => { legal := i.wellFormed, ssrcs := [{ op := .s 4, count := 2 }, { op := .s 6 }] }
    (∀ i ∈ [Instr.cflush (.s 4) (.s 6), .cinv (.s 4) (.s 6), .cinvDiscard (.s 4) (.s 6), .pref (.s 4) (.s 6) 1, .tlbinv (.s 4) (.s 6)],
      Goes box (u i) ∧ Goes trap (u i)) ∧
    (let mapped := (box.prelude.rangeLines (box.prelude.scPair (.s 4)).toNat (box.prelude.sc (.s 6)).toNat).filter box.prelude.backMapped;
      (∀ l ∈ mapped, l.dirty = 0) ∧ box.prelude.backOut = false) ∧
    (let p := trap.prelude;
      (∀ h ∈ p.home, h.pend = []) ∧ ((p.core :: p.cores).map (·.num)).Nodup ∧ (∀ k ∈ p.core :: p.cores, ∀ l ∈ k.lines, l.ctx ≠ p.targetCtx) ∧
      p.inFlight p.targetCtx PageRange.whole = false ∧ p.inFlight p.targetCtx (PageRange.of (p.scPair (.s 4)).toNat (p.sc (.s 6)).toNat) = false) ∧
    box.prelude.privileged = false ∧ trap.prelude.privileged = true ∧ Goes box (bare .tlbinvAll) ∧ Goes trap (bare .tlbinvAll) ∧
    (∃ t, trap.prelude.invalidate (PageRange.of (trap.prelude.scPair (.s 4)).toNat (trap.prelude.sc (.s 6)).toNat) = .done t) ∧
    ∃ t, trap.prelude.invalidate PageRange.whole = .done t := by
  refine ⟨fun i hi => ⟨?_, ?_⟩, by decide, by decide, by decide, by decide, goes_of (by decide), goes_of (by decide),
    finished_of (by decide), finished_of (by decide)⟩
  · exact goes_all (u := fun i _ => { legal := i.wellFormed, ssrcs := [{ op := .s 4, count := 2 }, { op := .s 6 }] })
      (l := [Instr.cflush (.s 4) (.s 6), .cinv (.s 4) (.s 6), .cinvDiscard (.s 4) (.s 6), .pref (.s 4) (.s 6) 1, .tlbinv (.s 4) (.s 6)])
      (by decide) i hi
  · exact goes_all (u := fun i _ => { legal := i.wellFormed, ssrcs := [{ op := .s 4, count := 2 }, { op := .s 6 }] })
      (l := [Instr.cflush (.s 4) (.s 6), .cinv (.s 4) (.s 6), .cinvDiscard (.s 4) (.s 6), .pref (.s 4) (.s 6) 1, .tlbinv (.s 4) (.s 6)])
      (by decide) i hi

/-- The sixteenth and the seventeenth push, an empty stack, and a push at which RGNBRK breaks. -/
theorem witness_RegionsAndTheSavePath :
    let s (n : Nat) (brk : Word) : State :=
      { three 7 0 with warp := { (three 7 0).warp with rgn := List.replicate n 3 }, ctx := { box.ctx with rgnbrk := brk } }
    (∀ x ∈ [(15, (0 : Word)), (16, 0), (0, 0x80000007)],
      Goes (s x.1 x.2) (fun _ => { legal := (Instr.rgne (.s 4)).wellFormed, ssrcs := [{ op := .s 4 }] }) ∧ Goes (s x.1 x.2) (bare .rgnl)) ∧
    (s 0 0x80000007).prelude.ctx.rgnbrk = 0x80000000 ||| ((s 0 0x80000007).prelude.sc (.s 4) &&& 0x7FFFFFFF) ∧
    (s 15 0).prelude.ctx.rgnbrk.getLsbD 31 = false ∧ (s 15 0).prelude.warp.stopReq = false := by
  refine ⟨fun x hx => ?_, by decide, by decide, by decide⟩
  simp only [List.mem_cons, List.not_mem_nil, or_false] at hx
  rcases hx with rfl | rfl | rfl <;> exact ⟨goes_of (by decide), goes_of (by decide)⟩

theorem witness_RegionsAndTheSavePath_save :
    (∀ s ∈ [box, trap],
      (∀ i ∈ [Instr.ocrd (.v 5) 15, .ltrd (.v 5) 7, .lbrd (.v 5) 3 0 15, .lbrd (.v 5) 1 1 15], Goes s (needs i [] (.v 5))) ∧
      (∀ i ∈ [Instr.ocwr (.v 5) 15, .ltwr (.v 5) 7, .lbwr (.v 5) 3 0 15, .lbwr (.v 5) 1 1 15],
        Goes s (fun _ => { legal := i.wellFormed, srcs := [{ op := .v 5 }] })) ∧ s.prelude.warp.awaitsCache 15 = false) ∧
    box.prelude.privileged = false ∧ trap.prelude.privileged = true := by
  refine ⟨fun s hs => ?_, by decide, by decide⟩
  simp only [List.mem_cons, List.not_mem_nil, or_false] at hs
  rcases hs with rfl | rfl <;>
    exact ⟨goes_all (by decide), goes_all (u := fun i _ => { legal := i.wellFormed, srcs := [{ op := .v 5 }] }) (by decide), by decide⟩

theorem witness_HaltEndsTheSaveRoutine :
    let s (cause : Word) : State := { trap with warp := { trap.warp with tcause := cause } }
    Goes box (bare .halt) ∧ box.prelude.privileged = false ∧ (∀ c ∈ [(0x33 : Word), 0x400033, 0], Goes (s c) (bare .halt) ∧
      (s c).prelude.privileged = true) ∧ ((s 0x33).prelude.warp.tcause.toNat % 2 ^ 16 = 0x0033 ∧ (s 0x33).prelude.warp.tcause.getLsbD 22 = false) ∧
    (s 0x400033).prelude.warp.tcause.getLsbD 22 = true ∧ ∃ t, (s 0x33).prelude.releaseDevice = .done t := by
  refine ⟨goes_of (by decide), by decide, fun c hc => ?_, by decide, by decide, released_of (by decide)⟩
  simp only [List.mem_cons, List.not_mem_nil, or_false] at hc
  rcases hc with rfl | rfl | rfl <;> exact ⟨goes_of (by decide), by decide⟩

/-- A save routine whose release waits, and one that has lost a store to the host. -/
theorem witness_HaltEndsTheSaveRoutine_release :
    let s (wct : Nat) (lost : List (BitVec 64)) : State :=
      { trap with warp := { trap.warp with tcause := 0x33, wct := wct, lostLines := lost } }
    Goes (s 2000 []) (bare .halt) ∧ (match (s 2000 []).prelude.releaseDevice with | .wait _ _ => true | _ => false) = true ∧
    Goes (s 0 [128]) (bare .halt) ∧ (match (s 0 [128]).prelude.releaseDevice with | .raise t _ => t.warp.tdepth | _ => false) = true :=
  ⟨goes_of (by decide), by decide, goes_of (by decide), by decide⟩

theorem witness_MmaskWritesTheMasks :
    let s := three 0 1
    let goesAs (i : Instr) (srcs : List SSrc) := Goes s fun _ => { legal := Instr.wellFormed i, ssrcs := srcs }
    (3 : BitVec 6).toNat > 2 ∧ (1 : BitVec 7) ≠ 0 ∧ s.issuing.isSome = true ∧ s.switches = false ∧
    goesAs (.mmask (.s 4) 0) [{ op := .s 4 }] ∧ goesAs (.mmask (.s 4) 1) [{ op := .s 4 }] ∧ goesAs (.mmask (.s 0) 2) [] :=
  ⟨by decide, by decide, by decide, by decide, goes_of (by decide), goes_of (by decide), goes_of (by decide)⟩

/-- A graph node of one-word records whose edge 15 leads to itself. -/
def graphed : State :=
  let n : NodeDef := { (default : NodeDef) with recw := 1, batch := 1, edges := List.replicate 16 0 }
  { setV box 2 .fp32 0 with
    launch := { Launch.blank with graph := true, nodes := [n], queues := [[]], serials := [0], finished := false }
    team := { crew with node := some 0 } }

theorem witness_TraceRegroupEnqueueAndService :
    let t : State := { box with warp := { busy with bank := Vector.replicate 256 (reg .fp32 0) } }
    let v : State := { box with team := { crew with service := true } }
    let svc : State → Uses := fun _ => { legal := (Instr.svc (.v 60) 63).wellFormed, srcs := [{ op := .v 60, count := 4 }],
                                         dsts := [{ op := .v 60, count := 4 }], drains := true }
    Goes t (fun _ => { legal := (Instr.trace (.v 8) (.v 4) 1 1 15).wellFormed, srcs := [{ op := .v 8, count := 8 }],
                       dsts := [{ op := .v 4, count := 4 }], slot := some 15 }) ∧
    (∀ j, j < 8 → t.prelude.srcTag (.v 8) j = some .fp32) ∧
    Goes box (fun _ => { legal := (Instr.regroup (.v 5) (.v 48) 16).wellFormed, srcs := [{ op := .v 5 }, { op := .v 48, count := 16 }],
                         drains := true }) ∧ box.prelude.mask = box.prelude.warp.live ∧ box.prelude.accessesDone = true ∧
    graphed.prelude.edgeCheck 15 = none ∧ 63 + graphed.prelude.edgeWords 15 ≤ 64 ∧
    Goes graphed (fun _ => { legal := (Instr.enq (.v 63) (.s 2) 1 15).wellFormed, srcs := [{ op := .v 63, count := graphed.prelude.edgeWords 15 }],
                             sdsts := [{ op := .s 2 }] }) ∧
    (∃ t, graphed.prelude.enq 15 (.s 2) true (fun t => (maskLanes t.atomMask).map fun L =>
      (L, (List.range (t.edgeWords 15)).map fun i => lane (t.vec (.v 63) i) L)) graphed.prelude.active.length = .done t) ∧
    Goes graphed (fun _ => { legal := (Instr.enqc (.s 119) (.s 2) 0 15).wellFormed,
                             ssrcs := [{ op := .s 119, count := graphed.prelude.edgeWords 15 }], sdsts := [{ op := .s 2 }] }) ∧
    (∃ t, graphed.prelude.enq 15 (.s 2) false (fun t => [(t.firstLane, (List.range (t.edgeWords 15)).map fun i => t.sc (.s 119) i)]) 1 = .done t) ∧
    (∀ i ∈ [Instr.qstat (.s 2) 0 15, .qstat (.s 2) 1 0, .qstat (.s 2) 2 0], Goes graphed (fun _ => { legal := i.wellFormed, sdsts := [{ op := .s 2 }] })) ∧
    Goes box svc ∧ box.prelude.team.service = false ∧ box.prelude.secondary = false ∧ (∃ t, box.prelude.releaseDevice = .done t) ∧
    Goes v svc ∧ v.prelude.team.service = true :=
  ⟨goes_of (by decide), below_all (by decide), goes_of (by decide), by decide, by decide, by decide, by decide, goes_of (by decide),
    finished_of (by decide), goes_of (by decide), finished_of (by decide),
    goes_all (u := fun i _ => { legal := i.wellFormed, sdsts := [{ op := .s 2 }] }) (by decide), goes_of (by decide), by decide, by decide,
    released_of (by decide), goes_of (by decide), by decide⟩

/-- The package with its host link up. -/
def online (flr : Bool) : State := { box with pkg := { box.pkg with linkUp := true, width := 16, stage := 6, flr := flr } }

/-- The last eight bytes of HBM, and the byte past them. The access over CXL needs a part strapped for CXL (Config.strapCxl), which no
theorem decides: its premises are those of BAR4 beside that one. -/
theorem witness_HostAccesses :
    (online false).pkg.reachable = true ∧ 6 ≤ (online false).pkg.stage ∧ csrNumber ((0x008 : BitVec 25).toNat / 4) = true ∧
    csrNumber ((0x1938 : BitVec 25).toNat / 4) = true ∧ (0x1938 : BitVec 25).toNat % 4 = 0 ∧ (0xFFF00 : BitVec 20).toNat % 256 = 0 ∧
    (let d := (online false).noteQueues.queueDesc 4095; ((0 + 2 ^ 16 - d.head.toNat) % 2 ^ 16 < 2 ^ d.log2sz) ∧
      ¬ ((1 + 2 ^ 16 - d.head.toNat) % 2 ^ 16 < 2 ^ d.log2sz)) ∧
    (768 * 2 ^ 30 - 8 : BitVec 40).toNat + 8 ≤ 768 * 2 ^ 30 ∧ (768 * 2 ^ 30 : BitVec 40).toNat + 1 > 768 * 2 ^ 30 ∧
    (768 * 2 ^ 30 - 8) % 8 = 0 ∧ lineOf (768 * 2 ^ 30 - 8) = lineOf (768 * 2 ^ 30 - 8 + 8 - 1) ∧
    (∀ i, i < 8 → ((online false).homeLine (lineOf (768 * 2 ^ 30 - 8 + i))).excl = none ∧
      ((online false).homeLine (lineOf (768 * 2 ^ 30 - 8 + i))).pend = []) ∧
    max ((online false).homeLine (lineOf (768 * 2 ^ 30 - 8))).lmax ((online false).homeLine (lineOf (768 * 2 ^ 30 - 8))).lastTw ≤ (online false).gtc ∧
    Memory.wf (online false).mem = true := by decide

theorem witness_HostAccesses_snoop_and_configuration :
    target (128 * 2 ^ 45) = .host ∧ (online false).hostGone = false ∧ ((online false).homeLine (2 ^ 45)).pend = [] ∧
    ((online false).homeLine (2 ^ 45)).excl = none ∧ ((online false).homeLine (2 ^ 45)).lmax ≤ (online false).gtc ∧
    box.pkg.stage < 5 ∧ 5 ≤ (online true).pkg.stage ∧ (online true).pkg.flr = true ∧ (online false).pkg.flr = false := by decide

/-- A port at each rate, a team at DBGSEL, the warp of a SVC batch, and an index without a batch. -/
def serviced : State :=
  let e : Entry := { thread with wait := .svc 5 8 (some 3) }
  let b : Batch := { index := 3, team := 1, warp := 0, mask := 0xFFFFFFFF, reg := 8, cancel := false }
  { box with warp := { busy with frontier := [e] }, dies := put box.dies 0 { Die.blank with batches := [b] } }

theorem witness_HostAccesses_own :
    (∀ x ∈ [(0 : BitVec 2), 3], ({ box.pkg with ports := put box.pkg.ports 15 { Port.blank with rate := x } } : Pkg).ports.toList.length = 16) ∧
    (box.teamInPlace (box.pkg.dbgsel.toNat / 2 ^ 16 % 2 ^ 9) (box.pkg.dbgsel.toNat / 2 ^ 25 % 2 ^ 4)).map (·.handle) = some 1 ∧
    (box.allWarps.map fun w => (w.team, w.idx, w.gone)) = [(1, 0, false)] ∧
    ((serviced.dieAt 0).batches.find? fun b => b.index == 65535) = none ∧
    ((serviced.dieAt 0).batches.find? fun b => b.index == 3).map (fun b => (b.cancel, b.team, b.warp)) = some (false, 1, 0) ∧
    (serviced.focusOn 1 0).isSome = true := by decide

theorem witness_LinkPowerAndReset :
    (online false).pkg.linkUp = true ∧ (online false).pkg.reachable = true ∧ State.reset.pkg.stage < 6 ∧ State.reset.pkg.stage ≠ 4 ∧
    ({ State.reset.pkg with stage := 1 } : Pkg).stage = 1 ∧ 4 ≤ (online false).pkg.stage ∧ (online false).pkg.d3hot = false ∧
    5 ≤ (online false).pkg.stage ∧ ({ (online false).pkg with d3hot := true } : Pkg).d3hot = true ∧
    ({ box.pkg with clock := 1000 } : Pkg).clock + 50 ≤ 1050 ∧ 350 ≤ ({ box.pkg with clock := 350 } : Pkg).clock ∧
    383 < 384 ∧ box.coreTeams 383 = [] ∧ (box.coreOf 383).takenOver = false ∧
    ((box.core :: box.cores).filter fun c => c.takenOver && c.num / 96 == 383 / 96).length < 3 := by decide

/-- Port 15 at full rate with eight replays in the last millisecond, a write it has accepted, and two accesses of a peer. -/
def linked (cur : BitVec 2) : State :=
  let w : Accepted := { kind := 1, ctx := 0, stream := 0, payload := 0 }
  let p : Port := { Port.blank with cur := cur, lanes := 8, times := List.replicate 8 0, accepted := [w], retraining := true }
  let q : Port := { Port.blank with cur := 0, lanes := 8 }
  let o (id : Nat) (sent : Bool) : PeerOp := { id := id, port := 14, core := 0, team := 1, warp := 0, va := 0x1000, pa := 0, what := .load 9, sent := sent }
  { box with pkg := { box.pkg with ports := put (put box.pkg.ports 15 p) 14 q, peers := [o 90 false, o 91 true] } }

theorem witness_NorozlinkPorts :
    (linked 0).port 15 ≠ Port.blank ∧ ((linked 0).port 15).cur ≠ 3 ∧ ((linked 2).port 15).cur = 2 ∧ ((linked 2).port 15).cur ≠ 3 ∧
    8 ≤ (((linked 0).port 15).times.filter fun t => decide ((linked 0).gtc < t + 1000000)).length ∧ ((linked 0).port 15).retraining = true ∧
    (∃ a l, ((linked 0).port 15).accepted = a :: l) ∧
    ((linked 0).pkg.peers.find? fun x => x.id == 90 && !x.sent).map (·.port) = some 14 ∧ ((linked 0).port 14).canSend = true ∧
    ((linked 0).pkg.peers.find? fun x => x.id == 91 && x.sent).map (·.warp) = some 0 :=
  ⟨by decide, by decide, by decide, by decide, by decide, by decide, ⟨_, _, rfl⟩, by decide, by decide, by decide⟩

/-- Words with right check symbols: a flit of zeros, whose SEQ is 0, and one whose CRC is wrong. -/
def badCrc : BitVec 2048 :=
  let body : List Byte := List.replicate 232 0 ++ [1, 0, 0, 0, 0, 0, 0, 0]
  BitVec.ofNat 2048 (leNat (body ++ interleave (parity (evens body)) (parity (evens body.tail))))

set_option maxRecDepth 100000 in
theorem witness_NorozlinkPorts_flit : (decodeFlit 0).map (fun x => (crcOk x.1, flitField x.1 0 0 8)) = some (true, 0) := by decide +kernel

set_option maxRecDepth 100000 in
theorem witness_NorozlinkPorts_crc : (decodeFlit badCrc).map (fun x => crcOk x.1) = some false := by decide +kernel

set_option maxRecDepth 100000 in
theorem witness_NorozlinkPorts_undecodable : decodeFlit (2 ^ 800 - 1) = none := by decide +kernel

/-- A port that expects SEQ 0, and one that does not. -/
theorem witness_NorozlinkPorts_expected :
    ((linked 0).port 15).expected.toNat = 0 ∧ ({ Port.blank with expected := 1 } : Port).expected.toNat ≠ 0 := by decide

/-- A host queue in qtbl's first entry with one grid of one team of one warp; a record of KIND 0 breaks Table 23-2. -/
def posted (kind : Byte) : State :=
  { State.reset with
    pkg := { (online false).pkg with qtbl := 0 }
    mem := [(0x01, 0x20), (0x0B, 0x80), (0x12, 1)] ++ ([(0x2000, kind)].filter fun c => c.2 != 0) ++ [(0x2004, 1), (0x2008, 0x20), (0x200A, 0x80)] }

def isAdmitted (s : State) : Bool := match s.admission 0 with
  | .admits _ => true
  | _ => false

def isRejected (s : State) : Bool := match s.admission 0 with
  | .rejects t l => (t.reportLaunch l 0x0001 0 0).isSome
  | _ => false

theorem witness_LaunchesAndPlacement :
    (∀ k ∈ [(1 : Byte), 0], (posted k).pkg.d3hot = false ∧ (posted k).pkg.flr = false ∧ 6 ≤ (posted k).pkg.stage ∧
      ((posted k).noteQueues.queueDesc 0).posted = true ∧ Memory.wf (posted k).mem = true) ∧
    isAdmitted (posted 1).noteQueues = true ∧ isRejected (posted 0).noteQueues = true := ⟨by decide, by decide +kernel, by decide +kernel⟩

/-- Bytes that no cell holds read as zero. -/
theorem read_unlisted : ∀ (m : List Host.Cell) (a : Nat), (∀ c ∈ m, c.1 ≠ a) → Memory.read m a = 0
  | [], _, _ => rfl
  | (b, v) :: m, a, h => by
    have hb : a ≠ b := fun e => h (b, v) (by simp) e.symm
    rw [Memory.read, if_neg hb]
    split
    · rfl
    · exact read_unlisted m a fun c hc => h c (by simp [hc])

theorem readNat_unlisted (m : List Host.Cell) : ∀ (n a : Nat), (∀ c ∈ m, c.1 < a ∨ a + n ≤ c.1) → Memory.readNat m a n = 0
  | 0, _, _ => rfl
  | n + 1, a, h => by
    have h0 : Memory.read m a = 0 := read_unlisted m a fun c hc e => by have := h c hc; omega
    have hn := readNat_unlisted m n (a + 1) fun c hc => by have := h c hc; omega
    rw [Memory.readNat] at hn ⊢
    rw [Memory.readBytes, leNat, h0, hn]
    rfl

/-- No other queue has a record. -/
theorem witness_LaunchesAndPlacement_turn : ∀ r, r < 4096 → r ≠ 0 → ((posted 1).noteQueues.queueDesc r).posted = false := by
  intro r hr h0
  by_cases h1 : r = 256
  · subst h1
    decide
  · have e : Memory.readNat (posted 1).noteQueues.mem ((posted 1).noteQueues.queueAt r) 32 = 0 := by
      apply readNat_unlisted
      intro c hc
      have hm : (posted 1).noteQueues.mem = [(0x01, 0x20), (0x0B, 0x80), (0x12, 1), (0x2000, 1), (0x2004, 1), (0x2008, 0x20), (0x200A, 0x80)] := by
        decide
      have hq : (posted 1).noteQueues.queueAt r = 32 * r := by
        show (0 : Dword).toNat + 32 * r = 32 * r
        simp
      rw [hm] at hc
      rw [hq]
      simp only [List.mem_cons, List.not_mem_nil, or_false] at hc
      rcases hc with rfl | rfl | rfl | rfl | rfl | rfl | rfl <;> simp only <;> omega
    rw [State.queueDesc, e]
    decide

theorem leastBy_some {f : Nat → Nat} {l : List Nat} {x : Nat} (h : x ∈ l) : ∃ c, leastBy f l = some c := by
  cases l with
  | nil => cases h
  | cons y l =>
    rw [leastBy]
    cases leastBy f l with
    | none => exact ⟨_, rfl⟩
    | some z => exact ⟨_, rfl⟩

theorem bestCore_some {s : State} {n : Need} {l : List Nat} {x : Nat} (h : x ∈ l) (hx : s.fitsOn n x = true) :
    ∃ c, s.bestCore n l = some c := leastBy_some (List.mem_filter.mpr ⟨h, hx⟩)

/-- A launch of one team of one warp, in the pool of die 0. -/
def pooling : State :=
  let n : NodeDef := { (default : NodeDef) with threads := 32, bud1 := 1, lfill := 32 }
  { State.reset with
    launches := [{ Launch.blank with id := 5, nodes := [n], teams := 1, finished := false }]
    dies := put State.reset.dies 0 { Die.blank with pool := [{ (default : Pooled) with launch := 5 }] } }

theorem pooling_best : ∃ c, pooling.bestCore (pooling.needOf { (default : Pooled) with launch := 5 }) (coresOf 0) = some c :=
  bestCore_some (x := 0) (by decide) (by decide)

theorem witness_LaunchesAndPlacement_place : ∃ x, pooling.next? 0 = some x := by
  obtain ⟨c, hc⟩ := pooling_best
  have hp : pooling.poolOf 0 = [{ (default : Pooled) with launch := 5 }] := by decide
  have h1 : pooling.placing = true := by decide
  have h2 : pooling.stoppedEntry { (default : Pooled) with launch := 5 } = false := by decide
  have h3 : (pooling.launchOf 5).coop = false := by decide
  have h4 : (pooling.launchOf 5).paired = false := by decide
  rw [State.next?, h1, hp]
  simp only [if_true, State.pick, State.placeOne, h2, h3, h4, hc, Option.map_some, Bool.false_eq_true, if_false]
  exact ⟨_, rfl⟩

/-- An operation of the matrix engine of the team; with limit 1 its core's power budget is used up. -/
def running (phase : MatPhase) (limit : BitVec 16) : State :=
  let o : MatOp := { (default : MatOp) with id := 60, kind := .mzero, d := 1, phase := phase }
  { box with team := { crew with mops := [o] }, core := { box.core with mpblim := limit, charged := 1 } }

/-- An MMA whose B lies where nothing is mapped, of a team without warps. -/
def unfetched : State :=
  let o : MatOp := { (default : MatOp) with id := 60, kind := .mma 9, c := 0, d := 1, phase := .queued }
  let s := converging 1
  let c : Conv := { s.team.conv 9 with baddr := 0x40000000, rowm := 1, colm := 1, depm := 1 }
  { s with warp := { s.warp with team := 2 }, team := { s.team with mops := [o], convs := put s.team.convs 9 c } }

theorem witness_MatrixEngineStartsCompletesAndFaults :
    ((chooseStart (((running .queued 0).fetchAll 0).candidates 0)).map fun x => (x.1, x.2.1.id)) = some (1, 60) ∧
    (((running .queued 0).fetchAll 0).focusTeam 1).map (·.core.exhausted) = some false ∧
    ((chooseStart (((running .queued 1).fetchAll 0).candidates 0)).map fun x => (x.1, x.2.1.id)) = some (1, 60) ∧
    (((running .queued 1).fetchAll 0).focusTeam 1).map (·.core.exhausted) = some true ∧ (running .queued 0).core.num = 0 ∧
    (((running .running 0).focusTeam 1).bind fun u => (u.matOp 60).map fun o => o.phase == .running && o.kind == .mzero && u.team.works &&
      (u.opFault o).isNone && !u.peerWaits 1 60 && !u.rowsStall o o.todo &&
        (u.applyRows o o.todo).any fun v => !v.peerWaits 1 60) = some true :=
  ⟨by decide, by decide, by decide, by decide, by decide, by decide⟩

theorem witness_MatrixEngineStartsCompletesAndFaults_fetch :
    ((unfetched.focusTeam 1).bind fun u => (u.matOp 60).bind fun o => let f := u.fetchOp o; (f.matOp 60).map fun x =>
      x.phase == .queued && f.team.works && f.team.inTurn x && f.forksSeen x && (f.opFault x).isSome && (f.readyRows x).isEmpty &&
        !(f.useRat f.ctx).team.guarded && ((f.useRat f.ctx).faultedWarp x).1.isNone) = some true := by decide +kernel

/-- The same operation of a team whose warp signed it. -/
theorem witness_MatrixEngineStartsCompletesAndFaults_signer :
    let s : State := { unfetched with warp := { unfetched.warp with team := 1 } }
    ((s.focusTeam 1).bind fun u => (u.matOp 60).bind fun o => let f := u.fetchOp o; (f.matOp 60).bind fun x =>
      let v := f.useRat f.ctx; if x.phase == .queued && f.team.works && f.team.inTurn x && f.forksSeen x && (f.opFault x).isSome &&
        (f.readyRows x).isEmpty && !v.team.guarded then (v.faultedWarp x).1.map fun w => (w, (v.focusOn 1 w).isSome) else none) =
      some (0, true) := by decide +kernel

theorem witness_TeamsArePreemptedSavedAndSwapped :
    box.preemptable 1 = true ∧ (box.teamOf 1).twin = none ∧ (box.launchOf (box.teamOf 1).launch).coop = false ∧
    (box.preemptGroups [1]).isSome = true := by decide

/-- Every core of die 0 is full of a team of priority 3, and a team of priority 4 waits. -/
def crowded : State :=
  let n : NodeDef := { (default : NodeDef) with threads := 32, bud1 := 1, lfill := 32, scratch := 1 }
  let full (i : Nat) : Team := { crew with handle := i + 1, core := i, scratchSize := 327680, prio := 3 }
  let p : Pooled := { (default : Pooled) with launch := 5, prio := 4 }
  { State.reset with
    teams := (List.range 96).map full
    launches := [{ Launch.blank with id := 5, nodes := [n], teams := 1, finished := false }]
    dies := put State.reset.dies 0 { Die.blank with pool := [p] } }

theorem witness_TeamsArePreemptedSavedAndSwapped_head :
    let p : Pooled := { (default : Pooled) with launch := 5, prio := 4 }
    ((crowded.poolOf 0).filter fun p => !crowded.stoppedEntry p) = [p] ∧ (crowded.launchOf p.launch).paired = false ∧
    crowded.pkg.d3hot = false ∧ crowded.pkg.flr = false ∧ (∀ t ∈ crowded.allTeams, t.die = 0 → t.life ≠ .preempting) :=
  ⟨by decide, by decide, by decide, by decide, by decide +kernel⟩

theorem witness_TeamsArePreemptedSavedAndSwapped_full :
    let p : Pooled := { (default : Pooled) with launch := 5, prio := 4 }
    crowded.bestCore (crowded.needOf p) (coresOf 0) = none ∧
    ((crowded.bestVictims (crowded.needOf p) 4 (coresOf 0)).bind crowded.preemptGroups).isSome = true :=
  ⟨by decide +kernel, by decide +kernel⟩

/-- The team in a life of its own, its warp with mon, beside a pool entry that comes back or waits. -/
def living (life : TeamLife) (saved : Option Nat) (pool : Bool) : State :=
  let o : Monw := { id := 60, cond := 0, dest := 5, mask := 1, lanes := [{ lane := 0, va := 0, pa := 0, cmp := 0, armed := true, nextPoll := 0, value := some 0 }],
                    deadline := none, since := 0, held := none }
  let p : Pooled := { (default : Pooled) with saved := saved }
  { box with
    team := { crew with life := life }
    warp := { busy with halted := true, frontier := [{ thread with wait := .monw 60 }], monws := [o] }
    dies := put State.reset.dies 0 { Die.blank with pool := if pool then [p] else [] } }

theorem witness_TeamsArePreemptedSavedAndSwapped_save :
    let s := living .preempting none false
    (s.teamOf 1).handle = 1 ∧ (s.teamOf 1).life = .preempting ∧ (∀ w ∈ s.teamWarps 1, w.halted = true) ∧ s.enginesDone (s.teamOf 1) = true ∧
    (s.teamOf 1).die < 4 := ⟨by decide, by decide, by decide, by decide, by decide⟩

theorem witness_TeamsArePreemptedSavedAndSwapped_out :
    let s := living .resident none true
    let t := s.teamOf 1
    t.handle = 1 ∧ t.life = .resident ∧ t.service = false ∧ t.paired = false ∧ (s.launchOf t.launch).coop = false ∧ t.doomed = none ∧
    (∀ w ∈ s.teamWarps 1, w.monWaiting = true) ∧ t.copies = [] ∧ t.out = [] ∧
    (∀ o ∈ t.mops, o.phase = .done ∧ (o.status = 1 ∨ o.joined = true)) ∧
    (∀ w ∈ s.teamWarps 1, w.unproduced = [] ∧ ∀ x ∈ w.slots.toList, x.state = .empty) ∧ s.deliveringTo 1 = false ∧
    (∃ p ∈ (s.dieAt t.die).pool, t.prio ≤ p.prio ∧ s.stoppedEntry p = false) :=
  ⟨by decide, by decide, by decide, by decide, by decide, by decide, by decide, by decide, by decide, by decide, by decide, by decide, by decide⟩

theorem witness_TeamsArePreemptedSavedAndSwapped_restore :
    let s := living .swapped none true
    (s.teamOf 1).handle = 1 ∧ (s.teamOf 1).life = .swapped ∧ s.savedEntry (s.teamOf 1).die 1 = none ∧
    (s.ctxOf (s.teamOf 1).ctx).stopped = false ∧ (∃ w ∈ s.teamWarps 1, ∃ o ∈ w.monws, o.result.isSome = true) ∧
    ∃ c, s.bestCore (s.needOf (s.teamOf 1).pooledBack) (coresOf (s.teamOf 1).die) = some c :=
  ⟨by decide, by decide, by decide, by decide, by decide, bestCore_some (x := 0) (by decide) (by decide)⟩

theorem witness_TeamsArePreemptedSavedAndSwapped_resume :
    let s := living .saved (some 1) true
    let r := s.putCtx { s.ctxOf (s.teamOf 1).ctx with stopped := false }
    (s.teamOf 1).handle = 1 ∧ (s.teamOf 1).life = .saved ∧ ∃ p u, r.next? (s.teamOf 1).die = some (p, u) ∧ p.saved = some 1 := by
  let s := living .saved (some 1) true
  let r := s.putCtx { s.ctxOf (s.teamOf 1).ctx with stopped := false }
  let p : Pooled := { (default : Pooled) with saved := some 1 }
  refine ⟨by decide, by decide, ?_⟩
  obtain ⟨c, hc⟩ : ∃ c, r.bestCore (r.needOf p) (coresOf 0) = some c := bestCore_some (x := 0) (by decide) (by decide)
  have hp : r.poolOf 0 = [p] := by decide
  have h1 : r.placing = true := by decide
  have h2 : r.stoppedEntry p = false := by decide
  have h3 : (r.launchOf p.launch).coop = false := by decide
  have h4 : (r.teamOf 1).twin = none := by decide
  have h5 : (s.teamOf 1).die = 0 := by decide
  have e : p.saved = some 1 := rfl
  refine ⟨p, (r.takeEntry 0 p).placeBack 1 c, ?_, rfl⟩
  show r.next? (s.teamOf 1).die = _
  rw [h5, State.next?, h1, hp]
  simp only [if_true, State.pick, State.placeOne, h2, h3, h4, e, hc, Option.map_some, Bool.false_eq_true, if_false]

/-- A context whose one warp waits at mon; hangth 1 is over, the reset value is not. -/
def waiting (hangth : Word) : State := { living .resident none false with ctx := { box.ctx with hangth := hangth } }

theorem witness_HangsEndsAndKills :
    (∀ s ∈ [waiting 1, waiting 0x1000000], s.ctxWarps 0 ≠ [] ∧ (s.ctxOf 0).stopped = false ∧ s.ctxIdle 0 = true ∧
      ∀ w ∈ s.ctxWarps 0, s.warpState w ∈ [2, 3, 4, 6, 8]) ∧
    (let since (s : State) := (s.ctxWarps 0).foldl (fun m w => max m w.waitSince) (s.ctxOf 0).lastBusy;
      ((waiting 1).ctxOf 0).hangth.toNat * 1000 ≤ ((waiting 1).gtc - since (waiting 1)) * (waiting 1).pkg.clock ∧
      ¬ (((waiting 0x1000000).ctxOf 0).hangth.toNat * 1000 ≤
        ((waiting 0x1000000).gtc - since (waiting 0x1000000)) * (waiting 0x1000000).pkg.clock)) := by
  refine ⟨fun s h => ?_, by decide⟩
  simp only [List.mem_cons, List.not_mem_nil, or_false] at h
  rcases h with rfl | rfl <;> exact ⟨by decide, by decide, by decide, by decide⟩

/-- A team without warps that ends, and one that is to be killed. -/
def ending (held : List Update) (doomed : Option (BitVec 16 × BitVec 64 × BitVec 64)) : State :=
  { box with warp := { busy with team := 2 }, team := { crew with life := .ending, held := held, doomed := doomed } }

theorem witness_HangsEndsAndKills_end :
    (∀ s ∈ [ending [default] none, ending [] none, ending [] (some (0x20, 0, 0))], (s.teamOf 1).handle = 1 ∧ (s.teamOf 1).life = .ending ∧
      s.teamQuiet 1 = true ∧ (s.teamOf 1).paired = false ∧ (s.teamOf 1).twin = none ∧ (s.teamOf 1).matrixIdle = true) ∧
    ((ending [default] none).teamOf 1).held ≠ [] ∧ ((ending [] none).teamOf 1).held = [] ∧
    ((ending [] none).teamOf 1).doomed = none ∧ ((ending [] none).retire 1 (fun l => { l with ended := l.ended + 1 })).isSome = true ∧
    ((ending [] (some (0x20, 0, 0))).teamOf 1).doomed = some (0x20, 0, 0) ∧
    (((((ending [] (some (0x20, 0, 0))).stopTeam 1).onLaunch 0 fun l =>
      { l with firstKill := l.firstKill.orElse fun _ => some { code := 0x20, pc := 0, addr := 0 } }).retire 1
        fun l => { l with killed := l.killed + 1 }).isSome) = true := by
  refine ⟨fun s h => ?_, by decide, by decide, by decide, by decide, by decide, by decide +kernel⟩
  simp only [List.mem_cons, List.not_mem_nil, or_false] at h
  rcases h with rfl | rfl | rfl <;> exact ⟨by decide, by decide, by decide, by decide, by decide, by decide⟩

/-- A parked warp whose record is not posted, one of its threads in SVC, whose die has rings with room, with or without a notice. -/
def parked (notice : Bool) : State :=
  let p : Park := { code := 0x0020, second := 0, lanes := 1, pc := 0x1000, addr := 0, seq := none, since := 0 }
  let r : Ring := { base := 0x8000, size := 4, head := 0, tail := 3 }
  let r' : Ring := { r with head := 1 }
  { box with
    warp := { busy with park := some p, frontier := [{ thread with wait := .svc 5 8 none }] }
    dies := put State.reset.dies 0 { Die.blank with svq := r', svcq := r', notices := if notice then [default] else [] } }

/-- The same warp once its record has been posted. -/
def held : State :=
  let p : Park := { code := 0x0020, second := 0, lanes := 1, pc := 0x1000, addr := 0, seq := some 4, since := 0 }
  { box with warp := { busy with park := some p } }

theorem witness_ParksArePostedAndCommanded :
    ((parked false).warpOf 1 0).bind Warp.unpostedPark = (parked false).warp.park ∧ (parked false).warp.park.isSome = true ∧
    dieOfCore ((parked false).teamOf 1).core = 0 ∧ ((parked false).dieAt 0).svq.room = true ∧
    ((parked true).dieAt 0).notices = [default] ∧ ((parked true).dieAt 0).svq.room = true ∧ ((parked false).dieAt 0).notices = [] ∧
    (∃ x ∈ (parked false).allWarps, x.unpostedPark.isSome = true ∧ dieOfCore ((parked false).teamOf x.team).core = 0) ∧
    (held.focusOn 1 0).map (fun u => u.warp.double.isNone && (u.warp.park.map fun p => p.seq.isSome) == some true && u.team.doomed.isNone &&
      u.warp.pendFault.isEmpty && !u.warp.tdepth) = some true ∧ ((parked false).focusOn 1 0).map (fun u => u.warp.heldPark) = some none ∧
    (({ held with warp := { held.warp with tdepth := true } } : State).focusOn 1 0).map (fun u => u.warp.heldPark.isSome && u.warp.tdepth) = some true ∧
    (box.focusOn 1 0).map (fun u => u.warp.heldPark) = some none :=
  ⟨by decide, by decide, by decide, by decide, by decide, by decide, by decide, by decide, by decide, by decide, by decide, by decide⟩

theorem witness_ParksArePostedAndCommanded_svc :
    (sortBy (fun (a b : Warp) => a.issued ≤ b.issued) ((parked false).allWarps.filter fun w =>
      dieOfCore ((parked false).teamOf w.team).core == 0 && w.unposted.isSome)).map (fun x => (x.team, x.idx)) = [(1, 0)] ∧
    (((parked false).focusOn 1 0).bind fun u => u.warp.unposted.bind fun x => u.postSvc x.1 x.2.1 x.2.2).isSome = true :=
  ⟨by decide, by decide⟩

theorem witness_DataArriveForTheirSlots :
    let s := landing .inflight 0 0
    s.focusOn 1 0 = some s ∧ (s.warp.land (9 : BitVec 4).toNat).state = .inflight ∧ (s.warp.land 9).kind ≠ .trace ∧
    (∀ l ∈ (s.warp.land 9).todo, target l.pa ≠ .peer) ∧
    (s.serveSlot 9 ((s.warp.land 9).todo.map fun l => lineOf l.pa).dedup).isSome = true ∧
    (s.coreWarps 0).map (fun w => (w.team, w.idx, w.slotsOn 32)) = [(1, 0, [9])] ∧ s.focusOn 1 0 = some s ∧
    (let v := s.settleHome 32; target (128 * 32) = .hbm ∧ (v.homeLine 32).excl = none ∧ v.hostGone = false ∧
      v.owes s.team.handle 0 (s.warp.land 9).order (· == 32) = false) ∧
    (({ s with warp := { s.warp with slots := put s.warp.slots 9 { s.warp.land 9 with todo := [] } } } : State).warp.land 9).todo = [] :=
  ⟨rfl, by decide, by decide, by decide, by decide, by decide, rfl, by decide, by decide⟩

/-- A slot whose TRACE has lanes that miss at once, a result not yet produced, and writes to the host that have completed. -/
def arriving : State :=
  let j : TraceJob := { root := 0, any := false, rays := List.replicate 8 (splat 0) }
  let x : Slot := { Slot.blank with state := .inflight, kind := .trace, dest := 5, mask := 9, trace := some j }
  let e : WinEntry := { seq := 7, valid := true, produced := false, latch := splat 0, tag := .raw, regs := [], late := [], flags := 0 }
  { box with warp := { busy with slots := put busy.slots 15 x, window := [e], hostWritten := true } }

theorem witness_DataArriveForTheirSlots_others :
    let x := arriving.warp.land (15 : BitVec 4).toNat
    arriving.focusOn 1 0 = some arriving ∧ x.state = .inflight ∧ x.kind = .trace ∧
    (x.trace.map fun j => (maskLanes x.mask).all fun L => (j.ray L).misses) = some true ∧
    (x.trace.bind fun j => (maskLanes x.mask).foldl (fun s L => s.bind fun s => s.traceLane j 15 L) (some (arriving.useRat arriving.ctx))).isSome = true ∧
    (arriving.warp.unproduced[0]?.map fun e => (e.seq, arriving.ripe e)) = some (7, true) ∧ arriving.core.atoms = [] ∧
    arriving.settleOwn.warp.hostWritten = true ∧ arriving.settleOwn.outstanding = false ∧ arriving.settleOwn.hostPending = false ∧ arriving.settleOwn.hostGone = false :=
  ⟨rfl, by decide, by decide, by decide, by decide, by decide, by decide, by decide, by decide, by decide, by decide⟩

/-- An ATOM of one lane on a route, and what its homes and the L1 hold. -/
def atomic (route : AtomRoute) (fallback : Bool) : State :=
  let a : AtomLane := { lane := 3, va := 0x1000, pa := 0x1000, b := 1, d := 0, route := route, fallback := fallback, begun := true }
  let o : AtomOp :=
    { id := 60, team := 1, warp := 0, seq := 7, red := false, op := 0, held := false, lanes := [a], results := [], mask := 8, pc := 0x1000,
      dest := .v 5, tag := .i32 }
  let l (n : Nat) (pin : Bool) : L1Line := { (default : L1Line) with line := n, pinned := pin }
  let h (n : Nat) (x : Option (Nat × Nat)) : HomeLine := { line := n, lmax := 0, lastTw := 0, pend := [], excl := x, cached := true }
  { box with
    core := { box.core with atoms := [o], lines := [l 40 false, l 41 true], marks := [default] }
    dies := put State.reset.dies 0 { Die.blank with emul := [(60, 8)] }
    home := [h 33 (some (0, 1016)), h 34 none] }

theorem witness_LeasesHostAtomicsAndSamples :
    (let v := ((atomic .lease false).settleHome 32).focusCore 0;
      (v.homeLine 32).excl = none ∧ (v.homeLine 32).pend = [] ∧ max (v.homeLine 32).lmax (v.homeLine 32).lastTw ≤ v.gtc ∧
      (∃ a ∈ v.core.atoms, a.wants 32 = true)) ∧
    ((atomic .lease false).homeLine 33).excl = some (0, 1016) ∧
    (((atomic .lease false).settleHome 34).home.find? fun x => x.line == 34).map (fun h => (h.excl, h.pend)) = some (none, []) ∧
    (((atomic .lease false).focusCore 0).core.line? 40).map ((atomic .lease false).focusCore 0).canEvict = some true ∧
    (((atomic .lease false).focusCore 0).core.line? 41).map ((atomic .lease false).focusCore 0).canEvict = some false ∧
    ((atomic .lease false).coreOf 0).marks = [default] :=
  ⟨by decide, by decide, by decide, by decide, by decide, by decide⟩

theorem witness_LeasesHostAtomicsAndSamples_host :
    (∀ f ∈ [false, true], ((atomic .host f).focusAtom 0 60).map (fun x => (x.2.lanes.filter fun l => l.route == .host).map (·.fallback)) =
      some [f] ∧ ((atomic .host f).focusAtom 0 60).map (fun x => x.2.lanes.map (·.fallback)) = some [f]) ∧
    (((atomic .host false).focusAtom 0 60).map fun x => x.2.who) = some 0 ∧
    (∀ r ∈ [AtomRoute.host, .emulate], ((atomic r false).focusAtom 0 60).map (fun x => (x.1.core.atoms.find? fun y => y.id == 60) == some x.2 &&
      match x.2.lanes with
      | [a] => let v := x.1.settleHome (lineOf a.pa)
        (v.homeLine (lineOf a.pa)).pend.isEmpty && (v.homeLine (lineOf a.pa)).excl.isNone && !v.hostGone &&
          decide (max (v.homeLine (lineOf a.pa)).lmax (v.homeLine (lineOf a.pa)).lastTw ≤ v.gtc)
      | _ => false) = some true) ∧
    ((atomic .emulate false).focusAtom 0 60).map (fun x => ((x.1.emulations (dieOfCore x.1.core.num)).head?, x.2.lanes.map (·.lane))) =
      some (some (60, 8), [3]) ∧
    (default : AtomOp).red = false ∧ Memory.wf box.mem = true :=
  ⟨by decide, by decide, by decide, by decide, by decide, by decide⟩

/-- Every word of the opcode table's first row is some instruction's, and no event has a word. -/
theorem witness_DecodeAndEncodeAgree : isEvent .nop = false ∧ ∀ w, Instr.nop ≠ .illegalWord w := ⟨rfl, fun w => by simp⟩

/-- A mon of box's warp that is over. -/
def satisfied : State := living .resident none false

theorem witness_StepRunsTheDecodedInstruction :
    box.agenda = [] ∧ box.nextMonw = none ∧ box.entriesNext.isNone = true ∧ box.turns % 64 ≠ 63 ∧ box.turns % 8 ≠ 7 ∧
    box.nextWarp.map (fun w => (w.team, w.idx)) = some (1, 0) ∧
    (box.counted.focusOn 1 0).map (fun v => decide ((v.fetch v.entry.pc).2 = .word 0)) = some true ∧
    (box.choose (box.readyOn 0 0)).map (fun w => (w.team, w.idx)) = some (1, 0) ∧ isEvent (.parkcmdResume 1 0) = true ∧
    (match exec (.parkcmdResume 1 0) box with | .next _ => true | _ => false) = true ∧
    satisfied.agenda = [] ∧ satisfied.nextMonw.isSome = true :=
  ⟨by decide, by decide, by decide, by decide, by decide, by decide, by decide, by decide, by decide, by decide, by decide, by decide⟩

/-- Two warps of one priority of which one's run lasts, and two of which neither does. -/
theorem witness_ThePartitionChoosesByPriorityThenAge :
    let w (i n : Nat) : Warp := { busy with idx := i, issued := n, runCount := 3 }
    let s : State := { box with core := { box.core with lastIssue := put box.core.lastIssue 0 8 } }
    (s.choose [w 0 6, w 1 8]).map (·.idx) = some 1 ∧ (box.choose [w 0 6, w 1 8]).map (·.idx) = some 0 := by decide

theorem witness_EveryIssuedWordAnswersANextState : isEvent (.illegalWord 1) = false ∧ box.issuing.isSome = true := by decide

theorem witness_EveryStepKeepsTheFormOfMemory :
    Memory.wf box.mem = true ∧ (match step box with | .next _ => true | _ => false) = true := ⟨by decide, by decide +kernel⟩

/-- Results in v5 and v6, in oc2, s2, lit and cc, of the dead sources v2 and v8. -/
theorem witness_ResultsChangeTheirDestinationsAlone :
    let p := (two .i32 7 8).prelude
    let r (d : VOp) : Result := { dst := d, tag := .i32, lo := splat 3, flags := 0x8100 }
    (∀ d ∈ [VOp.v 5, .oc 2, .s 2, .lit, .cc, .void], (r d).dst = d ∧ (r d).hi = none ∧ (r d).long = false ∧ (r d).cc = none) ∧
    p.warp.vtView = false ∧ p.warp.wb + (5 : BitVec 6).toNat + 1 < 256 ∧ ({ r (.v 5) with hi := some (splat 4, .i32) } : Result).hi.isSome = true ∧
    ({ r (.v 5) with cc := some 9 } : Result).cc = some 9 ∧ ({ r (.v 5) with long := true } : Result).long = true ∧
    p.place (.v 5) = .reg 5 ∧ deadRegs p ab = [2] ∧ .reg 2 ∈ p.srcPlaces (srcA (.v 2) 1) ∧ (srcA (.v 2) 1).dead = true ∧
    p.issuing.isSome = true ∧ p.mask ≠ 0 := by decide

theorem witness_FramesOfInstructions :
    registerOnly (.iadd (.v 5) (.v 2) (.v 8) 1 0 0) = true ∧
    (match exec (.iadd (.v 5) (.v 2) (.v 8) 1 0 0) (two .i32 7 8) with | .next _ => true | _ => false) = true ∧ box.home = [] ∧
    box.prelude.team.paired = false ∧ Memory.wf box.mem = true := by decide

/-- The accesses of witness_LoadsAndTheScratchpad_loads and witness_StoresReachTheirHomes meet what is said of loads and stores. -/
theorem witness_FramesOfInstructions_accesses :
    let s := two .i32 0 0x1FFFF0
    let z := two .i32 7 0x1FF0
    let addrs (p : State) := p.active.map fun L => (L, p.pair .zero p.firstLane + BitVec.ofNat 64 (lane (p.vec (.v 8)) L).toNat)
    Goes s (fun _ => { legal := (Instr.ldgQ (.v 4) .zero (.v 8) 15).wellFormed, srcs := [{ op := .zero, count := 2 }, { op := .v 8 }],
                       dsts := [{ op := .v 4, count := 4 }], slot := some (15 : BitVec 4).toNat }) ∧
    (∃ l, (s.prelude.check .load 16 (addrs s.prelude)).2 = .ok l) ∧
    Goes z (fun _ => { legal := (Instr.stg (.v 4) .zero (.v 8) 2).wellFormed, srcs := [{ op := .v 4, count := 4 }, { op := .zero, count := 2 }, { op := .v 8 }] }) ∧
    (∃ l, (z.prelude.check .store 16 (addrs z.prelude)).2 = .ok l) ∧ z.home = [] :=
  ⟨goes_of (by decide), passed_of (by decide), goes_of (by decide), passed_of (by decide), by decide⟩
/-! ## States that meet the hypotheses of what completes -/

/-- Nothing of box keeps a release. -/
theorem settled_of {s : State} (h : (s.prelude.accessesDone && s.prelude.warp.lostLines.isEmpty && s.prelude.core.dirtyLines.isEmpty &&
    s.prelude.home.isEmpty && s.prelude.pkg.peers.isEmpty && s.prelude.team.out.isEmpty && decide (s.prelude.warp.wct ≤ s.prelude.gtc) &&
    decide (s.prelude.warp.seen ≤ s.prelude.gtc) && s.prelude.warp.seenHeld.isEmpty) = true) : Settled s.prelude := by
  simp only [Bool.and_eq_true, decide_eq_true_eq, List.isEmpty_iff] at h
  obtain ⟨⟨⟨⟨⟨⟨⟨⟨h1, h2⟩, h3⟩, h4⟩, h5⟩, h9⟩, h6⟩, h7⟩, h8⟩ := h
  exact ⟨h1, h2, h3, by rw [h4]; simp, h5, h9, h6, h7, h8⟩

theorem witness_FencesAndMonw_settled :
    Settled box.prelude ∧ box.prelude.warp.hostWritten = false ∧ ∀ k ∈ [(0 : BitVec 2), 1, 2], ∀ scope ∈ [(2 : BitVec 2), 3], Goes box (bare (.fence k scope)) :=
  ⟨settled_of (by decide), by decide, fun k hk scope hs => goes_of (by revert scope; revert k; decide)⟩

theorem witness_FencesAndMonw_homes :
    let s := setV (two .i32 0x1000 5) 3 .i32 0
    (s.prelude.check .monw 4 (s.prelude.active.map fun L => (L, s.prelude.pair (.v 2) L))).1.home = [] ∧
    passed (s.prelude.check .monw 4 (s.prelude.active.map fun L => (L, s.prelude.pair (.v 2) L))).2 =
      some ((s.prelude.active.map fun L => ({ lane := L, va := 0x1000, pa := 0x1000 } : LaneLoad))) ∧
    s.prelude.homeShut 0x1000 = false := ⟨by decide, by decide, by decide⟩

/-- A team of a cooperative launch. -/
def coop : State := { box with launch := { box.launch with coop := true } }

theorem witness_BarriersAndMembership_settled :
    Settled coop.prelude ∧ coop.prelude.launch.coop = true ∧ coop.prelude.mask = coop.prelude.warp.live ∧
    Goes coop (fun _ => { legal := Instr.barGridSync.wellFormed, drains := true }) :=
  ⟨settled_of (by decide), by decide, by decide, goes_of (by decide)⟩

theorem witness_ControlFormsComplete :
    let s := two .raw 0x2000 0
    let d : State → Uses := fun _ => { legal := true, drains := true }
    (∀ L, s.prelude.mask.getLsbD L = true → (s.prelude.pair (.v 2) L).toNat % 4 = 0) ∧
    Goes s (fun _ => { legal := (Instr.call (.v 4) 0x1FFFF).wellFormed, dsts := [{ op := .v 4, count := 2 }] }) ∧
    (∀ i ∈ [Instr.jmpr (.v 2) 1, .ret (.v 2) 1], Goes s (fun _ => { legal := i.wellFormed, srcs := [{ op := .v 2, count := 2, dead := true }] })) ∧
    Goes (callee 4 4) (fun _ => { legal := (Instr.callr (.v 4) (.v 2) 0 1).wellFormed, srcs := [{ op := .v 2, count := 2, dead := (0 : BitVec 1) == 1 }],
                                  dsts := [{ op := .v 4, count := 2 }] }) ∧
    (match ((callee 4 4).prelude.fetchTargets ((callee 4 4).prelude.targets (.v 2))).2 with | .budgets l => l == [4] | _ => false) = true ∧
    8 * [4].foldl max 0 ≤ 8 * (callee 4 4).prelude.warp.vvg - (callee 4 4).prelude.warp.wb ∧
    box.prelude.mask = box.prelude.warp.live ∧ box.prelude.accessesDone = true ∧ (∀ b ∈ [(0 : BitVec 4), 15], Goes box (bare (.barArrive b))) ∧
    (∀ i ∈ [Instr.barSync 15, .barWait 15, .barGridSync, .exit], i.wellFormed = true) ∧ Goes box d ∧
    look box.prelude.warp.barGen none 15 = none ∧ Goes box (needs (.barCount (.v 5) 15) [] (.v 5)) ∧ box.prelude.unwinding = false ∧
    Goes box (fun _ => { legal := (Instr.attach (.s 4) 0).wellFormed, ssrcs := [{ op := .s 4 }], sdsts := [{ op := .s 4 }] }) ∧
    Goes box (bare .detach) ∧ box.prelude.team.namedOpen box.prelude.warp.idx = false :=
  ⟨active_all (by decide), goes_of (by decide),
    goes_all (u := fun i _ => { legal := i.wellFormed, srcs := [{ op := .v 2, count := 2, dead := true }] }) (by decide), goes_of (by decide),
    by decide, by decide, by decide, by decide, fun b hb => goes_of (by revert b; decide), by decide, goes_of (by decide), by decide,
    goes_of (by decide), by decide, goes_of (by decide), goes_of (by decide), by decide⟩

/-- An EXIT of half the lanes of a warp. -/
theorem witness_ControlFormsComplete_exit :
    let s : State := { box with warp := { busy with frontier := [{ thread with mask := 0xFFFF }] } }
    Goes s (fun _ => { legal := Instr.exit.wellFormed, drains := true }) ∧ s.prelude.warp.live &&& ~~~s.prelude.mask ≠ 0 := ⟨goes_of (by decide), by decide⟩

theorem witness_RegionsAndTheSavePath_room : Settled box.prelude ∧ Settled graphed.prelude :=
  ⟨settled_of (by decide), settled_of (by decide)⟩

theorem witness_TraceRegroupEnqueueAndService_settled :
    graphed.prelude.secondary = false ∧ graphed.prelude.warp.reissue = none ∧ Settled graphed.prelude ∧
    (graphed.prelude.dieAt graphed.prelude.team.die).nodeUsed + graphed.prelude.active.length ≤ 65536 ∧
    (graphed.prelude.dieAt graphed.prelude.team.die).nodeUsed < 65536 ∧ Settled box.prelude ∧ box.prelude.secondary = false ∧
    box.prelude.team.service = false ∧ ((parked false).dieAt 0).svcq.room = true ∧ (box.dieAt 0).svcq.room = false :=
  ⟨by decide, by decide, settled_of (by decide), by decide, by decide, settled_of (by decide), by decide, by decide, by decide, by decide⟩

theorem witness_HaltEndsTheSaveRoutine_settled :
    let s : State := { trap with warp := { trap.warp with tcause := 0x33 } }
    Settled s.prelude ∧ s.prelude.privileged = true ∧ s.prelude.warp.tcause.toNat % 2 ^ 16 = 0x0033 ∧
      s.prelude.warp.tcause.getLsbD 22 = false := ⟨settled_of (by decide), by decide, by decide, by decide⟩

theorem witness_ExitRemovesItsLanes_drained : box.prelude.warp.outs = [] := by decide

theorem witness_StoresReachTheirHomes_ahead :
    let s := two .i32 7 0x1FF0
    let c := (s.prelude.check .store 4 (s.prelude.active.map fun L => (L, s.prelude.pair .zero s.prelude.firstLane + BitVec.ofNat 64 (lane (s.prelude.vec (.v 8)) L).toNat))).1
    c.core.atoms = [] ∧ c.home = [] ∧ (∀ l : List LaneLoad, c.atomAhead l = false) ∧ s.core.lines.length + 32 ≤ l1Lines ∧
    (∀ h ∈ s.home, ∀ x ∈ h.pend, s.gtc < x.tw) := by
  have h : (let s := two .i32 7 0x1FF0; (s.prelude.check .store 4 (s.prelude.active.map fun L =>
      (L, s.prelude.pair .zero s.prelude.firstLane + BitVec.ofNat 64 (lane (s.prelude.vec (.v 8)) L).toNat))).1.core.atoms) = [] := by decide
  refine ⟨h, by decide, fun l => ?_, by decide, by decide⟩
  rw [State.atomAhead, h]
  rfl

theorem witness_AtomicsBeginTheirLanes_routes :
    let s := setV (two .i32 0x1000 5) 3 .i32 0
    let addrs (p : State) := (maskLanes p.atomMask).map fun L => (L, p.pair (.v 2) L)
    let c := (s.prelude.check .both 4 (addrs s.prelude)).1
    (∀ l ∈ (passed (s.prelude.check .both 4 (addrs s.prelude)).2).getD [], (c.rat c.ctx l.va).cls ≠ 2 ∧ c.routeOf 0 false l = .lease ∧
      c.routeOf 0 true l = .home) ∧ c.core.atoms = [] ∧ c.team.out = [] ∧ c.core.lines = [] := ⟨by decide, by decide, by decide, by decide⟩

theorem witness_ChecksOfAnAccess_none_due : (∀ h ∈ box.home, ∀ u ∈ h.pend, box.gtc < u.tw) ∧ Memory.wf box.mem = true := by decide

theorem witness_PoolAndItsQueue_free :
    (pooled 4 false).prelude.fittingHead (pooled 4 false).prelude.core.num = none ∧
    (let q := (pooled 4 false).prelude.arbitrate; (q.poolQueue q.core.num).isEmpty = true ∧ 28 ≤ q.freeGranules q.core.num) ∧
    (let q := (pooled 4 true).prelude.arbitrate; q.freeGranules q.core.num < 28) := ⟨by decide, by decide, by decide +kernel⟩

theorem witness_StepRunsTheDecodedInstruction_units :
    box.timedNext.isNone = true ∧ box.nextSvc.isNone = true ∧
    (box.counted.focusOn 1 0).map (fun v => decide ((v.fetch v.entry.pc).2 = .word 0)) = some true ∧
    box.counted.coreOfWarp busy = 0 ∧ busy.partition = 0 ∧ (∀ h ∈ box.home, ∀ x, h.excl = some x → box.gtc + 5 ≤ x.2) ∧
    (∀ e ∈ (combining 0 8 1000).switchEntries, (combining 0 8 1000).gtc + 64 ≤ (combining 0 8 1000).dueAt e) ∧ (combining 0 8 1000).home = [] ∧
    (combining 0 8 1000).timedNext.isNone = true ∧ (combining 0 8 0).timedNext.isSome = true :=
  ⟨by decide, by decide, by decide, by decide, by decide, by simp [box, State.reset], by decide, by decide, by decide, by decide +kernel⟩

/-- The warp in focus whose SVC batch is done. -/
theorem witness_StepRunsTheDecodedInstruction_svc :
    let x : SvcEnd := { (default : SvcEnd) with index := 3, reg := 8, mask := 0xFFFFFFFF }
    let s : State := { serviced with warp := { serviced.warp with svcEnds := [x] } }
    s.agenda = [] ∧ s.nextMonw = none ∧ s.nextSvc.isSome = true := by decide

/-- A function whose queues lie in memory of a host that is lost. -/
theorem witness_HostAccesses_lost :
    let s : State := { online false with pkg := { (online false).pkg with qtbl := 0x0010000000000000, linkLost := true } }
    (online false).noteQueues.queuesLost = false ∧ (online false).noteQueues.queuesOpen = true ∧ s.noteQueues.queuesLost = true ∧
    s.noteQueues.queuesOpen = true ∧ (online false).resultsOpen (online false).hostReach.die 3 = true :=
  ⟨by decide, by decide, by decide, by decide, by decide +kernel⟩

/-- The entry's results lie in a line that an agent holds. -/
theorem witness_HostAccesses_result_lines :
    let s (x : Option (Nat × Nat)) : State :=
      { online false with home := [{ line := lineOf (Die.blank.svcq.results 3), lmax := 0, lastTw := 0, pend := [], excl := x, cached := true }] }
    (s (some (7, 5000))).resultsOpen (s none).hostReach.die 3 = false ∧ (s none).resultsOpen (s none).hostReach.die 3 = true := by decide +kernel

/-- A port that owes an answer to a peer, and one whose first write is of a context that a reset ended. -/
def owing : State :=
  let p : Port := { Port.blank with cur := 0, lanes := 8, owed := [(900, 1, 0, 0)] }
  let w : Accepted := { kind := 1, ctx := 7, stream := 0, payload := 0 }
  { box with pkg := { box.pkg with vanished := [7], ports := put (put box.pkg.ports 15 p) 14 { p with accepted := [w], owed := [] } } }

theorem witness_NorozlinkPorts_answers :
    (owing.port 15).accepted = [] ∧ (owing.port 15).owed = [(900, 1, 0, 0)] ∧ 900 ≤ owing.gtc ∧ (owing.port 15).canSend = true ∧
    (owing.port 14).accepted.map (fun a => owing.vanished a.ctx) = [true] ∧
    ((linked 0).pkg.peers.find? fun x => x.id == 90 && !x.sent).map (fun o => ((linked 0).peerTurn o, decide (o.port < 16))) = some (true, true) ∧
    90 < (linked 0).nextId := ⟨by decide, by decide, by decide, by decide, by decide, by decide, by decide⟩

theorem witness_NorozlinkPorts_ack :
    let u : Update := { uid := 9, core := 0, team := 1, warp := 0, ctx := 0, pa := 0, va := 0x1000, kind := .bytes [1], kept := false, tw := 0 }
    let o : PeerOp := { id := 91, port := 14, core := 0, team := 1, warp := 0, va := 0x1000, pa := 0, what := .update u, sent := true }
    let s : State := { box with pkg := { box.pkg with peers := [o] } }
    (s.pkg.peers.find? fun x => x.id == 91 && x.sent) = some o ∧ o.what = .update u ∧ u.who = 0 ∧
      (s.allWarps.map fun x => (x.team, x.idx, x.gone)) = [(1, 0, false)] := by decide

theorem witness_LaunchesAndPlacement_state :
    (∀ k ∈ [(1 : Byte), 0], (posted k).noteQueues.queuesLost = false ∧ (posted k).settleDue.noteQueues.queuesOpen = true) ∧ pooling.teams.length < 2 ^ 31 ∧
    (∀ sched ∈ [([] : List CopyDesc)], (pooling.placedSched (pooling.launchOf 5) (((pooling.launchOf 5).node? 0).getD default)).map (·.2) = some sched) ∧
    pooling.next? 1 = none := ⟨by decide, by decide, by decide, by decide⟩

/-- The grid's record at the head of queue 0, which nothing else precedes. -/
theorem witness_WorkGraphEventsComplete :
    let x := (posted 1).noteQueues
    let y := x.queueDesc 0
    let r := leNat (x.getBytes y.record 256).2
    (posted 1).pkg.d3hot = false ∧ (posted 1).pkg.flr = false ∧ 6 ≤ (posted 1).pkg.stage ∧ x.queuesLost = false ∧ (posted 1).settleDue.noteQueues.queuesOpen = true ∧ y.posted = true ∧
    (∀ k, k < 4096 → k ≠ 0 → (x.queueDesc k).posted = false) ∧ target y.record = .hbm ∧ recordOk r = true ∧ fld r 0 0 12 = 1 ∧
    (gridForm r).ok = true ∧ fld r 0x20 0 16 = 0 ∧ fld r 0x30 0 7 = 0 :=
  ⟨by decide, by decide, by decide, by decide, by decide, by decide, witness_LaunchesAndPlacement_turn, by decide, by decide +kernel, by decide +kernel,
    by decide +kernel, by decide +kernel, by decide +kernel⟩

theorem witness_WorkGraphEventsComplete_place :
    let p : Pooled := { (default : Pooled) with launch := 5 }
    pooling.poolOf 0 = [p] ∧ pooling.pkg.d3hot = false ∧ pooling.pkg.flr = false ∧ pooling.stoppedEntry p = false ∧ p.saved = none ∧
    (pooling.launchOf 5).coop = false ∧ (pooling.launchOf 5).paired = false ∧ (pooling.launchOf 5).sched = [] ∧
    ∃ c, pooling.bestCore (pooling.needOf p) (coresOf 0) = some c :=
  ⟨by decide, by decide, by decide, by decide, by decide, by decide, by decide, by decide, pooling_best⟩

theorem witness_WorkGraphEventsComplete_preempt :
    let p : Pooled := { (default : Pooled) with launch := 5, prio := 4 }
    crowded.poolOf 0 = [p] ∧ crowded.stoppedEntry p = false ∧ (crowded.launchOf 5).paired = false ∧
    crowded.bestCore (crowded.needOf p) (coresOf 0) = none ∧ (∀ x ∈ crowded.allTeams, x.die = 0 → x.life ≠ .preempting) ∧
    crowded.bestVictims (crowded.needOf p) 4 (coresOf 0) = some [1] ∧ (crowded.teamOf 1).twin = none ∧
    (crowded.launchOf (crowded.teamOf 1).launch).coop = false ∧ crowded.preemptable 1 = true :=
  ⟨by decide, by decide, by decide, by decide +kernel, by decide +kernel, by decide +kernel, by decide, by decide, by decide +kernel⟩

theorem witness_WorkGraphEventsComplete_resume :
    let s := living .saved (some 1) true
    let r := s.putCtx { s.ctxOf (s.teamOf 1).ctx with stopped := false }
    let p : Pooled := { (default : Pooled) with saved := some 1 }
    (s.teamOf 1).handle = 1 ∧ (s.teamOf 1).life = .saved ∧ (s.teamOf 1).twin = none ∧ r.poolOf (s.teamOf 1).die = [p] ∧ p.saved = some 1 ∧
    r.pkg.d3hot = false ∧ r.pkg.flr = false ∧ r.stoppedEntry p = false ∧ (r.launchOf p.launch).coop = false ∧
    ∃ c, r.bestCore (r.needOf p) (coresOf (s.teamOf 1).die) = some c :=
  ⟨by decide, by decide, by decide, by decide, rfl, by decide, by decide, by decide, by decide, bestCore_some (x := 0) (by decide) (by decide)⟩

/-- The ending team beside a second team of its launch. -/
theorem witness_WorkGraphEventsComplete_end :
    ∀ s ∈ [ending [] none, ending [] (some (0x20, 0, 0))],
      let z : State := { s with teams := [{ crew with handle := 9 }] }
      (z.teamOf 1).handle = 1 ∧ (z.teamOf 1).life = .ending ∧ z.teamQuiet 1 = true ∧ (z.teamOf 1).paired = false ∧ (z.teamOf 1).held = [] ∧
      (z.teamOf 1).matrixIdle = true ∧ (z.teamOf 1).twin = none ∧ z.stoppedTeam 1 = true ∧
      (z.focusTeam 1).map (fun q => z.allTeams.any fun x => x.handle != 1 && x.launch == q.launch.id) = some true := by
  intro s h
  simp only [List.mem_cons, List.not_mem_nil, or_false] at h
  rcases h with rfl | rfl <;> exact ⟨by decide, by decide, by decide, by decide, by decide, by decide, by decide, by decide, by decide⟩

/-- A clock step within the wait, and steps that are older than it. -/
theorem witness_HangsEndsAndKills_steps :
    let s : State := { waiting 1 with pkg := { (waiting 1).pkg with clock := 1000, steps := [(900, 1050), (10, 1000)] } }
    let since := (s.ctxWarps 0).foldl (fun m w => max m w.waitSince) (s.ctxOf 0).lastBusy
    let z : State := { s with ctx := { s.ctx with lastBusy := 500 } }
    since = 0 ∧ (z.ctxWarps 0).foldl (fun m w => max m w.waitSince) (z.ctxOf 0).lastBusy = 500 ∧ 500 < 900 ∧
      (∀ p ∈ ([(10, 1000)] : List (Nat × Nat)), p.1 ≤ 500) ∧ (∀ p ∈ (waiting 1).pkg.steps, p.1 ≤ 0) := by decide

/-- A team to be killed whose write is still on its way, and the same when it has been performed. -/
theorem witness_HangsEndsAndKills_kill :
    let u : Update := { uid := 9, core := 0, team := 1, warp := 0, ctx := 0, pa := 0, va := 0x1000, kind := .bytes [1], kept := false, tw := 2000 }
    let s (l : List Update) : State :=
      { box with team := { crew with doomed := some (0x20, 0, 0) }, home := [{ line := 0, lmax := 0, lastTw := 0, excl := none, cached := true, pend := l }] }
    let z (l : List Update) : State := ((s l).stopTeam 1).onLaunch 0 fun x => { x with firstKill := x.firstKill.orElse fun _ => some { code := 0x20, pc := 0, addr := 0 } }
    (s []).stoppedTeam 1 = false ∧ (z [u]).teamQuiet 1 = false ∧ (z []).teamQuiet 1 = true ∧ ((s []).teamOf 1).matrixIdle = true ∧
      ((s []).teamOf 1).twin = none := by decide +kernel

theorem witness_ThrowsAndTheirRecord_over :
    let s : State := { box with warp := { busy with tries := [(thrown 0).region] }, deliveries := [thrown 0] }
    let z : State := { s with team := { crew with mops := [{ (default : MatOp) with phase := .queued }] } }
    let y : State := { box with deliveries := [{ thrown 0 with swept := true }] }
    (let q := s.sweepAll (thrown 0); (q.1.performStores (thrown 0)).waitsOver q.2 = true) ∧
    (let q := z.sweepAll (thrown 0); (q.1.performStores (thrown 0)).waitsOver q.2 = false) ∧
    (∀ w ∈ s.deliveryWarps (thrown 0), w.pendFault = []) ∧
    y.waitsOver { thrown 0 with swept := true } = true := ⟨by decide +kernel, by decide +kernel, by decide, by decide +kernel⟩

/-- A parked warp in its trap routine or not, and a warp that is not parked. -/
theorem witness_ParksArePostedAndCommanded_hold :
    (∀ b ∈ [false, true], let s : State := { held with warp := { held.warp with tdepth := b } }
      (s.focusOn 1 0).map (fun u => (u.warp.tdepth, u.warp.double.isNone && u.warp.park.isSome && u.warp.pendFault.isEmpty && u.team.doomed.isNone)) =
        some (b, true)) ∧ (box.focusOn 1 0).map (fun u => u.warp.heldPark) = some none := by decide

theorem witness_DataArriveForTheirSlots_results :
    arriving.warp.unproduced[0]?.map (fun e => arriving.core.atoms.all fun a => a.seq != e.seq || a.held) = some true := by decide

theorem witness_FramesOfInstructions_room :
    (∀ h ∈ box.home, ∀ x ∈ h.pend, box.gtc < x.tw) ∧ box.core.lines.length + 32 ≤ l1Lines ∧ (box.rat box.ctx 0x1000).count = false := by decide

theorem witness_CacheAndTranslationMaintenance_dirty :
    let l : L1Line := { (default : L1Line) with line := 32, va := 0x1000, dirty := 1, present := 1 }
    let s : State := { box with core := { box.core with lines := [l] } }
    Goes s (fun _ => { legal := (Instr.cflush .zero .zero).wellFormed, ssrcs := [{ op := .zero, count := 2 }, { op := .zero }] }) :=
  goes_of (by decide)

theorem witness_LinkPowerAndReset_loss :
    (∀ c ∈ (online false).core :: (online false).cores, ∀ a ∈ c.atoms, a.who = 0) ∧ ({ State.reset.pkg with stage := 3 } : Pkg).stage = 3 := by
  decide

/-- The driver's resume of a saved team that nothing may place now. -/
theorem witness_TeamsArePreemptedSavedAndSwapped_driver :
    let s : State := { living .saved (some 1) true with ctx := { box.ctx with stopped := true }, pkg := { box.pkg with d3hot := true } }
    let r := s.putCtx { s.ctxOf (s.teamOf 1).ctx with stopped := false }
    (s.ctxOf (s.teamOf 1).ctx).stopped = true ∧ r.next? (s.teamOf 1).die = none := by decide

/-! ## Targets, barriers and loads that take another way -/

/-- Targets that are no multiple of 4. -/
theorem witness_CallsAndJumps_misaligned :
    let z := two .raw 0x2002 0
    (∀ i ∈ [Instr.jmpr (.v 2) 0, .ret (.v 2) 0], Goes z (fun _ => { legal := i.wellFormed, srcs := [{ op := .v 2, count := 2, dead := false }] })) ∧
    (∀ f ∈ [(0 : BitVec 2), 1], Goes z (fun _ => { legal := (Instr.callr (.v 4) (.v 2) 0 f).wellFormed,
                                                   srcs := [{ op := .v 2, count := 2, dead := (0 : BitVec 1) == 1 }], dsts := [{ op := .v 4, count := 2 }] })) ∧
    z.prelude.mask.getLsbD 0 = true ∧ (z.prelude.pair (.v 2) 0).toNat % 4 ≠ 0 :=
  ⟨goes_all (u := fun i _ => { legal := i.wellFormed, srcs := [{ op := .v 2, count := 2, dead := false }] }) (by decide),
    fun f hf => goes_of (by revert f; decide), by decide, by decide⟩

/-- A barrier whose one member has arrived, and one whose copy has not. -/
theorem witness_BarriersAndMembership_generation :
    let bar : Barrier := { Barrier.blank with gen := 5, arrived := 1 }
    let s : State := { box with team := { crew with bars := put crew.bars 9 bar } }
    let z : State := { s with team := { s.team with copies := [{ (default : CopyOp) with tie := some (9, 5) }] } }
    let counts (s : State) := ((maskLanes ((s.teamOf 1).bar 9).arrived).length + ((s.teamOf 1).bar 9).copies, (s.teamWarps 1).length,
      ((s.teamOf 1).copies.filter fun c => c.tie == some (9, 5)).length)
    counts s = (1, 1, 0) ∧ counts z = (1, 1, 1) ∧ (s.teamOf 1).handle = 1 ∧ (s.teamOf 1).twin = none ∧ (s.teamOf 1).guarded = false := by decide

/-- Warps that wait for a generation, whose next arrival waits for it, and whose trap routine interrupted either. -/
theorem witness_BarriersAndMembership_waiters :
    let w (h g : Hold) : Warp := { busy with hold := h, savedHold := g }
    (∀ x ∈ [Hold.bar 9 5 false true, .bar 9 5 true false, .bar 9 5 true true], (w x .none).frontier = [thread] ∧ (w .none x).hold = .none) ∧
    (∀ h ∈ [Hold.none, .bar 9 4 false true, .bar 8 5 false true], ∀ x y, h ≠ .bar 9 5 x y) := by
  refine ⟨by decide, fun h hh x y => ?_⟩
  simp only [List.mem_cons, List.not_mem_nil, or_false] at hh
  rcases hh with rfl | rfl | rfl <;> simp

/-- A grid barrier whose one member arrives, and one with a member that has not. -/
theorem witness_BarriersAndMembership_grid :
    let z (s : State) : State :=
      let p := s.prelude
      let w := ((p.withWarp p.warp.yieldPoint).enterInvalid).holdAs (.grid p.launch.gridGen)
      { w with launch := { w.launch with gridArrived := (w.team.handle, w.warp.idx) :: w.launch.gridArrived } }
    let more : State := { coop with warps := [{ busy with idx := 1 }] }
    (∀ m ∈ (z coop).gridMembers (z coop).launch.id, m ∈ (z coop).launch.gridArrived) ∧
    ¬ (∀ m ∈ (z more).gridMembers (z more).launch.id, m ∈ (z more).launch.gridArrived) ∧ more.prelude.mask = more.prelude.warp.live ∧
    Goes more (fun _ => { legal := Instr.barGridSync.wellFormed, drains := true }) :=
  ⟨by decide, by decide, by decide, goes_of (by decide)⟩

theorem witness_BarriersAndMembership_grid_settled : Settled ({ coop with warps := [{ busy with idx := 1 }] } : State).prelude :=
  settled_of (by decide)

/-- SLD into the literal register, the scalar cc and no register. -/
theorem witness_LoadsAndTheScratchpad_scalar :
    let s := two .i32 0 0x1FFFF0
    (∀ d ∈ [SOp.lit, .cc, .void], Goes s (fun _ => { legal := (Instr.sld d .zero (.s 6) 0).wellFormed, ssrcs := [{ op := .zero, count := 2 }, { op := .s 6 }],
                                                     sdsts := [{ op := d }], slot := some 0 })) ∧ s.prelude.splace (.s 2) = .scalar 2 :=
  ⟨fun d hd => by
    simp only [List.mem_cons, List.not_mem_nil, or_false] at hd
    rcases hd with rfl | rfl | rfl <;> exact goes_of (by decide), by decide⟩

/-- Slot 9 landed with 9 in its lanes, of a kind, for a destination; the tile of a VT row free or at work. -/
def landedAs (k : SlotKind) (dest : Nat) (mask : Mask) (tr busyTile : Bool) : State :=
  let x : Slot := { Slot.blank with state := .landed, kind := k, dest := dest, mask := mask, data := Vector.replicate 4 (splat 9), tile := 1 }
  let o : MatOp := { (default : MatOp) with id := 60, kind := .mzero, d := 1, phase := .queued }
  { box with
    warp := { busy with slots := put busy.slots 9 x, trslot := if tr then 0x200 else 0 }
    team := { crew with mops := if busyTile then [o] else [] } }

theorem witness_LoadsAndTheScratchpad_kinds :
    (∀ x ∈ [(SlotKind.d, 254), (.q, 252), (.trace, 4), (.w, 256), (.q, 268), (.scalar, litNo), (.scalar, sccNo), (.scalar, 5)],
      ∀ tr ∈ [false, true], Goes (landedAs x.1 x.2 0xFFFF tr false) (bare (.commit .fp32 9)) ∧
        ((landedAs x.1 x.2 0xFFFF tr false).prelude.warp.land 9).marked = 0 ∧
        (landedAs x.1 x.2 0xFFFF tr false).prelude.warp.trslot.getLsbD 9 = tr ∧ (landedAs x.1 x.2 0xFFFF tr false).prelude.team.pend 1 = 0) ∧
    (∀ d ∈ [252, 253, 254, 255], (landedAs .d 254 0xFFFF false false).prelude.warp.live? d = none) ∧
    Goes (landedAs .w 256 0xFFFF false true) (bare (.commit .fp32 9)) ∧ (landedAs .w 256 0xFFFF false true).prelude.team.pend 1 ≠ 0 := by
  refine ⟨fun x hx tr ht => ?_, by decide, goes_of (by decide), by decide⟩
  refine ⟨goes_of ?_, ?_, ?_, ?_⟩ <;> revert tr <;> revert x <;> decide

/-- The translations of a misaligned access are there. -/
theorem witness_ChecksOfAnAccess_translated :
    let l : List (Nat × BitVec 64) := [(3, 0x1000), (7, 0x1002)]
    (((box.useRat box.ctx).translateAll .load box.privileged l).2.map fun x => match x.out with | .wait => true | _ => false) = [false, false] := by
  decide

theorem witness_LoadsAndTheScratchpad_faults :
    let u (s : State) := Goes s (fun _ => { legal := (Instr.sts (.v 2) .zero (.v 8)).wellFormed, srcs := [{ op := .v 2 }, { op := .zero }, { op := .v 8 }] })
    u (two .i32 7 1022) ∧ u (two .i32 7 1024) ∧ (two .i32 7 1022).prelude.mask.getLsbD 0 = true ∧ (two .i32 7 1024).prelude.team.scratchSize = 1024 :=
  ⟨goes_of (by decide), goes_of (by decide), by decide, by decide⟩

/-! ## Matrix, the save path and CSRs -/

/-- The codebooks: aligned, misaligned, and while a register that names IX4 is open. -/
theorem witness_MatrixStateIsWritten_books :
    let s := three 0x1000 0
    let z := three 0x1008 0
    let o : State := { s with team := { crew with convs := put crew.convs 9 { Conv.blank with state := .open, afmt := .ix4 } } }
    (∀ m ∈ [(4 : BitVec 6), 5], ∀ y ∈ [s, z, o], Goes y (fun _ => { legal := (Instr.mset (.s 4) (.s 0) m).wellFormed, ssrcs := [{ op := .s 4, count := 2 }] })) ∧
    (s.prelude.scPair (.s 4)).toNat % 32 = 0 ∧ (z.prelude.scPair (.s 4)).toNat % 32 ≠ 0 ∧
    (∀ n ∈ [32, 512],
      let ps (y : State) := pieces (y.prelude.scPair (.s 4)) n
      let c (y : State) := y.prelude.check .load 1 ((ps y).map fun x => (y.prelude.firstLane, x.1))
      (∀ y ∈ [s, o], (passed (c y).2).isSome = true) ∧ (c s).1.team.booksBusy = false ∧ (c o).1.team.booksBusy = true ∧ (c s).1.poison = [] ∧
      (((c s).1.sample 0x7C .load ((ps s).map (·.1))).readPieces (((ps s).map (·.2)).zip ((passed (c s).2).getD []))).isSome = true) := by
  refine ⟨fun m hm y hy => goes_of (by revert y; revert m; decide), by decide, by decide, fun n hn => ?_⟩
  simp only [List.mem_cons, List.not_mem_nil, or_false] at hn
  rcases hn with rfl | rfl <;> exact ⟨by decide +kernel, by decide +kernel, by decide +kernel, by decide +kernel, by decide +kernel⟩

/-- MCVT to a tag that it does not take. -/
theorem witness_MatrixOperationsForkAndJoin_tag :
    let s : State := { three 0x1000 0x00090001 with team := { crew with tiles := [Tile.blank, { Tile.blank with tag := .fp32 }] } }
    Goes s (fun _ => { legal := (Instr.mcvt (.v 5) (.s 6)).wellFormed, ssrcs := [{ op := .s 6 }], dsts := [{ op := .v 5 }] }) ∧
    mcvtTags.contains (Tag.ofCode ((s.prelude.sc (.s 6) >>> 16).setWidth 5)) = false := ⟨goes_of (by decide), by decide⟩

/-- LBWR of a slot's data and metadata, in a trap routine and outside it. -/
theorem witness_RegionsAndTheSavePath_metadata :
    (∀ x ∈ [((0 : BitVec 2), (0 : BitVec 1)), (3, 0), (0, 1), (1, 1)], ∀ s ∈ [box, trap],
      Goes s (fun _ => { legal := (Instr.lbwr (.v 2) x.1 x.2 9).wellFormed, srcs := [{ op := .v 2 }] })) ∧
    box.prelude.privileged = false ∧ trap.prelude.privileged = true := by
  refine ⟨fun x hx s hs => goes_of ?_, by decide, by decide⟩
  revert s; revert x; decide

/-- TGTCTX, PARKTGT and PARKCMD outside a service team. -/
theorem witness_CsrAccess_own :
    (∀ b ∈ [(0x40 : BitVec 7), 0x42],
      Goes box (fun _ => { legal := (Instr.csrr (.s 4) b 0).wellFormed, sdsts := [{ op := .s 4 }], drains := true }) ∧
      (∀ s ∈ [box, trap], Goes s (fun _ => { legal := (Instr.csrw (.s 4) b 0).wellFormed, ssrcs := [{ op := .s 4 }], drains := true })) ∧
      csrPrivileged b.toNat = true) ∧ box.prelude.team.service = false ∧ trap.prelude.team.service = false := by
  refine ⟨fun b hb => ?_, by decide, by decide⟩
  simp only [List.mem_cons, List.not_mem_nil, or_false] at hb
  rcases hb with rfl | rfl <;> exact ⟨goes_of (by decide), fun s hs => goes_of (by revert s; decide), by decide⟩

/-- A trap routine whose die's results lie on a line that a core holds exclusively, and on one that none does. -/
def answering (excl : Option (Nat × Nat)) : State :=
  { trap with home := [{ line := 0, lmax := 0, lastTw := 0, excl := excl, cached := true, pend := [] }] }

theorem witness_CsrAccess_results :
    (∀ x ∈ [none, some (0, 5000)],
      Goes (answering x) (fun _ => { legal := (Instr.csrw (.s 4) 0x1D 10).wellFormed, ssrcs := [{ op := .s 4 }], drains := true }) ∧
      (answering x).prelude.privileged = true ∧
      (answering x).prelude.resultsOpen (answering x).prelude.ownReach.die (((answering x).prelude.sc (.s 4)).toNat % 2 ^ 16) = x.isNone) ∧
    (0x1D : BitVec 7).toNat + 128 * (10 : BitVec 6).toNat = 0x51D := by
  refine ⟨fun x hx => ?_, by decide⟩
  simp only [List.mem_cons, List.not_mem_nil, or_false] at hx
  rcases hx with rfl | rfl <;> exact ⟨goes_of (by decide), by decide, by decide +kernel⟩

theorem witness_CacheAndTranslationMaintenance_one_line :
    let base := (box.prelude.scPair .zero).toNat
    (List.range ((base + max (box.prelude.sc .zero).toNat 1 - 1) / 128 - base / 128 + 1)).map (fun i => BitVec.ofNat 64 (128 * (base / 128 + i))) = [0] ∧
    box.prelude.home = [] ∧ box.prelude.core.lines.length < l1Lines ∧
    (let c := (box.prelude.check .load 1 [(0, 0)]).1; (c.rat c.ctx 0).count = false) := by decide

/-- A stop request: alone, in a trap routine, and while a delivery at warp level and at team level is open. -/
theorem witness_RegionsAndTheSavePath_stop :
    let s : State := { box with warp := { busy with stopReq := true, rgn := [7] } }
    let z : State := { s with warp := { s.warp with tdepth := true } }
    (∀ y ∈ [s, z, { s with deliveries := [thrown 0] }, { s with deliveries := [thrown 1] }],
      Goes y (bare .rgnl) ∧ Goes y (fun _ => { legal := (Instr.rgne (.s 4)).wellFormed, ssrcs := [{ op := .s 4 }] }) ∧
      y.prelude.warp.stopReq = true ∧ y.prelude.ctx.rgnbrk.getLsbD 31 = false) ∧
    (s.prelude.unwinding = false ∧ s.prelude.deliveries = []) ∧ (thrown 0).level = 0 ∧ (thrown 0).team = s.prelude.team.handle ∧
    ({ s with deliveries := [thrown 1] } : State).prelude.unwinding = true := by
  refine ⟨fun y hy => ?_, ⟨by decide, by decide⟩, by decide, by decide, by decide⟩
  simp only [List.mem_cons, List.not_mem_nil, or_false] at hy
  rcases hy with rfl | rfl | rfl | rfl <;> exact ⟨goes_of (by decide), goes_of (by decide), by decide, by decide⟩

/-! ## Units and other agents -/

/-- A secondary twin's CPRED: its primary's has not ended, has ended, and has failed. -/
def mirrored (ends : List PredEnd) : State :=
  let s := flying true none 0x1000
  { s with team := { s.team with paired := true, primary := false, predEnds := ends, copies := s.team.copies.map fun c => { c with red := true, nth := some 0 } } }

theorem witness_CopiesAndTheirSwitches_mirrors :
    let e : PredEnd := { warp := 0, nth := 0, tw := 1500, failed := none }
    (∀ l ∈ [[], [e], [{ e with failed := some 0x1000 }]],
      ((mirrored l).focusCopy 1 70).map (fun x => (x.1.team.works, x.1.team.mirrors x.2, x.1.team.predEnd x.2)) = some (true, true, l.head?)) := by
  decide

/-- The engine finds an operation FAULTED while a delivery at team level waits for it; and a warp-level delivery waits for a result. -/
theorem witness_ThrowsAndTheirRecord_late :
    let d (n : Nat) : Delivery := { thrown n with swept := true }
    let s (p : MatPhase) : State := { box with team := { crew with mops := [{ (default : MatOp) with id := 60, phase := p }] }, deliveries := [d 1] }
    let e : WinEntry := { (default : WinEntry) with seq := 7, valid := true, produced := false }
    let z : State := { box with warp := { busy with window := [e] }, deliveries := [d 0] }
    (s .faulted).lateFault (d 1) = true ∧ (s .done).lateFault (d 1) = false ∧ (s .done).waitsOver (d 1) = true ∧ (s .done).stoppable (d 1) = true ∧
    z.lateFault (d 0) = false ∧ z.waitsOver (d 0) = true ∧ z.stoppable (d 0) = false := by decide +kernel

/-- A marked request whose load has returned, and one whose load is still to be served. -/
def marked (st : SlotState) : State :=
  let s := landing st 0 0
  let m : Mark := { origin := {}, line := 32, ctx := 0, team := 1, pa := some 32, switch := true, link := false, slice := true, memory := false, sent := 50 }
  { s with core := { s.core with marks := [m] } }

theorem witness_LeasesHostAtomicsAndSamples_marks :
    ((marked .landed).coreOf 0).marks.map (marked .landed).returned = [true] ∧ ((marked .inflight).coreOf 0).marks.map (marked .inflight).returned = [false] := by
  decide

/-- Words that a MONW can read, and one whose line is under an exclusive lease. -/
def watched (shut : Bool) : State :=
  let s := watching 1000
  { s with home := if shut then [{ line := 32, lmax := 0, lastTw := 0, excl := some (3, 5000), cached := true, pend := [] }] else [] }

theorem witness_FencesAndMonw_words :
    (∀ b ∈ [false, true], (((watched b).focusOn 1 0).bind fun u => (u.warp.monws.find? fun o => o.id == 60).map fun o =>
      (u.monWords o.lanes).isSome == !b && o.deadline == some 1000 && o.result.isNone && decide (1000 ≤ u.gtc)) = some true) ∧
    (((watched false).focusOn 1 0).bind fun u => (u.warp.monws.find? fun o => o.id == 60).bind fun o => o.lanes.head?.map fun l =>
      o.held.isNone && !l.armed && l.value.isNone && decide (l.nextPoll ≤ u.gtc) &&
        (match (u.monRead l).2 with | .at pa => pa == 0x1000 | _ => false)) = some true := by decide

/-- A TRACE that waits for a load of its warp that it follows, and one that does not. -/
theorem witness_DataArriveForTheirSlots_forks :
    let x := arriving.warp.land 15
    let y : Slot := { Slot.blank with state := .inflight, dest := 5, mask := 1, todo := [{ lane := 0, va := 0x1000, pa := 0x1000 }] }
    let z : State := { arriving with warp := { arriving.warp with slots := put (put arriving.warp.slots 9 y) 15 { x with order := 60 } } }
    arriving.forkSeen 1 0 arriving.warp.uid x.order = true ∧ z.focusOn 1 0 = some z ∧
      z.forkSeen 1 0 z.warp.uid (z.warp.land 15).order = false := ⟨by decide, rfl, by decide⟩

/-- The results of a batch that is done can be read, or cannot while a core holds their line exclusively. -/
theorem witness_HostAccesses_results :
    serviced.resultsOpen 0 3 = true ∧ ((serviced.settleDue.dieAt 0).batches.find? fun b => b.index == 3).map (fun b => (b.cancel, b.team, b.warp)) =
      some (false, 1, 0) ∧ (serviced.settleDue.focusOn 1 0).map (fun u => (u.warp.frontier.any (Entry.inSvc 3), u.warp.frontier.all fun e => !Entry.inSvc 4 e)) =
      some (true, true) := by decide +kernel

/-- Where no home has anything to do, no line is held. -/
theorem lineHeld_none {s : State} (h : s.home = []) (line : Nat) : s.lineHeld line = false := by simp [State.lineHeld, State.homeLine, h]

theorem linesOpen_none {s : State} (h : s.home = []) (a n : Nat) : s.linesOpen a n = true := by simp [State.linesOpen, lineHeld_none h]

/-- A flit on whose lines nothing has a lease, whatever they are. -/
theorem witness_NorozlinkPorts_open : ∀ a : Accepted, (linked 0).flitOpen a = true := by
  intro a
  simp only [State.flitOpen, linesOpen_none (s := linked 0) rfl, lineHeld_none (s := linked 0) rfl]
  split <;> simp

theorem witness_NorozlinkPorts_ack_alone :
    ({ uid := 9, core := 0, team := 1, warp := 0, ctx := 0, pa := 0, va := 0x1000, kind := .bytes [1], kept := false, tw := 0 } : Update).copies = [] := rfl

/-- A save area on whose lines nothing has a lease. -/
theorem witness_TeamsArePreemptedSavedAndSwapped_area :
    Memory.wf (living .preempting none false).mem = true ∧ ∀ a n, (living .preempting none false).linesOpen a n = true :=
  ⟨by decide, linesOpen_none rfl⟩

theorem witness_WorkGraphEventsComplete_settled :
    (posted 1).settleDue = posted 1 ∧ (∀ a n, (posted 1).noteQueues.linesOpen a n = true) := ⟨rfl, linesOpen_none rfl⟩

/-- A step of a service team, whose GTC its warps observe, and an access of the host that is next. -/
theorem witness_StepRunsTheDecodedInstruction_events :
    let e : Instr := .bar0CsrAccess false 8 0
    let z : State := { online false with agenda := [.event e] }
    let v : State := { box with team := { crew with service := true }, core := { box.core with tlb := [{ page with pte := 0xCF }] } }
    isEvent e = true ∧ (match exec e (({ z with agenda := [] } : State).seenBy e) with | .next _ => true | _ => false) = true ∧
    (v.teamOf 1).service = true ∧ (v.counted.observed.focusOn 1 0).map (fun x => decide ((x.fetch x.entry.pc).2 = .word 0)) = some true := by decide

/-- Numbers of FP8B within its range, past it, and below its normal numbers. -/
theorem witness_DeliveryRoundsCorrectly_limits :
    (Tag.fp8b, 5, 2, 15, 57344, true) ∈ floatFormats ∧ (57344 : ℚ) + 2 ^ ((2 ^ 5 - 2 : Int) - 15 - 2) / 2 ≤ |val (.num false 1 16 false)| ∧
    |val (.num true 3 0 false)| < 57344 ∧ |val (.num false 1 (-15) false)| < 2 ^ (1 - (15 : Int)) := by
  refine ⟨by simp [floatFormats], ?_, ?_, ?_⟩ <;> norm_num [val]

/-! ## One step of the memory, the engines and the system

Expected values are worked out by hand from the rules named. -/

/-- A scratchpad whose word at 8 is 42. -/
def scratched : State := { two .i32 7 8 with team := { crew with scratch := [(8, 42)] } }

/-- Slot 9 landed with 77 in every lane for v5. -/
def landed : State :=
  let x : Slot := { Slot.blank with state := .landed, dest := 5, mask := 0xFFFFFFFF, data := Vector.replicate 4 (splat 77) }
  { box with warp := { busy with slots := put busy.slots 9 x } }

-- R219 to R226
theorem test_lds : r5 (.lds (.v 5) .zero (.v 8) 0) scratched = 42 := by decide
theorem test_sts : (ran (.sts (.v 2) .zero (.v 8)) scratched).team.scratch = [(8, 7)] := by decide +kernel
theorem test_ldg : ((ran (.ldgW (.v 4) .zero (.v 8) 15) (two .i32 7 8)).warp.land 15).state = .inflight := by decide
theorem test_ldg_busy_slot : code (.ldgW (.v 4) .zero (.v 8) 9) landed = some 0x0007 := by decide
theorem test_commit : r5 (.commit .i32 9) landed = 77 := by decide
theorem test_commit_empties : ((ran (.commit .i32 9) landed).warp.land 9).state = .empty := by decide
theorem test_commit_all : (ran (.commitAll .fp32) landed).warp.regTag 5 = .fp32 := by decide
theorem test_stg_misaligned : code (.stg (.v 2) .zero (.v 8) 0) (two .i32 7 6) = some 0x0022 := by decide
theorem test_stg : (ran (.stg (.v 2) .zero (.v 8) 3) (two .i32 7 0x1FF)).home.map (·.line) = [3] := by decide +kernel
theorem test_sst : (ran (.sst (.s 4) .zero (.s 6) 0) (three 5 0x88)).home.map (fun h => (h.line, h.pend.map (·.kind))) =
    [(1, [.bytes [5, 0, 0, 0]])] := by decide
theorem test_sld : ((ran (.sld (.s 2) .zero (.s 6) 7) (three 5 0x88)).warp.land 7).todo.map (fun l => (l.lane, l.pa)) = [(0, 0x88)] := by decide
theorem test_update : (ran (.homeUpdatePerform 2)
    ({ box with home := [{ line := 2, lmax := 0, lastTw := 0, excl := none, cached := true
                           pend := [{ uid := 9, core := 0, team := 1, warp := 0, ctx := 0, pa := 0x110, va := 0x110, kind := .bytes [1, 2, 3]
                                      kept := false, tw := 1000 }] }] })).mem = [(0x110, 1), (0x111, 2), (0x112, 3)] := by decide

-- R231, R232, R204, R236
theorem test_atom : (ran (.atom (.v 5) (.v 2) (.v 8) 0) (setV (two .i32 0x1000 5) 3 .i32 0)).core.atoms.map (fun a => (a.op, a.dest, a.red)) =
    [(0, .v 5, false)] := by decide
theorem test_red_misaligned : code (.red (.v 2) (.v 8) 0) (setV (two .i32 0x1002 5) 3 .i32 0) = some 0x0022 := by decide
theorem test_fence : pcOf (.fence 2 1) box = some 0x1004 := by decide
theorem test_monw : (ran (.monw (.v 5) (.v 2) (.v 8) 0) (setV (two .i32 0x1000 5) 3 .i32 0)).warp.frontier.map (fun e => (e.pc, e.wait == .ready)) =
    [(0x1000, false)] := by decide +kernel

-- R169 to R173, R35
theorem test_bar_arrive : ((ran (.barArrive 9) box).team.bar 9).gen = 1 := by decide +kernel
theorem test_bar_sync_alone : pcOf (.barSync 0) box = some 0x1004 := by decide +kernel
theorem test_bar_grid_needs_coop : code .barGridSync box = some 0x0031 := by decide
theorem test_attach_of_role_without_budget : (ran (.attach (.s 4) 0) (three 1 0)).warps = [] := by decide
theorem test_attach_takes_index_one :
    (ran (.attach (.s 4) 0) ({ three 1 0 with team := { crew with budget0 := 4 } })).warps.map (fun w => (w.idx, w.vvg)) = [(1, 4)] := by decide +kernel

-- R272 to R278
theorem test_cpgo : (ran (.cpgo (.s 8)) (copying 16 0 0x1000)).team.copies.map (fun c => (c.desc.dir, c.red, c.warp)) = [(false, false, 0)] := by
  decide
theorem test_cpred : (ran (.cpred (.s 8) 1) (copying 16 1 0x1000)).team.copies.map (fun c => (c.red, c.anyorder)) = [(true, true)] := by decide
theorem test_cpgo_misaligned : (code (.cpgo (.s 8)) (copying 16 0 0x1002)) = some 0x0022 := by decide
theorem test_cpcancel : (ran (.cpcancel 63) (flying false none 0x1000)).team.copies.length = 0 := by decide +kernel
theorem test_cpq : (ran (.cpq (.s 2) 63) box).warp.window.map (·.late) = [[.scalar 2 0x1000]] := by decide
theorem test_cpstage : (ran .cpstage box).team.copies.length = 0 := by decide

-- R307 to R317
theorem test_mset_fmt : (ran (.mset (.s 4) (.s 0) 0) (three 0xFFFFF801 0)).team.mfmt = 1 := by decide
theorem test_mset_tag : (((ran (.mset (.s 4) (.s 6) 2) (three 0x1F 1)).team.tiles.getD 1 Tile.blank).tag) = .rw := by decide
theorem test_mset_tag_outside : code (.mset (.s 4) (.s 6) 2) (three 0x1F 2) = some 0x0008 := by decide
theorem test_mmask : (let t := (ran (.mmask (.s 4) 0) (three 0x00050003 0)).team; (t.rowm, t.colm, t.depm)) = (3, 5, 0xFFFF) := by decide
theorem test_mconv : (let c := (ran (.mconv (.s 4) (.s 6) 9) (three 1 0x100)).team.conv 9; (c.state, c.c, c.d, c.members)) = (.open, 0, 1, 1) := by
  decide
theorem test_mma_signs_and_queues : ((ran (.mma (.s 8) (.s 8) 9) (converging 1)).team.conv 9).state = .queued := by decide
theorem test_mma_waits_for_warp_one : (let c := (ran (.mma (.s 8) (.s 8) 9) (converging 3)).team.conv 9; (c.state, c.signed)) = (.open, 1) := by decide
theorem test_mld_misaligned : code (.mld (.s 4) (.s 6) 1) (three 0x1004 8) = some 0x0022 := by decide
theorem test_mzero : (ran (.mzero 1) box).team.mops.map (fun o => (o.kind, o.d)) = [(.mzero, 1)] := by decide
theorem test_mzero_outside : code (.mzero 2) box = some 0x0008 := by decide
theorem test_mwait : (ran (.mwait (.s 0) (.s 2) 1) box).warp.window.map (·.late) = [[.scalar 2 0]] := by decide
theorem test_mprog : (ran (.mprog (.s 2) 9) (converging 1)).warp.window.map (·.late) = [[.scalar 2 0x101]] := by decide
theorem test_malloc : (ran (.malloc (.s 2) 0 1) (pooled 4 false)).team.tiles.length = 3 := by decide
theorem test_mfree : (ran (.mfree 1) box).team.tiles.length = 1 := by decide

-- R370 to R375, R71, R105
theorem test_csrr_view : (ran (.csrr (.s 2) 1 0) box).warp.window.map (·.late) = [[.scalar 2 0x40020]] := by decide
theorem test_csrr_absent : code (.csrr (.s 2) 0x0C 0) box = some 0x0001 := by decide
theorem test_csrw_monto : (ran (.csrw (.s 4) 6 0) (three 77 0)).warp.monto = 77 := by decide
theorem test_csrw_privilege : code (.csrw (.s 4) 3 0) (three 77 0) = some 0x0002 := by decide
theorem test_ocwr : (look (ran (.ocwr (.v 2) 3) (two .fp32 7 0)).warp.oc Copy.blank 3).tag = .fp32 := by decide
theorem test_ocrd_empty : (ran (.ocrd (.v 5) 3) (two .i32 7 0)).warp.regTag 5 = .raw := by decide
theorem test_ltwr : (look (ran (.ltwr (.v 2) 3) ({ two .i32 7 0 with warp := { (two .i32 7 0).warp with tdepth := true } })).warp.shadow Copy.blank 3).valid = true := by
  decide
theorem test_lbrd_mask : lane ((ran (.lbrd (.v 5) 1 1 9) landed).warp.regData 5) 0 = 0xFFFFFFFF := by decide
theorem test_lbrd_data : r5 (.lbrd (.v 5) 3 0 9) landed = 77 := by decide
theorem test_rgne : (ran (.rgne (.s 4)) (three 0x80000005 0)).warp.rgn = [5] := by decide
theorem test_rgnl_underflow : (ran .rgnl box).warp.rgnUnd = true := by decide
theorem test_halt_privilege : code .halt box = some 0x0002 := by decide
theorem test_tlbinv : (ran .tlbinvAll trap).core.tlb = [] := by decide
theorem test_cinv_keeps_the_pc_going : pcOf (.cinv .zero .zero) box = some 0x1004 := by decide
theorem test_illegal : code (.illegalWord 0xFFFFFFFF) box = some 0x0001 := by decide

-- R187, R189
theorem test_trap : (let w := (ran (.trap 63) box).warp; (w.tdepth, w.tepc, w.tcause)) = (true, 0x1004, 0x003F0000) := by decide
theorem test_trap_in_a_trap : (ran (.trap 0) trap).warp.double.isSome = true := by decide
theorem test_tret : (let w := (ran .tret (returning 1)).warp; (w.tdepth, w.frontier.map (·.pc))) = (false, [0x1004]) := by decide

-- R341, R346, R331
theorem test_svc : (ran (.svc (.v 8) 5) box).warp.frontier.map (fun e => e.wait == .ready) = [false] := by decide
theorem test_enq_in_a_grid : code (.enq (.v 4) (.s 3) 0 0) box = some 0x0021 := by decide

-- R369, R356
theorem test_power_removal : (ran .powerRemoval box).warp.gone = true := by decide
theorem test_d3hot : (ran .d3hotEntry (online false)).pkg.d3hot = true := by decide


end Sys2Proof.Tests
end

section
namespace Sys2Proof.Machine

/-! ## The happenings of hangs, ends and kills -/

theorem exec_hangDetect (ctx : BitVec 16) (s : State) : exec (.hangDetect ctx) s = execHangDetect ctx s := rfl

theorem exec_teamEnd (h : Nat) (s : State) : exec (.teamEnd h) s = execTeamEnd h s := rfl

theorem exec_teamKill (h : Nat) (s : State) : exec (.teamKill h) s = execTeamKill h s := rfl

/-! ## Live teams: what leaves them as they are -/

theorem State.mem_allTeams {s : State} {u : Team} : u ∈ s.allTeams ↔ (u = s.team ∨ u ∈ s.teams) ∧ u.life ≠ .gone := by
  simp [State.allTeams, bne_iff_ne]

@[simp] theorem State.wake_allTeams (s : State) : s.wake.allTeams = s.allTeams := rfl
@[simp] theorem State.fire_allTeams (s : State) (line : Nat) : (s.fire line).allTeams = s.allTeams := rfl
@[simp] theorem State.setHomeLine_allTeams (s : State) (x : HomeLine) : (s.setHomeLine x).allTeams = s.allTeams := rfl
@[simp] theorem State.onLaunch_allTeams (s : State) (l : Nat) (f : Launch → Launch) : (s.onLaunch l f).allTeams = s.allTeams := rfl
@[simp] theorem State.onTeamWarps_allTeams (s : State) (h : Nat) (f : Warp → Warp) : (s.onTeamWarps h f).allTeams = s.allTeams := rfl

@[simp] theorem State.putCtx_allTeams (s : State) (c : Ctx) : (s.putCtx c).allTeams = s.allTeams := by
  unfold State.putCtx; split <;> rfl

@[simp] theorem State.focusCore_allTeams (s : State) (n : Nat) : (s.focusCore n).allTeams = s.allTeams := by
  unfold State.focusCore; split <;> rfl

@[simp] theorem State.focusCtx_allTeams (s : State) (n : Nat) : (s.focusCtx n).allTeams = s.allTeams := by
  unfold State.focusCtx; split <;> rfl

@[simp] theorem State.focusLaunch_allTeams (s : State) (n : Nat) : (s.focusLaunch n).allTeams = s.allTeams := by
  unfold State.focusLaunch
  split
  · rfl
  · split <;> rfl

/-! ### Writes of the package's units -/

@[simp] theorem State.putChunk_allTeams (s : State) (pa : Nat) (l : List Byte) : (s.putChunk pa l).allTeams = s.allTeams := by
  unfold State.putChunk; split <;> rfl

@[simp] theorem State.putBytes_allTeams (s : State) (pa : Nat) (l : List Byte) : (s.putBytes pa l).allTeams = s.allTeams :=
  State.foldl_keeps State.allTeams _ (fun s _ => s.putChunk_allTeams _ _) _ s

@[simp] theorem State.postTo_allTeams (s : State) (r : Ring) (l : List Byte) : (s.postTo r l).1.allTeams = s.allTeams := by
  unfold State.postTo
  dsimp only
  split
  · rfl
  · exact s.putBytes_allTeams _ _

@[simp] theorem State.postEvent_allTeams (s : State) (ctx kind code launch : Nat) (addr : BitVec 64) (why : Nat) :
    (s.postEvent ctx kind code launch addr why).allTeams = s.allTeams := by
  have put : ∀ (x : State × Ctx), (if x.1.ctx.id = ctx then ({ x.1 with ctx := x.2 } : State)
      else { x.1 with ctxs := x.2 :: x.1.ctxs.filter fun y => y.id != ctx }).allTeams = x.1.allTeams := by
    intro x; split <;> rfl
  unfold State.postEvent
  rw [put]
  split
  · rfl
  · exact s.postTo_allTeams _ _

/-! ### Homes -/

@[simp] theorem State.forgetLine_allTeams (s : State) (x : HomeLine) : (s.forgetLine x).allTeams = s.allTeams := by
  unfold State.forgetLine; split <;> rfl

@[simp] theorem State.cacheLine_allTeams (s : State) (line : Nat) : (s.cacheLine line).allTeams = s.allTeams := by
  unfold State.cacheLine
  dsimp only
  split
  · rfl
  · rw [State.setHomeLine_allTeams]
    split
    · rfl
    · cases (List.getLast? _ : Option HomeLine) with
      | none => rfl
      | some x => exact s.forgetLine_allTeams x

@[simp] theorem State.slog_allTeams (s : State) (line cls : Nat) (hit : Bool) (core requester : Nat) :
    (s.slog line cls hit core requester).allTeams = s.allTeams := by
  unfold State.slog; dsimp only; split <;> rfl

@[simp] theorem State.notify_allTeams (s : State) (d : Nat) (k : AccessCounter) (ctx : Nat) (va : BitVec 64) (core : Nat) :
    (s.notify d k ctx va core).1.allTeams = s.allTeams := by
  unfold State.notify
  dsimp only
  split
  · rfl
  · split
    · rfl
    · exact s.postTo_allTeams _ _

@[simp] theorem State.countMiss_allTeams (s : State) (ctx pa : Nat) (va : BitVec 64) (core : Nat) :
    (s.countMiss ctx pa va core).allTeams = s.allTeams := s.notify_allTeams _ _ _ _ _

@[simp] theorem State.performUpdate_allTeams (s : State) (u : Update) (hit : Bool) : (s.performUpdate u hit).allTeams = s.allTeams := by
  unfold State.performUpdate
  dsimp only
  simp only [apply_ite State.allTeams, State.countMiss_allTeams, State.slog_allTeams, State.fire_allTeams, ite_self]
  split <;> rfl

@[simp] theorem State.performFirst_allTeams (s : State) (line : Nat) : (s.performFirst line).allTeams = s.allTeams := by
  unfold State.performFirst
  dsimp only
  split
  · rfl
  · rw [State.performUpdate_allTeams]
    split
    · rw [State.cacheLine_allTeams, State.setHomeLine_allTeams]
    · rfl

@[simp] theorem State.settleLine_allTeams (s : State) (line n : Nat) : (s.settleLine line n).allTeams = s.allTeams := by
  induction n generalizing s with
  | zero => rfl
  | succ n ih =>
    unfold State.settleLine
    split
    · split
      · rw [ih, State.performFirst_allTeams]
      · rfl
    · rfl

@[simp] theorem State.settleDue_allTeams (s : State) : s.settleDue.allTeams = s.allTeams :=
  State.foldl_keeps State.allTeams _ (fun s line => s.settleLine_allTeams line _) _ s

@[simp] theorem State.logPte_allTeams (s : State) (core pa : Nat) : (s.logPte core pa).allTeams = s.allTeams := s.slog_allTeams _ _ _ _ _

@[simp] theorem State.beforeWalk_allTeams (s : State) (c : Ctx) (va : BitVec 64) (core : Nat) :
    (s.beforeWalk c va core).allTeams = s.allTeams := by
  unfold State.beforeWalk
  rw [State.foldl_keeps State.allTeams _ (fun s pa => s.logPte_allTeams core pa), State.settleDue_allTeams]

theorem State.swapPte_allTeams {s t : State} {core pa : Nat} {pte : Dword} (h : s.swapPte core pa pte = some t) : t.allTeams = s.allTeams := by
  unfold State.swapPte at h
  dsimp only at h
  split at h
  · cases h; rw [State.logPte_allTeams]; rfl
  · cases h

/-- A walk that sets A and D where they are not set yet. -/
theorem State.ite_swapPte_allTeams {s t : State} {p : Prop} [Decidable p] {core pa : Nat} {pte : Dword}
    (h : (if p then some s else s.swapPte core pa pte) = some t) : t.allTeams = s.allTeams := by
  by_cases hp : p
  · rw [if_pos hp] at h
    cases h; rfl
  · rw [if_neg hp] at h
    exact State.swapPte_allTeams h

theorem State.wguXlate_allTeams {s t : State} {c : Ctx} {k : Access} {va : BitVec 64} {pa : Nat} (h : s.wguXlate c k va = .ok t pa) :
    t.allTeams = s.allTeams := by
  unfold State.wguXlate at h
  dsimp only at h
  split at h
  · cases h
  split at h
  · cases h
  · cases h
  · cases h
  next pte ptePa level _ =>
    generalize pte ||| 0x40#64 ||| (if k.writes then 0x80#64 else 0) = pte' at h
    split at h
    · cases h
    split at h
    · cases h
    split at h
    · cases h
    split at h
    · cases h
    split at h
    · cases h
    next v hv =>
      cases h
      rw [State.ite_swapPte_allTeams hv, State.beforeWalk_allTeams, State.settleDue_allTeams]

/-! ### Launches -/

theorem State.reportLaunch_allTeams {s t : State} {l : Launch} {code : BitVec 16} {pc addr : BitVec 64}
    (h : s.reportLaunch l code pc addr = some t) : t.allTeams = s.allTeams := by
  unfold State.reportLaunch at h
  dsimp only at h
  split at h
  · cases h; rw [State.postEvent_allTeams]
  · split at h
    · cases h
    · cases h; rw [State.postEvent_allTeams]
    · next hx =>
      cases h
      rw [← State.wguXlate_allTeams hx]
      split
      · rfl
      · rw [State.postEvent_allTeams, State.putBytes_allTeams]

theorem State.completeLaunch_allTeams {s t : State} {l : Nat} (h : s.completeLaunch l = some t) : t.allTeams = s.allTeams := by
  unfold State.completeLaunch at h
  dsimp only at h
  split at h
  · cases h; rfl
  · obtain ⟨u, hu, rfl⟩ := Option.map_eq_some_iff.1 h
    rw [State.onLaunch_allTeams, State.reportLaunch_allTeams hu]

@[simp] theorem State.completeGrid_allTeams (s : State) (l : Nat) : (s.completeGrid l).allTeams = s.allTeams := by
  unfold State.completeGrid
  dsimp only
  split
  · rfl
  · rw [State.onLaunch_allTeams, State.foldl_keeps State.allTeams _ (fun s h => s.onTeamWarps_allTeams h _)]

@[simp] theorem State.closeGrid_allTeams (s : State) (l : Nat) : (s.closeGrid l).allTeams = s.allTeams := by
  unfold State.closeGrid
  dsimp only
  split
  · rfl
  · split
    · rw [State.foldl_keeps State.allTeams _ (fun s h => s.onTeamWarps_allTeams h _), State.onLaunch_allTeams]
    · rfl

/-! ### The focus, and updates of one team -/

theorem State.focusTeam_allTeams_subset {s t : State} {h : Nat} (ht : s.focusTeam h = some t) : t.allTeams ⊆ s.allTeams := by
  obtain ⟨u, hu, rfl⟩ := Option.map_eq_some_iff.1 ht
  rw [State.focusLaunch_allTeams, State.focusCtx_allTeams, State.focusCore_allTeams]
  split at hu
  · cases hu; exact List.Subset.refl _
  · split at hu
    · cases hu
    · next x hx =>
      cases hu
      intro y hy
      obtain ⟨hy, hlife⟩ := State.mem_allTeams.1 hy
      refine State.mem_allTeams.2 ⟨?_, hlife⟩
      rcases hy with rfl | hy
      · exact .inr (List.mem_of_find?_eq_some hx)
      · rcases List.mem_cons.1 hy with rfl | hy
        · exact .inl rfl
        · exact .inr (List.mem_of_mem_filter hy)

theorem State.focusOn_allTeams_subset {s t : State} {h w : Nat} (ht : s.focusOn h w = some t) : t.allTeams ⊆ s.allTeams := by
  unfold State.focusOn at ht
  split at ht
  · cases ht
  · next u hu =>
    have hsub := State.focusTeam_allTeams_subset hu
    split at ht
    · split at ht
      · cases ht
      · cases ht; exact hsub
    · split at ht
      · cases ht
      · cases ht; exact hsub

theorem State.refocus_allTeams_subset (s : State) (f : Nat × Nat) : (s.refocus f).allTeams ⊆ s.allTeams := by
  unfold State.refocus
  cases h : s.focusOn f.1 f.2 with
  | none => exact List.Subset.refl _
  | some t => exact State.focusOn_allTeams_subset h

/-- A live team after an update of the team with a handle has another handle and was live before, or is what the update made of one. -/
theorem State.mem_allTeams_onTeam {s : State} {h : Nat} {f : Team → Team} {u : Team} (hu : u ∈ (s.onTeam h f).allTeams) :
    (u ∈ s.allTeams ∧ u.handle ≠ h) ∨ ∃ v ∈ s.allTeams, u = f v := by
  obtain ⟨hmem, hlife⟩ := State.mem_allTeams.1 hu
  obtain ⟨v, hv, rfl⟩ : ∃ v, (v = s.team ∨ v ∈ s.teams) ∧ (if v.handle = h ∧ v.life ≠ .gone then f v else v) = u := by
    rcases hmem with rfl | hmem
    · exact ⟨s.team, .inl rfl, rfl⟩
    · obtain ⟨v, hv, hvu⟩ := List.mem_map.1 hmem
      exact ⟨v, .inr hv, hvu⟩
  by_cases hc : v.handle = h ∧ v.life ≠ .gone
  · rw [if_pos hc]
    exact .inr ⟨v, State.mem_allTeams.2 ⟨hv, hc.2⟩, rfl⟩
  · rw [if_neg hc] at hlife ⊢
    exact .inl ⟨State.mem_allTeams.2 ⟨hv, hlife⟩, fun hh => hc ⟨hh, hlife⟩⟩

/-! ## The hang detector (R2, R43, R44) -/

theorem State.ctxOf_id (s : State) (n : Nat) : (s.ctxOf n).id = n := by
  unfold State.ctxOf
  split
  · assumption
  · cases h : s.ctxs.find? fun c => c.id == n with
    | none => rfl
    | some c => simpa using List.find?_some h

theorem State.ctxOf_putCtx (s : State) {c : Ctx} {n : Nat} (hc : c.id = n) : (s.putCtx c).ctxOf n = c := by
  subst hc
  unfold State.putCtx
  split
  · exact if_pos rfl
  · next h => simp [State.ctxOf, h]

@[simp] theorem State.wake_ctxOf (s : State) (n : Nat) : s.wake.ctxOf n = s.ctxOf n := rfl

@[simp] theorem State.writeGraph_allTeams (s : State) (c : Ctx) : (s.writeGraph c).1.allTeams = s.allTeams := by
  unfold State.writeGraph
  split
  · rfl
  · dsimp only
    split
    · rfl
    · exact State.putBytes_allTeams _ _ _

@[simp] theorem State.hangName_allTeams (s : State) (ctx : Nat) : (s.hangName ctx).1.allTeams = s.allTeams := by
  unfold State.hangName
  split <;> rfl

/-- A team that is still resident when teams have been preempted is none of them. -/
theorem State.resident_of_preemptAll {s : State} {hs : List Nat} {u : Team} (hu : u ∈ (s.preemptAll hs).allTeams)
    (hres : u.life = .resident) : u ∈ s.allTeams ∧ u.handle ∉ hs := by
  induction hs generalizing s with
  | nil => exact ⟨hu, List.not_mem_nil⟩
  | cons h hs ih =>
    obtain ⟨hmem, hnot⟩ := ih (s := s.raisePreempt h) hu
    rcases State.mem_allTeams_onTeam (f := fun t => { t with life := .preempting }) hmem with ⟨hold, hne⟩ | ⟨v, -, rfl⟩
    · exact ⟨hold, List.not_mem_cons_of_ne_of_not_mem hne hnot⟩
    · cases hres

theorem waitingState_iff (n : Nat) : waitingState n = true ↔ n ∈ [2, 3, 4, 6, 8] := by
  simp [waitingState, or_assoc]

/-- The GTC since which all warps of a context have waited. -/
def State.hangSince (s : State) (c : Ctx) : Nat := (s.ctxWarps c.id).foldl (fun m w => max m w.waitSince) c.lastBusy

theorem State.hangSince_ctxOf (s : State) (n : Nat) :
    s.hangSince (s.ctxOf n) = (s.ctxWarps n).foldl (fun m w => max m w.waitSince) (s.ctxOf n).lastBusy := by
  rw [State.hangSince, State.ctxOf_id]

/-- The teams of a context that the hang detector preempts. -/
def State.hungTeams (s : State) (c : Ctx) : List Nat :=
  (s.allTeams.filter fun t => t.ctx == c.id && t.life == .resident && !t.service).map (·.handle)

/-- The machine when the teams of a hung context have been preempted and its HANG event posted. -/
def State.reportHang (s : State) (c : Ctx) : State :=
  (((s.writeGraph c).1.hangName c.id).1.preemptAll (s.hungTeams c)).postEvent c.id 2 Code.hang.toNat
    ((s.writeGraph c).1.hangName c.id).2 (s.writeGraph c).2 0

/-- The machine after the hang detector has stopped a context. -/
def State.stopHung (s : State) (c : Ctx) : State :=
  ((s.reportHang c).putCtx { (s.reportHang c).ctxOf c.id with stopped := true }).wake

theorem execHangDetect_eq (s : State) (ctx : BitVec 16) :
    execHangDetect ctx s =
      let c := s.ctxOf ctx.toNat
      if (s.ctxWarps c.id).isEmpty || c.stopped || !((s.ctxWarps c.id).all fun w => waitingState (s.warpState w)) || !s.ctxIdle c.id ||
        decide (cyclesFrom (s.hangSince c) s.gtc s.pkg.clock s.pkg.steps < c.hangth.toNat * 1000) then .fault .cannotHappen
      else .next (s.stopHung c) := rfl

/-- A quiet context hangs by the length of its wait alone. -/
theorem execHangDetect_of_quiet {s : State} {ctx : BitVec 16} (hne : s.ctxWarps ctx.toNat ≠ []) (hrun : (s.ctxOf ctx.toNat).stopped = false)
    (hidle : s.ctxIdle ctx.toNat = true) (hwait : ∀ w ∈ s.ctxWarps ctx.toNat, s.warpState w ∈ [2, 3, 4, 6, 8]) :
    execHangDetect ctx s =
      if cyclesFrom (s.hangSince (s.ctxOf ctx.toNat)) s.gtc s.pkg.clock s.pkg.steps < (s.ctxOf ctx.toNat).hangth.toNat * 1000 then
        .fault .cannotHappen
      else .next (s.stopHung (s.ctxOf ctx.toNat)) := by
  have hall : ((s.ctxWarps ctx.toNat).all fun w => waitingState (s.warpState w)) = true :=
    List.all_eq_true.2 fun w hw => (waitingState_iff _).2 (hwait w hw)
  rw [execHangDetect_eq]
  simp only [State.ctxOf_id, List.isEmpty_eq_false_iff.2 hne, hrun, hall, hidle, Bool.not_true, Bool.or_false, Bool.false_or, decide_eq_true_eq]

theorem State.stopHung_stopped (s : State) (c : Ctx) : ((s.stopHung c).ctxOf c.id).stopped = true := by
  rw [State.stopHung, State.wake_ctxOf, State.ctxOf_putCtx]
  dsimp only
  exact State.ctxOf_id _ _

theorem State.reportHang_allTeams (s : State) (c : Ctx) :
    (s.reportHang c).allTeams = (((s.writeGraph c).1.hangName c.id).1.preemptAll (s.hungTeams c)).allTeams :=
  State.postEvent_allTeams _ _ _ _ _ _ _

/-- No team of a stopped context is resident any more, service teams apart. -/
theorem State.stopHung_not_resident {s : State} {c : Ctx} {u : Team} (hu : u ∈ (s.stopHung c).allTeams) (hctx : u.ctx = c.id)
    (hserv : u.service = false) : u.life ≠ .resident := by
  intro hres
  rw [State.stopHung, State.wake_allTeams, State.putCtx_allTeams, State.reportHang_allTeams] at hu
  obtain ⟨hmem, hnot⟩ := State.resident_of_preemptAll hu hres
  rw [State.hangName_allTeams, State.writeGraph_allTeams] at hmem
  exact hnot (List.mem_map_of_mem (List.mem_filter.2 ⟨hmem, by simp [hctx, hres, hserv]⟩))

/-- Where no step of the clock lies after its start, a time is all of the present clock. -/
theorem cyclesFrom_of_steps_le {since now clock : Nat} {steps : List (Nat × Nat)} (h : ∀ p ∈ steps, p.1 ≤ since) :
    cyclesFrom since now clock steps = (now - since) * clock := by
  cases steps with
  | nil => rfl
  | cons p rest =>
    obtain ⟨t, old⟩ := p
    exact if_pos (h (t, old) List.mem_cons_self)

/-- A step of the clock divides the time that holds it. -/
theorem cyclesFrom_of_step_lt {since now clock t old : Nat} {rest : List (Nat × Nat)} (ht : since < t) (h : ∀ p ∈ rest, p.1 ≤ since) :
    cyclesFrom since now clock ((t, old) :: rest) = (now - t) * clock + (t - since) * old := by
  rw [cyclesFrom, if_neg (by omega), cyclesFrom_of_steps_le h]

/-- R2, R43 and R44: a quiet context is stopped once it has waited long enough, and not before. -/
theorem hangsStopTheirContext : Sys2Proof.Claims.HangsStopTheirContext := by
  intro ctx s c ws quiet since long
  have hid : (s.ctxOf ctx.toNat).id = ctx.toNat := s.ctxOf_id _
  refine ⟨?_, ?_, cyclesFrom_of_steps_le, fun t old rest => cyclesFrom_of_step_lt⟩
  · rintro ⟨hne, hrun, hidle, hwait⟩ hlong
    refine ⟨s.stopHung c, ?_, ?_, fun u hu hctx => State.stopHung_not_resident hu (hctx.trans hid.symm)⟩
    · rw [exec_hangDetect, execHangDetect_of_quiet hne hrun hidle hwait, State.hangSince_ctxOf]
      exact if_neg (Nat.not_lt.2 hlong)
    · have hstop := s.stopHung_stopped c
      rwa [hid] at hstop
  · rintro ⟨hne, hrun, hidle, hwait⟩ hshort
    rw [exec_hangDetect, execHangDetect_of_quiet hne hrun hidle hwait, State.hangSince_ctxOf]
    exact if_pos (Nat.lt_of_not_le hshort)

/-! ## The end and the killing of a team (R11, R177, R215, R349, R363, R365) -/

/-- A team without a twin that ends gives up first what it still holds. -/
theorem execTeamEnd_of_held {s : State} {h : Nat} (hh : (s.teamOf h).handle = h) (hlife : (s.teamOf h).life = .ending)
    (hdoom : (s.teamOf h).doomed = none) (hquiet : s.teamQuiet h = true) (hpair : (s.teamOf h).paired = false)
    (htwin : (s.teamOf h).twin = none) (hheld : (s.teamOf h).held ≠ []) : execTeamEnd h s = .next (s.releaseHeld h).wake := by
  simp [execTeamEnd, State.lastHeld, hh, hlife, hdoom, hquiet, hpair, htwin, hheld]

/-- A team that ends and holds nothing leaves its place. -/
theorem execTeamEnd_of_nothing_held {s : State} {h : Nat} (hh : (s.teamOf h).handle = h) (hlife : (s.teamOf h).life = .ending)
    (hdoom : (s.teamOf h).doomed = none) (hquiet : s.teamQuiet h = true) (hpair : (s.teamOf h).paired = false)
    (hheld : (s.teamOf h).held = []) :
    execTeamEnd h s = (s.retire h fun l => { l with ended := l.ended + 1 }).elim (.fault .cannotHappen) fun u => .next u.wake := by
  simp [execTeamEnd, hh, hlife, hdoom, hquiet, hpair, hheld]
  cases s.retire h _ <;> rfl

/-- The machine when a doomed team has stopped and its launch has taken note of the kill. -/
def State.noteKill (s : State) (h : Nat) (k : BitVec 16 × BitVec 64 × BitVec 64) : State :=
  (if s.stoppedTeam h then s else s.stopTeam h).onLaunch (s.teamOf h).launch fun l =>
    { l with firstKill := l.firstKill.orElse fun _ => some { code := k.1, pc := k.2.1, addr := k.2.2 } }

/-- A doomed team without a twin stops, and is gone once what it wrote is performed. -/
theorem execTeamKill_of_doomed {s : State} {h : Nat} {k : BitVec 16 × BitVec 64 × BitVec 64} (hh : (s.teamOf h).handle = h)
    (hdoom : (s.teamOf h).doomed = some k) (hlife : (s.teamOf h).life ≠ .gone) (hidle : (s.teamOf h).matrixIdle = true)
    (htwin : (s.teamOf h).twin = none) :
    execTeamKill h s =
      if (s.noteKill h k).teamQuiet h then
        ((s.noteKill h k).retire h fun l => { l with killed := l.killed + 1 }).elim (.fault .cannotHappen) fun u => .next u.wake
      else if s.stoppedTeam h then .fault .cannotHappen else .next (s.noteKill h k).wake := by
  obtain ⟨code, pc, addr⟩ := k
  unfold execTeamKill
  simp only [hdoom, hh, hlife, hidle, htwin, ne_eq, not_true, or_self, if_false, Bool.not_true, Bool.false_eq_true]
  change (if (!(s.noteKill h (code, pc, addr)).teamQuiet h) = true then
      (if s.stoppedTeam h = true then _ else Host.Outcome.next (s.noteKill h (code, pc, addr)).wake) else
      match (s.noteKill h (code, pc, addr)).retire h _ with | none => _ | some t => _) = _
  cases (s.noteKill h (code, pc, addr)).teamQuiet h with
  | false => rfl
  | true => cases (s.noteKill h (code, pc, addr)).retire h _ <;> rfl

/-- Of the warps of a team that are marked as gone, none is left that is not. -/
theorem State.onTeamWarps_gone {s : State} {h : Nat} {f : Warp → Warp} (hf : ∀ w, (f w).gone = true) {w : Warp}
    (hw : w = (s.onTeamWarps h f).warp ∨ w ∈ (s.onTeamWarps h f).warps) (hlive : w.gone = false) : w.team ≠ h := by
  obtain ⟨x, rfl⟩ : ∃ x : Warp, (if x.team = h ∧ x.gone = false then f x else x) = w := by
    rcases hw with rfl | hw
    · exact ⟨s.warp, rfl⟩
    · obtain ⟨x, -, hx⟩ := List.mem_map.1 hw
      exact ⟨x, hx⟩
  by_cases hc : x.team = h ∧ x.gone = false
  · rw [if_pos hc, hf] at hlive
    cases hlive
  · rw [if_neg hc] at hlive ⊢
    exact fun hteam => hc ⟨hteam, hlive⟩

theorem State.mem_allWarps {s : State} {w : Warp} : w ∈ s.allWarps ↔ (w = s.warp ∧ w.gone = false) ∨ w ∈ s.warps := by
  unfold State.allWarps keepWarp
  split
  · next hg => exact ⟨.inr, fun h => h.resolve_left fun ⟨he, hlive⟩ => by simp [he, hg] at hlive⟩
  · next hg =>
    rw [List.mem_cons]
    exact or_congr_left ⟨fun he => ⟨he, by simpa [he] using hg⟩, And.left⟩

/-- The machine when the copies and SVC batches of a team that is to stop have been cancelled. -/
def State.cancelTeam (s : State) (h : Nat) : State :=
  let b := s.busyNow (s.teamOf h).ctx
  (b.teamWarps h).foldl (fun s w => s.cancelBatches h w.idx (maskOf fun _ => true)) (b.cancelCopies h fun _ => true)

/-- A warp of a team that has stopped. -/
def Warp.stopped (w : Warp) : Warp :=
  { w with
    gone := true, frontier := [], live := 0, tries := [], hold := .none, park := none, double := none, pendFault := [], monws := [], svcEnds := [] }

theorem State.stopTeam_warp (s : State) (h : Nat) : (s.stopTeam h).warp = ((s.cancelTeam h).onTeamWarps h Warp.stopped).warp := rfl

theorem State.stopTeam_warps (s : State) (h : Nat) :
    (s.stopTeam h).warps = ((s.cancelTeam h).onTeamWarps h Warp.stopped).warps.filter fun w => !w.gone := rfl

/-- A team that is stopped has no warp left. -/
theorem State.stopTeam_allWarps {s : State} {h : Nat} {w : Warp} (hw : w ∈ (s.stopTeam h).allWarps) : w.team ≠ h := by
  have hgone : ∀ x : Warp, x.stopped.gone = true := fun _ => rfl
  rw [State.mem_allWarps, State.stopTeam_warp, State.stopTeam_warps, List.mem_filter] at hw
  rcases hw with ⟨hw, hlive⟩ | ⟨hw, hlive⟩
  · exact State.onTeamWarps_gone hgone (.inl hw) hlive
  · exact State.onTeamWarps_gone hgone (.inr hw) (by simpa using hlive)

/-- A team that has retired is gone. -/
theorem State.retire_allTeams {s u : State} {h : Nat} {count : Launch → Launch} (hu : s.retire h count = some u) {x : Team}
    (hx : x ∈ u.allTeams) : x.handle ≠ h := by
  unfold State.retire at hu
  split at hu
  · cases hu
  · obtain ⟨v, hv, rfl⟩ := Option.map_eq_some_iff.1 hu
    have hmem := State.refocus_allTeams_subset _ _ hx
    rw [State.completeLaunch_allTeams hv, State.completeGrid_allTeams, State.closeGrid_allTeams] at hmem
    rcases State.mem_allTeams_onTeam hmem with ⟨-, hne⟩ | ⟨y, -, rfl⟩
    · exact hne
    · exact absurd rfl (State.mem_allTeams.1 hmem).2

/-- R11, R177, R215, R349, R363, R365: an ending or doomed team gives up what it holds, stops with its warps, and is gone for good. -/
theorem teamsEndOrAreKilled : Sys2Proof.Claims.TeamsEndOrAreKilled := by
  intro h s t hh
  refine ⟨?_, ?_, ?_, fun w => State.stopTeam_allWarps, fun n count u hu x => State.retire_allTeams hu⟩
  · intro hlife hdoom hquiet hpair htwin hheld
    exact (exec_teamEnd h s).trans <| execTeamEnd_of_held hh hlife hdoom hquiet hpair htwin hheld
  · intro hlife hdoom hquiet hpair hheld
    rw [exec_teamEnd, execTeamEnd_of_nothing_held hh hlife hdoom hquiet hpair hheld]
    cases s.retire h _ <;> rfl
  · intro k hdoom hlife hidle htwin z
    have hz : z = s.noteKill h k := rfl
    rw [hz, exec_teamKill, execTeamKill_of_doomed hh hdoom hlife hidle htwin]
    refine ⟨fun hrun hbusy => ?_, fun hquiet => ?_⟩
    · rw [if_neg (ne_true_of_eq_false hbusy), if_neg (ne_true_of_eq_false hrun)]
    · rw [if_pos hquiet]
      cases (s.noteKill h k).retire h _ <;> rfl

/-- Settles O44: no unit of the package makes a team live again, so what preemption and retirement do to the teams stands. -/
theorem hangsEndsAndKills : Obligations.HangsEndsAndKills := ⟨hangsStopTheirContext, teamsEndOrAreKilled⟩

end Sys2Proof.Machine
end

section
namespace Sys2Proof.Machine

/-! ## What the homes of lines leave as it is (R200) -/

/-- The machine but for what an update at the home of a line reaches: memory, the homes, the dies' counters and logs, the monitors of warps,
and the caches and ATOMs of cores. -/
def State.besidesHomes (s : State) : State :=
  { s with
    mem := [], home := [], evicted := [], dies := Vector.replicate 4 Die.blank, warp := Warp.blank, warps := [],
    core := Core.blank 0, cores := [], nextId := 0 }

@[simp] theorem State.fire_besidesHomes (s : State) (line : Nat) : (s.fire line).besidesHomes = s.besidesHomes := rfl
@[simp] theorem State.setHomeLine_besidesHomes (s : State) (x : HomeLine) : (s.setHomeLine x).besidesHomes = s.besidesHomes := rfl

@[simp] theorem State.putChunk_besidesHomes (s : State) (pa : Nat) (l : List Byte) : (s.putChunk pa l).besidesHomes = s.besidesHomes := by
  unfold State.putChunk; split <;> rfl

@[simp] theorem State.putBytes_besidesHomes (s : State) (pa : Nat) (l : List Byte) : (s.putBytes pa l).besidesHomes = s.besidesHomes :=
  State.foldl_keeps State.besidesHomes _ (fun s _ => s.putChunk_besidesHomes _ _) _ s

@[simp] theorem State.postTo_besidesHomes (s : State) (r : Ring) (l : List Byte) : (s.postTo r l).1.besidesHomes = s.besidesHomes := by
  unfold State.postTo
  dsimp only
  split
  · rfl
  · exact s.putBytes_besidesHomes _ _

@[simp] theorem State.forgetLine_besidesHomes (s : State) (x : HomeLine) : (s.forgetLine x).besidesHomes = s.besidesHomes := by
  unfold State.forgetLine; split <;> rfl

@[simp] theorem State.cacheLine_besidesHomes (s : State) (line : Nat) : (s.cacheLine line).besidesHomes = s.besidesHomes := by
  unfold State.cacheLine
  dsimp only
  split
  · rfl
  · rw [State.setHomeLine_besidesHomes]
    split
    · rfl
    · cases (List.getLast? _ : Option HomeLine) with
      | none => rfl
      | some x => exact s.forgetLine_besidesHomes x

@[simp] theorem State.slog_besidesHomes (s : State) (line cls : Nat) (hit : Bool) (core requester : Nat) :
    (s.slog line cls hit core requester).besidesHomes = s.besidesHomes := by
  unfold State.slog; dsimp only; split <;> rfl

@[simp] theorem State.notify_besidesHomes (s : State) (d : Nat) (k : AccessCounter) (ctx : Nat) (va : BitVec 64) (core : Nat) :
    (s.notify d k ctx va core).1.besidesHomes = s.besidesHomes := by
  unfold State.notify
  dsimp only
  split
  · rfl
  · split
    · rfl
    · exact s.postTo_besidesHomes _ _

@[simp] theorem State.countMiss_besidesHomes (s : State) (ctx pa : Nat) (va : BitVec 64) (core : Nat) :
    (s.countMiss ctx pa va core).besidesHomes = s.besidesHomes := s.notify_besidesHomes _ _ _ _ _

@[simp] theorem State.performUpdate_besidesHomes (s : State) (u : Update) (hit : Bool) :
    (s.performUpdate u hit).besidesHomes = s.besidesHomes := by
  unfold State.performUpdate
  dsimp only
  simp only [apply_ite State.besidesHomes, State.countMiss_besidesHomes, State.slog_besidesHomes, State.fire_besidesHomes, ite_self]
  split <;> rfl

@[simp] theorem State.performFirst_besidesHomes (s : State) (line : Nat) : (s.performFirst line).besidesHomes = s.besidesHomes := by
  unfold State.performFirst
  dsimp only
  split
  · rfl
  · rw [State.performUpdate_besidesHomes]
    split
    · rw [State.cacheLine_besidesHomes, State.setHomeLine_besidesHomes]
    · rfl

@[simp] theorem State.settleLine_besidesHomes (s : State) (line n : Nat) : (s.settleLine line n).besidesHomes = s.besidesHomes := by
  induction n generalizing s with
  | zero => rfl
  | succ n ih =>
    unfold State.settleLine
    split
    · split
      · rw [ih, State.performFirst_besidesHomes]
      · rfl
    · rfl

@[simp] theorem State.settleDue_besidesHomes (s : State) : s.settleDue.besidesHomes = s.besidesHomes :=
  State.foldl_keeps State.besidesHomes _ (fun s line => s.settleLine_besidesHomes line _) _ s

@[simp] theorem State.settleDue_pkg (s : State) : s.settleDue.pkg = s.pkg :=
  (congrArg State.pkg s.settleDue_besidesHomes :)

@[simp] theorem State.putBytes_launches (s : State) (pa : Nat) (l : List Byte) : (s.putBytes pa l).launches = s.launches :=
  (congrArg State.launches (s.putBytes_besidesHomes pa l) :)

/-! ## Admission of a grid that names nothing to read (R334, R336) -/

theorem exec_launchAdmission (queue : BitVec 12) (s : State) : exec (.launchAdmission queue) s = execLaunchAdmission queue s := rfl

@[simp] theorem State.passRecord_launches (s : State) (q : Nat) : (s.passRecord q).launches = s.launches := s.putBytes_launches _ _

@[simp] theorem State.addPooled_launches (s : State) (d : Nat) (p : Pooled) : (s.addPooled d p).launches = s.launches := rfl

@[simp] theorem State.poolLaunch_launches (s : State) (l : Launch) : (s.poolLaunch l).launches = s.launches := by
  unfold State.poolLaunch
  dsimp only
  split <;> exact State.foldl_keeps State.launches _ (fun s _ => s.addPooled_launches _ _) _ s

/-- An admitted launch joins the machine's. -/
theorem State.enterLaunch_mem (s : State) (l : Launch) : (s.enterLaunch l).2 ∈ (s.enterLaunch l).1.launches :=
  List.mem_append_right _ List.mem_cons_self

/-- The fields of the first word of a grid's record whose other low bits are 0: neither cooperative, paired nor guarded, nor behind its queue's
launches. -/
theorem plainGrid_fields {r : Nat} (h : fld r 0 0 12 = 1) :
    fld r 0 0 8 = 1 ∧ fld r 0 8 1 = 0 ∧ fld r 0 9 1 = 0 ∧ fld r 0 10 1 = 0 ∧ fld r 0 11 1 = 0 := by
  simp only [fld] at h ⊢
  omega

@[simp] theorem State.wguRead_zero (s : State) (c : Ctx) (va : BitVec 64) : s.wguRead c va 0 = .ok s [] := rfl

/-- An empty schedule keeps R271. -/
@[simp] theorem schedOk_nil (period scratch : Nat) : schedOk period [] scratch = true := by simp [schedOk]

/-- A grid's record without constants, schedule, cooperation or guard is read from itself alone. -/
theorem State.readLaunch_plainGrid (s : State) (q : QueueDesc) (name : Nat) {r : Nat} (hrec : recordOk r = true) (hplain : fld r 0 0 12 = 1)
    (hform : (gridForm r).ok = true) (hconsts : fld r 0x20 0 16 = 0) (hsched : fld r 0x30 0 7 = 0) :
    ∃ l, s.readLaunch q name r = .ok s l ∧ l.coop = false ∧ l.name = name ∧ l.finished = false ∧ l.prio = q.prio ∧ l.ctx = q.ctx ∧
      l.teams = fld r 4 0 24 := by
  obtain ⟨hkind, hcoop, hpaired, hguarded, -⟩ := plainGrid_fields hplain
  have hconstsz : (gridForm r).constsz = 0 := hconsts
  unfold State.readLaunch
  simp only [hrec, State.readNodes, hkind, Wgu.bind, hform, State.readConsts, hconstsz, hsched, hcoop, hguarded, State.wguRead_zero,
    Bool.not_true, Bool.false_eq_true, if_false, if_true, List.any_cons, List.any_nil, Bool.or_false, chunks, List.map_nil, schedOk_nil]
  exact ⟨_, rfl, rfl, rfl, rfl, rfl, rfl, rfl⟩

/-- Such a record, which stands in open lines of HBM at the head of its queue, is admitted. -/
theorem State.admission_plainGrid {s : State} {q r : Nat} (hr : leNat (s.getBytes (s.queueDesc q).record 256).2 = r)
    (htarget : target (s.queueDesc q).record = .hbm) (hlines : s.linesOpen (s.queueDesc q).record 256 = true) (hrec : recordOk r = true)
    (hplain : fld r 0 0 12 = 1) (hform : (gridForm r).ok = true) (hconsts : fld r 0x20 0 16 = 0) (hsched : fld r 0x30 0 7 = 0) :
    ∃ t, s.admission q = .admits t ∧ ∃ l ∈ t.launches, l.name / 2 ^ 20 = q ∧ l.finished = false ∧ l.prio = (s.queueDesc q).prio ∧
      l.ctx = (s.queueDesc q).ctx ∧ l.teams = fld r 4 0 24 := by
  obtain ⟨-, -, -, -, hbehind⟩ := plainGrid_fields hplain
  have hready : ¬ ((target (s.queueDesc q).record = .host ∧ s.hostGone = true) ∨ s.linesOpen (s.queueDesc q).record 256 = false) := by
    simp [htarget, hlines]
  let g := (s.getBytes (s.queueDesc q).record 256).1
  obtain ⟨l, hread, hcoop, hname, hfields⟩ :=
    g.readLaunch_plainGrid (s.queueDesc q) (q * 2 ^ 20 + g.admittedBy q % 2 ^ 20) hrec hplain hform hconsts hsched
  refine ⟨(g.enterLaunch l).1.poolLaunch (g.enterLaunch l).2, ?_, (g.enterLaunch l).2, ?_, ?_, hfields⟩
  · simp only [State.admission, hready, hr, hbehind, hread, hcoop, zero_ne_one, false_and, Bool.false_and, Bool.false_eq_true, if_false, g]
  · rw [State.poolLaunch_launches]
    exact State.enterLaunch_mem _ _
  · change l.name / 2 ^ 20 = q
    omega

/-- No other queue keeps the only one that has a record posted from being served. -/
theorem execLaunchAdmission_of_admits {s t : State} {queue : BitVec 12} (hplacing : s.placing = true) (hstage : 6 ≤ s.pkg.stage)
    (hlost : s.settleDue.noteQueues.queuesLost = false) (hopen : s.settleDue.noteQueues.queuesOpen = true)
    (hposted : (s.settleDue.noteQueues.queueDesc queue.toNat).posted = true)
    (halone : ∀ k, k < 4096 → k ≠ queue.toNat → (s.settleDue.noteQueues.queueDesc k).posted = false)
    (hadmits : s.settleDue.noteQueues.admission queue.toNat = .admits t) :
    execLaunchAdmission queue s = .next (t.passRecord queue.toNat).wake := by
  have hpkg : s.settleDue.noteQueues.placing = s.placing ∧ s.settleDue.noteQueues.pkg.stage = s.pkg.stage := by
    simp [State.placing, State.noteQueues]
  have hothers : ((List.range 4096).filter fun r => r != queue.toNat && (s.settleDue.noteQueues.queueDesc r).posted &&
      s.settleDue.noteQueues.servesBefore r queue.toNat) = [] := by
    refine List.filter_eq_nil_iff.2 fun k hk => ?_
    by_cases hne : k = queue.toNat
    · simp [hne]
    · simp [halone k (List.mem_range.1 hk) hne]
  unfold execLaunchAdmission
  simp only [hpkg.1, hpkg.2, hplacing, hlost, hopen, hposted, hothers, hadmits, List.any_nil, Bool.not_true, Bool.or_false,
    Nat.not_lt.2 hstage, decide_false, Bool.false_eq_true, if_false]

/-! ## Placement and resume (R190, R337, R338) -/

theorem exec_teamPlacement (die : BitVec 2) (s : State) : exec (.teamPlacement die) s = execTeamPlacement die s := rfl

theorem exec_teamResume (h : Nat) (s : State) : exec (.teamResume h) s = execTeamResume h s := rfl

theorem State.placing_iff {s : State} : s.placing = true ↔ s.pkg.d3hot = false ∧ s.pkg.flr = false := by simp [State.placing]

/-- The first entry of a pool, of a launch that is not cooperative, is placed next where it fits. -/
theorem State.next?_of_first {s t : State} {d : Nat} {p : Pooled} {rest : List Pooled} (hplacing : s.placing = true)
    (hpool : s.poolOf d = p :: rest) (hrun : s.stoppedEntry p = false) (hcoop : (s.launchOf p.launch).coop = false)
    (hplace : s.placeOne d p = some t) : s.next? d = some (p, t) := by
  simp [State.next?, State.pick, hplacing, hpool, hrun, hcoop, hplace]

/-- A new team whose launch has no schedule to read is placed on the core that fits it. -/
theorem State.placeOne_new {s : State} {d c : Nat} {p : Pooled} (hnew : p.saved = none) (hpaired : (s.launchOf p.launch).paired = false)
    (hsched : (s.launchOf p.launch).sched = []) (hfits : s.bestCore (s.needOf p) (coresOf d) = some c) :
    s.placeOne d p = some ((s.takeEntry d p).placeWith (s.launchOf p.launch)
      (((s.launchOf p.launch).node? (p.node.getD 0)).getD default) [] p c false) := by
  have hlaunch : (s.takeEntry d p).launchOf p.launch = s.launchOf p.launch := rfl
  simp [State.placeOne, State.placeNew, State.placedSched, hnew, hpaired, hfits, hlaunch, hsched]

/-- A saved team without a twin comes back onto the core that fits it. -/
theorem State.placeOne_saved {s : State} {d c h : Nat} {p : Pooled} (hsaved : p.saved = some h) (htwin : (s.teamOf h).twin = none)
    (hfits : s.bestCore (s.needOf p) (coresOf d) = some c) : s.placeOne d p = some ((s.takeEntry d p).placeBack h c) := by
  simp [State.placeOne, hsaved, htwin, hfits]

theorem State.teamOf_of_allTeams {s t : State} (hteams : t.allTeams = s.allTeams) (h : Nat) : t.teamOf h = s.teamOf h := by
  rw [State.teamOf, State.teamOf, hteams]

@[simp] theorem State.putCtx_teamOf (s : State) (c : Ctx) (h : Nat) : (s.putCtx c).teamOf h = s.teamOf h :=
  State.teamOf_of_allTeams (s.putCtx_allTeams c) h

@[simp] theorem State.takeEntry_teamOf (s : State) (d : Nat) (p : Pooled) (h : Nat) : (s.takeEntry d p).teamOf h = s.teamOf h := rfl

/-- An update of one live team that keeps its handle and leaves it live. -/
theorem State.onTeam_allTeams {s : State} {h : Nat} {f : Team → Team} (hf : ∀ t, (f t).life ≠ .gone) :
    (s.onTeam h f).allTeams = s.allTeams.map fun t => if t.handle = h then f t else t := by
  have hlive : ∀ t : Team, ((if t.handle = h ∧ t.life ≠ .gone then f t else t).life != .gone) = (t.life != .gone) := by
    intro t
    by_cases hg : t.life = .gone
    · simp [hg]
    · by_cases hh : t.handle = h <;> simp [bne_iff_ne.2, hg, hh, hf]
  change ((s.team :: s.teams).map fun t => if t.handle = h ∧ t.life ≠ .gone then f t else t).filter (fun t => t.life != .gone) = _
  rw [List.filter_map, State.allTeams]
  simp only [Function.comp_def, hlive]
  refine List.map_congr_left fun t ht => ?_
  have hg : t.life ≠ .gone := by simpa using (List.mem_filter.1 ht).2
  simp [hg]

theorem State.teamOf_onTeam {s : State} {h : Nat} {f : Team → Team} (hf : ∀ t, (f t).life ≠ .gone) (hhandle : ∀ t, (f t).handle = t.handle)
    (hlive : (s.teamOf h).life ≠ .gone) : (s.onTeam h f).teamOf h = f (s.teamOf h) := by
  unfold State.teamOf at hlive ⊢
  rw [State.onTeam_allTeams hf, List.find?_map]
  have hsame : ((fun t : Team => t.handle == h) ∘ fun t => if t.handle = h then f t else t) = fun t => t.handle == h := by
    funext t
    by_cases hh : t.handle = h <;> simp [hh, hhandle]
  rw [hsame]
  cases hfind : s.allTeams.find? fun t => t.handle == h with
  | none => rw [hfind] at hlive; exact absurd rfl hlive
  | some t =>
    have hh : t.handle = h := by simpa using List.find?_some hfind
    simp [hh]

theorem State.placeBack_teamOf {s : State} {h : Nat} (c : Nat) (hlive : (s.teamOf h).life ≠ .gone) :
    ((s.placeBack h c).teamOf h).life = .resident ∧ ((s.placeBack h c).teamOf h).core = c := by
  have hback : (s.placeBack h c).teamOf h = (s.onTeam h fun t => { t with
      life := .resident, core := c, place := s.freePlace c, p0 := bestPartition (s.usedSlots c), placedAt := s.nextId }).teamOf h := rfl
  rw [hback, State.teamOf_onTeam ?live ?handle hlive]
  case live => exact fun _ => nofun
  case handle => exact fun _ => rfl
  exact ⟨rfl, rfl⟩

/-- The saved team that placement takes next resumes. -/
theorem execTeamResume_of_next {s u : State} {h : Nat} {p : Pooled} (hh : (s.teamOf h).handle = h) (hlife : (s.teamOf h).life = .saved)
    (hsaved : p.saved = some h)
    (hnext : (s.putCtx { s.ctxOf (s.teamOf h).ctx with stopped := false }).next? (s.teamOf h).die = some (p, u)) :
    execTeamResume h s = .next u.wake := by
  unfold execTeamResume
  simp only [hh, hlife, hnext, hsaved, ne_eq, not_true, or_self, if_false, true_or, if_true]

/-! ## Preemption for the head of a pool (R190, R339) -/

theorem exec_preemptForHead (die : BitVec 2) (s : State) : exec (.preemptForHead die) s = execPreemptForHead die s := rfl

/-- A team without a twin, of a launch that is not cooperative, is preempted alone. -/
theorem State.preemptGroups_single {s : State} {v : Nat} (htwin : (s.teamOf v).twin = none)
    (hcoop : (s.launchOf (s.teamOf v).launch).coop = false) (hready : s.preemptable v = true) :
    s.preemptGroups [v] = some (s.raisePreempt v) := by
  have hgroup : s.groupOf v = [v] := by simp [State.groupOf, hcoop, htwin]
  simp [State.preemptGroups, State.preemptAll, hgroup, hready]

/-- The victims of the first entry of a pool that fits on no core of its die are preempted with all that go with them. -/
theorem execPreemptForHead_of_victims {s t : State} {die : BitVec 2} {p : Pooled} {rest : List Pooled} {vs : List Nat}
    (hplacing : s.placing = true) (hpool : s.poolOf die.toNat = p :: rest) (hrun : s.stoppedEntry p = false)
    (hpaired : (s.launchOf p.launch).paired = false) (hfull : s.bestCore (s.needOf p) (coresOf die.toNat) = none)
    (hidle : ∀ x ∈ s.allTeams, x.die = die.toNat → x.life ≠ .preempting)
    (hvictims : s.bestVictims (s.needOf p) p.prio (coresOf die.toNat) = some vs) (hgroups : s.preemptGroups vs = some t) :
    execPreemptForHead die s = .next t.wake := by
  have hnone : (s.allTeams.any fun x => x.die == die.toNat && x.life == .preempting) = false := by
    simpa [List.any_eq_false] using hidle
  have hhead : (s.poolOf die.toNat).filter (fun p => !s.stoppedEntry p) = p :: rest.filter fun p => !s.stoppedEntry p := by
    simp [hpool, hrun]
  unfold execPreemptForHead
  simp [hhead, hplacing, hpaired, hfull, hnone, hvictims, hgroups]

/-! ## The end of a team that is not the last of its launch (R11, R349) -/

/-- A team that is not moved into the focus stays among the live ones. -/
theorem State.mem_allTeams_focusTeam {s t : State} {h : Nat} (ht : s.focusTeam h = some t) {x : Team} (hx : x ∈ s.allTeams)
    (hne : x.handle ≠ h) : x ∈ t.allTeams := by
  obtain ⟨u, hu, rfl⟩ := Option.map_eq_some_iff.1 ht
  rw [State.focusLaunch_allTeams, State.focusCtx_allTeams, State.focusCore_allTeams]
  obtain ⟨hmem, hlife⟩ := State.mem_allTeams.1 hx
  split at hu
  · cases hu; exact hx
  · split at hu
    · cases hu
    · cases hu
      refine State.mem_allTeams.2 ⟨.inr ?_, hlife⟩
      rcases hmem with rfl | hmem
      · exact List.mem_cons_self
      · exact List.mem_cons_of_mem _ (List.mem_filter.2 ⟨hmem, by simpa using hne⟩)

/-- An update of the team with a handle leaves the others as they are. -/
theorem State.mem_allTeams_onTeam_of_ne {s : State} {h : Nat} {f : Team → Team} {x : Team} (hx : x ∈ s.allTeams) (hne : x.handle ≠ h) :
    x ∈ (s.onTeam h f).allTeams := by
  obtain ⟨hmem, hlife⟩ := State.mem_allTeams.1 hx
  have hsame : (if x.handle = h ∧ x.life ≠ .gone then f x else x) = x := if_neg fun hc => hne hc.1
  refine State.mem_allTeams.2 ⟨?_, hlife⟩
  rcases hmem with hmem | hmem
  · exact .inl (by rw [← hsame, hmem]; rfl)
  · exact .inr (List.mem_map.2 ⟨x, hmem, hsame⟩)

@[simp] theorem State.formBatch_allTeams (s : State) (d n k : Nat) : (s.formBatch d n k).allTeams = s.allTeams := rfl

@[simp] theorem State.flush_allTeams (s : State) : s.flush.allTeams = s.allTeams := by
  refine State.foldl_keeps State.allTeams _ (fun s n => ?_) _ s
  dsimp only
  split
  · rfl
  · exact s.formBatch_allTeams _ _ _

@[simp] theorem State.dropAtoms_allTeams (s : State) (h : Nat) : (s.dropAtoms h).allTeams = s.allTeams := rfl

@[simp] theorem State.busyNow_allTeams (s : State) (ctx : Nat) : (s.busyNow ctx).allTeams = s.allTeams := s.putCtx_allTeams _

/-- A launch with a live team does not complete yet. -/
theorem State.completeLaunch_of_live {s : State} {x : Team} (hx : x ∈ s.allTeams) : s.completeLaunch x.launch = some s := by
  have hover : s.launchOver x.launch = false := by
    rw [State.launchOver, List.all_eq_false.2 ⟨x, hx, by simp⟩, Bool.false_and]
  simp [State.completeLaunch, hover]

/-- Beside another live team of its launch a team retires without a completion record to write. -/
theorem State.retire_of_other {s z : State} {h : Nat} (count : Launch → Launch) (hz : s.focusTeam h = some z) {x : Team} (hx : x ∈ s.allTeams)
    (hne : x.handle ≠ h) (hlaunch : x.launch = z.launch.id) : ∃ u, s.retire h count = some u := by
  unfold State.retire
  simp only [hz, ← hlaunch]
  rw [State.completeLaunch_of_live]
  · exact ⟨_, rfl⟩
  · rw [State.completeGrid_allTeams, State.closeGrid_allTeams]
    refine State.mem_allTeams_onTeam_of_ne ?_ hne
    rw [State.onLaunch_allTeams, State.busyNow_allTeams, State.dropAtoms_allTeams, State.flush_allTeams]
    exact State.mem_allTeams_focusTeam hz hx hne

/-! ### A launch that takes note of a kill -/

theorem State.focusCore_onLaunch (s : State) (n l : Nat) (f : Launch → Launch) :
    (s.onLaunch l f).focusCore n = (s.focusCore n).onLaunch l f := by
  rw [State.focusCore, State.focusCore, apply_ite fun t => State.onLaunch t l f]
  rfl

theorem State.focusCtx_onLaunch (s : State) (n l : Nat) (f : Launch → Launch) :
    (s.onLaunch l f).focusCtx n = (s.focusCtx n).onLaunch l f := by
  rw [State.focusCtx, State.focusCtx, apply_ite fun t => State.onLaunch t l f]
  rfl

theorem State.focusLaunch_onLaunch (s : State) (n l : Nat) {f : Launch → Launch} (hf : ∀ x, (f x).id = x.id) :
    (s.onLaunch l f).focusLaunch n = (s.focusLaunch n).onLaunch l f := by
  have hid : ∀ x : Launch, (if x.id = l then f x else x).id = x.id := fun x => by split <;> simp [hf]
  have hfocus : (s.onLaunch l f).launch.id = s.launch.id := hid _
  have hfind : ((s.onLaunch l f).launches.find? fun x => x.id == n) =
      (s.launches.find? fun x => x.id == n).map fun x => if x.id = l then f x else x := by
    simp only [State.onLaunch, List.find?_map, Function.comp_def, hid]
  unfold State.focusLaunch
  rw [hfocus, hfind]
  split
  · rfl
  · cases s.launches.find? fun x => x.id == n with
    | none => rfl
    | some x => simp [State.onLaunch, List.filter_map, Function.comp_def, hid]

@[simp] theorem State.onLaunch_team (s : State) (l : Nat) (f : Launch → Launch) : (s.onLaunch l f).team = s.team := rfl
@[simp] theorem State.onLaunch_teams (s : State) (l : Nat) (f : Launch → Launch) : (s.onLaunch l f).teams = s.teams := rfl

theorem State.focusTeam_onLaunch (s : State) (h l : Nat) {f : Launch → Launch} (hf : ∀ x, (f x).id = x.id) :
    (s.onLaunch l f).focusTeam h = (s.focusTeam h).map fun t => t.onLaunch l f := by
  have hrest : ∀ t : State, (((t.onLaunch l f).focusCore t.team.core).focusCtx t.team.ctx).focusLaunch t.team.launch =
      (((t.focusCore t.team.core).focusCtx t.team.ctx).focusLaunch t.team.launch).onLaunch l f := fun t => by
    rw [State.focusCore_onLaunch, State.focusCtx_onLaunch, State.focusLaunch_onLaunch _ _ _ hf]
  unfold State.focusTeam
  rw [State.onLaunch_team, State.onLaunch_teams]
  split
  · exact congrArg some (hrest s)
  · cases s.teams.find? fun t => t.handle == h with
    | none => rfl
    | some t => exact congrArg some (hrest { s with team := t, teams := s.team :: s.teams.filter fun x => x.handle != h })

theorem State.onLaunch_launch_id (s : State) (l : Nat) {f : Launch → Launch} (hf : ∀ x, (f x).id = x.id) :
    (s.onLaunch l f).launch.id = s.launch.id := by
  simp only [State.onLaunch]; split <;> simp [hf]

@[simp] theorem State.onLaunch_teamQuiet (s : State) (l : Nat) (f : Launch → Launch) (h : Nat) :
    (s.onLaunch l f).teamQuiet h = s.teamQuiet h := rfl

/-- A launch takes note of the kill of one of its teams, if it is the first. -/
def Launch.noteKill (k : BitVec 16 × BitVec 64 × BitVec 64) (l : Launch) : Launch :=
  { l with firstKill := l.firstKill.orElse fun _ => some { code := k.1, pc := k.2.1, addr := k.2.2 } }

theorem State.noteKill_of_stopped {s : State} {h : Nat} (k : BitVec 16 × BitVec 64 × BitVec 64) (hstopped : s.stoppedTeam h = true) :
    s.noteKill h k = s.onLaunch (s.teamOf h).launch (Launch.noteKill k) := by
  rw [State.noteKill, if_pos hstopped]; rfl

/-- A doomed team that has stopped, and whose writes are performed, is gone, where it is not the last of its launch. -/
theorem execTeamKill_of_other {s z : State} {h : Nat} {k : BitVec 16 × BitVec 64 × BitVec 64} (hh : (s.teamOf h).handle = h)
    (hdoom : (s.teamOf h).doomed = some k) (hlife : (s.teamOf h).life ≠ .gone) (hidle : (s.teamOf h).matrixIdle = true)
    (htwin : (s.teamOf h).twin = none) (hstopped : s.stoppedTeam h = true) (hquiet : s.teamQuiet h = true) (hz : s.focusTeam h = some z)
    {x : Team} (hx : x ∈ s.allTeams) (hne : x.handle ≠ h) (hlaunch : x.launch = z.launch.id) :
    ∃ u, execTeamKill h s = .next u ∧ ∀ y ∈ u.allTeams, y.handle ≠ h := by
  have hkeeps : ∀ l, (Launch.noteKill k l).id = l.id := fun _ => rfl
  have hfocus : (s.noteKill h k).focusTeam h = some (z.onLaunch (s.teamOf h).launch (Launch.noteKill k)) := by
    rw [State.noteKill_of_stopped k hstopped, State.focusTeam_onLaunch _ _ _ hkeeps, hz, Option.map_some]
  have hmem : x ∈ (s.noteKill h k).allTeams := by rwa [State.noteKill_of_stopped k hstopped, State.onLaunch_allTeams]
  have hdone : (s.noteKill h k).teamQuiet h = true := by rwa [State.noteKill_of_stopped k hstopped, State.onLaunch_teamQuiet]
  obtain ⟨u, hu⟩ := State.retire_of_other (fun l => { l with killed := l.killed + 1 }) hfocus hmem hne
    (hlaunch.trans (State.onLaunch_launch_id z _ hkeeps).symm)
  refine ⟨u.wake, ?_, fun y => State.retire_allTeams hu⟩
  rw [execTeamKill_of_doomed hh hdoom hlife hidle htwin, if_pos hdone, hu, Option.elim_some]

/-! ## The events of the work-graph units -/

/-- Settles O60, event by event: the unit's choice (a queue's record, a pool's first entry, a victim) is determined by the hypotheses, and a team
that retires beside another of its launch has no completion record to write. -/
theorem workGraphEventsComplete : Obligations.WorkGraphEventsComplete := by
  intro h die queue s z t d
  refine ⟨?admission, ?placement, ?preemption, ?resume, ?ending, ?kill⟩
  case admission =>
    intro x q y r hd3hot hflr hstage hlost hopen hposted halone htarget hlines hrec hplain hform hconsts hsched
    obtain ⟨v, hadmits, l, hl, hfields⟩ := State.admission_plainGrid (s := x) rfl htarget hlines hrec hplain hform hconsts hsched
    refine ⟨(v.passRecord q).wake, ?_, l, ?_, hfields⟩
    · exact (exec_launchAdmission queue s).trans <|
        execLaunchAdmission_of_admits (State.placing_iff.2 ⟨hd3hot, hflr⟩) hstage hlost hopen hposted halone hadmits
    · exact (v.passRecord_launches q).symm ▸ hl
  case placement =>
    intro p rest c hpool hd3hot hflr hrun hnew l hcoop hpaired hsched hfits
    have hnext := State.next?_of_first (State.placing_iff.2 ⟨hd3hot, hflr⟩) hpool hrun hcoop (State.placeOne_new hnew hpaired hsched hfits)
    rw [exec_teamPlacement, execTeamPlacement, hnext]
  case preemption =>
    intro p rest v hpool hd3hot hflr hrun hpaired hfull hidle hvictims htwin hcoop hready
    exact (exec_preemptForHead die s).trans <|
      execPreemptForHead_of_victims (State.placing_iff.2 ⟨hd3hot, hflr⟩) hpool hrun hpaired hfull hidle hvictims
        (State.preemptGroups_single htwin hcoop hready)
  case resume =>
    intro r p rest c hh hlife htwin hpool hsaved hd3hot hflr hrun hcoop hfits
    have hteam : r.teamOf h = t := s.putCtx_teamOf _ h
    have hnext := State.next?_of_first (State.placing_iff.2 ⟨hd3hot, hflr⟩) hpool hrun hcoop
      (State.placeOne_saved hsaved (hteam ▸ htwin) hfits)
    have hlive : ((r.takeEntry t.die p).teamOf h).life ≠ .gone := by rw [State.takeEntry_teamOf, hteam, hlife]; nofun
    exact ⟨_, (exec_teamResume h s).trans (execTeamResume_of_next hh hlife hsaved hnext), State.placeBack_teamOf c hlive⟩
  case ending =>
    rintro hh hlife hdoom hquiet hpaired hheld hz ⟨x, hx, hne, hlaunch⟩
    obtain ⟨u, hu⟩ := State.retire_of_other (fun l => { l with ended := l.ended + 1 }) hz hx hne hlaunch
    refine ⟨u.wake, ?_, fun y => State.retire_allTeams hu⟩
    rw [exec_teamEnd, execTeamEnd_of_nothing_held hh hlife hdoom hquiet hpaired hheld, hu, Option.elim_some]
  case kill =>
    rintro k hh hdoom hlife hidle htwin hstopped hquiet hz ⟨x, hx, hne, hlaunch⟩
    rw [exec_teamKill]
    exact execTeamKill_of_other hh hdoom hlife hidle htwin hstopped hquiet hz hx hne hlaunch

end Sys2Proof.Machine
end

section
namespace Sys2Proof.Machine

/-! ## The choice of a partition (R31, R32) -/

/-- The greatest launch priority among some warps. -/
theorem State.prioOf_le_foldl_max (s : State) (ws : List Warp) (m : Nat) :
    m ≤ ws.foldl (fun m w => max m (s.prioOf w.team)) m ∧
      ∀ y ∈ ws, s.prioOf y.team ≤ ws.foldl (fun m w => max m (s.prioOf w.team)) m := by
  induction ws generalizing m with
  | nil => simp
  | cons w ws ih =>
    obtain ⟨hm, hall⟩ := ih (max m (s.prioOf w.team))
    refine ⟨(Nat.le_max_left _ _).trans hm, fun y hy => ?_⟩
    rcases List.mem_cons.1 hy with rfl | hy
    · exact (Nat.le_max_right _ _).trans hm
    · exact hall y hy

/-- A warp that has not issued since it became resident. -/
def Warp.unissued (w : Warp) : Bool := decide (w.issued < w.resident) || w.issued == 0

theorem Warp.unissued_eq_false {w : Warp} : w.unissued = false ↔ w.resident ≤ w.issued ∧ 0 < w.issued := by
  simp [Warp.unissued, Nat.pos_iff_ne_zero]

theorem Warp.olderThan_eq (a b : Warp) :
    a.olderThan b = match a.unissued, b.unissued with
      | true, false => true
      | false, true => false
      | true, true => decide (a.resident < b.resident) || (a.resident == b.resident && decide (a.slot < b.slot))
      | false, false => decide (a.issued < b.issued) := rfl

theorem Warp.olderThan_of_issued {a b : Warp} (ha : a.unissued = false) (hb : b.unissued = false) :
    a.olderThan b = decide (a.issued < b.issued) := by
  rw [Warp.olderThan_eq, ha, hb]

/-- A warp that has not issued since it became resident comes before one that has. -/
theorem Warp.olderThan_of_unissued {a b : Warp} (ha : a.unissued = true) (hb : b.unissued = false) : a.olderThan b = true := by
  rw [Warp.olderThan_eq, ha, hb]

theorem mem_of_oldest {l : List Warp} {x : Warp} (h : oldest l = some x) : x ∈ l := by
  induction l generalizing x with
  | nil => cases h
  | cons w rest ih =>
    rw [oldest] at h
    cases hr : oldest rest with
    | none => rw [hr] at h; cases h; exact List.mem_cons_self
    | some y =>
      rw [hr] at h
      cases h
      split
      · exact List.mem_cons_of_mem _ (ih hr)
      · exact List.mem_cons_self

theorem oldest_eq_none {l : List Warp} (h : oldest l = none) : l = [] := by
  cases l with
  | nil => rfl
  | cons w rest =>
    rw [oldest] at h
    cases hr : oldest rest <;> simp [hr] at h

theorem oldest_cons {w y : Warp} {rest : List Warp} (h : oldest rest = some y) :
    oldest (w :: rest) = some (if y.olderThan w then y else w) := by
  rw [oldest, h]

/-- Of the warps that have issued since they became resident, the oldest issued least recently. -/
theorem issued_le_of_oldest {l : List Warp} {x : Warp} (h : oldest l = some x) (hx : x.unissued = false) :
    ∀ y ∈ l, y.unissued = false → x.issued ≤ y.issued := by
  induction l generalizing x with
  | nil => cases h
  | cons w rest ih =>
    intro y hy hissued
    cases hr : oldest rest with
    | none =>
      rw [oldest, hr] at h
      cases h
      rw [oldest_eq_none hr, List.mem_singleton] at hy
      rw [hy]
    | some z =>
      rw [oldest_cons hr, Option.some_inj] at h
      by_cases hzw : z.olderThan w = true
      · rw [if_pos hzw] at h
        subst h
        rcases List.mem_cons.1 hy with rfl | hy
        · rw [Warp.olderThan_of_issued hx hissued] at hzw
          exact (of_decide_eq_true hzw).le
        · exact ih hr hx y hy hissued
      · rw [if_neg hzw] at h
        subst h
        rcases List.mem_cons.1 hy with rfl | hy
        · exact le_rfl
        · have hz : z.unissued = false := Bool.eq_false_iff.2 fun hz => hzw (Warp.olderThan_of_unissued hz hx)
          rw [Warp.olderThan_of_issued hz hx, decide_eq_true_eq] at hzw
          exact (Nat.le_of_not_lt hzw).trans (ih hr hz y hy hissued)

/-- Settles O53: the first pass of the choice keeps the highest priority, the second prefers a run that lasts, and the oldest warp is one
that issued least recently. -/
theorem thePartitionChoosesByPriorityThenAge : Obligations.ThePartitionChoosesByPriorityThenAge := by
  intro s ws w h
  have hle := (s.prioOf_le_foldl_max ws 0).2
  unfold State.choose at h
  dsimp only at h
  generalize ws.foldl (fun m w => max m (s.prioOf w.team)) 0 = top at h hle
  have hbest : ∀ x, x ∈ ws.filter (fun w => s.prioOf w.team == top) ↔ x ∈ ws ∧ s.prioOf x.team = top := by simp
  cases hrun : (ws.filter fun w => s.prioOf w.team == top).find? fun w =>
      w.issued != 0 && w.issued == s.lastOn w && decide (w.runCount < 64) with
  | some x =>
    rw [hrun] at h
    cases h
    obtain ⟨hmem, htop⟩ := (hbest w).1 (List.mem_of_find?_eq_some hrun)
    have hlasts := List.find?_some hrun
    simp only [Bool.and_eq_true, bne_iff_ne, beq_iff_eq, decide_eq_true_eq] at hlasts
    exact ⟨w, hmem, rfl, rfl, fun y hy => htop ▸ hle y hy, .inl ⟨hlasts.1.1, hlasts.1.2, hlasts.2, rfl⟩⟩
  | none =>
    rw [hrun] at h
    obtain ⟨x, hold, rfl⟩ := Option.map_eq_some_iff.1 h
    obtain ⟨hmem, htop⟩ := (hbest x).1 (mem_of_oldest hold)
    refine ⟨x, hmem, rfl, rfl, fun y hy => htop ▸ hle y hy, .inr ⟨?norun, rfl, ?age⟩⟩
    case norun =>
      rintro y hy hp ⟨hissued, hlast, hrest⟩
      refine List.find?_eq_none.1 hrun y ((hbest y).2 ⟨hy, hp.trans htop⟩) ?_
      simp only [Bool.and_eq_true, bne_iff_ne, beq_iff_eq, decide_eq_true_eq]
      exact ⟨⟨hissued, hlast⟩, hrest⟩
    case age =>
      intro y hy hp hyr hxr hy0 hx0
      exact issued_le_of_oldest hold (Warp.unissued_eq_false.2 ⟨hxr, hx0⟩) y ((hbest y).2 ⟨hy, hp.trans htop⟩)
        (Warp.unissued_eq_false.2 ⟨hyr, hy0⟩)

end Sys2Proof.Machine
end

section
namespace Sys2Proof.Machine

/-! ## What the memory leaves as it is: the warps but for their monitors -/

/-- The warp but for what an update at a home reaches: the lanes of its MONWs (R236). -/
def Warp.besidesMonws (w : Warp) : Warp := { w with monws := [] }

/-- The machine but for what an access to memory reaches: memory and its homes, the dies, the caches of cores, and monitors. -/
def State.besidesMemory (s : State) : State :=
  { s with
    mem := [], home := [], evicted := [], dies := Vector.replicate 4 Die.blank, core := Core.blank 0, cores := [], nextId := 0, free := 0
    warp := s.warp.besidesMonws, warps := s.warps.map Warp.besidesMonws }

@[simp] theorem State.fire_besidesMemory (s : State) (line : Nat) : (s.fire line).besidesMemory = s.besidesMemory := by
  simp only [State.fire, State.mapWarps, State.besidesMemory, List.map_map]
  rfl

@[simp] theorem State.setHomeLine_besidesMemory (s : State) (x : HomeLine) : (s.setHomeLine x).besidesMemory = s.besidesMemory := rfl
@[simp] theorem State.setDie_besidesMemory (s : State) (d : Nat) (x : Die) : (s.setDie d x).besidesMemory = s.besidesMemory := rfl

@[simp] theorem State.putChunk_besidesMemory (s : State) (pa : Nat) (l : List Byte) :
    (s.putChunk pa l).besidesMemory = s.besidesMemory := by
  unfold State.putChunk
  split
  · rfl
  · exact State.fire_besidesMemory _ _

@[simp] theorem State.putBytes_besidesMemory (s : State) (pa : Nat) (l : List Byte) :
    (s.putBytes pa l).besidesMemory = s.besidesMemory :=
  State.foldl_keeps State.besidesMemory _ (fun s _ => s.putChunk_besidesMemory _ _) _ s

@[simp] theorem State.postTo_besidesMemory (s : State) (r : Ring) (l : List Byte) : (s.postTo r l).1.besidesMemory = s.besidesMemory := by
  unfold State.postTo
  dsimp only
  split
  · rfl
  · exact s.putBytes_besidesMemory _ _

@[simp] theorem State.forgetLine_besidesMemory (s : State) (x : HomeLine) : (s.forgetLine x).besidesMemory = s.besidesMemory := by
  unfold State.forgetLine; split <;> rfl

@[simp] theorem State.cacheLine_besidesMemory (s : State) (line : Nat) : (s.cacheLine line).besidesMemory = s.besidesMemory := by
  unfold State.cacheLine
  dsimp only
  split
  · rfl
  · rw [State.setHomeLine_besidesMemory]
    split
    · rfl
    · cases (List.getLast? _ : Option HomeLine) with
      | none => rfl
      | some x => exact s.forgetLine_besidesMemory x

@[simp] theorem State.slog_besidesMemory (s : State) (line cls : Nat) (hit : Bool) (core requester : Nat) :
    (s.slog line cls hit core requester).besidesMemory = s.besidesMemory := by
  unfold State.slog; dsimp only; split <;> rfl

@[simp] theorem State.notify_besidesMemory (s : State) (d : Nat) (k : AccessCounter) (ctx : Nat) (va : BitVec 64) (core : Nat) :
    (s.notify d k ctx va core).1.besidesMemory = s.besidesMemory := by
  unfold State.notify
  dsimp only
  split
  · rfl
  · split
    · rfl
    · exact s.postTo_besidesMemory _ _

@[simp] theorem State.countMiss_besidesMemory (s : State) (ctx pa : Nat) (va : BitVec 64) (core : Nat) :
    (s.countMiss ctx pa va core).besidesMemory = s.besidesMemory := s.notify_besidesMemory _ _ _ _ _

@[simp] theorem State.performUpdate_besidesMemory (s : State) (u : Update) (hit : Bool) :
    (s.performUpdate u hit).besidesMemory = s.besidesMemory := by
  unfold State.performUpdate
  dsimp only
  simp only [apply_ite State.besidesMemory, State.countMiss_besidesMemory, State.slog_besidesMemory, State.fire_besidesMemory, ite_self]
  split <;> rfl

@[simp] theorem State.performFirst_besidesMemory (s : State) (line : Nat) : (s.performFirst line).besidesMemory = s.besidesMemory := by
  unfold State.performFirst
  dsimp only
  split
  · rfl
  · rw [State.performUpdate_besidesMemory]
    split
    · rw [State.cacheLine_besidesMemory, State.setHomeLine_besidesMemory]
    · rfl

@[simp] theorem State.settleLine_besidesMemory (s : State) (line n : Nat) : (s.settleLine line n).besidesMemory = s.besidesMemory := by
  induction n generalizing s with
  | zero => rfl
  | succ n ih =>
    unfold State.settleLine
    split
    · split
      · rw [ih, State.performFirst_besidesMemory]
      · rfl
    · rfl

@[simp] theorem State.settleHome_besidesMemory (s : State) (line : Nat) : (s.settleHome line).besidesMemory = s.besidesMemory :=
  s.settleLine_besidesMemory _ _

@[simp] theorem State.settleDue_besidesMemory (s : State) : s.settleDue.besidesMemory = s.besidesMemory :=
  State.foldl_keeps State.besidesMemory _ State.settleHome_besidesMemory _ s

@[simp] theorem State.logPte_besidesMemory (s : State) (core pa : Nat) : (s.logPte core pa).besidesMemory = s.besidesMemory :=
  s.slog_besidesMemory _ _ _ _ _

@[simp] theorem State.beforeWalk_besidesMemory (s : State) (c : Ctx) (va : BitVec 64) (core : Nat) :
    (s.beforeWalk c va core).besidesMemory = s.besidesMemory := by
  unfold State.beforeWalk
  rw [State.foldl_keeps State.besidesMemory _ fun s pa => s.logPte_besidesMemory core pa, State.settleDue_besidesMemory]

theorem State.swapPte_besidesMemory {s t : State} {core pa : Nat} {pte : Dword} (h : s.swapPte core pa pte = some t) :
    t.besidesMemory = s.besidesMemory := by
  unfold State.swapPte at h
  dsimp only at h
  split at h
  · cases h
    rw [State.logPte_besidesMemory, State.fire_besidesMemory]
    rfl
  · cases h

/-- A walk that sets A and D where they are not set yet. -/
theorem State.ite_swapPte_besidesMemory {s t : State} {p : Prop} [Decidable p] {core pa : Nat} {pte : Dword}
    (h : (if p then some s else s.swapPte core pa pte) = some t) : t.besidesMemory = s.besidesMemory := by
  by_cases hp : p
  · rw [if_pos hp] at h
    cases h; rfl
  · rw [if_neg hp] at h
    exact State.swapPte_besidesMemory h

@[simp] theorem State.useRat_besidesMemory (s : State) (c : Ctx) : (s.useRat c).besidesMemory = s.besidesMemory := by
  unfold State.useRat
  split
  · rfl
  · dsimp only
    split
    · exact s.settleDue_besidesMemory
    · exact s.settleDue_besidesMemory

/-! ### Translation and fetch -/

@[simp] theorem State.translate_besidesMemory (s : State) (c : Ctx) (k : Access) (priv : Bool) (va : BitVec 64) (pipe : Nat) :
    (s.translate c k priv va pipe).1.besidesMemory = s.besidesMemory := by
  unfold State.translate
  dsimp only
  split
  · rfl
  split
  · split
    · split <;> rfl
    · rfl
  split
  · exact s.settleDue_besidesMemory
  split
  · simp
  · simp
  · simp
  next pte ptePa level hwalk =>
    split
    · split
      · simp
      next t ht =>
        have hswap : t.besidesMemory = s.besidesMemory := by
          rw [State.ite_swapPte_besidesMemory ht, State.beforeWalk_besidesMemory, State.settleDue_besidesMemory]
        split <;> exact hswap
    · simp

@[simp] theorem State.chooseWord_besidesMemory (s : State) (a b : Word) : (s.chooseWord a b).1.besidesMemory = s.besidesMemory := by
  unfold State.chooseWord; split <;> rfl

theorem State.fetch_besidesMemory (s : State) (pc : BitVec 64) : (s.fetch pc).1.besidesMemory = s.besidesMemory := by
  unfold State.fetch
  split
  · rfl
  split
  · rfl
  dsimp only
  split
  · simp
  · simp
  · simp
  · simp
  next pa _ =>
    have hx := (s.useRat s.ctx).translate_besidesMemory s.ctx .fetch s.privileged pc 0
    rw [State.useRat_besidesMemory] at hx
    generalize ((s.useRat s.ctx).translate s.ctx .fetch s.privileged pc).1 = x at hx ⊢
    have hfree : ({ x with free := x.free + 1 } : State).besidesMemory = x.besidesMemory := rfl
    simp only [apply_ite Prod.fst, apply_ite State.besidesMemory, State.chooseWord_besidesMemory, State.settleHome_besidesMemory, hfree, hx,
      ite_self]


@[simp] theorem State.fetch_frontier (s : State) (pc : BitVec 64) : (s.fetch pc).1.warp.frontier = s.warp.frontier :=
  (congrArg (fun t => t.warp.frontier) (s.fetch_besidesMemory pc) :)

/-! ## The step by the agenda and the turns (R31, R33, R95) -/

theorem State.focusOn_warp {s t : State} {h i : Nat} (ht : s.focusOn h i = some t) : t.warp.team = h ∧ t.warp.idx = i := by
  unfold State.focusOn at ht
  split at ht
  · cases ht
  · split at ht
    next hw =>
      split at ht
      · cases ht
      · cases ht; exact hw
    · split at ht
      · cases ht
      next hx =>
        cases ht
        simpa using List.find?_some hx

/-- The warp of a turn in focus, before it fetches. -/
def State.atTurn (u : State) (w : Warp) : State := { u with warp := { u.warp with runCount := w.runCount } }

/-- A warp whose word is fetched issues what the word decodes to; then its partition's turn is over. -/
theorem State.issueWarp_of_word {s u : State} {w : Warp} {x : Word}
    (hu : (if (s.teamOf w.team).service then s.observed else s).focusOn w.team w.idx = some u)
    (hx : ((u.atTurn w).fetch (u.atTurn w).entry.pc).2 = .word x) :
    s.issueWarp w = onNext (State.turnOver w (s.coreOfWarp w)) (exec (decode x) ((u.atTurn w).fetch (u.atTurn w).entry.pc).1) := by
  have hword : (u.atTurn w).issueWord = exec (decode x) ((u.atTurn w).fetch (u.atTurn w).entry.pc).1 := by
    unfold State.issueWord
    simp only [hx]
  unfold State.issueWarp
  simp only [hu]
  exact congrArg _ hword

/-- A step of the machine is the turn of warp w: of what the fetched word decodes to, in each state of the focus. -/
theorem step_of_issueWarp {s z : State} {w : Warp} (hstep : step s = z.issueWarp w) {u : State}
    (hu : (if (z.teamOf w.team).service then z.observed else z).focusOn w.team w.idx = some u) {x : Word}
    (hx : ((u.atTurn w).fetch (u.atTurn w).entry.pc).2 = .word x) :
    (∀ t, exec (decode x) ((u.atTurn w).fetch (u.atTurn w).entry.pc).1 = .next t →
      step s = .next (State.turnOver w (z.coreOfWarp w) t)) ∧
    (∀ f, exec (decode x) ((u.atTurn w).fetch (u.atTurn w).entry.pc).1 = .fault f → step s = .fault f) ∧
    ((u.atTurn w).fetch (u.atTurn w).entry.pc).1.warp.frontier = (u.atTurn w).warp.frontier ∧
    (u.atTurn w).warp.team = w.team ∧ (u.atTurn w).warp.idx = w.idx := by
  rw [hstep, State.issueWarp_of_word hu hx]
  exact ⟨fun t ht => by rw [ht, onNext], fun f hf => by rw [hf, onNext], State.fetch_frontier _ _, (State.focusOn_warp hu :)⟩

theorem step_of_agenda {s : State} {h : Happening} {l : List Happening} (htimed : s.timedNext = none) (ha : s.agenda = h :: l) :
    step s = ({ s with agenda := l } : State).perform h := by
  simp only [step, State.stepOnce, htimed, ha]

theorem step_of_no_agenda {s : State} (htimed : s.timedNext = none) (ha : s.agenda = []) : step s = s.proceed := by
  simp only [step, State.stepOnce, htimed, ha]

/-- Where no unit is due and no time is to pass, the warp that issues next has the turn. -/
theorem State.proceed_of_nextWarp {s : State} {w : Warp} (hmonw : s.nextMonw = none) (hsvc : s.nextSvc = none) (hentry : s.entriesNext = none)
    (htime : s.turns % 64 ≠ 63) (hunits : s.turns % 8 ≠ 7) (hw : s.nextWarp = some w) : s.proceed = s.counted.issueWarp w := by
  simp only [State.proceed, hmonw, hsvc, hentry, State.turn, htime, hunits, hw, if_false]

theorem mem_of_foldl_min {l : List Nat} {m : Option Nat} {d : Nat}
    (h : l.foldl (fun m d => match m with | none => some d | some x => some (min x d)) m = some d) : m = some d ∨ d ∈ l := by
  induction l generalizing m with
  | nil => exact .inl h
  | cons a l ih =>
    rcases ih h with ha | ha
    · cases m with
      | none => cases ha; exact .inr List.mem_cons_self
      | some x =>
        rcases min_choice x a with hm | hm <;> simp only [hm, Option.some_inj] at ha <;> subst ha
        · exact .inl rfl
        · exact .inr List.mem_cons_self
    · exact .inr (List.mem_cons_of_mem _ ha)

/-- The deadline is the time of a lease or of a switch's window, and still to come. -/
theorem State.deadline_mem {s : State} {d : Nat} (h : s.deadline = some d) : s.gtc < d ∧ ∃ x ∈ s.timed, x.1 = d := by
  rcases mem_of_foldl_min h with h | h
  · cases h
  · simpa [and_comm] using h

/-- Time passes whole where no lease and no window ends in it. -/
theorem State.passing_eq_pass {s : State} {n : Nat} (h : ∀ x ∈ s.timed, s.gtc < x.1 → s.gtc + n ≤ x.1) : s.passing n = s.pass n := by
  unfold State.passing
  split
  · rfl
  next d hd =>
    obtain ⟨hlt, x, hx, rfl⟩ := State.deadline_mem hd
    exact if_pos (h x hx hlt)

/-- Settles O52: a step is the agenda's entry, or the turn of the warp that is next, and the fetch leaves the warp's frontier as it is. -/
theorem stepRunsTheDecodedInstruction : Obligations.StepRunsTheDecodedInstruction := by
  intro s issues htimed
  refine ⟨?turn, ?partition, ?event, ?wait, ?due⟩
  case turn =>
    intro ha hmonw hsvc hentry htime hunits w hw u hu v x hx
    exact step_of_issueWarp ((step_of_no_agenda htimed ha).trans (State.proceed_of_nextWarp hmonw hsvc hentry htime hunits hw)) hu hx
  case partition =>
    intro core p l w ha z hw u hu v x hx
    have hturn : z.perform (.turn core p) = z.issueWarp w := by simp only [State.perform, hw]
    exact step_of_issueWarp ((step_of_agenda htimed ha).trans hturn) hu hx
  case event =>
    intro i l t ha hevent ht
    rw [step_of_agenda htimed ha]
    simp only [State.perform, hevent, State.happen, ht, nextOf, if_true, Option.getD_some]
  case wait =>
    intro n l ha hlease hswitch
    rw [step_of_agenda htimed ha, State.perform, State.passing_eq_pass]
    intro x hx hlt
    rcases List.mem_append.1 hx with hx | hx
    · obtain ⟨h, hh, hxh⟩ := List.mem_filterMap.1 hx
      obtain ⟨y, hy, rfl⟩ := Option.map_eq_some_iff.1 hxh
      exact hlease h hh y hy
    · obtain ⟨e, he, rfl⟩ := List.mem_map.1 hx
      exact (hswitch e he).resolve_right (Nat.not_le.2 hlt)
  case due =>
    intro ha
    rw [step_of_no_agenda htimed ha]
    exact ⟨fun w o h => by simp only [State.proceed, h], fun t h h' => by simp only [State.proceed, h, h']⟩

end Sys2Proof.Machine
end

section
namespace Sys2Proof.Machine

open Sys2Proof.Claims

/-! ## Masks -/

/-- The bits that are set one by one for the elements of a list that a predicate selects. -/
theorem getLsbD_foldl_or_shift {α : Type} (k : α → Nat) (p : α → Bool) (l : List α) (m : Mask) (i : Nat) (hi : i < 32) :
    (l.foldl (fun m a => if p a then m ||| (1#32 <<< k a) else m) m).getLsbD i = true ↔
      m.getLsbD i = true ∨ ∃ a ∈ l, k a = i ∧ p a = true := by
  induction l generalizing m with
  | nil => simp
  | cons a l ih =>
    have hbit : (1#32 <<< k a).getLsbD i = true ↔ k a = i := by
      simp only [BitVec.getLsbD_shiftLeft, BitVec.getLsbD_one, Bool.and_eq_true, Bool.not_eq_true', decide_eq_true_eq, decide_eq_false_iff_not]
      omega
    rw [List.foldl_cons, ih, List.exists_mem_cons_iff]
    by_cases ha : p a = true
    · rw [if_pos ha, BitVec.getLsbD_or, Bool.or_eq_true, hbit, or_assoc, and_iff_left ha]
    · rw [if_neg ha]
      exact or_congr_right (or_iff_right fun h => ha h.2).symm

theorem getLsbD_maskOf (p : Nat → Bool) {i : Nat} (hi : i < 32) : (maskOf p).getLsbD i = true ↔ p i = true := by
  rw [maskOf, getLsbD_foldl_or_shift (fun L => L) p laneNos 0 i hi]
  simp [laneNos, hi]

theorem maskOf_eq {p : Nat → Bool} {m : Mask} (h : ∀ L, L < 32 → (m.getLsbD L = true ↔ p L = true)) : maskOf p = m := by
  refine BitVec.eq_of_getLsbD_eq fun i hi => ?_
  rw [Bool.eq_iff_iff, getLsbD_maskOf p hi, h i hi]

/-! ## What an entry of the window leaves of the warp (R52, R53) -/

theorem foldl_keeps {α β γ : Type} (p : α → γ) {f : α → β → α} (h : ∀ a b, p (f a b) = p a) (l : List β) (a : α) :
    p (l.foldl f a) = p a := by
  induction l generalizing a with
  | nil => rfl
  | cons b l ih => rw [List.foldl_cons, ih, h]

/-- The warp but for its results: the window, the banks, the operand cache and FRM. -/
def Warp.besidesResults (w : Warp) : Warp :=
  { w with
    window := [], outs := [], pushed := 0, bank := Vector.replicate 256 VReg.blank, oc := Vector.replicate 16 Copy.blank, frm := 0 }

theorem Warp.writeBack_besidesResults (w : Warp) (x : WinReg) : (w.writeBack x).besidesResults = w.besidesResults := by
  unfold Warp.writeBack; split <;> rfl

theorem Warp.writeBackAll_besidesResults (w : Warp) (e : WinEntry) : (w.writeBackAll e).besidesResults = w.besidesResults := by
  rw [Warp.writeBackAll, ← List.foldl_reverse]
  exact foldl_keeps Warp.besidesResults (fun w x => w.writeBack_besidesResults x) _ w

theorem Warp.leave_besidesResults (w : Warp) (e : WinEntry) : (w.leave e).besidesResults = w.besidesResults := by
  unfold Warp.leave
  split
  · exact w.writeBackAll_besidesResults e
  · rfl

theorem Warp.push_besidesResults (w : Warp) (e : WinEntry) : (w.push e).besidesResults = w.besidesResults := by
  unfold Warp.push
  dsimp only
  rw [foldl_keeps Warp.besidesResults Warp.leave_besidesResults]
  exact foldl_keeps Warp.besidesResults (f := fun w (x : WinReg) => (w.killReg x.reg).setStale x.reg false) (fun _ _ => rfl) e.regs w

theorem Warp.drain_besidesResults (w : Warp) : w.drain.besidesResults = w.besidesResults :=
  foldl_keeps Warp.besidesResults Warp.writeBackAll_besidesResults w.window.reverse w

theorem Warp.yieldPoint_besidesResults (w : Warp) : w.yieldPoint.besidesResults = w.besidesResults := w.drain_besidesResults

theorem State.enterInvalid_besidesResults (s : State) : s.enterInvalid.warp.besidesResults = s.warp.besidesResults :=
  Warp.push_besidesResults _ _

/-! ### The issuing entry -/

/-- The entry that issues depends on what the window does not hold. -/
theorem State.issuing_of_besidesResults {s t : State} (hw : t.warp.besidesResults = s.warp.besidesResults) (ht : t.team = s.team) :
    t.issuing = s.issuing := by
  have hissuing : ∀ u : State, u.issuing = ({ u with warp := u.warp.besidesResults } : State).issuing := fun _ => rfl
  have hteam : ∀ u v : State, u.warp = v.warp → u.team = v.team → u.issuing = v.issuing := by
    intro u v h h'
    rw [State.issuing, State.issuing, h, h']
  rw [hissuing t, hissuing s]
  exact hteam _ _ hw ht

@[simp] theorem State.enterInvalid_team (s : State) : s.enterInvalid.team = s.team := rfl

@[simp] theorem State.enterInvalid_issuing (s : State) : s.enterInvalid.issuing = s.issuing :=
  State.issuing_of_besidesResults s.enterInvalid_besidesResults rfl

@[simp] theorem State.enterInvalid_entry (s : State) : s.enterInvalid.entry = s.entry := by
  rw [State.entry, State.entry, State.enterInvalid_issuing]

@[simp] theorem State.enterInvalid_mask (s : State) : s.enterInvalid.mask = s.mask := by
  rw [State.mask, State.mask, State.enterInvalid_entry]

/-! ## Instructions that go, with checks of their own (Table 6-6, rows 11 and 12) -/

/-- Needs that ask for nothing besides legality, the registers they name, and a drained window. -/
def Uses.plain (u : Uses) : Prop := u.privileged = false ∧ u.tagsOk = true ∧ u.voids = 0 ∧ u.retry = false

/-- Where the checks of an instruction's plain needs find nothing, its uniformity and its own check decide. -/
theorem State.gate_of_go {s : State} {u : Uses} (h : s.gate u = .go) (hu : u.plain) (n : Bool) (x : Option Raise) :
    s.gate { u with uniform := n, specific := x } =
      if n then x.elim .go .raise else .raise { code := Code.uniform, lanes := s.mask, addr := 0 } := by
  obtain ⟨hp, ht, hv, hr⟩ := hu
  refine (State.gate_more h u.privileged u.tagsOk n u.retry u.voids x).trans ?_
  rw [hp, ht, hv, hr]
  cases n <;> cases x <;> simp [State.raiseAll]

/-- An instruction that has a check of uniformity and one of its own besides the needs with which it goes. -/
theorem State.issue_of_goes {s : State} {u u' : State → Uses} {n : Bool} {x : Option Raise} (e : State → State) (h : Goes s u)
    (hplain : (u s.prelude).plain) (hu : u' s.prelude = { u s.prelude with uniform := n, specific := x }) :
    s.issue u' e = .next (if n then x.elim (e s.prelude).finish s.prelude.raise
      else s.prelude.raise { code := Code.uniform, lanes := s.prelude.mask, addr := 0 }) := by
  obtain ⟨hissuing, hswitch, hgate⟩ := h
  have hchecks := hu ▸ State.gate_of_go hgate hplain n x
  cases n with
  | false => exact State.issue_raises e hissuing hswitch hchecks
  | true => cases x with
    | none => exact State.issue_goes e hissuing hswitch hchecks
    | some r => exact State.issue_raises e hissuing hswitch hchecks

/-! ## Branches (R94, R159) -/

theorem State.branchTarget_eq (s : State) (disp : BitVec 17) :
    s.branchTarget disp = s.entry.pc + 4 + BitVec.ofInt 64 (4 * disp.toInt) := by
  rw [State.branchTarget, BitVec.ofInt_mul]
  rfl

theorem State.branch_enterInvalid (s : State) (taken : Mask) (disp : BitVec 17) :
    s.enterInvalid.branch taken disp =
      s.enterInvalid.split [(s.mask &&& taken, s.branchTarget disp), (s.mask &&& ~~~taken, s.entry.pc + 4)] := by
  rw [State.branch, State.branchTarget, State.branchTarget, State.enterInvalid_entry, State.enterInvalid_mask]

theorem State.nonzero_eq {s : State} {c : VOp} {taken : Mask}
    (h : ∀ L, L < 32 → (taken.getLsbD L = true ↔ lane (s.vec c) L ≠ 0)) : s.nonzero c = taken :=
  maskOf_eq fun L hL => (h L hL).trans bne_iff_ne.symm

theorem agrees_iff (s : State) (u : BitVec 1) (taken : Mask) :
    (u == 0 || s.agree taken) = true ↔ u = 0 ∨ s.mask &&& taken = 0 ∨ s.mask &&& taken = s.mask := by
  simp [State.agree]

/-- R94 and R159: branches send the lanes that take them to their target, and a .U form needs them to agree. -/
theorem branchesTakeTheirLanes : Sys2Proof.Claims.BranchesTakeTheirLanes := by
  intro c u disp s p target goes
  have htarget : p.branchTarget disp = target := p.branchTarget_eq disp
  refine ⟨?bra, ?cond⟩
  case bra =>
    rintro ⟨hissuing, hswitch, hgate⟩
    rw [← htarget]
    exact State.issue_goes (fun s => s.enterInvalid.moveTo (s.branchTarget disp)) hissuing hswitch hgate
  case cond =>
    intro taken htaken agree
    have hnz : p.nonzero c = taken := State.nonzero_eq htaken
    have hagree : (u == 0 || p.agree (p.nonzero c)) = true ↔ agree := hnz ▸ agrees_iff p u taken
    have hbnz := fun h : goes (.bnz c u disp) => State.issue_of_goes
      (u' := fun s => { legal := (Instr.bnz c u disp).wellFormed, srcs := [{ op := c }], uniform := u == 0 || s.agree (s.nonzero c) })
      (fun s => s.enterInvalid.branch (s.nonzero c) disp) h ⟨rfl, rfl, rfl, rfl⟩ rfl
    have hbz := fun h : goes (.bz c u disp) => State.issue_of_goes
      (u' := fun s => { legal := (Instr.bz c u disp).wellFormed, srcs := [{ op := c }], uniform := u == 0 || s.agree (s.nonzero c) })
      (fun s => s.enterInvalid.branch (~~~ s.nonzero c) disp) h ⟨rfl, rfl, rfl, rfl⟩ rfl
    refine ⟨fun h ha => ?_, fun h ha => ?_, fun ha => ⟨fun h => ?_, fun h => ?_⟩⟩
    · refine (hbnz h).trans ?_
      rw [if_pos (hagree.2 ha), Option.elim_none, State.branch_enterInvalid, hnz, htarget]
    · refine (hbz h).trans ?_
      rw [if_pos (hagree.2 ha), Option.elim_none, State.branch_enterInvalid, hnz, htarget, BitVec.not_not]
    · exact (hbnz h).trans (congrArg _ (if_neg (mt hagree.1 ha)))
    · exact (hbz h).trans (congrArg _ (if_neg (mt hagree.1 ha)))

/-! ## Entries that join the frontier (R26) -/

theorem mem_insertEntry {e y : Entry} {l : List Entry} : y ∈ insertEntry e l ↔ y = e ∨ y ∈ l := by
  induction l with
  | nil => simp [insertEntry]
  | cons x l ih =>
    rw [insertEntry]
    split
    · exact List.mem_cons
    · rw [List.mem_cons, ih, List.mem_cons, or_left_comm]

theorem length_insertEntry (e : Entry) (l : List Entry) : (insertEntry e l).length = l.length + 1 := by
  induction l with
  | nil => rfl
  | cons x l ih =>
    rw [insertEntry]
    split
    · rfl
    · rw [List.length_cons, ih, List.length_cons]

/-- Lane L of a frontier is at a PC. -/
def LaneAt (fr : List Entry) (L : Nat) (pc : BitVec 64) : Prop := ∃ e ∈ fr, e.mask.getLsbD L = true ∧ e.pc = pc

/-- An entry that joins a frontier whose entries have numbers of their own brings its lanes to its PC and leaves the others where they are. -/
theorem laneAt_placeEntry (pr : BitVec 64 → Option (BitVec 8)) (last : Option Nat) (e : Entry) {fr : List Entry}
    (hid : ∀ x ∈ fr, ∀ y ∈ fr, x.id = y.id → x = y) (L : Nat) (pc : BitVec 64) :
    LaneAt (placeEntry pr last e fr) L pc ↔ (e.mask.getLsbD L = true ∧ e.pc = pc) ∨ LaneAt fr L pc := by
  unfold placeEntry
  dsimp only
  split
  next => simp [LaneAt, mem_insertEntry]
  next x hfind =>
    have hx : x ∈ fr := List.mem_of_find?_eq_some hfind
    have hpc : x.pc = e.pc := by
      have := List.find?_some hfind
      simp only [Bool.and_eq_true, beq_iff_eq] at this
      exact this.1.1
    simp only [LaneAt, mem_insertEntry, List.mem_filter, bne_iff_ne]
    constructor
    · rintro ⟨y, rfl | ⟨hy, -⟩, hL, rfl⟩
      · rcases (by simpa using hL : x.mask.getLsbD L = true ∨ e.mask.getLsbD L = true) with h | h
        · exact .inr ⟨x, hx, h, hpc⟩
        · exact .inl ⟨h, rfl⟩
      · exact .inr ⟨y, hy, hL, rfl⟩
    · rintro (⟨hL, rfl⟩ | ⟨y, hy, hL, rfl⟩)
      · exact ⟨_, .inl rfl, by simp [hL], rfl⟩
      · by_cases hyx : y.id = x.id
        · obtain rfl := hid y hy x hx hyx
          exact ⟨_, .inl rfl, by simp [hL], hpc.symm⟩
        · exact ⟨y, .inr ⟨hy, hyx⟩, hL, rfl⟩

theorem mask_ne_zero_of_placeEntry {pr : BitVec 64 → Option (BitVec 8)} {last : Option Nat} {e : Entry} {fr : List Entry} (he : e.mask ≠ 0)
    (hfr : ∀ x ∈ fr, x.mask ≠ 0) : ∀ x ∈ placeEntry pr last e fr, x.mask ≠ 0 := by
  intro y hy
  unfold placeEntry at hy
  dsimp only at hy
  split at hy
  · rcases mem_insertEntry.1 hy with rfl | hy
    · exact he
    · exact hfr y hy
  · rcases mem_insertEntry.1 hy with rfl | hy
    · exact fun h => he (BitVec.or_eq_zero_iff.1 h).2
    · exact hfr y (List.mem_of_mem_filter hy)

theorem length_placeEntry_le (pr : BitVec 64 → Option (BitVec 8)) (last : Option Nat) (e : Entry) (fr : List Entry) :
    (placeEntry pr last e fr).length ≤ fr.length + 1 := by
  unfold placeEntry
  dsimp only
  split <;> rw [length_insertEntry]
  exact Nat.succ_le_succ (List.length_filter_le _ _)

/-! ## The split of a converged warp (R26) -/

/-- A frontier that gains one entry with lanes of its own. -/
structure Gains (fr fr' : List Entry) (m : Mask) (pc : BitVec 64) : Prop where
  lanes : ∀ L q, LaneAt fr' L q ↔ (m.getLsbD L = true ∧ pc = q) ∨ LaneAt fr L q
  masks : (∀ e ∈ fr, e.mask ≠ 0) → ∀ e ∈ fr', e.mask ≠ 0
  length : fr'.length ≤ fr.length + 1

theorem eq_of_mem_of_length_le_one {fr : List Entry} (h : fr.length ≤ 1) : ∀ x ∈ fr, ∀ y ∈ fr, x.id = y.id → x = y := by
  match fr, h with
  | [], _ => simp
  | [e], _ => simp

/-- A part of a split that has lanes joins the frontier; one that has none does not. -/
theorem gains_part (pr : BitVec 64 → Option (BitVec 8)) (last : Option Nat) (e : Entry) (n : Nat) {acc : List Entry × Nat}
    (hlen : acc.1.length ≤ 1) :
    Gains acc.1 (if (e.mask != 0) = true then (placeEntry pr last e acc.1, n) else acc).1 e.mask e.pc := by
  by_cases he : e.mask = 0
  · rw [he]
    exact ⟨fun L q => by simp, id, Nat.le_succ _⟩
  · rw [if_pos (bne_iff_ne.2 he)]
    exact ⟨laneAt_placeEntry pr last e (eq_of_mem_of_length_le_one hlen), mask_ne_zero_of_placeEntry he, length_placeEntry_le pr last e acc.1⟩

/-- The two parts of a converged warp join its empty frontier one after the other. -/
theorem State.split_converged {s : State} (hfr : s.warp.frontier = [s.entry]) (a b : Mask) (x y : BitVec 64) :
    ∃ fr, Gains [] fr a x ∧ Gains fr (s.split [(a, x), (b, y)]).warp.frontier b y := by
  have hempty : removeEntry s.entry.id s.warp.frontier = [] := by simp [hfr, removeEntry]
  unfold State.split
  dsimp only
  rw [hempty, List.foldl_filter, List.foldl_cons, List.foldl_cons, List.foldl_nil]
  have hfirst := fun i n => gains_part s.pr s.warp.lastEntry { s.entry with pc := x, mask := a, wait := .ready, id := i } n
    (acc := ([], s.nextId)) (Nat.zero_le 1)
  exact ⟨_, hfirst _ _, gains_part s.pr s.warp.lastEntry { s.entry with pc := y, mask := b, wait := .ready, id := _ } _ (hfirst _ _).length⟩

/-- R26: each lane of a converged warp that splits is at the PC of its part. -/
theorem splitSendsEachLaneToItsPart : Sys2Proof.Claims.SplitSendsEachLaneToItsPart := by
  intro s m x y _ hfr t
  obtain ⟨fr, hfirst, hsecond⟩ := State.split_converged hfr (s.mask &&& m) (s.mask &&& ~~~m) x y
  have hlanes : ∀ L q, LaneAt t.warp.frontier L q ↔ s.mask.getLsbD L = true ∧ q = if m.getLsbD L then x else y := by
    intro L q
    have hnil : ¬ LaneAt [] L q := fun ⟨e, he, _⟩ => List.not_mem_nil he
    have hout : (s.mask &&& ~~~m).getLsbD L = true ↔ s.mask.getLsbD L = true ∧ m.getLsbD L = false := by
      rw [BitVec.getLsbD_and, Bool.and_eq_true]
      refine and_congr_right fun hL => ?_
      simp [BitVec.lt_of_getLsbD hL]
    rw [hsecond.lanes, hfirst.lanes, hout, BitVec.getLsbD_and, Bool.and_eq_true]
    cases m.getLsbD L <;> simp [hnil, eq_comm (a := q)]
  refine ⟨fun L _ hL => ?_, fun e he => ⟨?_, fun L hL => ?_⟩, ?_⟩
  · exact (hlanes L _).2 ⟨hL, rfl⟩
  · exact hsecond.masks (hfirst.masks (by simp)) e he
  · exact (hlanes L e.pc).1 ⟨e, he, hL, rfl⟩
  · exact hsecond.length.trans (Nat.succ_le_succ hfirst.length)

/-- Settles O15: the checks leave a branch its uniformity alone, and its two parts join the frontier one after the other. -/
theorem branchesAndSplits : Obligations.BranchesAndSplits := ⟨branchesTakeTheirLanes, splitSendsEachLaneToItsPart⟩

end Sys2Proof.Machine
end

section
namespace Sys2Proof.Machine

open Sys2Proof.Claims

/-! ## Attempts of whole-warp instructions (R28) -/

/-- What an attempt that has passed its checks answers. -/
def Attempt.outcome : Attempt → Host.Outcome State Fault Refusal
  | .done t => .next t.finish
  | .wait t changed => .next (if changed then t.wake else t).stall
  | .raise t r => .next (t.raise r)

theorem comes_of_outcome {i : Instr} {s : State} {a : Attempt} (h : exec i s = a.outcome) : Comes i s a := by
  cases a <;> exact h

theorem State.attempt_eq_outcome {s : State} {u : State → Uses} (a : State → Attempt) (h : s.issuing.isSome = true)
    (hu : s.switches = true → s.warp.unproduced = []) (hg : s.prelude.gate (u s.prelude) = .go) :
    s.attempt u a = (a s.prelude).outcome := by
  rw [State.attempt_goes a h hu hg]
  cases a s.prelude <;> rfl

/-- The checks of an instruction find nothing against what it also asks, but for a fault of its own. -/
theorem State.attempt_raises {s : State} {u : State → Uses} (a : State → Attempt) {r : Raise} (h : s.issuing.isSome = true)
    (hu : s.switches = true → s.warp.unproduced = []) (hg : s.prelude.gate (u s.prelude) = .raise r) :
    s.attempt u a = .next (s.prelude.raise r) := by
  obtain ⟨e, he⟩ := Option.isSome_iff_exists.1 h
  have hs : (s.switches && !s.warp.unproduced.isEmpty) = false := by
    cases hw : s.switches
    · rfl
    · simp [hu hw]
  unfold State.attempt
  simp only [he, hs, hg, Bool.false_eq_true, if_false]

theorem State.wholeWarp_of_eq {s : State} (h : s.mask = s.warp.live) : s.wholeWarp = true := beq_iff_eq.2 h

/-- A whole-warp instruction of a warp all of whose lanes stand in the entry passes the check of uniformity. -/
theorem State.issue_whole {s : State} {u u' : State → Uses} {x : Option Raise} (e : State → State) (h : Goes s u)
    (hm : s.prelude.mask = s.prelude.warp.live) (hplain : (u s.prelude).plain)
    (hu : u' s.prelude = { u s.prelude with uniform := s.prelude.wholeWarp, specific := x }) :
    s.issue u' e = .next (x.elim (e s.prelude).finish s.prelude.raise) := by
  rw [State.issue_of_goes e h hplain hu, if_pos (State.wholeWarp_of_eq hm)]

theorem State.attempt_whole {s : State} {u u' : State → Uses} {x : Option Raise} (a : State → Attempt) (h : Goes s u)
    (hm : s.prelude.mask = s.prelude.warp.live) (hplain : (u s.prelude).plain)
    (hu : u' s.prelude = { u s.prelude with uniform := s.prelude.wholeWarp, specific := x }) :
    s.attempt u' a = x.elim (a s.prelude).outcome fun r => .next (s.prelude.raise r) := by
  obtain ⟨hissuing, hswitch, hgate⟩ := h
  have hchecks := hu ▸ State.gate_of_go hgate hplain s.prelude.wholeWarp x
  rw [if_pos (State.wholeWarp_of_eq hm)] at hchecks
  cases x with
  | none => exact State.attempt_eq_outcome a hissuing hswitch hchecks
  | some r => exact State.attempt_raises a hissuing hswitch hchecks

/-! ## BAR (R41, R169 to R171) -/

theorem exec_barArrive (b : BitVec 4) (s : State) : exec (.barArrive b) s = execBarArrive b s := rfl

theorem exec_barSync (b : BitVec 4) (s : State) : exec (.barSync b) s = execBarSync b s := rfl

theorem exec_barWait (b : BitVec 4) (s : State) : exec (.barWait b) s = execBarWait b s := rfl

theorem exec_barCount (d : VOp) (b : BitVec 4) (s : State) : exec (.barCount d b) s = execBarCount d b s := rfl

theorem exec_barGridSync (s : State) : exec .barGridSync s = execBarGridSync s := rfl

theorem State.barrier_arrive (s : State) (b : Nat) :
    s.barrier b false = if s.hasArrived b then s.holdAs (.bar b (s.team.bar b).gen true false)
      else (s.arriveBar b).advance.completeAll s.team.handle := rfl

theorem State.barrier_sync (s : State) (b : Nat) :
    s.barrier b true = if s.hasArrived b then s.holdAs (.bar b (s.team.bar b).gen true true)
      else ((s.arriveBar b).holdAs (.bar b (s.team.bar b).gen false true)).completeAll s.team.handle := rfl

/-- A warp that has yielded and entered the window keeps the generations of its arrivals. -/
theorem State.yielded_barGen (s : State) : (s.withWarp s.warp.yieldPoint).enterInvalid.warp.barGen = s.warp.barGen :=
  by
  have hresults : (s.withWarp s.warp.yieldPoint).enterInvalid.warp.besidesResults = s.warp.besidesResults :=
    (State.enterInvalid_besidesResults _).trans s.warp.yieldPoint_besidesResults
  exact (congrArg Warp.barGen hresults :)

/-- A device-scope release that has nothing to do is done (R204, R205). -/
theorem State.releaseDevice_of_settled {s : State} (h : Settled s) : s.releaseDevice = .done s := by
  obtain ⟨hdone, hlost, hdirty, hpend, hpeers, hout, hwct, hseen, hheld⟩ := h
  have hnone : ∀ p : Update → Bool, s.home.filter (fun h => h.pend.any p) = [] := fun p =>
    List.filter_eq_nil_iff.2 fun h hh => by simp [hpend h hh]
  have hown : s.settleOwn = s := by simp [State.settleOwn, State.pendingLines, hnone]
  have hback : s.backTw = 0 := by
    have hall : s.home.flatMap (·.pend) = [] := List.flatMap_eq_nil_iff.2 hpend
    simp [State.backTw, hall]
  have hfold : s.foldWct 0 = s := by simp [State.foldWct]
  have hsent : s.outstanding = false := by
    have hhome : (s.home.any fun h => h.pend.any s.mine) = false := List.any_eq_false.2 fun h hh => by simp [hpend h hh]
    simp [State.outstanding, hout, hhome, hpeers]
  have howed : s.peerOwes = false := by simp [State.peerOwes, hpeers]
  have hobserved : s.observesHeld = false := by simp [State.observesHeld, hheld]
  have hwrites : s.writeBackAll [] = .done s := rfl
  have htime : ¬ s.gtc < max s.warp.wct s.warp.seen := Nat.not_lt.2 (max_le hwct hseen)
  unfold State.releaseDevice
  simp [hdone, hlost, hdirty, hwrites, hown, hback, hfold, hsent, howed, hobserved, htime]

/-- The arrival at the grid barrier, after its release (R42). -/
def State.arriveGrid (t : State) : State :=
  let w := (t.withWarp t.warp.yieldPoint).enterInvalid.holdAs (.grid t.launch.gridGen)
  ({ w with launch := { w.launch with gridArrived := (w.team.handle, w.warp.idx) :: w.launch.gridArrived } } : State).completeGrid w.launch.id

theorem execBarGridSync_of_goes {s : State} (h : Goes s fun _ => { legal := Instr.barGridSync.wellFormed, drains := true })
    (hm : s.prelude.mask = s.prelude.warp.live) :
    exec .barGridSync s = if s.prelude.launch.coop then (upon s.prelude.releaseDevice State.arriveGrid).outcome
      else .next (s.prelude.raise { code := Code.gridsync, lanes := s.prelude.mask, addr := 0 }) := by
  rw [exec_barGridSync, execBarGridSync, State.attempt_whole (x := if s.prelude.launch.coop then none
    else some (Raise.all s.prelude Code.gridsync)) _ h hm ⟨rfl, rfl, rfl, rfl⟩ rfl]
  cases s.prelude.launch.coop
  · rfl
  · cases s.prelude.releaseDevice <;> rfl

/-- R41, R169 to R171: what each form of BAR comes to. -/
theorem barriersArriveWaitAndCount : Sys2Proof.Claims.BarriersArriveWaitAndCount := by
  intro b d s p n gen held yielded hm
  refine ⟨?arrive, ?sync, ?wait, ?count, ?grid⟩
  case arrive =>
    intro h hdone
    rw [exec_barArrive, execBarArrive, State.attempt_whole (x := none) _ h hm ⟨rfl, rfl, rfl, rfl⟩ rfl, Option.elim_none, if_pos hdone,
      State.barrier_arrive]
    rfl
  case sync =>
    intro h hdone
    rw [exec_barSync, execBarSync, State.attempt_whole (x := none) _ h hm ⟨rfl, rfl, rfl, rfl⟩ rfl, Option.elim_none, if_pos hdone,
      State.barrier_sync]
    rfl
  case wait =>
    intro h hdone
    have hwait : exec (.barWait b) s = (match look p.warp.barGen none n with
        | some g => if g < gen then Attempt.done (yielded.enterInvalid.foldWct (p.team.bar n).past).advance
            else .done (yielded.enterInvalid.holdAs (.bar n g false true))
        | none => .done yielded.enterInvalid.advance).outcome := by
      rw [exec_barWait, execBarWait, State.attempt_whole (x := none) _ h hm ⟨rfl, rfl, rfl, rfl⟩ rfl, Option.elim_none, if_pos hdone]
      simp only [State.yielded_barGen]
      rfl
    refine ⟨fun hg => ?_, fun g hg hle => ?_, fun g hg hlt => ?_⟩
    · rw [hwait, hg]; rfl
    · rw [hwait, hg]
      simp only [Nat.not_lt.2 hle, if_false, Attempt.outcome]
    · rw [hwait, hg]
      simp only [hlt, if_true, Attempt.outcome]
      rfl
  case count =>
    intro h
    rw [exec_barCount, execBarCount, State.issueNext, State.issue_whole (x := none) _ h hm ⟨rfl, rfl, rfl, rfl⟩ rfl]
    rfl
  case grid =>
    intro h
    have hgrid := execBarGridSync_of_goes h hm
    refine ⟨fun hcoop => ?_, fun hcoop => ?_⟩
    · rw [hgrid, hcoop]; rfl
    · rw [hcoop, if_pos rfl] at hgrid
      exact ⟨fun hsettled => by rw [hgrid, State.releaseDevice_of_settled hsettled]; rfl, comes_of_outcome hgrid⟩

/-! ## What the completion of a generation does to a warp (R170) -/

/-- The completion at the warp's own wait. -/
def Warp.endHold (pr : BitVec 64 → Option (BitVec 8)) (b g tw : Nat) (w : Warp) : Warp :=
  match w.hold.barEnd b g with
  | .untouched => w
  | .passes => { w.passOn pr with wct := max w.wct tw }
  | .arrives wait =>
    let w := { w with barGen := put w.barGen b (some (g + 1)) }
    if wait then { w with hold := .bar b (g + 1) false true } else w.passOn pr

/-- The completion at a wait that a trap routine has interrupted. -/
def Warp.endSaved (b g tw : Nat) (w : Warp) : Warp :=
  match w.savedHold.barEnd b g with
  | .untouched => w
  | .passes => { w with savedHold := .released, wct := max w.wct tw }
  | .arrives wait => { w with barGen := put w.barGen b (some (g + 1)), savedHold := if wait then .bar b (g + 1) false true else .released }

theorem Warp.barDone_eq (pr : BitVec 64 → Option (BitVec 8)) (b g tw : Nat) (w : Warp) :
    w.barDone pr b g tw = (w.endHold pr b g tw).endSaved b g tw := rfl

theorem Hold.barEnd_bar (b g : Nat) (again wait : Bool) :
    (Hold.bar b g again wait).barEnd b g = if again then .arrives wait else .passes := by
  rw [Hold.barEnd, if_pos ⟨rfl, rfl⟩]

theorem Hold.barEnd_of_other {h : Hold} {b g : Nat} (hother : ∀ x y, h ≠ .bar b g x y) : h.barEnd b g = .untouched := by
  cases h with
  | bar b' g' again wait => exact if_neg fun ⟨hb, hg⟩ => hother again wait (hb ▸ hg ▸ rfl)
  | _ => rfl

theorem Hold.barEnd_arrives {h : Hold} {b g : Nat} {c : Bool} : h.barEnd b g = .arrives c ↔ h = .bar b g true c := by
  refine ⟨fun he => ?_, fun he => by rw [he, Hold.barEnd_bar, if_pos rfl]⟩
  by_cases hbar : ∃ again wait, h = .bar b g again wait
  · obtain ⟨again, wait, rfl⟩ := hbar
    rw [Hold.barEnd_bar] at he
    cases again <;> simp_all
  · rw [Hold.barEnd_of_other fun x y hxy => hbar ⟨x, y, hxy⟩] at he
    cases he

theorem Warp.arrivesNext_iff (w : Warp) (b g : Nat) :
    w.arrivesNext b g = true ↔ ∃ c, w.hold = .bar b g true c ∨ w.savedHold = .bar b g true c := by
  simp only [← Hold.barEnd_arrives, exists_or]
  unfold Warp.arrivesNext
  split
  · next c he => exact iff_of_true rfl (.inl ⟨c, he⟩)
  · next c he _ => exact iff_of_true rfl (.inr ⟨c, he⟩)
  · next hnone hnoneSaved => exact iff_of_false Bool.false_ne_true fun h => h.elim (fun ⟨c, he⟩ => hnone c he) fun ⟨c, he⟩ => hnoneSaved c he

theorem Warp.endSaved_of_other {w : Warp} {b g : Nat} (tw : Nat) (h : ∀ x y, w.savedHold ≠ .bar b g x y) : w.endSaved b g tw = w := by
  rw [Warp.endSaved, Hold.barEnd_of_other h]

theorem Warp.endSaved_of_bar {w : Warp} {b g : Nat} {again wait : Bool} (tw : Nat) (h : w.savedHold = .bar b g again wait) :
    w.endSaved b g tw = if again then
        { w with barGen := put w.barGen b (some (g + 1)), savedHold := if wait then .bar b (g + 1) false true else .released }
      else { w with savedHold := .released, wct := max w.wct tw } := by
  rw [Warp.endSaved, h, Hold.barEnd_bar]
  cases again <;> rfl

theorem Warp.endHold_of_other {w : Warp} {b g : Nat} (pr : BitVec 64 → Option (BitVec 8)) (tw : Nat) (h : ∀ x y, w.hold ≠ .bar b g x y) :
    w.endHold pr b g tw = w := by
  rw [Warp.endHold, Hold.barEnd_of_other h]

theorem Warp.endHold_of_bar {w : Warp} {b g : Nat} {again wait : Bool} (pr : BitVec 64 → Option (BitVec 8)) (tw : Nat)
    (h : w.hold = .bar b g again wait) :
    w.endHold pr b g tw = if again then
        if wait then { w with barGen := put w.barGen b (some (g + 1)), hold := .bar b (g + 1) false true }
        else ({ w with barGen := put w.barGen b (some (g + 1)) } : Warp).passOn pr
      else { w.passOn pr with wct := max w.wct tw } := by
  rw [Warp.endHold, h, Hold.barEnd_bar]
  cases again <;> rfl

theorem Warp.endHold_savedHold (pr : BitVec 64 → Option (BitVec 8)) (b g tw : Nat) (w : Warp) :
    (w.endHold pr b g tw).savedHold = w.savedHold := by
  unfold Warp.endHold
  split
  · rfl
  · rfl
  · dsimp only; split <;> rfl

/-- A completion leaves each warp its team, its number and its place in the team. -/
theorem Warp.barDone_identity (pr : BitVec 64 → Option (BitVec 8)) (b g tw : Nat) (w : Warp) :
    (w.barDone pr b g tw).team = w.team ∧ (w.barDone pr b g tw).gone = w.gone := by
  have hheld : (w.endHold pr b g tw).team = w.team ∧ (w.endHold pr b g tw).gone = w.gone := by
    unfold Warp.endHold
    split
    · exact ⟨rfl, rfl⟩
    · exact ⟨rfl, rfl⟩
    · dsimp only; split <;> exact ⟨rfl, rfl⟩
  rw [Warp.barDone_eq, ← hheld.1, ← hheld.2]
  unfold Warp.endSaved
  split <;> exact ⟨rfl, rfl⟩

/-- A warp with one entry goes on in it at the next word. -/
theorem Warp.passOn_single {w : Warp} {e : Entry} (pr : BitVec 64 → Option (BitVec 8)) (h : w.frontier = [e]) :
    (w.passOn pr).hold = .none ∧ ∃ x, (w.passOn pr).frontier = [x] ∧ x.pc = e.pc + 4 ∧ x.mask = e.mask := by
  have hwaits : w.barWaits e = true := by
    rw [Warp.barWaits, h]
    cases hw : e.wait <;> simp [hw]
  have hgoes : (w.passOn pr).frontier = placeEntry pr w.lastEntry { e with pc := e.pc + 4, wait := if e.wait = .bar then .ready else e.wait } [] := by
    rw [Warp.passOn, h]
    simp only [List.foldl_cons, List.foldl_nil, hwaits, if_true]
  exact ⟨rfl, _, hgoes, rfl, rfl⟩

/-! ## What it does to the team -/

/-- The warps of a team after an update of each that leaves it in the team. -/
theorem State.teamWarps_onTeamWarps {f : Warp → Warp} (hf : ∀ w, (f w).team = w.team ∧ (f w).gone = w.gone) (s : State) (h : Nat) :
    (s.onTeamWarps h f).teamWarps h = (s.teamWarps h).map fun w => if w.gone then w else f w := by
  have hteam : ∀ w : Warp, (if w.team = h ∧ w.gone = false then f w else w).team = w.team := fun w => by
    split
    · exact (hf w).1
    · rfl
  have hgone : (if s.warp.team = h ∧ s.warp.gone = false then f s.warp else s.warp).gone = s.warp.gone := by
    split
    · exact (hf _).2
    · rfl
  have hall : (s.onTeamWarps h f).allWarps = s.allWarps.map fun w => if w.team = h ∧ w.gone = false then f w else w := by
    change keepWarp (if s.warp.team = h ∧ s.warp.gone = false then f s.warp else s.warp) _ = (keepWarp s.warp s.warps).map _
    unfold keepWarp
    rw [hgone]
    split <;> rfl
  rw [State.teamWarps, hall, List.filter_map, State.teamWarps]
  simp only [Function.comp_def, hteam]
  refine List.map_congr_left fun w hw => ?_
  have hmember : w.team = h := by simpa using (List.mem_filter.1 hw).2
  cases hg : w.gone <;> simp [hmember]

/-- An update of a live team that leaves it its life and its handle. -/
theorem State.teamOf_onTeam_of_life {s : State} {h : Nat} {f : Team → Team} (hlife : ∀ t, (f t).life = t.life)
    (hhandle : ∀ t, (f t).handle = t.handle) (hlive : (s.teamOf h).life ≠ .gone) : (s.onTeam h f).teamOf h = f (s.teamOf h) := by
  have hsame : ∀ t : Team, (if t.handle = h ∧ t.life ≠ .gone then f t else t).life = t.life ∧
      (if t.handle = h ∧ t.life ≠ .gone then f t else t).handle = t.handle := fun t => by
    split
    · exact ⟨hlife t, hhandle t⟩
    · exact ⟨rfl, rfl⟩
  have hall : (s.onTeam h f).allTeams = s.allTeams.map fun t => if t.handle = h ∧ t.life ≠ .gone then f t else t := by
    change ((s.team :: s.teams).map fun t => if t.handle = h ∧ t.life ≠ .gone then f t else t).filter (fun t => t.life != .gone) = _
    rw [List.filter_map, State.allTeams]
    simp only [Function.comp_def, (hsame _).1]
  unfold State.teamOf at hlive ⊢
  rw [hall, List.find?_map]
  simp only [Function.comp_def, (hsame _).2]
  cases hfind : s.allTeams.find? fun t => t.handle == h with
  | none => rw [hfind] at hlive; exact absurd rfl hlive
  | some t =>
    rw [hfind] at hlive
    exact if_pos ⟨by simpa using List.find?_some hfind, hlive⟩

/-- A vector of one value looked up within its bounds. -/
theorem look_replicate {α : Type} {n i : Nat} (a d : α) (hi : i < n) : look (Vector.replicate n a) d i = a := by
  rw [look, Vector.toList_replicate, List.getD_eq_getElem _ _ (by simpa using hi), List.getElem_replicate]

/-- A team that has a barrier with an arrival is a live one. -/
theorem State.teamOf_live_of_arrivals {s : State} {h b : Nat} (hb : b < 16) (harrived : ((s.teamOf h).bar b).arrivals ≠ 0) :
    (s.teamOf h).life ≠ .gone := by
  unfold State.teamOf at harrived ⊢
  cases hfind : s.allTeams.find? fun t => t.handle == h with
  | some t => exact (State.mem_allTeams.1 (List.mem_of_find?_eq_some hfind)).2
  | none =>
    rw [hfind] at harrived
    have hblank : Team.blank.bar b = Barrier.blank := look_replicate _ _ hb
    exact absurd (by rw [Option.getD_none, hblank]; rfl) harrived

/-- When a generation is complete (R170, R269). -/
theorem State.barFull_iff (s : State) (t : Team) (b : Nat) :
    s.barFull t b = true ↔ (t.bar b).arrivals ≠ 0 ∧ (t.bar b).arrivals = s.expected t b := by
  simp [State.barFull]

/-- BARRIER_COMPLETE of a team without a twin or a guard. -/
theorem State.tryComplete_of_single {s : State} {h b : Nat} (htwin : (s.teamOf h).twin = none) (hguard : (s.teamOf h).guarded = false) :
    s.tryComplete h b = if s.barFull (s.teamOf h) b then (s.releaseGen h b, true) else (s, false) := by
  unfold State.tryComplete
  simp only [htwin, hguard]
  cases s.barFull (s.teamOf h) b <;> rfl

/-- The next generation of a barrier, of which the warps in the mask have arrived. -/
def Barrier.nextGen (x : Barrier) (arrived : Mask) : Barrier :=
  { gen := x.gen + 1, arrived := arrived, copies := x.next, tw := x.nextTw, next := 0, nextTw := 0, past := max x.past x.tw }

/-- The warps that arrive in the next generation of a barrier as the current one completes. -/
def State.nextArrivals (s : State) (h b : Nat) : Mask :=
  (s.teamWarps h).foldl (fun m w => if w.arrivesNext b ((s.teamOf h).bar b).gen then m ||| (1#32 <<< w.idx) else m) (0#32)

theorem State.getLsbD_nextArrivals (s : State) (h b : Nat) {i : Nat} (hi : i < 32) :
    (s.nextArrivals h b).getLsbD i = true ↔ ∃ w ∈ s.teamWarps h, w.idx = i ∧ w.arrivesNext b ((s.teamOf h).bar b).gen = true := by
  refine (getLsbD_foldl_or_shift Warp.idx (fun w => w.arrivesNext b ((s.teamOf h).bar b).gen) _ _ i hi).trans ?_
  simp

theorem State.releaseGen_teamOf {s : State} {h b : Nat} (hlive : (s.teamOf h).life ≠ .gone) :
    (s.releaseGen h b).teamOf h = (s.teamOf h).setBar b (((s.teamOf h).bar b).nextGen (s.nextArrivals h b)) := by
  have hteam : (s.onTeamWarps h (Warp.barDone (s.prOf (s.teamOf h)) b ((s.teamOf h).bar b).gen ((s.teamOf h).bar b).tw)).teamOf h = s.teamOf h :=
    State.teamOf_of_allTeams (State.onTeamWarps_allTeams _ _ _) h
  refine (State.teamOf_onTeam_of_life ?life ?handle (by rwa [hteam])).trans (by rw [hteam]; rfl)
  case life => exact fun t => rfl
  case handle => exact fun t => rfl

theorem State.releaseGen_teamWarps (s : State) (h b : Nat) :
    (s.releaseGen h b).teamWarps h = (s.teamWarps h).map fun w => if w.gone then w
      else w.barDone (s.prOf (s.teamOf h)) b ((s.teamOf h).bar b).gen ((s.teamOf h).bar b).tw :=
  s.teamWarps_onTeamWarps (Warp.barDone_identity _ _ _ _) h

/-- R170, R269 and R270: when a generation completes and what its completion leaves of the barrier and of each warp. -/
theorem barrierGenerationsComplete : Sys2Proof.Claims.BarrierGenerationsComplete := by
  refine ⟨?generation, ?warps⟩
  case generation =>
    intro s h b t x arrived full r y hb hh htwin hguard
    have hfull : s.barFull t b = true ↔ full := by
      rw [State.barFull_iff, State.expected, hh]; rfl
    have hr : r = if s.barFull t b then (s.releaseGen h b, true) else (s, false) := State.tryComplete_of_single htwin hguard
    clear_value r
    refine ⟨fun hnot => by rw [hr, if_neg (hfull.not.2 hnot)], fun hyes => ?_⟩
    have hlive := State.teamOf_live_of_arrivals (s := s) hb hyes.1
    rw [if_pos (hfull.2 hyes)] at hr
    subst hr
    have hteam := State.releaseGen_teamOf (b := b) hlive
    have hself : y = x.nextGen (s.nextArrivals h b) :=
      (congrArg (Team.bar · b) hteam).trans (look_put_self _ _ _ _ hb)
    refine ⟨rfl, by rw [hself]; rfl, by rw [hself]; rfl, by rw [hself]; rfl, fun i hi => ?_, fun n hn hne => ?_, s.releaseGen_teamWarps h b⟩
    · rw [hself]
      exact s.getLsbD_nextArrivals h b hi
    · exact (congrArg (Team.bar · n) hteam).trans (look_put_of_ne _ _ _ _ _ (Ne.symm hne))
  case warps =>
    intro w pr b g tw wait e v other goes
    have hv : v = (w.endHold pr b g tw).endSaved b g tw := rfl
    refine ⟨w.arrivesNext_iff b g, fun hhold hsaved => ?_, fun hsaved hone => ?_, fun hhold => ?_⟩
    · rw [hv, Warp.endHold_of_other pr tw hhold, Warp.endSaved_of_other tw hsaved]
    · rw [Warp.endSaved_of_other tw (by rwa [Warp.endHold_savedHold])] at hv
      refine ⟨fun hw => ?_, fun hw => ?_, fun hw => ?_⟩
      · rw [hv, Warp.endHold_of_bar pr tw hw]
        exact ⟨Warp.passOn_single pr hone, rfl⟩
      · rw [hv, Warp.endHold_of_bar pr tw hw]
        exact ⟨Warp.passOn_single (w := { w with barGen := put w.barGen b (some (g + 1)) }) pr hone, fun hb => look_put_self _ _ _ _ hb⟩
      · rw [hv, Warp.endHold_of_bar pr tw hw]
        exact ⟨rfl, hone, fun hb => look_put_self _ _ _ _ hb⟩
    · rw [Warp.endHold_of_other pr tw hhold] at hv
      have hkept : v.hold = w.hold ∧ v.frontier = w.frontier := by
        rw [hv, Warp.endSaved]; split <;> exact ⟨rfl, rfl⟩
      refine ⟨hkept.1, hkept.2, fun hw => ?_, fun hw => ?_, fun hw => ?_⟩
      · rw [hv, Warp.endSaved_of_bar tw hw]
        exact ⟨rfl, rfl⟩
      · rw [hv, Warp.endSaved_of_bar tw hw]; rfl
      · rw [hv, Warp.endSaved_of_bar tw hw]; rfl

/-! ## ATTACH and DETACH (R34 to R37, R172, R173) -/

theorem exec_attach (c : SOp) (disp : BitVec 17) (s : State) : exec (.attach c disp) s = execAttach c disp s := rfl

theorem exec_detach (s : State) : exec .detach s = execDetach s := rfl

/-- ATTACH grants no more warps than are wanted, than the team has free indices and than the core has free slots. -/
theorem State.attachGrant_le (s : State) (want role : Nat) :
    s.attachGrant want role ≤ want ∧ s.attachGrant want role ≤ s.freeIndices.length ∧
      s.attachGrant want role ≤ 64 - (s.usedSlots s.core.num).length := by
  unfold State.attachGrant
  dsimp only
  by_cases hbudget : s.team.budget role = 0
  · simp [hbudget]
  · rw [if_neg hbudget]
    omega

/-- ATTACH, DETACH: what the warps that join or leave come to. -/
theorem attachGrantsAndDetachDeparts : Sys2Proof.Claims.AttachGrantsAndDetachDeparts := by
  intro c disp s p hm
  refine ⟨fun h => ?attach, fun h => ?detach⟩
  case attach =>
    intro q want role g
    have hexec : exec (.attach c disp) s = .next (if p.unwinding then p.holdAs .att
        else ((q.addWarps g role (q.entry.pc + 4 + BitVec.ofInt 64 (4 * disp.toInt))).status c (BitVec.ofNat 32 g)).advance).finish := by
      have hwant : bits (q.sc c) 0 5 = want := by simp [bits, want]
      rw [exec_attach, execAttach, State.issue_whole (x := none) _ h hm ⟨rfl, rfl, rfl, rfl⟩ rfl, ← State.branchTarget_eq]
      simp only [Option.elim_none, g, ← hwant]
      rfl
    exact ⟨fun hopen => by rw [hexec, if_pos hopen], fun hopen => by rw [hexec, if_neg (by simp [hopen])], q.attachGrant_le want role⟩
  case detach =>
    have hexec : exec .detach s = if p.team.namedOpen p.warp.idx then .next (p.raise { code := 0x0013, lanes := p.mask, addr := 0 })
        else if p.unwinding then .next p.stall else .next p.enterInvalid.depart.finish := by
      rw [exec_detach, execDetach, State.attempt_whole (x := if p.team.namedOpen p.warp.idx then some (Raise.all p Code.mismatch) else none)
        _ h hm ⟨rfl, rfl, rfl, rfl⟩ rfl]
      cases p.team.namedOpen p.warp.idx
      · cases p.unwinding <;> simp [Attempt.outcome, p]
      · rfl
    rw [hexec]
    cases hnamed : p.team.namedOpen p.warp.idx <;> cases hopen : p.unwinding <;> simp

/-- Settles O18: what each form of BAR comes to, when a generation completes and what it leaves, and who joins and leaves a team. -/
theorem barriersAndMembership : Obligations.BarriersAndMembership :=
  ⟨barriersArriveWaitAndCount, barrierGenerationsComplete, attachGrantsAndDetachDeparts⟩

end Sys2Proof.Machine
end

section
namespace Sys2Proof.Machine

open Sys2Proof.Claims

/-! ## A split beside an entry that has the number of one of its parts (R26) -/

/-- A main-file register that an instruction may read. -/
def VReg.fresh (y : Lanes) : VReg := { data := y, tag := .raw, stale := false, pending := false }

/-- A warp of three lanes. Lanes 0 and 1 are about to jump to 0x2000 and 0x3000, which v2 and v3 name; lane 2 stands at 0x3000 in an entry whose
number, 2, is the one that the split of the jump gives to its first part: State.reset deals out number 1 next, and the jump's window entry takes it. -/
def crossedEntries : State :=
  { State.reset with
    warp := { Warp.blank with
      team := 1, live := 7
      frontier := [{ id := 5, prio := 0, pc := 0x1000, mask := 3, wait := .ready }, { id := 2, prio := 0, pc := 0x3000, mask := 4, wait := .ready }]
      bank := put (put Warp.blank.bank 2 (.fresh (lanesOf fun L => if L = 0 then 0x2000 else 0x3000))) 3 (.fresh (splat 0)) }
    team := { Team.blank with handle := 1, life := .resident } }

/-- The jump of crossedEntries passes its checks. -/
theorem crossedEntries_goes :
    Goes crossedEntries fun _ =>
      { legal := (Instr.jmpr (.v 2) 0).wellFormed, srcs := [{ op := .v 2, count := 2, dead := (0 : BitVec 1) == 1 }] } :=
  ⟨by decide, by decide, by decide⟩

/-- Every target of the jump is a multiple of 4. -/
theorem crossedEntries_aligned :
    ∀ L, crossedEntries.prelude.mask.getLsbD L = true → (crossedEntries.prelude.pair (.v 2) L).toNat % 4 = 0 := by
  have hall : ∀ L, L < 32 → crossedEntries.prelude.mask.getLsbD L = true → (crossedEntries.prelude.pair (.v 2) L).toNat % 4 = 0 := by decide
  exact fun L hL => hall L (BitVec.lt_of_getLsbD hL) hL

/-- The second part merges with lane 2's entry and takes the first part, whose number that entry has, out of the frontier: lane 0 is nowhere. -/
theorem crossedEntries_loses_lane_zero :
    ((nextOf (exec (.jmpr (.v 2) 0) crossedEntries)).all fun t => t.warp.frontier.all fun x => !x.mask.getLsbD 0) = true := by decide

/-- Refutes O59: its JMPR clause asks that each lane stand at its target in every state, also in one whose frontier holds a number that has yet to be
dealt out, and there a split loses a lane. -/
theorem not_controlFormsComplete : ¬ Obligations.ControlFormsComplete := by
  unfold Obligations.ControlFormsComplete
  intro h
  obtain ⟨-, hjmpr, -⟩ := h .zero (.v 2) .zero .zero 0 0 0 0 crossedEntries
  obtain ⟨t, ht, -, hlanes⟩ := hjmpr crossedEntries_aligned crossedEntries_goes
  obtain ⟨x, hx, hlane, -⟩ := hlanes 0 (by decide) (by decide)
  have hnone : ∀ x ∈ t.warp.frontier, x.mask.getLsbD 0 = false := by
    have hall := crossedEntries_loses_lane_zero
    rw [ht] at hall
    simpa only [nextOf, Option.all_some, List.all_eq_true, Bool.not_eq_true'] using hall
  exact absurd hlane (ne_true_of_eq_false (hnone x hx))

end Sys2Proof.Machine
end

section
namespace Sys2Proof.Machine

open Sys2Proof.Claims

/-! ## Where a new team goes (R21, R337) -/

theorem leastBy_eq_none {f : Nat → Nat} {l : List Nat} (h : leastBy f l = none) : l = [] := by
  cases l with
  | nil => rfl
  | cons x l =>
    rw [leastBy] at h
    cases hrest : leastBy f l <;> simp [hrest] at h

/-- The least element of an ascending list by a measure: none before it is as small, and none after it is smaller. -/
theorem leastBy_spec {f : Nat → Nat} {l : List Nat} (hl : l.Pairwise (· < ·)) {c : Nat} (h : leastBy f l = some c) :
    c ∈ l ∧ ∀ x ∈ l, f c < f x ∨ (f c = f x ∧ c ≤ x) := by
  induction l generalizing c with
  | nil => cases h
  | cons y l ih =>
    obtain ⟨hy, hl⟩ := List.pairwise_cons.1 hl
    rw [leastBy] at h
    cases hrest : leastBy f l with
    | none =>
      rw [hrest] at h
      cases h
      refine ⟨List.mem_cons_self, fun x hx => ?_⟩
      rcases List.mem_cons.1 hx with rfl | hx
      · exact .inr ⟨rfl, le_rfl⟩
      · rw [leastBy_eq_none hrest] at hx
        cases hx
    | some z =>
      rw [hrest] at h
      obtain ⟨hz, hleast⟩ := ih hl hrest
      have hyz := hy z hz
      obtain rfl : (if f z < f y then z else y) = c := Option.some.inj h
      refine ⟨by split <;> simp [hz], fun x hx => ?_⟩
      rcases List.mem_cons.1 hx with rfl | hx
      · split <;> omega
      · have hxz := hleast x hx
        have hyx := hy x hx
        split <;> omega

theorem coresOf_ascending (d : Nat) : (coresOf d).Pairwise (· < ·) :=
  List.pairwise_map.2 (List.pairwise_lt_range.imp fun h => by omega)

theorem State.bestCore_spec {s : State} {n : Need} {d c : Nat} (h : s.bestCore n (coresOf d) = some c) :
    c ∈ coresOf d ∧ s.fitsOn n c = true ∧ ∀ x ∈ coresOf d, s.fitsOn n x = true →
      (s.coreWarps c).length < (s.coreWarps x).length ∨ ((s.coreWarps c).length = (s.coreWarps x).length ∧ c ≤ x) := by
  obtain ⟨hc, hleast⟩ := leastBy_spec ((coresOf_ascending d).filter _) h
  obtain ⟨hmem, hfits⟩ := List.mem_filter.1 hc
  exact ⟨hmem, hfits, fun x hx hxfits => hleast x (List.mem_filter.2 ⟨hx, hxfits⟩)⟩

/-! ## The handle of a new team (R185) -/

/-- Of more consecutive 32-bit values than a list holds, one is not in it. -/
theorem exists_fresh_of_consecutive (start : Nat) (l : List Nat) (hl : l.length < 2 ^ 32) :
    ∃ h ∈ (List.range (l.length + 1)).map (fun i => (start + i) % 2 ^ 32), h ∉ l := by
  by_contra hall
  push Not at hall
  have hdistinct : ((List.range (l.length + 1)).map fun i => (start + i) % 2 ^ 32).Nodup :=
    List.Nodup.map_on (fun i hi j hj hij => by
      have := List.mem_range.1 hi
      have := List.mem_range.1 hj
      omega) List.nodup_range
  have hle := (hdistinct.subperm hall).length_le
  rw [List.length_map, List.length_range] at hle
  omega

theorem State.freeHandle_spec {s : State} (hteams : s.teams.length < 2 ^ 31) :
    0 < s.freeHandle ∧ s.freeHandle < 2 ^ 32 ∧ s.freeHandle ≠ s.team.handle ∧ ∀ x ∈ s.teams, x.handle ≠ s.freeHandle := by
  obtain ⟨k, hmem, hfresh⟩ := exists_fresh_of_consecutive s.nextId (0 :: s.team.handle :: s.teams.map (·.handle)) (by simp; omega)
  have hfree : ∀ h, (h != 0 && !(s.team.handle :: s.teams.map (·.handle)).contains h) = true ↔
      h ∉ 0 :: s.team.handle :: s.teams.map (·.handle) := fun h => by simp
  unfold State.freeHandle
  dsimp only
  generalize hfound : List.find? _ _ = found
  cases found with
  | none => exact absurd ((hfree k).2 hfresh) (List.find?_eq_none.1 hfound k hmem)
  | some h =>
    obtain ⟨i, -, hi⟩ := List.mem_map.1 (List.mem_of_find?_eq_some hfound)
    have hkept := List.find?_some hfound
    have hunused := (hfree h).1 hkept
    simp only [List.mem_cons, List.mem_map, not_or, not_exists, not_and] at hunused
    obtain ⟨hzero, hteam, hothers⟩ := hunused
    exact ⟨Nat.pos_of_ne_zero hzero, hi ▸ Nat.mod_lt _ (by norm_num), hteam, hothers⟩

/-! ## The initial warps of a new team (R23, R25) -/

theorem NodeDef.getLsbD_lanes (n : NodeDef) (i : Nat) {L : Nat} (hL : L < 32) :
    (n.lanes i).getLsbD L = true ↔ L < n.lfill ∧ n.lfill * i + L < n.threads := by
  rw [NodeDef.lanes, getLsbD_maskOf _ hL]
  simp

theorem initialWarps_length (pr : BitVec 64 → Option (BitVec 8)) (h p0 stamp : Nat) (used : List Nat) (n : NodeDef) :
    (initialWarps pr h p0 stamp used n).length = n.warps := by
  simp [initialWarps]

theorem initialWarps_getElem? {pr : BitVec 64 → Option (BitVec 8)} {h p0 stamp : Nat} {used : List Nat} {n : NodeDef} {i : Nat} {w : Warp}
    (hw : (initialWarps pr h p0 stamp used n)[i]? = some w) :
    ∃ slot, w = newWarp pr h i (n.role i) slot (n.budget (n.role i)) (stamp + i) (n.lanes i) n.entry := by
  rw [initialWarps, List.getElem?_map, Option.map_eq_some_iff] at hw
  obtain ⟨j, hj, rfl⟩ := hw
  obtain rfl : i = j := by
    rw [List.getElem?_eq_some_iff] at hj
    obtain ⟨hlt, hj⟩ := hj
    rwa [List.getElem_range] at hj
  exact ⟨_, rfl⟩

theorem newWarp_frontier (pr : BitVec 64 → Option (BitVec 8)) (h idx role slot vvg stamp : Nat) (live : Mask) (pc : BitVec 64) :
    (newWarp pr h idx role slot vvg stamp live pc).frontier =
      [{ id := stamp, prio := (pr pc).getD 0, pc := pc, mask := live, wait := .ready }] := rfl

theorem State.placeNew_of_sched {s u : State} {p : Pooled} {es : List CopyDesc} (c : Nat) (b : Bool)
    (h : s.placedSched (s.launchOf p.launch) (((s.launchOf p.launch).node? (p.node.getD 0)).getD default) = some (u, es)) :
    s.placeNew p c b = some (u.placeWith (s.launchOf p.launch) (((s.launchOf p.launch).node? (p.node.getD 0)).getD default) es p c b) := by
  unfold State.placeNew
  simp only [h, Option.map_some]

/-- R21, R23, R25, R337, R338: where a new team goes, and how it and its warps stand. -/
theorem teamsArePlacedAndStarted : Sys2Proof.Claims.TeamsArePlacedAndStarted := by
  intro s d p n sched
  refine ⟨fun c h => State.bestCore_spec h, fun c b => ?_, State.freeHandle_spec, fun die => ?_⟩
  · intro l m t
    refine ⟨fun u es h => State.placeNew_of_sched c b h, _, rfl, rfl, rfl, rfl, rfl, rfl, rfl, rfl, rfl, List.length_replicate, _, rfl,
      initialWarps_length _ _ _ _ _ _, fun i w hw => ?_⟩
    obtain ⟨slot, rfl⟩ := initialWarps_getElem? hw
    exact ⟨rfl, rfl, rfl, rfl, rfl, rfl, rfl, fun L hL => m.getLsbD_lanes i hL, _, newWarp_frontier _ _ _ _ _ _ _ _ _, rfl, rfl, rfl⟩
  · rw [exec_teamPlacement, execTeamPlacement]
    cases s.next? die.toNat <;> rfl

/-! ## Bytes that a unit of the package writes (R206) -/

/-- A read of the bytes written gives each of them. -/
theorem Memory.read_writeBytes_same {m : List Host.Cell} (a : Nat) (l : List Byte) {i : Nat} (hi : i < l.length) (h : Memory.wf m = true) :
    Memory.read (Memory.writeBytes m a l) (a + i) = l[i] := by
  induction l generalizing m a i with
  | nil => cases hi
  | cons x l ih =>
    cases i with
    | zero => rw [Memory.writeBytes, Memory.read_writeBytes_other l (by omega) (Memory.wf_write a x h)]; exact Memory.read_write_same a x h
    | succ i =>
      have hi : i < l.length := Nat.lt_of_succ_lt_succ hi
      rw [Memory.writeBytes, List.getElem_cons_succ, ← ih (a + 1) hi (Memory.wf_write a x h)]
      congr 1
      omega

/-- Bytes read one by one. -/
theorem Memory.readBytes_eq {m : List Host.Cell} {a : Nat} {l : List Byte} (h : ∀ i (hi : i < l.length), Memory.read m (a + i) = l[i]) :
    Memory.readBytes m a l.length = l := by
  induction l generalizing a with
  | nil => rfl
  | cons x l ih =>
    rw [List.length_cons, Memory.readBytes, ih fun i hi => ?_]
    · rw [show Memory.read m a = x from h 0 (by simp)]
    · have hnext := h (i + 1) (Nat.succ_lt_succ hi)
      rwa [List.getElem_cons_succ, show a + (i + 1) = a + 1 + i by omega] at hnext

/-- The number that bytes of a number give. -/
theorem leNat_leBytes (x n : Nat) : leNat (leBytes x n) = x % 256 ^ n := by
  induction n generalizing x with
  | zero => simp [leBytes, leNat, Nat.mod_one]
  | succ n ih =>
    rw [leBytes, leNat, ih, BitVec.toNat_ofNat, pow_succ' 256 n, Nat.mod_mul]

theorem leBytes_length (x n : Nat) : (leBytes x n).length = n := by
  induction n generalizing x with
  | zero => rfl
  | succ n ih => rw [leBytes, List.length_cons, ih]

theorem State.putChunk_of_open {s : State} {pa : Nat} (l : List Byte) (h : s.lineHeld (lineOf pa) = false) :
    (s.putChunk pa l).mem = Memory.writeBytes s.mem pa l ∧ (s.putChunk pa l).home = s.home := by
  rw [State.putChunk, h]
  exact ⟨rfl, rfl⟩

theorem mem_linesAt {pa n line : Nat} : line ∈ linesAt pa n ↔ ∃ i, i < n ∧ lineOf (pa + i) = line := by
  simp [linesAt]

/-- One chunk of what is written, in a line of it. -/
def State.putLine (pa : Nat) (l : List Byte) (s : State) (line : Nat) : State :=
  s.putChunk (max pa (128 * line)) ((l.drop (max pa (128 * line) - pa)).take (128 * line + 128 - max pa (128 * line)))

theorem State.putBytes_eq (s : State) (pa : Nat) (l : List Byte) :
    s.putBytes pa l = (linesAt pa l.length).foldl (State.putLine pa l) s := rfl

/-- Where the home of a line answers, its bytes are written and no others. -/
theorem State.putLine_of_open {s : State} {pa line : Nat} {l : List Byte} (hline : line ∈ linesAt pa l.length)
    (hopen : s.lineHeld line = false) (h : Memory.wf s.mem = true) :
    (State.putLine pa l s line).home = s.home ∧ Memory.wf (State.putLine pa l s line).mem = true ∧
      ∀ i (hi : i < l.length), Memory.read (State.putLine pa l s line).mem (pa + i) =
        if lineOf (pa + i) = line then l[i] else Memory.read s.mem (pa + i) := by
  obtain ⟨k, hk, hkline⟩ := mem_linesAt.1 hline
  rw [lineOf] at hkline
  have hlo : lineOf (max pa (128 * line)) = line := by rw [lineOf]; omega
  obtain ⟨hmem, hhome⟩ := State.putChunk_of_open ((l.drop (max pa (128 * line) - pa)).take (128 * line + 128 - max pa (128 * line)))
    (hlo.symm ▸ hopen)
  refine ⟨hhome, ?_, fun i hi => ?_⟩
  · rw [State.putLine, hmem]
    exact Memory.wf_writeBytes _ _ h
  · rw [State.putLine, hmem]
    by_cases hin : lineOf (pa + i) = line
    · rw [lineOf] at hin
      have hat : pa + i = max pa (128 * line) + (pa + i - max pa (128 * line)) := by omega
      rw [if_pos (by rwa [lineOf]), hat, Memory.read_writeBytes_same _ _ (by simp; omega) h]
      simp only [List.getElem_take, List.getElem_drop]
      congr 1
      omega
    · rw [if_neg hin]
      rw [lineOf] at hin
      refine Memory.read_writeBytes_other _ ?_ h
      simp only [List.length_take, List.length_drop]
      omega

theorem State.lineHeld_of_home {s t : State} (h : t.home = s.home) (line : Nat) : t.lineHeld line = s.lineHeld line := by
  rw [State.lineHeld, State.lineHeld, State.homeLine, State.homeLine, h]
  cases s.home.find? fun h => h.line == line <;> rfl

/-- What is written over lines whose homes answer stands in those lines. -/
theorem State.read_foldl_putLine {pa : Nat} {l : List Byte} (lines : List Nat) {s : State} (hlines : lines ⊆ linesAt pa l.length)
    (hopen : ∀ line ∈ lines, s.lineHeld line = false) (h : Memory.wf s.mem = true) {i : Nat} (hi : i < l.length) :
    Memory.read (lines.foldl (State.putLine pa l) s).mem (pa + i) =
      if lineOf (pa + i) ∈ lines then l[i] else Memory.read s.mem (pa + i) := by
  induction lines generalizing s with
  | nil => rfl
  | cons line lines ih =>
    obtain ⟨hline, hlines⟩ := List.cons_subset.1 hlines
    obtain ⟨hhome, hwf, hread⟩ := State.putLine_of_open hline (hopen line List.mem_cons_self) h
    rw [List.foldl_cons, ih hlines (fun x hx => by rw [State.lineHeld_of_home hhome]; exact hopen x (List.mem_cons_of_mem _ hx)) hwf, hread i hi]
    by_cases hin : lineOf (pa + i) ∈ lines
    · rw [if_pos hin, if_pos (List.mem_cons_of_mem _ hin)]
    · simp only [hin, if_false, List.mem_cons, or_false]

/-- Bytes written where every home answers stand in memory. -/
theorem State.readBytes_putBytes {s : State} {pa : Nat} {l : List Byte} (h : Memory.wf s.mem = true) (hopen : s.linesOpen pa l.length = true) :
    Memory.readBytes (s.putBytes pa l).mem pa l.length = l := by
  have hlines : ∀ line ∈ linesAt pa l.length, s.lineHeld line = false := fun line hline => by
    simpa using List.all_eq_true.1 hopen line hline
  refine Memory.readBytes_eq fun i hi => ?_
  rw [State.putBytes_eq, State.read_foldl_putLine _ (List.Subset.refl _) hlines h hi, if_pos (mem_linesAt.2 ⟨i, hi, rfl⟩)]

/-! ## The next record of a queue (R334, R336, R348) -/

theorem State.passRecord_admittedBy (s : State) (q : Nat) : (s.passRecord q).admittedBy q = s.admittedBy q + 1 := by
  simp [State.admittedBy, State.passRecord]

theorem State.passRecord_head {s : State} {q : Nat} (h : Memory.wf s.mem = true) (hopen : s.linesOpen (s.queueAt q + 16) 2 = true) :
    Memory.readNat (s.passRecord q).mem (s.queueAt q + 16) 2 = ((s.queueDesc q).head + 1).toNat := by
  let l := leBytes ((s.queueDesc q).head + 1).toNat 2
  have hlength : l.length = 2 := leBytes_length _ 2
  have hread : Memory.readBytes (s.putBytes (s.queueAt q + 16) l).mem (s.queueAt q + 16) 2 = l := by
    rw [← hlength] at hopen ⊢
    exact State.readBytes_putBytes h hopen
  change leNat (Memory.readBytes (s.putBytes (s.queueAt q + 16) l).mem (s.queueAt q + 16) 2) = _
  rw [hread, leNat_leBytes]
  exact Nat.mod_eq_of_lt ((s.queueDesc q).head + 1).isLt

theorem Wgu.bind_eq_ok {α β : Type} {x : Wgu α} {f : State → α → Wgu β} {t : State} {b : β} :
    x.bind f = .ok t b ↔ ∃ u a, x = .ok u a ∧ f u a = .ok t b := by
  cases x <;> simp [Wgu.bind]

/-- A launch that a record gives has the name it is read under, and the priority and the context of its queue. -/
theorem State.readLaunch_ok {s t : State} {q : QueueDesc} {name r : Nat} {l : Launch} (h : s.readLaunch q name r = .ok t l) :
    l.name = name ∧ l.finished = false ∧ l.prio = q.prio ∧ l.ctx = q.ctx := by
  unfold State.readLaunch at h
  dsimp only at h
  split at h
  · cases h
  obtain ⟨u, forms, -, h⟩ := Wgu.bind_eq_ok.1 h
  split at h
  · cases h
  obtain ⟨u, nodes, -, h⟩ := Wgu.bind_eq_ok.1 h
  obtain ⟨u, sched, -, h⟩ := Wgu.bind_eq_ok.1 h
  split at h
  · cases h
  · cases h
    exact ⟨rfl, rfl, rfl, rfl⟩

/-- An admitted launch is one of the machine's. -/
theorem State.admission_admits {s t : State} {q : Nat} (h : s.admission q = .admits t) :
    ∃ l ∈ t.launches, l.name / 2 ^ 20 = q ∧ l.finished = false ∧ l.prio = (s.queueDesc q).prio ∧ l.ctx = (s.queueDesc q).ctx := by
  unfold State.admission at h
  dsimp only at h
  split at h
  · cases h
  split at h
  · cases h
  split at h
  · cases h
  · cases h
  · next u l hread =>
    split at h
    · cases h
    · cases h
      obtain ⟨hname, hrest⟩ := State.readLaunch_ok hread
      refine ⟨(u.enterLaunch l).2, ?_, ?_, hrest⟩
      · rw [State.poolLaunch_launches]
        exact State.enterLaunch_mem u l
      · change l.name / 2 ^ 20 = q
        omega

/-- What LAUNCH_ADMISSION does with a record. -/
def Admission.outcome (q : Nat) : Admission → Host.Outcome State Fault Refusal
  | .waits => .fault .cannotHappen
  | .admits t => .next (t.passRecord q).wake
  | .rejects t l => (t.reportLaunch l Code.illegal 0 0).elim (.fault .cannotHappen) fun u => .next (u.passRecord q).wake

/-- A queue that has a record posted is served once those before it wait. -/
theorem execLaunchAdmission_of_turn {s : State} {queue : BitVec 12} (hplacing : s.placing = true) (hstage : 6 ≤ s.pkg.stage)
    (hlost : s.settleDue.noteQueues.queuesLost = false) (hopen : s.settleDue.noteQueues.queuesOpen = true)
    (hposted : (s.settleDue.noteQueues.queueDesc queue.toNat).posted = true)
    (hothers : ∀ r, r < 4096 → r ≠ queue.toNat → (s.settleDue.noteQueues.queueDesc r).posted = true →
      s.settleDue.noteQueues.servesBefore r queue.toNat = true → s.settleDue.noteQueues.admission r = .waits) :
    execLaunchAdmission queue s = (s.settleDue.noteQueues.admission queue.toNat).outcome queue.toNat := by
  have hpkg : s.settleDue.noteQueues.placing = s.placing ∧ s.settleDue.noteQueues.pkg.stage = s.pkg.stage := by
    simp [State.placing, State.noteQueues]
  unfold execLaunchAdmission
  simp only [hpkg.1, hpkg.2, hplacing, hlost, hopen, hposted, Nat.not_lt.2 hstage, decide_false, Bool.not_true, Bool.or_false, Bool.false_or]
  rw [if_neg fun hblocked => ?unblocked]
  case unblocked =>
    obtain ⟨r, hr, hblocks⟩ := List.any_eq_true.1 hblocked
    obtain ⟨hr, hbefore⟩ := List.mem_filter.1 hr
    simp only [Bool.and_eq_true, bne_iff_ne] at hbefore
    obtain ⟨⟨hne, hrposted⟩, hserved⟩ := hbefore
    rw [hothers r (List.mem_range.1 hr) hne hrposted hserved] at hblocks
    cases hblocks
  cases s.settleDue.noteQueues.admission queue.toNat with
  | waits => rfl
  | admits t => rfl
  | rejects t l =>
    dsimp only [Admission.outcome]
    cases t.reportLaunch l Code.illegal 0 0 <;> rfl

/-- R334, R336, R348: the next record of a queue whose turn it is. -/
theorem launchesAreAdmittedInTurn : Sys2Proof.Claims.LaunchesAreAdmittedInTurn := by
  intro queue s q z d turn hturn
  obtain ⟨hd3hot, hflr, hstage, hlost, hopen, hposted, hothers⟩ := hturn
  have hexec : exec (.launchAdmission queue) s = (z.admission q).outcome q :=
    execLaunchAdmission_of_turn (State.placing_iff.2 ⟨hd3hot, hflr⟩) hstage hlost hopen hposted fun r hr hne hrposted hserved => by
      have hwaits := hothers r hr hne hrposted hserved
      change z.admission r = .waits
      generalize z.admission r = a at hwaits
      cases a with
      | waits => rfl
      | rejects _ _ => cases hwaits
      | admits _ => cases hwaits
  refine ⟨?_, fun t => ⟨t.passRecord_admittedBy q, State.passRecord_head⟩, fun t => State.admission_admits⟩
  rw [hexec]
  cases z.admission q with
  | waits => rfl
  | admits t => rfl
  | rejects t l =>
    dsimp only [Admission.outcome, Code.illegal]
    cases t.reportLaunch l 0x0001 0 0 <;> rfl

/-- Settles O43: where a new team goes and how it starts, and whose launch is admitted next. -/
theorem launchesAndPlacement : Obligations.LaunchesAndPlacement :=
  ⟨teamsArePlacedAndStarted, launchesAreAdmittedInTurn⟩

end Sys2Proof.Machine
end

section
namespace Sys2Proof.Machine

open Sys2Proof.Claims

/-! ## The checks at issue, in the order of Table 6-6 (R61, R102) -/

theorem State.raiseAll_eq (s : State) (c : BitVec 16) : s.raiseAll c = .raise { code := c, lanes := s.mask, addr := 0 } := rfl

/-- R61 and R102: the first check that fails decides. -/
theorem checksInTheOrderOfTheTable : Sys2Proof.Claims.ChecksInTheOrderOfTheTable := by
  classical
  intro s u rd wr waits window pending stale latch empty void all
  have hwaits : ((rd ++ wr).any s.awaits || (u.ccAwait && s.warp.awaitsCc) || (u.sccAwait && s.warp.awaitsScalarCc)
      || (u.drains && !s.warp.unproduced.isEmpty) || s.warp.lookahead) = true ↔ waits := by
    simp only [waits, Bool.or_eq_true, Bool.and_eq_true, Bool.not_eq_true', List.any_eq_true, List.isEmpty_eq_false_iff, or_assoc]
  have hwindow : (!u.window || !(rd ++ wr).all s.inWindow) = true ↔ window := by
    simp only [window, Bool.or_eq_true, Bool.not_eq_true', List.all_eq_false, Bool.not_eq_true]
  have hpending : ((rd ++ wr).any s.isPending || (u.sccAwait && s.isPending .scc)
      || (match u.slot with | some k => (look s.warp.slots default k).state != .empty | none => false)) = true ↔ pending := by
    cases hslot : u.slot <;> simp only [pending, hslot, Bool.or_eq_true, Bool.and_eq_true, List.any_eq_true, bne_iff_ne, or_assoc] <;> simp
  have hstale : ((u.srcs.filter fun x => !x.dead).flatMap s.srcPlaces).any s.isStale = true ↔ stale := by
    simp only [stale, List.any_eq_true, List.mem_flatMap, List.mem_filter, Bool.not_eq_true']
    constructor
    · rintro ⟨x, ⟨y, ⟨hy, hdead⟩, hx⟩, hs⟩
      exact ⟨y, hy, hdead, x, hx, hs⟩
    · rintro ⟨y, hy, hdead, x, hx, hs⟩
      exact ⟨x, ⟨y, ⟨hy, hdead⟩, hx⟩, hs⟩
  have hlatch : rd.any s.badLatch = true ↔ latch := by simp only [latch, List.any_eq_true]
  have hempty : (!u.readsEmpty && rd.any s.emptySlot) = true ↔ empty := by
    simp only [empty, Bool.and_eq_true, Bool.not_eq_true', List.any_eq_true]
  have hvoid : (frmVt s.warp.frm && u.voids != 0) = true ↔ void := by simp only [void, Bool.and_eq_true, bne_iff_ne]
  have hpriv : (u.privileged && !s.privileged) = true ↔ u.privileged = true ∧ s.privileged = false := by
    simp only [Bool.and_eq_true, Bool.not_eq_true']
  have hgate : s.gate u =
      if (!u.legal) = true then s.raiseAll 0x0001 else if u.privileged = true ∧ s.privileged = false then s.raiseAll 0x0002
      else if waits then .wait else if window then s.raiseAll 0x0008 else if pending then s.raiseAll 0x0007
      else if stale then s.raiseAll 0x0004 else if latch then s.raiseAll 0x0005 else if empty then s.raiseAll 0x0006
      else if (!u.tagsOk) = true then s.raiseAll 0x0003 else if void then .raise { code := 0x0011, lanes := u.voids, addr := 0 }
      else if (!u.uniform) = true then s.raiseAll 0x000A
      else match u.specific with
        | some r => .raise r
        | none => if u.retry then .wait else .go := by
    simp only [← hwaits, ← hwindow, ← hpending, ← hstale, ← hlatch, ← hempty, ← hvoid, ← hpriv]
    rfl
  simp only [all, hgate, State.raiseAll_eq]
  refine ⟨fun h => by simp [h], fun hlegal => ⟨fun h => by simp [hlegal, h], fun hp => ⟨fun h => by simp [hlegal, hp, h], fun hw => ?_⟩⟩⟩
  simp only [hlegal, hp, hw, Bool.not_true, Bool.false_eq_true, if_false]
  refine ⟨?_, ?_, ?_, ?_, ?_, ?_, ?_, ?_, ?_⟩
  · exact fun h => if_pos h
  · intro h1 h; simp [h1, h]
  · intro h1 h2 h; simp [h1, h2, h]
  · intro h1 h2 h3 h; simp [h1, h2, h3, h]
  · intro h1 h2 h3 h4 h; simp [h1, h2, h3, h4, h]
  · intro h1 h2 h3 h4 h5 h; simp [h1, h2, h3, h4, h5, h]
  · intro h1 h2 h3 h4 h5 ht h; simp [h1, h2, h3, h4, h5, ht, h]
  · intro h1 h2 h3 h4 h5 ht h6 h; simp [h1, h2, h3, h4, h5, ht, h6, h]
  · intro h1 h2 h3 h4 h5 ht h6 hu
    simp only [h1, h2, h3, h4, h5, ht, h6, hu, Bool.not_true, Bool.false_eq_true, if_false]
    exact ⟨fun r hr => by rw [hr], fun hr => by rw [hr]⟩

/-! ## Encodings that break the rules (R101) -/

/-- An outcome that begins with the checks of Table 6-6, the first of which refuses an ill-formed encoding of the instruction. -/
inductive Screened (i : Instr) (s : State) : Host.Outcome State Fault Refusal → Prop
  | issue (u : State → Uses) (e : State → State) (h : i.wellFormed = false → (u s.prelude).legal = false) : Screened i s (s.issue u e)
  | attempt (u : State → Uses) (a : State → Attempt) (h : i.wellFormed = false → (u s.prelude).legal = false) : Screened i s (s.attempt u a)

theorem State.gate_of_illegal {s : State} {u : Uses} (h : u.legal = false) :
    s.gate u = .raise { code := 0x0001, lanes := s.mask, addr := 0 } := (checksInTheOrderOfTheTable s u).1 h

theorem Screened.illegal {i : Instr} {s : State} {o : Host.Outcome State Fault Refusal} (h : Screened i s o) (hwf : i.wellFormed = false)
    (hissuing : s.issuing.isSome = true) (hswitch : s.switches = true → s.warp.unproduced = []) :
    o = .next (s.prelude.raise { code := 0x0001, lanes := s.prelude.mask, addr := 0 }) := by
  cases h with
  | issue u e hlegal => exact State.issue_raises e hissuing hswitch (State.gate_of_illegal (hlegal hwf))
  | attempt u a hlegal => exact State.attempt_raises a hissuing hswitch (State.gate_of_illegal (hlegal hwf))

section

variable (s : State) (i : Instr)

theorem screened_issueNext {u : State → Uses} (e : State → State) (h : i.wellFormed = false → (u s.prelude).legal = false) :
    Screened i s (s.issueNext u e) := by unfold State.issueNext; exact .issue _ _ h

theorem screened_vector (srcs : List Src) (d : Src) (t : State → Option Tag) (f : State → Tag → Result) :
    Screened i s (s.vector i srcs d t f) := by unfold State.vector; exact screened_issueNext _ _ _ id

theorem screened_scalarOp (srcs : List SOp) (d : SOp) (cc : Bool) (f : State → Word × Word × Option Bool) :
    Screened i s (s.scalarOp i srcs d cc f) := by unfold State.scalarOp; exact screened_issueNext _ _ _ id

theorem screened_packed (srcs : List Src) (d : VOp) (ts : List Tag) (signed : Bool) (m : Narrow) (op : Int → Int → Int → Int) :
    Screened i s (s.packed i srcs d ts signed m op) := by unfold State.packed; exact screened_vector ..

theorem screened_bitwise (srcs : List Src) (d : VOp) (g : List Word → Word) : Screened i s (s.bitwise i srcs d g) := by
  unfold State.bitwise; exact screened_vector ..

theorem screened_carry (srcs : List Src) (a b d : VOp) (sub : Bool) : Screened i s (s.carry i srcs a b d sub) := by
  unfold State.carry; exact screened_issueNext _ _ _ id

theorem screened_compare (srcs : List Src) (d : VOp) (holds : List Word → Bool) : Screened i s (s.compare i srcs d holds) := by
  unfold State.compare; exact screened_issueNext _ _ _ id

theorem screened_divide (a b d : VOp) (k : BitVec 4) (signed : Bool) : Screened i s (s.divide i a b d k signed) := by
  unfold State.divide; exact screened_issueNext _ _ _ id

theorem screened_float (srcs : List (VOp × BitVec 1)) (d : VOp) (ts : List Tag) (l : Option (BitVec 4))
    (g : State → Tag → List Nat → Nat × Word) : Screened i s (s.float i srcs d ts l g) := by
  unfold State.float; exact screened_issueNext _ _ _ id

theorem screened_residue (srcs : List Src) (d : VOp) (op : List Int → Int) : Screened i s (s.residue i srcs d op) := by
  unfold State.residue; exact screened_issueNext _ _ _ id

theorem screened_load (opcode : Nat) (d a b : VOp) (n k : Nat) (kind : SlotKind) : Screened i s (s.load i opcode d a b n k kind) :=
  .attempt _ _ id

theorem screened_commitBy (g : Tag) (slots : List Nat) : Screened i s (s.commitBy i g slots) := .attempt _ _ id

theorem screened_matInstr {u : State → Uses} (act : State → Team) (h : i.wellFormed = false → (u s.prelude).legal = false) :
    Screened i s (s.matInstr u act) := by unfold State.matInstr; exact screened_issueNext _ _ _ h

theorem screened_flushRange (a b : SOp) (drop : Bool) : Screened i s (s.flushRange i a b drop) := .attempt _ _ id

end

/-- Every instruction word puts the check of its encoding first. -/
theorem screened_exec {i : Instr} (hword : isEvent i = false) (s : State) : Screened i s (exec i s) := by
  cases i with
  | nop | yield | lit | litHi | blk | winb | swinb | ocmovRd | ocmovWr =>
    simp only [exec, execNop, execYield, execLit, execLitHi, execBlk, execWinb, execSwinb, execOcmovRd, execOcmovWr]
    exact .issue _ _ id
  | sel | addsubw | sldc | sget | fcmp | fdot2 | idot4 | rmac | renc | cvt =>
    simp only [exec, execSel, execAddsubw, execSldc, execSget, execFcmp, execFdot2, execIdot4, execRmac, execRenc, execCvt]
    exact .issue _ _ id
  | grow | shrink | malloc =>
    simp only [exec, execGrow, execShrink, execMalloc]
    exact .issue _ _ id
  | bra | bnz | bz | call | callr | jmpr | ret =>
    simp only [exec, execBra, execBnz, execBz, execCall, execCallr, execJmpr, execRet]
    exact .issue _ _ id
  | exit | tryRegion | endtry | throwCode | rethrow | xget | barCount | attach =>
    simp only [exec, execExit, execTryRegion, execEndtry, execThrowCode, execRethrow, execXget, execBarCount, execAttach]
    exact .issue _ _ id
  | lds | sts | cinvDiscard | pref | cpstage | cpgo | cpred | cpcancel | cpq =>
    simp only [exec, execLds, execSts, execCinvDiscard, execPref, execCpstage, execCpgo, execCpred, execCpcancel, execCpq]
    exact .issue _ _ id
  | mma | mcvt | mwait | mprog =>
    simp only [exec, execMma, execMcvt, execMwait, execMprog]
    exact .issue _ _ id
  | trace | qstat =>
    simp only [exec, execTrace, execQstat]
    exact .issue _ _ id
  | tret | csrr | csrw | rgne | rgnl | ocrd | ocwr | ltrd | ltwr | lbrd | lbwr | illegalWord =>
    simp only [exec, execTret, execCsrr, execCsrw, execRgne, execRgnl, execOcrd, execOcwr, execLtrd, execLtwr, execLbrd, execLbwr,
      execIllegalWord]
    exact .issue _ _ id
  | iadd | isub =>
    simp only [exec, execIadd, execIsub]
    split
    · exact screened_carry ..
    · exact screened_packed ..
  | imul | imad | imin | imax | iabs | lea | iaddi | imuli =>
    simp only [exec, execImul, execImad, execImin, execImax, execIabs, execLea, execIaddi, execImuli]
    exact screened_packed ..
  | andFam | orFam | xorFam | shiftFam | bfx | bfi | bitFam | andi | ori | xori | shli | shri | sari =>
    simp only [exec, execAndFam, execOrFam, execXorFam, execShiftFam, execBfx, execBfi, execBitFam, execAndi, execOri, execXori, execShli,
      execShri, execSari]
    exact screened_bitwise ..
  | icmp | icmpn | icmpieq | icmpilt | icmpine =>
    simp only [exec, execIcmp, execIcmpn, execIcmpieq, execIcmpilt, execIcmpine]
    exact screened_compare ..
  | mulw | shfl | vote | vred | movi | tag | mov | movD =>
    simp only [exec, execMulw, execShfl, execVote, execVred, execMovi, execTag, execMov, execMovD]
    exact screened_vector ..
  | idiv | ndiv =>
    simp only [exec, execIdiv, execNdiv]
    exact screened_divide ..
  | sadd | ssub | smul | slog | sshf | scmp | ssel | saddi | smovi | sminmax =>
    simp only [exec, execSadd, execSsub, execSmul, execSlog, execSshf, execScmp, execSsel, execSaddi, execSmovi, execSminmax]
    exact screened_scalarOp ..
  | sld | sst | barArrive | barWait | barSync | barGridSync | detach | stg | atom | red | fence | monw | regroup | enq | enqc | trap | tlbinv |
    tlbinvAll | halt =>
    simp only [exec, execSld, execSst, execBarArrive, execBarWait, execBarSync, execBarGridSync, execDetach, execStg, execAtom, execRed,
      execFence, execMonw, execRegroup, execEnq, execEnqc, execTrap, execTlbinv, execTlbinvAll, execHalt]
    exact .attempt _ _ id
  | fadd | fsub | fmul | ffma | fminmax | fsign | frcp | frsq | fsqrt | fexp2 | flog2 | fsin | fcos | fdiv | fround =>
    simp only [exec, execFadd, execFsub, execFmul, execFfma, execFminmax, execFsign, execFrcp, execFrsq, execFsqrt, execFexp2, execFlog2,
      execFsin, execFcos, execFdiv, execFround]
    exact screened_float ..
  | radd | rmul | rneg =>
    simp only [exec, execRadd, execRmul, execRneg]
    exact screened_residue ..
  | rcrt =>
    simp only [exec, execRcrt]
    split <;> exact .issue _ _ id
  | ldgW | ldgD | ldgQ =>
    simp only [exec, execLdgW, execLdgD, execLdgQ]
    exact screened_load ..
  | commit | commitAll =>
    simp only [exec, execCommit, execCommitAll]
    exact screened_commitBy ..
  | mconv | mmask | mld | mst | mzero | mfree =>
    simp only [exec, execMconv, execMmask, execMld, execMst, execMzero, execMfree]
    exact screened_matInstr _ _ _ id
  | mset =>
    simp only [exec, execMset]
    split
    · exact .attempt _ _ id
    · split
      · exact screened_matInstr _ _ _ id
      · exact screened_matInstr _ _ _ id
  | svc =>
    simp only [exec, execSvc]
    exact .attempt _ _ fun h => by simp [h]
  | cflush | cinv =>
    simp only [exec, execCflush, execCinv]
    exact screened_flushRange ..
  | _ => cases hword
/-- R101: an encoding that breaks the rules faults with ILLEGAL and has no other effect. -/
theorem illFormedWordsAreIllegal : Sys2Proof.Claims.IllFormedWordsAreIllegal :=
  fun _ s hword hwf hissuing hswitch => (screened_exec hword s).illegal hwf hissuing hswitch

/-- Settles O36: the gate is a ladder of checks, and every word puts the check of its encoding first. -/
theorem checksAndIllegalWords : Obligations.ChecksAndIllegalWords := ⟨checksInTheOrderOfTheTable, illFormedWordsAreIllegal⟩

end Sys2Proof.Machine
end

section
namespace Sys2Proof.Machine

open Sys2Proof.Claims

/-! ## Instructions that go with the checks they are stated with -/

theorem State.issue_of_go {s : State} {u : State → Uses} (e : State → State) (h : Goes s u) :
    s.issue u e = .next (e s.prelude).finish := State.issue_goes e h.1 h.2.1 h.2.2

theorem State.issueNext_of_go {s : State} {u : State → Uses} (e : State → State) (h : Goes s u) :
    s.issueNext u e = .next (wentOn (e s.prelude)) := State.issue_of_go (fun s => (e s).advance) h

/-- An instruction with a fault of its own, in a state where it would else go or wait on a condition of its own. -/
theorem State.issue_own_fault {s : State} {u u' : State → Uses} {r : Raise} {b : Bool} (e : State → State) (h : Goes s u)
    (hplain : (u s.prelude).plain) (huniform : (u s.prelude).uniform = true)
    (hu : u' s.prelude = { u s.prelude with specific := some r, retry := b }) : s.issue u' e = .next (s.prelude.raise r) := by
  obtain ⟨hissuing, hswitch, hgate⟩ := h
  obtain ⟨hpriv, htags, hvoids, -⟩ := hplain
  refine State.issue_raises e hissuing hswitch ?_
  rw [hu]
  refine (State.gate_more hgate (u s.prelude).privileged (u s.prelude).tagsOk (u s.prelude).uniform b (u s.prelude).voids (some r)).trans ?_
  simp [hpriv, htags, hvoids, huniform]

/-! ## The pool and its arbiter (R65 to R68, R156, R317) -/

theorem exec_grow (d : SOp) (bl : BitVec 1) (g : BitVec 8) (s : State) : exec (.grow d bl g) s = execGrow d bl g s := rfl

theorem exec_shrink (d : SOp) (g : BitVec 8) (s : State) : exec (.shrink d g) s = execShrink d g s := rfl

theorem exec_malloc (d : SOp) (bl : BitVec 1) (c : BitVec 5) (s : State) : exec (.malloc d bl c) s = execMalloc d bl c s := rfl

theorem exec_mfree (c : BitVec 5) (s : State) : exec (.mfree c) s = execMfree c s := rfl

theorem exec_poolGrant (core : Nat) (s : State) : exec (.poolGrant core) s = execPoolGrant core s := rfl

theorem exec_poolVictim (core : Nat) (s : State) : exec (.poolVictim core) s = execPoolVictim core s := rfl

theorem State.arbitrate_of_none {s : State} (h : s.fittingHead s.core.num = none) : s.arbitrate = s := by
  simp [State.arbitrate, h]

/-- The queue of a state's core is empty and n granules are free. -/
def State.roomFor (s : State) (n : Nat) : Prop := (s.poolQueue s.core.num).isEmpty = true ∧ n ≤ s.freeGranules s.core.num

theorem State.request_of_room {s : State} (d : SOp) {r : PoolReq} (b : Bool) (h : s.arbitrate.roomFor r.granules) :
    s.request d r b = s.arbitrate.grantEnd r := by
  rw [State.request]
  exact if_pos (by simpa [State.roomFor] using h)

theorem State.request_of_no_room {s : State} (d : SOp) {r : PoolReq} (b : Bool) (h : ¬ s.arbitrate.roomFor r.granules) :
    s.request d r b = if b then s.arbitrate.holdAs (.pool r) else (s.arbitrate.status d 1).advance := by
  rw [State.request]
  exact if_neg (by simpa [State.roomFor] using h)

/-- What a request comes to: granted where there is room, else refused, or waiting where it blocks. -/
theorem State.request_cases (s : State) (d : SOp) (r : PoolReq) (bl : BitVec 1) :
    (s.arbitrate.roomFor r.granules → s.request d r (bl == 1) = s.arbitrate.grantEnd r) ∧
    (¬ s.arbitrate.roomFor r.granules → bl = 0 → s.request d r (bl == 1) = (s.arbitrate.status d 1).advance) ∧
    (¬ s.arbitrate.roomFor r.granules → bl = 1 → s.request d r (bl == 1) = s.arbitrate.holdAs (.pool r)) := by
  refine ⟨fun h => State.request_of_room d _ h, fun h hb => ?_, fun h hb => ?_⟩
  · rw [State.request_of_no_room d _ h, hb]; rfl
  · rw [State.request_of_no_room d _ h, hb]; rfl

theorem Warp.growBy_vvg (w : Warp) (g : Nat) : (w.growBy g).vvg = w.vvg + g := rfl

theorem State.settle_nil (s : State) (e : WinEntry) : s.settle [] e = s.enter e := rfl

/-- A status is still to be produced: its entry changes the window alone. -/
theorem State.status_besidesResults (s : State) (d : SOp) (x : Word) : (s.status d x).warp.besidesResults = s.warp.besidesResults :=
  Warp.push_besidesResults _ _

theorem Warp.vvg_of_besidesResults {v w : Warp} (h : v.besidesResults = w.besidesResults) : v.vvg = w.vvg :=
  show v.besidesResults.vvg = w.besidesResults.vvg from h ▸ rfl

/-- The faults of MFREE: more tiles than the team has, and a tile that an open register names. -/
theorem mfree_no_fault {s : State} {c : BitVec 5} (hle : c.toNat ≤ s.team.tiles.length)
    (hopen : ∀ x ∈ s.team.convs.toList, x.state = .open → x.c < s.team.tiles.length - c.toNat ∧ x.d < s.team.tiles.length - c.toNat) :
    firstFault [s.require (decide (c.toNat ≤ s.team.tiles.length)) Code.window,
      s.require (c == 0 || !(s.team.convs.toList.any fun x => x.state == .open &&
        (decide (s.team.tiles.length - c.toNat ≤ x.c) || decide (s.team.tiles.length - c.toNat ≤ x.d)))) Code.mismatch] = none := by
  have hnamed : (s.team.convs.toList.any fun x => x.state == .open &&
      (decide (s.team.tiles.length - c.toNat ≤ x.c) || decide (s.team.tiles.length - c.toNat ≤ x.d))) = false := by
    simp only [List.any_eq_false, Bool.and_eq_true, Bool.or_eq_true, beq_iff_eq, decide_eq_true_eq]
    rintro x hx ⟨hstate, h⟩
    have := hopen x hx hstate
    omega
  simp only [firstFault, State.require, hle, hnamed, decide_true, Bool.not_false, Bool.or_true, if_true, List.findSome?_cons, List.findSome?_nil, id]

theorem execMfree_of_kept {s : State} {c : BitVec 5} (h : Goes s (bare (.mfree c))) (hle : c.toNat ≤ s.prelude.team.tiles.length)
    (hopen : ∀ x ∈ s.prelude.team.convs.toList, x.state = .open →
      x.c < s.prelude.team.tiles.length - c.toNat ∧ x.d < s.prelude.team.tiles.length - c.toNat)
    (hdone : ∀ o ∈ s.prelude.team.mops, o.phase = .done) :
    execMfree c s = .next (wentOn ({ s.prelude with
      team := { s.prelude.team with tiles := s.prelude.team.tiles.take (s.prelude.team.tiles.length - c.toNat) } } : State).enterInvalid) := by
  have hbusy : (s.prelude.team.mops.any fun o => o.phase != .done && decide (s.prelude.team.tiles.length - c.toNat ≤ o.d)) = false := by
    simp only [List.any_eq_false, Bool.and_eq_true, bne_iff_ne]
    exact fun o ho hne => hne.1 (hdone o ho)
  unfold execMfree State.matInstr State.issueNext
  refine (State.issue_of_goes (n := true) (x := none) _ h ⟨rfl, rfl, rfl, rfl⟩ ?_).trans rfl
  simp only [State.matUses, mfree_no_fault hle hopen, hbusy, Bool.and_false, bare]

theorem poolGrantsRefusesOrWaits : Sys2Proof.Claims.PoolGrantsRefusesOrWaits := by
  intro d bl g c s p u q free
  have hcases := fun r => p.request_cases d r bl
  refine ⟨fun h => ?grow, fun h => ?malloc, State.arbitrate_of_none, fun n => ?granted, fun h hle hopen hdone => ?mfree, fun h hlt => ?window⟩
  case grow =>
    rw [exec_grow, execGrow, State.issue_of_go _ h]
    refine ⟨fun hg => by rw [if_pos hg]; rfl, fun hg hbig => by rw [if_neg hg, if_pos hbig]; rfl, fun hg hfit => ?_⟩
    rw [if_neg hg, if_neg (Nat.not_lt.2 hfit)]
    obtain ⟨hroom, hrefused, hwaits⟩ := hcases (.grow d g.toNat)
    exact ⟨fun hf => by rw [hroom hf], fun hf hb => by rw [hrefused hf hb]; rfl, fun hf hb => by rw [hwaits hf hb]⟩
  case malloc =>
    rw [exec_malloc, execMalloc, State.issue_of_go (u := fun _ => { State.matUses (.malloc d bl c) [] none with sdsts := [{ op := d }] }) _ h]
    refine ⟨fun hc => by rw [if_pos hc]; rfl, fun hc hbig => by rw [if_neg hc, if_pos hbig]; rfl, fun hc hfit => ?_⟩
    rw [if_neg hc, if_neg (Nat.not_lt.2 hfit)]
    obtain ⟨hroom, hrefused, hwaits⟩ := hcases (.malloc d c.toNat)
    exact ⟨fun hf => by rw [hroom hf], fun hf hb => by rw [hrefused hf hb]; rfl, fun hf hb => by rw [hwaits hf hb]⟩
  case granted =>
    exact Warp.vvg_of_besidesResults (State.status_besidesResults _ d 0)
  case mfree =>
    exact ⟨_, (exec_mfree c s).trans (execMfree_of_kept h hle hopen hdone), rfl⟩
  case window =>
    have hfew : ¬ c.toNat ≤ s.prelude.team.tiles.length := Nat.not_le.2 hlt
    rw [exec_mfree]
    unfold execMfree State.matInstr State.issueNext
    refine State.issue_own_fault (b := c != 0 && p.team.mops.any fun o => o.phase != .done && decide (p.team.tiles.length - c.toNat ≤ o.d)) _ h
      ⟨rfl, rfl, rfl, rfl⟩ rfl ?_
    simp only [State.matUses, bare, firstFault, State.require, decide_eq_true_eq, hfew, if_false, List.findSome?_cons, id]
    rfl

/-! ### SHRINK (R66) -/

theorem State.shrinkCheck_of_window {s : State} {g : Nat} (hg : g ≠ 0)
    (h : s.warp.vvg ≤ g ∨ (s.warp.wb ≠ 0 ∧ 8 * (s.warp.vvg - g) < s.warp.wb + 64)) :
    s.shrinkCheck g = some { code := 0x0008, lanes := s.mask, addr := 0 } := by
  rw [State.shrinkCheck]; exact (if_neg hg).trans (if_pos h)

theorem any_pending_iff (w : Warp) (a n : Nat) :
    ((List.range n).any fun i => (w.bankReg (a + i)).pending) = true ↔ ∃ r, a ≤ r ∧ r < a + n ∧ (w.bankReg r).pending = true := by
  simp only [List.any_eq_true, List.mem_range]
  constructor
  · rintro ⟨i, hi, hp⟩
    exact ⟨a + i, by omega, by omega, hp⟩
  · rintro ⟨r, hr, hlt, hp⟩
    exact ⟨r - a, by omega, by rwa [Nat.add_sub_cancel' hr]⟩

theorem State.shrinkCheck_of_pending {s : State} {g : Nat} (hg : g ≠ 0)
    (hfit : ¬ (s.warp.vvg ≤ g ∨ (s.warp.wb ≠ 0 ∧ 8 * (s.warp.vvg - g) < s.warp.wb + 64)))
    (h : ∃ r, 8 * (s.warp.vvg - g) ≤ r ∧ r < 8 * (s.warp.vvg - g) + 8 * g ∧ (s.warp.bankReg r).pending = true) :
    s.shrinkCheck g = some { code := 0x0007, lanes := s.mask, addr := 0 } := by
  rw [State.shrinkCheck]; exact (if_neg hg).trans ((if_neg hfit).trans (if_pos ((any_pending_iff ..).2 h)))

theorem State.shrinkCheck_of_fit {s : State} {g : Nat}
    (hfit : ¬ (g ≠ 0 ∧ (s.warp.vvg ≤ g ∨ (s.warp.wb ≠ 0 ∧ 8 * (s.warp.vvg - g) < s.warp.wb + 64))))
    (h : ¬ (g ≠ 0 ∧ ∃ r, 8 * (s.warp.vvg - g) ≤ r ∧ r < 8 * (s.warp.vvg - g) + 8 * g ∧ (s.warp.bankReg r).pending = true)) :
    s.shrinkCheck g = none := by
  rw [State.shrinkCheck]
  by_cases hg : g = 0
  · exact if_pos hg
  · exact (if_neg hg).trans ((if_neg fun hw => hfit ⟨hg, hw⟩).trans (if_neg fun hp => h ⟨hg, (any_pending_iff ..).1 hp⟩))

theorem execShrink_of_goes {s : State} {d : SOp} {g : BitVec 8} {x : Option Raise}
    (h : Goes s fun _ => { legal := (Instr.shrink d g).wellFormed, sdsts := [{ op := d }] }) (hx : s.prelude.shrinkCheck g.toNat = x) :
    execShrink d g s = .next (x.elim
      (wentOn (({ s.prelude with warp := s.prelude.warp.shrinkBy g.toNat } : State).status d 0)) s.prelude.raise) := by
  unfold execShrink State.issueNext
  exact State.issue_of_goes (n := true) _ h ⟨rfl, rfl, rfl, rfl⟩ (by rw [hx])

/-! ### The blocking queue (R67, R68) -/

theorem State.grantHead_of_fit {s q : State} {core : Nat} {w : Warp} {r : PoolReq} (hhead : s.poolHead core = some w)
    (hreq : w.request = some r) (hq : s.focusOn w.team w.idx = some q) (hfit : r.granules ≤ s.freeGranules core)
    (hissuing : ({ q with warp := { q.warp with hold := .none } } : State).issuing.isSome = true) :
    s.grantHead core = some (({ q with warp := { q.warp with hold := .none } } : State).grantEnd r) := by
  have hf : s.fittingHead core = some (w, r) := by simp [State.fittingHead, hhead, hreq, hfit]
  simp only [State.grantHead, hf, hq, hissuing, if_true]

theorem State.grantHead_of_no_fit {s : State} {core : Nat} {w : Warp} {r : PoolReq} (hhead : s.poolHead core = some w)
    (hreq : w.request = some r) (hfit : s.freeGranules core < r.granules) : s.grantHead core = none := by
  have hf : s.fittingHead core = none := by simp [State.fittingHead, hhead, hreq, Nat.not_le.2 hfit]
  simp only [State.grantHead, hf]

theorem queue_stuck {l q : List Warp} (h : ∀ x ∈ l, (∃ y ∈ q, y.team = x.team) → x.poolStuck = true) :
    (l.all fun w => !(q.any fun x => x.team == w.team) || w.poolStuck) = true := by
  simp only [List.all_eq_true, Bool.or_eq_true, Bool.not_eq_true']
  intro x hx
  cases hany : q.any fun y => y.team == x.team with
  | false => exact .inl rfl
  | true =>
    obtain ⟨y, hy, hteam⟩ := List.any_eq_true.1 hany
    exact .inr (h x hx ⟨y, hy, beq_iff_eq.1 hteam⟩)

theorem shrinkAndTheBlockingQueue : Sys2Proof.Claims.ShrinkAndTheBlockingQueue := by
  intro d g core s p u left tooFar waits
  have hzero : g ≠ 0 ↔ g.toNat ≠ 0 := not_congr (by rw [← BitVec.toNat_inj]; rfl)
  refine ⟨fun h hfar hwaits => ?fits, fun h hfar => ?window, fun h hfar hwaits => ?pending, ?grant,
    fun w r hhead hreq hfit q hq => ?full, ?victim⟩
  case fits =>
    rw [exec_shrink, execShrink_of_goes h (State.shrinkCheck_of_fit (by rwa [← hzero]) (by rwa [← hzero]))]
    rfl
  case window =>
    rw [exec_shrink, execShrink_of_goes h (State.shrinkCheck_of_window (hzero.1 hfar.1) hfar.2)]
    rfl
  case pending =>
    rw [exec_shrink, execShrink_of_goes h
      (State.shrinkCheck_of_pending (hzero.1 hwaits.1) (fun hw => hfar ⟨hwaits.1, hw⟩) hwaits.2)]
    rfl
  case grant =>
    intro w r q hhead hreq hq hfit v hissuing
    rw [exec_poolGrant, execPoolGrant, State.grantHead_of_fit hhead hreq hq hfit hissuing]
  case full =>
    rw [exec_poolGrant, execPoolGrant, State.grantHead_of_no_fit hhead hreq hfit]
  case victim =>
    intro w r v q hhead hreq hfit hvictim hstuck hrel hq z
    rw [exec_poolVictim, execPoolVictim]
    simp only [hhead, hvictim, hreq, hq, queue_stuck hstuck, hrel, hfit, decide_true, Bool.not_false, Bool.and_true, if_true]
    rfl

/-- Settles O30: a request is granted, refused or waits by the room that the arbiter leaves, and the queue's head and victim are determined. -/
theorem poolAndItsQueue : Obligations.PoolAndItsQueue := ⟨poolGrantsRefusesOrWaits, shrinkAndTheBlockingQueue⟩

end Sys2Proof.Machine
end

section
namespace Sys2Proof.Machine

open Sys2Proof.Claims

/-! ## What the window's drain and a new entry of it leave (R52, R53) -/

/-- The warp but for its window and its banks. -/
def Warp.besidesBanks (w : Warp) : Warp :=
  { w with window := [], outs := [], pushed := 0, bank := Vector.replicate 256 VReg.blank }

/-- What does not look at the window and the banks is the same in two warps that differ there alone. -/
theorem Warp.same_of_besidesBanks {β : Type} (p : Warp → β) (hp : ∀ w, p w.besidesBanks = p w) {v w : Warp}
    (h : v.besidesBanks = w.besidesBanks) : p v = p w := by rw [← hp v, h, hp w]

theorem Warp.writeBack_besidesBanks (w : Warp) (x : WinReg) : (w.writeBack x).besidesBanks = w.besidesBanks := by
  unfold Warp.writeBack; split <;> rfl

theorem Warp.writeBackAll_besidesBanks (w : Warp) (e : WinEntry) : (w.writeBackAll e).besidesBanks = w.besidesBanks := by
  rw [Warp.writeBackAll, ← List.foldl_reverse]
  exact foldl_keeps Warp.besidesBanks (fun w x => w.writeBack_besidesBanks x) _ w

theorem Warp.leave_besidesBanks (w : Warp) (e : WinEntry) : (w.leave e).besidesBanks = w.besidesBanks := by
  unfold Warp.leave
  split
  · exact w.writeBackAll_besidesBanks e
  · rfl

theorem Warp.push_besidesBanks (w : Warp) (e : WinEntry) : (w.push e).besidesBanks = w.besidesBanks := by
  unfold Warp.push
  dsimp only
  rw [foldl_keeps Warp.besidesBanks Warp.leave_besidesBanks]
  exact foldl_keeps Warp.besidesBanks (f := fun w (x : WinReg) => (w.killReg x.reg).setStale x.reg false) (fun _ _ => rfl) e.regs w

theorem Warp.drain_besidesBanks (w : Warp) : w.drain.besidesBanks = w.besidesBanks :=
  foldl_keeps Warp.besidesBanks Warp.writeBackAll_besidesBanks w.window.reverse w

theorem State.enterInvalid_besidesBanks (s : State) : s.enterInvalid.warp.besidesBanks = s.warp.besidesBanks :=
  (Warp.push_besidesBanks _ _).trans (by simp [Warp.besidesBanks, Warp.orFlags, WinEntry.blank])

theorem Warp.drain_regData (w : Warp) {r : Nat} (hr : r < 256) : w.drain.regData r = w.regData r :=
  congrArg Prod.fst ((w.drain.value_eq r).symm.trans ((w.drain_value r hr).trans (w.value_eq r)))

theorem Warp.drain_regTag (w : Warp) {r : Nat} (hr : r < 256) : w.drain.regTag r = w.regTag r :=
  congrArg Prod.snd ((w.drain.value_eq r).symm.trans ((w.drain_value r hr).trans (w.value_eq r)))

/-! ## Trap entry (R69, R187) -/

theorem exec_trap (n : BitVec 6) (s : State) : exec (.trap n) s = execTrap n s := rfl

theorem exec_tret (s : State) : exec .tret s = execTret s := rfl

theorem exec_trapEntry (h w : Nat) (s : State) : exec (.trapEntry h w) s = execTrapEntry h w s := rfl

theorem getLsbD_foldl_or_mask (l : List Entry) (m : Mask) (L : Nat) :
    (l.foldl (fun m e => m ||| e.mask) m).getLsbD L = true ↔ m.getLsbD L = true ∨ ∃ x ∈ l, x.mask.getLsbD L = true := by
  induction l generalizing m with
  | nil => simp
  | cons e l ih => rw [List.foldl_cons, ih, BitVec.getLsbD_or, Bool.or_eq_true, List.exists_mem_cons_iff, or_assoc]

theorem Warp.look_latchCopies (w : Warp) {k : Nat} (hk : k < 8) :
    look w.latchCopies Copy.blank k =
      { data := (w.latchEntry k).latch, tag := (w.latchEntry k).tag, valid := (w.latchEntry k).valid,
        regs := ((w.latchEntry k).regs.filter fun x => x.life != .gone).map (·.reg) } := by
  simp [look, Warp.latchCopies, hk]

theorem trapEntrySavesContext : Sys2Proof.Claims.TrapEntrySavesContext := by
  intro s cause pc fr n t
  have hfield : ∀ {β : Type} (p : Warp → β), (∀ w, p w.besidesBanks = p w) → p s.warp.drain = p s.warp :=
    fun p hp => Warp.same_of_besidesBanks p hp s.warp.drain_besidesBanks
  refine ⟨rfl, rfl, rfl, rfl, rfl, rfl, ⟨_, rfl, rfl, rfl, fun L => ?lanes⟩, fun k hk => ?latches, fun r hr => ?regs,
    hfield (·.sregs) fun _ => rfl, hfield (·.oc) fun _ => rfl, hfield (·.frm) fun _ => rfl, hfield (·.ccl) fun _ => rfl,
    hfield (·.lit) fun _ => rfl, rfl, rfl⟩
  case lanes => exact (getLsbD_foldl_or_mask s.warp.frontier 0 L).trans (by simp)
  case latches =>
    have hcopy : look t.warp.shadow Copy.blank k = _ := s.warp.look_latchCopies hk
    rw [hcopy]
    exact ⟨rfl, rfl, rfl⟩
  case regs => exact ⟨s.warp.drain_regData hr, s.warp.drain_regTag hr⟩

/-- A fault at TDEPTH 1 leaves a DOUBLE: that of a park that stands, or its own (R186). -/
theorem State.raise_double {s : State} (h : s.warp.tdepth = true) (r : Raise) : (s.raise r).warp.double.isSome = true := by
  change (s.takeFault r s.entry.pc).warp.double.isSome = true
  unfold State.takeFault
  by_cases hp : s.warp.parked = true
  · rw [if_pos hp]
    rwa [Warp.parked, if_pos h] at hp
  · rw [if_neg hp, if_pos h]
    rfl

theorem trapEntersOrDoubles : Sys2Proof.Claims.TrapEntersOrDoubles := by
  intro n s p t
  refine ⟨fun h => ?trap, fun h w q hq hpre hdepth hquiet hatom hfr hdel hgrant => ?preempt⟩
  case trap =>
    obtain ⟨hissuing, hswitch, hgate⟩ := h
    rw [exec_trap, execTrap, State.attempt_goes _ hissuing hswitch hgate]
    refine ⟨fun hdepth hquiet => ?_, fun hdepth hquiet => ?_, fun hdepth => ?_⟩
    · have hcause : tcauseOf 0 n.toNat false = BitVec.ofNat 32 (2 ^ 16 * n.toNat) := by simp [tcauseOf, Nat.mul_comm]
      simp only [p, t] at hdepth hquiet ⊢
      simp only [hdepth, hquiet, hcause, Bool.not_true, Bool.false_eq_true, if_false]
    · simp only [p] at hdepth hquiet ⊢
      simp only [hdepth, hquiet, Bool.not_false, Bool.false_eq_true, if_false, if_true]
    · simp only [p] at hdepth
      simp only [hdepth, if_true]
      exact ⟨_, rfl, State.raise_double hdepth _⟩
  case preempt =>
    rw [exec_trapEntry, execTrapEntry]
    have hne : q.warp.frontier.isEmpty = false := by simpa using hfr
    simp only [hq, hpre, hdepth, hquiet, hatom, hne, hdel, hgrant, Bool.not_true, Bool.or_self, Bool.false_eq_true, if_false]
    exact ⟨_, rfl, rfl, rfl, rfl⟩

/-! ## The return from a trap (R69, R188, R189) -/

/-- A frontier whose entries have numbers of their own, all below n. -/
structure Numbered (fr : List Entry) (n : Nat) : Prop where
  below : ∀ x ∈ fr, x.id < n
  apart : ∀ x ∈ fr, ∀ y ∈ fr, x.id = y.id → x = y

/-- An entry at a PC holds the lanes of a mask. -/
def Holds (fr : List Entry) (m : Mask) (pc : BitVec 64) : Prop :=
  ∃ e ∈ fr, e.pc = pc ∧ ∀ L, m.getLsbD L = true → e.mask.getLsbD L = true

/-- An entry that joins a frontier stands in it by itself, or merges with one that stood at its PC and now holds the lanes of both. -/
theorem placeEntry_cases (pr : BitVec 64 → Option (BitVec 8)) (last : Option Nat) (e : Entry) (fr : List Entry) :
    (∃ p, placeEntry pr last e fr = insertEntry { e with prio := p } fr) ∨
      ∃ x ∈ fr, ∃ y : Entry, placeEntry pr last e fr = insertEntry y (fr.filter fun z => z.id != x.id) ∧
        x.pc = e.pc ∧ y.pc = e.pc ∧ y.mask = x.mask ||| e.mask ∧ (y.id = x.id ∨ y.id = e.id) := by
  unfold placeEntry
  dsimp only
  split
  next => exact .inl ⟨_, rfl⟩
  next x hfind =>
    have hpc := List.find?_some hfind
    simp only [Bool.and_eq_true, beq_iff_eq] at hpc
    refine .inr ⟨x, List.mem_of_find?_eq_some hfind, _, rfl, hpc.1.1, rfl, rfl, ?_⟩
    dsimp only
    split
    · exact .inl rfl
    · exact .inr rfl

theorem Numbered.insert {fr : List Entry} {n : Nat} {y : Entry} (h : Numbered fr n) (hy : y.id < n) (hnew : ∀ x ∈ fr, x.id ≠ y.id) :
    Numbered (insertEntry y fr) n := by
  constructor
  · intro x hx
    rcases mem_insertEntry.1 hx with rfl | hx
    · exact hy
    · exact h.below x hx
  · intro x hx z hz hid
    rcases mem_insertEntry.1 hx with hxy | hx' <;> rcases mem_insertEntry.1 hz with hzy | hz'
    · rw [hxy, hzy]
    · exact absurd (hid.symm.trans (congrArg _ hxy)) (hnew z hz')
    · exact absurd (hid.trans (congrArg _ hzy)) (hnew x hx')
    · exact h.apart x hx' z hz' hid

theorem Numbered.mono {fr : List Entry} {n m : Nat} (h : Numbered fr n) (hm : n ≤ m) : Numbered fr m :=
  ⟨fun x hx => (h.below x hx).trans_le hm, h.apart⟩

theorem Numbered.filter {fr : List Entry} {n : Nat} (h : Numbered fr n) (p : Entry → Bool) : Numbered (fr.filter p) n :=
  ⟨fun x hx => h.below x (List.mem_of_mem_filter hx),
   fun x hx y hy => h.apart x (List.mem_of_mem_filter hx) y (List.mem_of_mem_filter hy)⟩

/-- An entry that takes the next number keeps the numbers apart. -/
theorem Numbered.place {fr : List Entry} {n : Nat} (h : Numbered fr n) (pr : BitVec 64 → Option (BitVec 8)) (last : Option Nat)
    {e : Entry} (he : e.id = n) : Numbered (placeEntry pr last e fr) (n + 1) := by
  have hold : ∀ x ∈ fr, x.id ≠ e.id := fun x hx => he ▸ (h.below x hx).ne
  rcases placeEntry_cases pr last e fr with ⟨p, hplace⟩ | ⟨x, hx, y, hplace, -, -, -, hid⟩ <;> rw [hplace]
  · exact (h.mono n.le_succ).insert (Nat.lt_succ_of_le he.le) hold
  · refine ((h.mono n.le_succ).filter _).insert ?_ fun z hz => ?_
    · rcases hid with hid | hid
      · exact hid ▸ (h.below x hx).trans (Nat.lt_succ_self n)
      · omega
    · obtain ⟨hz, hne⟩ := List.mem_filter.1 hz
      rcases hid with hid | hid
      · exact hid ▸ bne_iff_ne.1 hne
      · exact hid ▸ hold z hz

/-- The entry that joins holds its lanes at its PC. -/
theorem holds_placeEntry_self (pr : BitVec 64 → Option (BitVec 8)) (last : Option Nat) (e : Entry) (fr : List Entry) :
    Holds (placeEntry pr last e fr) e.mask e.pc := by
  rcases placeEntry_cases pr last e fr with ⟨p, hplace⟩ | ⟨x, -, y, hplace, -, hpc, hmask, -⟩ <;> rw [hplace]
  · exact ⟨_, mem_insertEntry.2 (.inl rfl), rfl, fun _ => id⟩
  · exact ⟨y, mem_insertEntry.2 (.inl rfl), hpc, fun L hL => by simp [hmask, hL]⟩

/-- An entry that joins leaves the lanes that stand at a PC there. -/
theorem Holds.place {fr : List Entry} {n : Nat} (hfr : Numbered fr n) {m : Mask} {pc : BitVec 64} (h : Holds fr m pc)
    (pr : BitVec 64 → Option (BitVec 8)) (last : Option Nat) (e : Entry) : Holds (placeEntry pr last e fr) m pc := by
  obtain ⟨z, hz, hzpc, hlanes⟩ := h
  rcases placeEntry_cases pr last e fr with ⟨p, hplace⟩ | ⟨x, hx, y, hplace, hxpc, hpc, hmask, -⟩ <;> rw [hplace]
  · exact ⟨z, mem_insertEntry.2 (.inr hz), hzpc, hlanes⟩
  · by_cases hid : z.id = x.id
    · obtain rfl := hfr.apart z hz x hx hid
      exact ⟨y, mem_insertEntry.2 (.inl rfl), by rw [hpc, ← hxpc, hzpc], fun L hL => by simp [hmask, hlanes L hL]⟩
    · exact ⟨z, mem_insertEntry.2 (.inr (List.mem_filter.2 ⟨hz, bne_iff_ne.2 hid⟩)), hzpc, hlanes⟩

/-- Every lane of a frontier is in a mask. -/
def Within (fr : List Entry) (m : Mask) : Prop := ∀ e ∈ fr, ∀ L, e.mask.getLsbD L = true → m.getLsbD L = true

theorem Within.place {fr : List Entry} {m : Mask} (h : Within fr m) (pr : BitVec 64 → Option (BitVec 8)) (last : Option Nat) {e : Entry}
    (he : ∀ L, e.mask.getLsbD L = true → m.getLsbD L = true) : Within (placeEntry pr last e fr) m := by
  intro z hz L hL
  rcases placeEntry_cases pr last e fr with ⟨p, hplace⟩ | ⟨x, hx, y, hplace, -, -, hmask, -⟩ <;>
    rw [hplace] at hz <;> rcases mem_insertEntry.1 hz with rfl | hz
  · exact he L hL
  · exact h z hz L hL
  · rw [hmask, BitVec.getLsbD_or, Bool.or_eq_true] at hL
    exact hL.elim (h x hx L) (he L)
  · exact h z (List.mem_of_mem_filter hz) L hL

/-- The entry of the frontier that TRET makes of one of its shadow, with number n. -/
def State.restoredEntry (s : State) (e : ShadowEntry) (n : Nat) : Entry :=
  { id := n
    prio := e.prio
    pc := if e.wait = 4 ∧ s.warp.savedHold = .released then e.pc + 4 else e.pc
    mask := e.mask &&& s.warp.live
    wait := match e.wait.toNat with
      | 1 => match s.warp.monws.find? fun o => o.mask == e.mask with
        | some o => .monw o.id
        | none => .ready
      | 2 => if s.warp.park.isSome then .parked else .ready
      | 3 => .pooled
      | 4 => if s.warp.savedHold = .none ∨ s.warp.savedHold = .released then .ready else .bar
      | _ => .ready }

/-- The entry that counts as the last to issue after a TRET. -/
def State.restoredLast (s : State) : Option Nat :=
  if s.warp.fshLast = 33 then none else if s.warp.fshLast < 32 then some (s.nextId + s.warp.fshLast) else some 0

/-- One entry of the frontier shadow joins the frontier that TRET rebuilds, unless none of its lanes is live. -/
def State.restoreEntry (s : State) (acc : List Entry × Nat) (e : ShadowEntry) : List Entry × Nat :=
  (if e.mask &&& s.warp.live = 0 then acc.1 else placeEntry s.pr s.restoredLast (s.restoredEntry e acc.2) acc.1, acc.2 + 1)

theorem State.trapReturn_frontier (s : State) :
    s.trapReturn.warp.frontier = (s.warp.shadowEntries.foldl s.restoreEntry ([], s.nextId)).1 := rfl

theorem and_live {e : ShadowEntry} {m : Mask} {L : Nat} : (e.mask &&& m).getLsbD L = true ↔ e.mask.getLsbD L = true ∧ m.getLsbD L = true := by
  rw [BitVec.getLsbD_and, Bool.and_eq_true]

/-- What the frontier holds after some entries of the shadow have joined it: their live lanes, each at its PC, beside those that it held. -/
theorem State.restore_spec (s : State) (l : List ShadowEntry) (acc : List Entry × Nat) (hnum : Numbered acc.1 acc.2)
    (hwithin : Within acc.1 s.warp.live) :
    (∀ m pc, Holds acc.1 m pc → Holds (l.foldl s.restoreEntry acc).1 m pc) ∧
    (∀ x ∈ l, x.mask &&& s.warp.live ≠ 0 →
      Holds (l.foldl s.restoreEntry acc).1 (x.mask &&& s.warp.live) (s.restoredEntry x 0).pc) ∧
    Within (l.foldl s.restoreEntry acc).1 s.warp.live := by
  induction l generalizing acc with
  | nil => exact ⟨fun _ _ => id, by simp, hwithin⟩
  | cons e l ih =>
    rw [List.foldl_cons]
    by_cases he : e.mask &&& s.warp.live = 0
    · have hstep : s.restoreEntry acc e = (acc.1, acc.2 + 1) := by rw [State.restoreEntry, if_pos he]
      obtain ⟨hkeep, hjoin, hin⟩ := ih (s.restoreEntry acc e) (hstep ▸ hnum.mono (Nat.le_succ _)) (hstep ▸ hwithin)
      refine ⟨fun m pc h => hkeep m pc (hstep ▸ h), fun x hx hlive => ?_, hin⟩
      rcases List.mem_cons.1 hx with rfl | hx
      · exact absurd he hlive
      · exact hjoin x hx hlive
    · have hstep : s.restoreEntry acc e = (placeEntry s.pr s.restoredLast (s.restoredEntry e acc.2) acc.1, acc.2 + 1) := by
        rw [State.restoreEntry, if_neg he]
      obtain ⟨hkeep, hjoin, hin⟩ := ih (s.restoreEntry acc e) (hstep ▸ hnum.place s.pr s.restoredLast rfl)
        (hstep ▸ hwithin.place s.pr s.restoredLast fun L hL => (and_live.1 hL).2)
      refine ⟨fun m pc h => hkeep m pc (hstep ▸ h.place hnum ..), fun x hx hlive => ?_, hin⟩
      rcases List.mem_cons.1 hx with rfl | hx
      · exact hkeep _ _ (hstep ▸ holds_placeEntry_self ..)
      · exact hjoin x hx hlive

theorem State.trapReturn_latchEntry (s : State) {k : Nat} (hk : k < 8) :
    (s.trapReturn.warp.latchEntry k).latch = (look s.warp.shadow Copy.blank k).data ∧
      (s.trapReturn.warp.latchEntry k).valid = (look s.warp.shadow Copy.blank k).valid := by
  change (s.warp.restoredLatches.getD k WinEntry.blank).latch = _ ∧ (s.warp.restoredLatches.getD k WinEntry.blank).valid = _
  simp [Warp.restoredLatches, look, List.getD, hk]

/-- The checks of TRET beyond those of its operands. -/
theorem execTret_of_goes {s : State} (h : Goes s fun _ => { legal := Instr.tret.wellFormed, drains := true }) :
    execTret s = .next (if s.prelude.privileged = false then s.prelude.raise { code := 0x0002, lanes := s.prelude.mask, addr := 0 }
      else if s.prelude.warp.tdepth && s.prelude.warp.shadowOk then
        (((s.prelude.withWarp s.prelude.warp.drain).trapReturn).afterReturn).finish
      else s.prelude.raise { code := 0x0001, lanes := s.prelude.mask, addr := 0 }) := by
  obtain ⟨hissuing, hswitch, hgate⟩ := h
  have hmore := State.gate_more hgate true true true false 0
    (if s.prelude.warp.tdepth && s.prelude.warp.shadowOk then none else some (Raise.all s.prelude Code.illegal))
  rw [execTret]
  cases hpriv : s.prelude.privileged with
  | false =>
    rw [if_pos rfl]
    exact State.issue_raises _ hissuing hswitch (hmore.trans (by simp [hpriv, State.raiseAll_eq, Code.privilege]))
  | true =>
    rw [if_neg (by decide)]
    cases hok : s.prelude.warp.tdepth && s.prelude.warp.shadowOk with
    | false =>
      rw [if_neg (by decide)]
      exact State.issue_raises _ hissuing hswitch (hmore.trans (by simp [hpriv, hok, Raise.all, Code.illegal]))
    | true =>
      rw [if_pos rfl]
      exact State.issue_goes _ hissuing hswitch (hmore.trans (by simp [hpriv, hok]))

theorem tretReturnsFromTheTrap : Sys2Proof.Claims.TretReturnsFromTheTrap := by
  intro s p u
  obtain ⟨-, hjoin, hwithin⟩ := s.restore_spec s.warp.shadowEntries ([], s.nextId) ⟨by simp, by simp⟩ (by simp [Within])
  refine ⟨fun h hpriv => ?_, fun h hpriv hbad => ?_, fun h hdepth hok => ?_, rfl, fun k hk => s.trapReturn_latchEntry hk,
    fun _ x hx hlive => ?_, hwithin⟩
  · rw [exec_tret, execTret_of_goes h, if_pos hpriv]
  · have hok : (p.warp.tdepth && p.warp.shadowOk) = false := by rcases hbad with hbad | hbad <;> simp only [hbad, Bool.false_and, Bool.and_false]
    rw [exec_tret, execTret_of_goes h, if_neg (ne_of_eq_of_ne hpriv (by decide)), if_neg (ne_of_eq_of_ne hok (by decide))]
  · have hpriv : p.privileged = true := by rw [State.privileged, hdepth, Bool.or_true]
    rw [exec_tret, execTret_of_goes h, if_neg (ne_of_eq_of_ne hpriv (by decide)), if_pos (Bool.and_eq_true_iff.2 ⟨hdepth, hok⟩)]
  · obtain ⟨e, he, hpc, hlanes⟩ := hjoin x hx hlive
    exact ⟨e, he, hpc, fun L hx hl => hlanes L (and_live.2 ⟨hx, hl⟩)⟩

/-- Settles O35: trap entry writes the shadows from the state before it, and the entries that a return rebuilds have numbers of their own. -/
theorem trapsAndReturns : Obligations.TrapsAndReturns := ⟨trapEntersOrDoubles, trapEntrySavesContext, tretReturnsFromTheTrap⟩

end Sys2Proof.Machine
end

section
namespace Sys2Proof.Machine

open Sys2Proof.Claims

/-! ## An entry that a return from a trap has restored with WAIT 3 (R26, R188) -/

/-- A warp of one lane, whose entry TRET has restored in POOLWAIT: it may issue, and issues its request again. -/
def pooledEntry : State :=
  { State.reset with
    warp := { Warp.blank with team := 1, live := 1, frontier := [{ id := 1, prio := 0, pc := 0x1000, mask := 1, wait := .pooled }] }
    team := { Team.blank with handle := 1, life := .resident } }

/-- The wait is over once the entry has issued: at the next word it is ready. -/
theorem pooledEntry_advance_ready : ∀ e ∈ pooledEntry.advance.warp.frontier, e.wait = .ready := by decide

/-- Refutes O57: its last clause asks that an entry keep its wait as its lanes go on at the next word, and one that was restored in POOLWAIT
is ready there (R26). -/
theorem not_resultsChangeTheirDestinationsAlone : ¬ Obligations.ResultsChangeTheirDestinationsAlone := by
  unfold Obligations.ResultsChangeTheirDestinationsAlone
  intro h
  obtain ⟨-, -, -, hadvance⟩ := h pooledEntry
  obtain ⟨e, he, -, hwait, -⟩ := hadvance (by decide) (by decide)
  have hpooled : pooledEntry.entry.wait = .pooled := by decide
  have hready : e.wait = .ready := pooledEntry_advance_ready e he
  exact absurd (hready.symm.trans (hwait.trans hpooled)) (by decide)

end Sys2Proof.Machine
end

section
namespace Sys2Proof.Machine

open Sys2Proof.Claims

/-! ## Instructions whose needs are stated otherwise than they are checked -/

theorem goes_of_uses {s : State} {u u' : State → Uses} (h : Goes s u) (hu : u' s.prelude = u s.prelude) : Goes s u' :=
  ⟨h.1, h.2.1, hu ▸ h.2.2⟩

/-- A privileged instruction, in a state where it would go but for its privilege. -/
theorem State.issueNext_privileged {s : State} {u u' : State → Uses} (e : State → State) (h : Goes s u) (hplain : (u s.prelude).plain)
    (huniform : (u s.prelude).uniform = true) (hspecific : (u s.prelude).specific = none)
    (hu : u' s.prelude = { u s.prelude with privileged := true }) :
    (s.prelude.privileged = false →
      s.issueNext u' e = .next (s.prelude.raise { code := 0x0002, lanes := s.prelude.mask, addr := 0 })) ∧
    (s.prelude.privileged = true → s.issueNext u' e = .next (wentOn (e s.prelude))) := by
  obtain ⟨hissuing, hswitch, hgate⟩ := h
  obtain ⟨-, htags, hvoids, hretry⟩ := hplain
  have hmore := hu ▸ State.gate_more hgate true (u s.prelude).tagsOk (u s.prelude).uniform (u s.prelude).retry (u s.prelude).voids
    (u s.prelude).specific
  unfold State.issueNext
  exact ⟨fun hpriv => State.issue_raises _ hissuing hswitch (hmore.trans (by simp [hpriv, State.raiseAll_eq, Code.privilege])),
    fun hpriv => State.issue_goes _ hissuing hswitch (hmore.trans (by simp [hpriv, htags, hvoids, huniform, hspecific, hretry]))⟩

/-! ## The region stack (R373, R374) -/

theorem exec_rgne (a : SOp) (s : State) : exec (.rgne a) s = execRgne a s := rfl

theorem exec_rgnl (s : State) : exec .rgnl s = execRgnl s := rfl

/-- A delivery is open in the team of the warp in focus, at any level. -/
def State.throwOpen (s : State) : Prop := s.unwinding = true ∨ ∃ d ∈ s.deliveries, d.level = 0 ∧ d.team = s.team.handle

theorem State.asked_iff (s : State) :
    (s.warp.stopReq && !s.unwinding && !s.deliveries.any fun d => d.level == 0 && d.team == s.team.handle) = true ↔
      s.warp.stopReq = true ∧ ¬ s.throwOpen := by
  simp only [Bool.and_eq_true, Bool.not_eq_true', State.throwOpen, not_or, List.any_eq_false, beq_iff_eq, Bool.not_eq_true, not_exists,
    and_assoc, not_and]

/-- The warp has parked with STOP at a PC, with the lanes of a mask (R374). -/
def StopsAt (w : Warp) (m : Mask) (pc : BitVec 64) : Prop := ∃ k, w.park = some k ∧ k.code = 0 ∧ k.pc = pc ∧ k.lanes = m

/-- At a region edge outside the trap routine a stop request is over once no delivery is open. -/
theorem State.regionEdge_asked {s : State} (id : Option Word) (m : Mask) (pc : BitVec 64) (hreq : s.warp.stopReq = true)
    (hdepth : s.warp.tdepth = false) (hopen : ¬ s.throwOpen) :
    StopsAt (s.regionEdge id m pc).warp m pc ∧ (s.regionEdge id m pc).warp.stopReq = false := by
  have hasked := s.asked_iff.2 ⟨hreq, hopen⟩
  unfold State.regionEdge
  dsimp only
  rw [if_pos (by rw [hasked, hdepth]; simp), hasked]
  exact ⟨⟨_, rfl, rfl, rfl, rfl⟩, Bool.and_false _⟩

/-- The id in RGNBRK (R374). -/
theorem brk_id {id : Word} (hid : id.getLsbD 31 = false) : (0x80000000 ||| id) &&& 0x7FFFFFFF = id := by
  have hbits : ∀ j, j < 32 → (0x80000000 : Word).getLsbD j = decide (j = 31) ∧ (0x7FFFFFFF : Word).getLsbD j = decide (j ≠ 31) := by decide
  refine BitVec.eq_of_getLsbD_eq fun i hi => ?_
  rw [BitVec.getLsbD_and, BitVec.getLsbD_or, (hbits i hi).1, (hbits i hi).2]
  by_cases h31 : i = 31
  · rw [h31, hid]; rfl
  · simp [h31]

/-- At a region edge outside the trap routine the id of RGNBRK stops the warp. -/
theorem State.regionEdge_hit {s : State} {id : Word} (m : Mask) (pc : BitVec 64) (hdepth : s.warp.tdepth = false)
    (hbrk : s.ctx.rgnbrk = 0x80000000 ||| id) (hid : id.getLsbD 31 = false) : StopsAt (s.regionEdge (some id) m pc).warp m pc := by
  have hhit : (s.ctx.rgnbrk.getLsbD 31 && some id == some (s.ctx.rgnbrk &&& 0x7FFFFFFF)) = true := by
    rw [hbrk, brk_id hid, BitVec.getLsbD_or]
    simp
  unfold State.regionEdge
  dsimp only
  rw [if_pos (by rw [hhit, hdepth]; simp)]
  exact ⟨_, rfl, rfl, rfl, rfl⟩

/-- With RGNBRK off, a region edge does nothing in a trap routine, without a stop request, and while a delivery is open. -/
theorem State.regionEdge_passes {s : State} (id : Option Word) (m : Mask) (pc : BitVec 64) (hbrk : s.ctx.rgnbrk.getLsbD 31 = false)
    (h : s.warp.tdepth = true ∨ s.warp.stopReq = false ∨ s.throwOpen) : s.regionEdge id m pc = s := by
  unfold State.regionEdge
  dsimp only
  refine if_neg ?_
  rw [hbrk, Bool.false_and, Bool.false_or, Bool.and_eq_true, s.asked_iff]
  rintro ⟨hdepth, hreq, hopen⟩
  rcases h with h | h | h
  · rw [h] at hdepth; cases hdepth
  · rw [h] at hreq; cases hreq
  · exact hopen h

/-- What a region edge leaves: everything but the park and the stop request. -/
theorem State.regionEdge_stack (s : State) (id : Option Word) (m : Mask) (pc : BitVec 64) :
    (s.regionEdge id m pc).warp.rgn = s.warp.rgn ∧ (s.regionEdge id m pc).warp.rgnOvf = s.warp.rgnOvf ∧
      (s.regionEdge id m pc).warp.rgnUnd = s.warp.rgnUnd := by
  unfold State.regionEdge
  dsimp only
  split <;> exact ⟨rfl, rfl, rfl⟩

/-- The state in which a region instruction whose stack is then that of w meets its edge: its entry is in the window, its lanes at the next word. -/
def State.atEdge (s : State) (w : Warp) : State := (({ s with warp := w } : State).enterInvalid).advance

theorem State.atEdge_field {β : Type} (s : State) {w : Warp} (p : Warp → β) (hp : ∀ w, p w.besidesBanks = p w)
    (hf : ∀ (w : Warp) fr, p { w with frontier := fr } = p w) : p (s.atEdge w).warp = p w :=
  (hf _ _).trans (Warp.same_of_besidesBanks p hp (State.enterInvalid_besidesBanks _))

/-- What a region instruction comes to whose edge has the id of a region, for a stack that the effect has changed already. -/
theorem State.edge_spec {s : State} {w : Warp} (id : Option Word) (hdepth : w.tdepth = s.warp.tdepth) (hreq : w.stopReq = s.warp.stopReq)
    (hpark : w.park = s.warp.park) :
    let t := (((s.atEdge w).regionEdge id s.mask (s.entry.pc + 4))).finish
    (t.warp.rgn = w.rgn ∧ t.warp.rgnOvf = w.rgnOvf ∧ t.warp.rgnUnd = w.rgnUnd) ∧
    (s.ctx.rgnbrk.getLsbD 31 = false ∧ s.warp.stopReq = false → t.warp.park = s.warp.park) ∧
    (s.warp.stopReq = true → s.ctx.rgnbrk.getLsbD 31 = false →
      (s.warp.tdepth = false → ¬ s.throwOpen → StopsAt t.warp s.mask (s.entry.pc + 4) ∧ t.warp.stopReq = false) ∧
      (s.warp.tdepth = true ∨ s.throwOpen → t.warp.park = s.warp.park ∧ t.warp.stopReq = true)) ∧
    ∀ x, id = some x → s.warp.tdepth = false → s.ctx.rgnbrk = 0x80000000 ||| x → x.getLsbD 31 = false →
      StopsAt t.warp s.mask (s.entry.pc + 4) := by
  intro t
  have hdepth' : (s.atEdge w).warp.tdepth = s.warp.tdepth := (s.atEdge_field (·.tdepth) (fun _ => rfl) fun _ _ => rfl).trans hdepth
  have hreq' : (s.atEdge w).warp.stopReq = s.warp.stopReq := (s.atEdge_field (·.stopReq) (fun _ => rfl) fun _ _ => rfl).trans hreq
  have hpark' : (s.atEdge w).warp.park = s.warp.park := (s.atEdge_field (·.park) (fun _ => rfl) fun _ _ => rfl).trans hpark
  obtain ⟨hrgn, hovf, hund⟩ := (s.atEdge w).regionEdge_stack id s.mask (s.entry.pc + 4)
  have hpass := fun hbrk h => congrArg State.warp ((s.atEdge w).regionEdge_passes id s.mask (s.entry.pc + 4) hbrk h)
  refine ⟨⟨?_, ?_, ?_⟩, fun ⟨hbrk, hnone⟩ => ?_, fun hstop hbrk => ⟨fun hd hopen => ?_, fun h => ?_⟩, ?_⟩
  · exact hrgn.trans (s.atEdge_field (·.rgn) (fun _ => rfl) fun _ _ => rfl)
  · exact hovf.trans (s.atEdge_field (·.rgnOvf) (fun _ => rfl) fun _ _ => rfl)
  · exact hund.trans (s.atEdge_field (·.rgnUnd) (fun _ => rfl) fun _ _ => rfl)
  · exact (congrArg Warp.park (hpass hbrk (.inr (.inl (hreq'.trans hnone))))).trans hpark'
  · exact State.regionEdge_asked (s := s.atEdge w) id _ _ (hreq'.trans hstop) (hdepth'.trans hd) hopen
  · have hw := hpass hbrk (h.imp hdepth'.trans .inr)
    exact ⟨(congrArg Warp.park hw).trans hpark', (congrArg Warp.stopReq hw).trans (hreq'.trans hstop)⟩
  · rintro x rfl hd hbrk hx
    exact State.regionEdge_hit (s := s.atEdge w) _ _ (hdepth'.trans hd) hbrk hx

theorem regionStackPushesPopsAndBreaks : Sys2Proof.Claims.RegionStackPushesPopsAndBreaks := by
  intro a s p id quiet open' stops asked
  refine ⟨fun h => ?rgne, fun h => ?rgnl⟩
  case rgne =>
    obtain ⟨⟨hrgn, hovf, hund⟩, hquiet, hasked, hbrk⟩ := State.edge_spec (s := p)
      (w := { p.warp with rgn := (id :: p.warp.rgn).take 16, rgnOvf := p.warp.rgnOvf || decide (16 ≤ p.warp.rgn.length) }) (some id) rfl rfl rfl
    have hid : id.getLsbD 31 = false := by simp [id]
    exact ⟨_, (exec_rgne a s).trans (State.issue_of_go _ h), hrgn, hovf, hund, hquiet, hasked, fun hd hb => hbrk id rfl hd hb hid⟩
  case rgnl =>
    obtain ⟨⟨hrgn, hovf, hund⟩, hquiet, hasked, hbrk⟩ := State.edge_spec (s := p)
      (w := { p.warp with rgn := p.warp.rgn.tail, rgnUnd := p.warp.rgnUnd || p.warp.rgn.isEmpty }) p.warp.rgn.head? rfl rfl rfl
    exact ⟨_, (exec_rgnl s).trans (State.issue_of_go _ h), hrgn, hovf, hund, hquiet, hasked,
      fun x rest hx hd hb hx31 => hbrk x (by rw [hx]; rfl) hd hb hx31⟩

/-! ## PENDING marks of the bank (R63) -/

theorem Warp.setBank_pending (w : Warp) (q : Nat) (y : VReg) {r : Nat} (hr : r < 256) :
    ((w.setBank q y).bankReg r).pending = if q = r then y.pending else (w.bankReg r).pending := by
  by_cases h : q = r
  · rw [if_pos h, h, Warp.bankReg_setBank_same w r y hr]
  · rw [if_neg h, Warp.bankReg_setBank_other w y (Ne.symm h)]

theorem Warp.writeBack_pending (w : Warp) (x : WinReg) {r : Nat} (hr : r < 256) :
    ((w.writeBack x).bankReg r).pending = (w.bankReg r).pending := by
  unfold Warp.writeBack
  split
  · refine (w.setBank_pending x.reg _ hr).trans ?_
    split
    next h => rw [h]
    next => rfl
  · rfl

theorem Warp.leave_pending (w : Warp) (e : WinEntry) {r : Nat} (hr : r < 256) : ((w.leave e).bankReg r).pending = (w.bankReg r).pending := by
  unfold Warp.leave
  split
  · rw [Warp.writeBackAll, ← List.foldl_reverse]
    exact foldl_keeps (fun w : Warp => (w.bankReg r).pending) (fun w x => w.writeBack_pending x hr) _ w
  · rfl

/-- A result that enters the window leaves the PENDING marks. -/
theorem Warp.push_pending (w : Warp) (e : WinEntry) {r : Nat} (hr : r < 256) : ((w.push e).bankReg r).pending = (w.bankReg r).pending := by
  unfold Warp.push
  dsimp only
  rw [foldl_keeps (fun w : Warp => (w.bankReg r).pending) (fun w e => w.leave_pending e hr)]
  refine foldl_keeps (fun w : Warp => (w.bankReg r).pending) (f := fun w (x : WinReg) => (w.killReg x.reg).setStale x.reg false) (fun w x => ?_)
    e.regs w
  refine (Warp.setBank_pending _ x.reg _ hr).trans ?_
  split
  next h => rw [h]; rfl
  next => rfl

theorem Warp.setPending_pending (w : Warp) (q : Nat) (b : Bool) {r : Nat} (hr : r < 256) :
    ((w.setPending q b).bankReg r).pending = if q = r then b else (w.bankReg r).pending := w.setBank_pending q _ hr

/-- The registers of a list get the mark b. -/
theorem Warp.markAll_pending (b : Bool) (l : List Nat) (w : Warp) {r : Nat} (hr : r < 256) :
    ((l.foldl (fun w r => if r < 256 then w.setPending r b else w) w).bankReg r).pending = if r ∈ l then b else (w.bankReg r).pending := by
  induction l generalizing w with
  | nil => rfl
  | cons q l ih =>
    rw [List.foldl_cons, ih]
    by_cases hq : q = r
    · subst hq
      simp [hr, Warp.setPending_pending]
    · have hhead : ((if q < 256 then w.setPending q b else w).bankReg r).pending = (w.bankReg r).pending := by
        split
        · rw [Warp.setPending_pending _ _ _ hr, if_neg hq]
        · rfl
      rw [hhead]
      simp [Ne.symm hq]

/-! ## Landing slots -/

theorem Warp.land_setSlot_same (w : Warp) {k : Nat} (x : Slot) (hk : k < 16) : (w.setSlot k x).land k = x := look_put_self _ _ _ _ hk

theorem Warp.land_setSlot_other (w : Warp) {j k : Nat} (x : Slot) (h : j ≠ k) : (w.setSlot k x).land j = w.land j :=
  look_put_of_ne _ _ _ _ _ (Ne.symm h)

theorem Warp.markAll_slots (b : Bool) (l : List Nat) (w : Warp) :
    (l.foldl (fun w r => if r < 256 then w.setPending r b else w) w).slots = w.slots :=
  foldl_keeps Warp.slots (f := fun (w : Warp) r => if r < 256 then w.setPending r b else w) (fun w r => by split <;> rfl) l w

@[simp] theorem Warp.pend_slots (w : Warp) (x : Slot) : (w.pend x).slots = w.slots := by
  unfold Warp.pend
  split
  · rfl
  · exact Warp.markAll_slots true _ w

@[simp] theorem Warp.unpend_slots (w : Warp) (x : Slot) : (w.unpend x).slots = w.slots := by
  unfold Warp.unpend
  split
  · rfl
  · exact Warp.markAll_slots false _ w

/-- A slot of the vector side marks the registers it names, and no others. -/
theorem Warp.pend_pending {w : Warp} {x : Slot} (hx : x.kind ≠ .scalar) {r : Nat} (hr : r < 256) :
    ((w.pend x).bankReg r).pending = if r ∈ x.dests then true else (w.bankReg r).pending := by
  unfold Warp.pend
  split
  next h => exact absurd h hx
  next => exact Warp.markAll_pending true x.dests w hr

theorem Warp.unpend_pending {w : Warp} {x : Slot} (hx : x.kind ≠ .scalar) {r : Nat} (hr : r < 256) :
    ((w.unpend x).bankReg r).pending = if r ∈ x.dests then false else (w.bankReg r).pending := by
  unfold Warp.unpend
  split
  next h => exact absurd h hx
  next => exact Warp.markAll_pending false x.dests w hr

theorem Warp.mem_spend_pend {w : Warp} {x : Slot} (hx : x.kind = .scalar) : x.dest ∈ (w.pend x).spend := by
  unfold Warp.pend; simp [hx]

theorem Warp.not_mem_spend_unpend {w : Warp} {x : Slot} (hx : x.kind = .scalar) : x.dest ∉ (w.unpend x).spend := by
  unfold Warp.unpend; simp [hx, Slot.dests]

/-! ## The save path (R71) -/

theorem exec_ocrd (v : VOp) (n : BitVec 4) (s : State) : exec (.ocrd v n) s = execOcrd v n s := rfl

theorem exec_ocwr (v : VOp) (n : BitVec 4) (s : State) : exec (.ocwr v n) s = execOcwr v n s := rfl

theorem exec_ltrd (v : VOp) (k : BitVec 3) (s : State) : exec (.ltrd v k) s = execLtrd v k s := rfl

theorem exec_ltwr (v : VOp) (k : BitVec 3) (s : State) : exec (.ltwr v k) s = execLtwr v k s := rfl

theorem exec_lbrd (v : VOp) (w : BitVec 2) (m : BitVec 1) (n : BitVec 4) (s : State) : exec (.lbrd v w m n) s = execLbrd v w m n s := rfl

theorem exec_lbwr (v : VOp) (w : BitVec 2) (m : BitVec 1) (n : BitVec 4) (s : State) : exec (.lbwr v w m n) s = execLbwr v w m n s := rfl

theorem Warp.cacheValue_eq (w : Warp) (n : Nat) :
    w.cacheValue n = (if (look w.oc Copy.blank n).valid then (look w.oc Copy.blank n).data else splat 0,
      if (look w.oc Copy.blank n).valid then (look w.oc Copy.blank n).tag else .raw) := by
  unfold Warp.cacheValue
  dsimp only
  split <;> rfl

/-- What an instruction whose effect makes the warp w leaves of it, but for its window, its banks and what counts its issue. -/
theorem wentOn_enterInvalid_field {β : Type} (s : State) (w : Warp) (p : Warp → β) (hp : ∀ w, p w.besidesBanks = p w)
    (hf : ∀ (w : Warp) fr i n, p { w with frontier := fr, issued := i, runCount := n, stalled := false } = p w) :
    p (wentOn ((s.withWarp w).enterInvalid)).warp = p w :=
  (hf (s.withWarp w).enterInvalid.warp _ _ _).trans (Warp.same_of_besidesBanks p hp (State.enterInvalid_besidesBanks (s.withWarp w)))

theorem wentOn_enterInvalid_land (s : State) (w : Warp) (j : Nat) : (wentOn ((s.withWarp w).enterInvalid)).warp.land j = w.land j :=
  wentOn_enterInvalid_field s w (fun w => w.land j) (fun _ => rfl) fun _ _ _ _ => rfl

theorem wentOn_enterInvalid_spend (s : State) (w : Warp) : (wentOn ((s.withWarp w).enterInvalid)).warp.spend = w.spend :=
  wentOn_enterInvalid_field s w (·.spend) (fun _ => rfl) fun _ _ _ _ => rfl

theorem wentOn_enterInvalid_pending (s : State) (w : Warp) {r : Nat} (hr : r < 256) :
    ((wentOn ((s.withWarp w).enterInvalid)).warp.bankReg r).pending = (w.bankReg r).pending := Warp.push_pending _ _ hr

/-- The slot that LBWR of metadata word 0 leaves. -/
def Slot.ofMeta (x : Slot) (v : Word) (tile : Nat) : Slot :=
  { x with
    state := if bits v 0 2 == 2 then .landed else .empty, kind := SlotKind.ofCode (bits v 2 2), dest := bits v 4 9, todo := [], trace := none,
    tile := tile }

theorem Warp.writeMeta_eq (w : Warp) (k : Nat) (v : Word) :
    w.writeMeta k v = if bits v 0 2 == 2 then (w.setSlot k ((w.land k).ofMeta v w.vtsel)).pend ((w.land k).ofMeta v w.vtsel)
      else (w.setSlot k ((w.land k).ofMeta v w.vtsel)).unpend ((w.land k).ofMeta v w.vtsel) := rfl

theorem Warp.writeMeta_slots (w : Warp) (k : Nat) (v : Word) : (w.writeMeta k v).slots = (w.setSlot k ((w.land k).ofMeta v w.vtsel)).slots := by
  rw [Warp.writeMeta_eq]
  split
  · exact Warp.pend_slots _ _
  · exact Warp.unpend_slots _ _

theorem Warp.writeMeta_land (w : Warp) {k : Nat} (hk : k < 16) (v : Word) :
    (w.writeMeta k v).land k = (w.land k).ofMeta v w.vtsel ∧ ∀ j, j ≠ k → (w.writeMeta k v).land j = w.land j := by
  unfold Warp.land
  rw [Warp.writeMeta_slots]
  exact ⟨w.land_setSlot_same _ hk, fun j hj => w.land_setSlot_other _ hj⟩

theorem Warp.writeMeta_spend {w : Warp} (k : Nat) {v : Word} (hkind : ((w.land k).ofMeta v w.vtsel).kind = .scalar) :
    bits v 4 9 ∈ (w.writeMeta k v).spend ↔ bits v 0 2 = 2 := by
  rw [Warp.writeMeta_eq]
  by_cases h : bits v 0 2 = 2
  · rw [if_pos (by simp [h])]
    exact iff_of_true (Warp.mem_spend_pend hkind) h
  · rw [if_neg (by simp [h])]
    exact iff_of_false (Warp.not_mem_spend_unpend hkind) h

theorem Warp.writeMeta_pending {w : Warp} (k : Nat) {v : Word} (hkind : ((w.land k).ofMeta v w.vtsel).kind ≠ .scalar) {r : Nat} (hr : r < 256)
    (hmem : r ∈ ((w.land k).ofMeta v w.vtsel).dests) : ((w.writeMeta k v).bankReg r).pending = decide (bits v 0 2 = 2) := by
  rw [Warp.writeMeta_eq]
  by_cases h : bits v 0 2 = 2
  · rw [if_pos (by simp [h]), Warp.pend_pending hkind hr, if_pos hmem]
    simp [h]
  · rw [if_neg (by simp [h]), Warp.unpend_pending hkind hr, if_pos hmem]
    simp [h]

/-- The registers that a slot of a width names, beside its width in metadata (Table 4-10). -/
theorem mem_dests_ofMeta (x : Slot) {v : Word} (tile : Nat) {j : Nat} (hkind : bits v 2 2 ≠ 3)
    (hj : j < if bits v 2 2 = 1 then 2 else if bits v 2 2 = 2 then 4 else 1) : bits v 4 9 + j ∈ (x.ofMeta v tile).dests := by
  have hlt : bits v 2 2 < 4 := Nat.mod_lt _ (by decide)
  have hcases : bits v 2 2 = 0 ∨ bits v 2 2 = 1 ∨ bits v 2 2 = 2 := by omega
  rcases hcases with h | h | h <;> simp only [h] at hj <;> simp [Slot.ofMeta, Slot.dests, h, SlotKind.ofCode] <;> simp at hj <;> omega

/-- What LBWR makes of the warp (R71). -/
def Warp.writeBuffer (w : Warp) (k : Nat) (m : BitVec 1) (i : BitVec 2) (y : Lanes) : Warp :=
  if m = 0 then w.setSlot k { w.land k with data := put (w.land k).data i.toNat y }
  else if i = 0 then w.writeMeta k (lane y 0) else w.setSlot k { w.land k with mask := lane y 0 }

theorem Warp.writeBuffer_other (w : Warp) {j k : Nat} (hk : k < 16) (m : BitVec 1) (i : BitVec 2) (y : Lanes) (hj : j ≠ k) :
    (w.writeBuffer k m i y).land j = w.land j := by
  unfold Warp.writeBuffer
  split
  · exact w.land_setSlot_other _ hj
  · split
    · exact (w.writeMeta_land hk _).2 j hj
    · exact w.land_setSlot_other _ hj

theorem Warp.writeBuffer_meta (w : Warp) (k : Nat) (y : Lanes) : w.writeBuffer k 1 0 y = w.writeMeta k (lane y 0) := rfl

theorem Warp.writeBuffer_mask (w : Warp) (k : Nat) {i : BitVec 2} (hi : i ≠ 0) (y : Lanes) :
    w.writeBuffer k 1 i y = w.setSlot k { w.land k with mask := lane y 0 } := (if_neg (by decide)).trans (if_neg hi)

theorem Slot.ofMeta_kind (x : Slot) (v : Word) (tile : Nat) : (x.ofMeta v tile).kind = SlotKind.ofCode (bits v 2 2) := rfl

theorem SlotKind.ofCode_eq_scalar {n : Nat} (hn : n < 4) : SlotKind.ofCode n = .scalar ↔ n = 3 := by
  have hall : ∀ n, n < 4 → (SlotKind.ofCode n = .scalar ↔ n = 3) := by decide
  exact hall n hn

theorem savePathMovesSlots : Sys2Proof.Claims.SavePathMovesSlots := by
  intro v n k w m s p gives c l x from' tag
  have hcache := p.warp.cacheValue_eq n.toNat
  have hltwr := fun h : from' (.ltwr v k) => State.issueNext_privileged
    (u' := fun _ => { legal := (Instr.ltwr v k).wellFormed, privileged := true, srcs := [{ op := v }] })
    (fun s => (s.withWarp { s.warp with
      shadow := put s.warp.shadow k.toNat { data := s.vec v, tag := (s.srcTag v).getD .raw, valid := true, regs := [] } }).enterInvalid)
    h ⟨rfl, rfl, rfl, rfl⟩ rfl rfl rfl
  have hlbwr := fun h : from' (.lbwr v w m n) => State.issueNext_privileged
    (u' := fun _ => { legal := (Instr.lbwr v w m n).wellFormed, privileged := true, srcs := [{ op := v }] })
    (fun s => (s.withWarp (s.warp.writeBuffer n.toNat m w (s.vec v))).enterInvalid) h ⟨rfl, rfl, rfl, rfl⟩ rfl rfl rfl
  refine ⟨fun h hfree => ?ocrd, fun h hfree => ?ocwr, fun h => ?ltrd, fun h => (hltwr h).1, fun h hpriv => ?ltwr, fun h => ?lbrd,
    fun h => (hlbwr h).1, fun h hpriv => ⟨_, (hlbwr h).2 hpriv, ?lbwr⟩⟩
  case ocrd =>
    refine (exec_ocrd v n s).trans ((State.issueNext_of_go _ (goes_of_uses h ?_)).trans ?_)
    · simp only [needs, p] at hfree ⊢
      rw [hfree]
    · simp only [p, hcache]
      rfl
  case ocwr =>
    refine (exec_ocwr v n s).trans (State.issueNext_of_go _ (goes_of_uses h ?_))
    simp only [p] at hfree ⊢
    rw [hfree]
  case ltrd => exact (exec_ltrd v k s).trans (State.issueNext_of_go _ h)
  case ltwr =>
    refine ⟨_, (hltwr h).2 hpriv, ?_⟩
    have hshadow := wentOn_enterInvalid_field p { p.warp with shadow := put p.warp.shadow k.toNat { data := p.vec v, tag := tag, valid := true, regs := [] } }
      (·.shadow) (fun _ => rfl) fun _ _ _ _ => rfl
    dsimp only at hshadow
    rw [hshadow]
    exact ⟨look_put_self _ _ _ _ k.isLt, fun j hj => look_put_of_ne _ _ _ _ _ (Ne.symm hj)⟩
  case lbrd => exact (exec_lbrd v w m n s).trans (State.issueNext_of_go _ h)
  case lbwr =>
    intro y z width
    have hn : n.toNat < 16 := n.isLt
    have hland := wentOn_enterInvalid_land p (p.warp.writeBuffer n.toNat m w (p.vec v))
    have hy : y = _ := hland n.toNat
    refine ⟨?data, ?meta0, ?mask, fun j hj => (hland j).trans (Warp.writeBuffer_other _ hn _ _ _ hj)⟩
    case data =>
      rintro rfl
      have hslot : y = { x with data := put x.data w.toNat (p.vec v) } := hy.trans (p.warp.land_setSlot_same _ hn)
      rw [hslot]
      exact ⟨look_put_self _ _ _ _ w.isLt, rfl, rfl, rfl⟩
    case mask =>
      rintro rfl hw
      have hslot : y = { x with mask := z } := by
        rw [hy, Warp.writeBuffer_mask _ _ hw, p.warp.land_setSlot_same _ hn]
      rw [hslot]
      exact ⟨rfl, rfl, rfl, rfl⟩
    case meta0 =>
      rintro rfl rfl
      have hslot : y = x.ofMeta z p.warp.vtsel := hy.trans (p.warp.writeMeta_land hn z).1
      have hstate : bits z 0 2 = z.toNat % 4 := by simp [bits]
      have hkind : bits z 2 2 = z.toNat / 4 % 4 := rfl
      have hdest : y.dest = bits z 4 9 := by rw [hslot]; rfl
      have hscalar : y.kind = .scalar ↔ z.toNat / 4 % 4 = 3 := by
        rw [hslot, Slot.ofMeta_kind, hkind, SlotKind.ofCode_eq_scalar (Nat.mod_lt _ (by decide))]
      have hlanded : y.state = if z.toNat % 4 = 2 then .landed else .empty := by rw [hslot, ← hstate]; simp [Slot.ofMeta]
      refine ⟨by rw [hslot]; rfl, by rw [hslot]; rfl, by rw [hslot]; rfl, ?_, ?_, ?_, ?_, ?_, fun h3 => ⟨hscalar.2 h3, ?_⟩, fun h3 j hj hr => ?_⟩
      · rw [hlanded]; split <;> simp [*]
      · intro h2; rw [hlanded, if_neg h2]
      · intro h0; rw [hslot, Slot.ofMeta_kind, hkind, h0]; rfl
      · intro h0; rw [hslot, Slot.ofMeta_kind, hkind, h0]; rfl
      · intro h0; rw [hslot, Slot.ofMeta_kind, hkind, h0]; rfl
      · rw [hdest, wentOn_enterInvalid_spend, Warp.writeBuffer_meta, ← hstate]
        exact Warp.writeMeta_spend n.toNat (hslot ▸ hscalar.2 h3)
      · rw [hdest] at hr ⊢
        rw [wentOn_enterInvalid_pending _ _ hr, Warp.writeBuffer_meta, ← hstate]
        exact Warp.writeMeta_pending n.toNat (fun hk => h3 (hscalar.1 (hslot ▸ hk))) hr (mem_dests_ofMeta x p.warp.vtsel h3 hj)

/-- Settles O38: a region edge acts on the state that the push or pop leaves, and the save path writes its slot and marks alone. -/
theorem regionsAndTheSavePath : Obligations.RegionsAndTheSavePath := ⟨regionStackPushesPopsAndBreaks, savePathMovesSlots⟩

end Sys2Proof.Machine
end


section
/-! Data that arrive for landing slots: homes serve a warp's loads, and loads and walks land (R198, R202, R203, R329). -/

namespace Sys2Proof.Machine
open Sys2Proof.Claims

/-! ## What answering a request leaves of the slots of the warp in focus -/

theorem State.slots_of_besidesMemory {s t : State} (h : t.besidesMemory = s.besidesMemory) : t.warp.slots = s.warp.slots :=
  (congrArg (fun x => x.warp.slots) h :)

@[simp] theorem State.settleHome_slots (s : State) (line : Nat) : (s.settleHome line).warp.slots = s.warp.slots :=
  State.slots_of_besidesMemory (s.settleHome_besidesMemory line)

@[simp] theorem State.noteHost_slots (s : State) (ws : List (Nat × Nat)) (pa : Nat) : (s.noteHost ws pa).warp.slots = s.warp.slots := by
  unfold State.noteHost
  split
  · simp only [State.mapWarps]; split <;> rfl
  · rfl

@[simp] theorem State.dispatch_slots (s : State) (u : Update) : (s.dispatch u).1.warp.slots = s.warp.slots := by
  unfold State.dispatch
  split
  · rfl
  · exact s.settleHome_slots _

theorem State.markDirty_slots {s t : State} {l : L1Line} (h : s.markDirty l = some t) : t.warp.slots = s.warp.slots := by
  have hwalk := s.beforeWalk_besidesMemory (s.ctxOf l.ctx) l.va (logCore s.core.num)
  refine State.slots_of_besidesMemory ?_
  unfold State.markDirty at h
  dsimp only at h
  split at h
  · exact (State.ite_swapPte_besidesMemory h).trans hwalk
  · cases h; exact hwalk

theorem State.getD_markDirty_slots (s : State) (l : L1Line) : ((s.markDirty l).getD s).warp.slots = s.warp.slots := by
  cases h : s.markDirty l with
  | none => rfl
  | some t => exact State.markDirty_slots h

@[simp] theorem State.evictLine_slots (s : State) (l : L1Line) : (s.evictLine l).warp.slots = s.warp.slots := by
  unfold State.evictLine State.sendBack
  split
  · rfl
  · split
    · rfl
    · simp only [State.dispatch_slots, State.noteHost_slots, State.getD_markDirty_slots]

theorem State.makeRoom_slots {s t : State} {line : Nat} (h : s.makeRoom line = some t) : t.warp.slots = s.warp.slots := by
  unfold State.makeRoom at h
  split at h
  · cases h; rfl
  · obtain ⟨l, -, rfl⟩ := Option.map_eq_some_iff.1 h
    exact s.evictLine_slots l

@[simp] theorem State.fillLine_slots (s : State) (l : L1Line) : (s.fillLine l).warp.slots = s.warp.slots := by
  unfold State.fillLine
  cases h : s.makeRoom l.line with
  | none => rfl
  | some t => exact (State.makeRoom_slots h :)

@[simp] theorem State.fillFrom_slots (s : State) (line : Nat) (va : BitVec 64) (r : Rat) (d : Vector Byte 128) :
    (s.fillFrom line va r d).1.warp.slots = s.warp.slots := by
  unfold State.fillFrom
  dsimp only
  split
  · split
    · rfl
    · cases h : s.makeRoom line with
      | none => rfl
      | some t => exact (State.makeRoom_slots h :)
  · exact s.fillLine_slots _

theorem State.homeServe_slots {s t : State} {line : Nat} {r : Rat} {va : BitVec 64} {counted : Bool} {asker : Nat}
    (h : s.homeServe line r va counted asker = some t) : t.warp.slots = s.warp.slots := by
  unfold State.homeServe at h
  dsimp only at h
  split at h
  · cases h
  · cases h
    refine State.slots_of_besidesMemory ?_
    simp only [apply_ite State.besidesMemory, State.countMiss_besidesMemory, State.slog_besidesMemory, State.cacheLine_besidesMemory,
      State.setHomeLine_besidesMemory, State.settleHome_besidesMemory, ite_self]

theorem State.readLine_slots {s : State} {line : Nat} {va : BitVec 64} {counted : Bool} {asker : Nat} {r : State × Vector Byte 128}
    (h : s.readLine line va counted asker = some r) : r.1.warp.slots = s.warp.slots := by
  unfold State.readLine at h
  split at h
  · cases h; rfl
  · split at h
    · cases h
    · obtain ⟨t, ht, rfl⟩ := Option.map_eq_some_iff.1 h
      exact (t.fillFrom_slots _ _ _ _).trans (State.homeServe_slots ht)

theorem State.engineLine_slots {s : State} {pipe pa : Nat} {va : BitVec 64} {r : State × Vector Byte 128}
    (h : s.engineLine pipe pa va = some r) : r.1.warp.slots = s.warp.slots := by
  unfold State.engineLine at h
  split at h
  · split at h
    · cases h; rfl
    · cases h; exact State.fillFrom_slots _ _ _ _ _
  · exact State.readLine_slots h

theorem State.enginePiece_slots {s : State} {pipe : Nat} {p : BitVec 64 × Nat} {r : State × List Byte}
    (h : s.enginePiece pipe p = some r) : r.1.warp.slots = s.warp.slots := by
  unfold State.enginePiece at h
  dsimp only at h
  split at h
  · obtain ⟨q, hq, rfl⟩ := Option.map_eq_some_iff.1 h
    refine (State.engineLine_slots hq).trans (State.slots_of_besidesMemory ?_)
    rw [State.translate_besidesMemory, State.useRat_besidesMemory]
  · cases h

theorem State.engineRead_slots {pipe : Nat} {ps : List (BitVec 64 × Nat)} {s : State} {r : State × List Byte}
    (h : s.engineRead pipe ps = some r) : r.1.warp.slots = s.warp.slots := by
  induction ps generalizing s r with
  | nil => cases h; rfl
  | cons p ps ih =>
    unfold State.engineRead at h
    split at h
    · cases h
    next hp =>
      obtain ⟨q, hq, rfl⟩ := Option.map_eq_some_iff.1 h
      exact (ih hq).trans (State.enginePiece_slots hp)

@[simp] theorem State.sampleFor_warp (s : State) (o : Origin) (k : Access) (vas : List (BitVec 64)) (red : Bool) :
    (s.sampleFor o k vas red).warp = s.warp := by
  unfold State.sampleFor
  split
  · rfl
  · dsimp only
    exact State.foldl_keeps State.warp _ (fun _ _ => by rfl) _ s

/-- A walk reads nodes, and touches no slot (R325). -/
theorem State.walkNodes_slots {root : BitVec 64} {any : Bool} {g : Origin} {r : Ray} {fuel : Nat} {s : State} {l : List (Nat × FVal)}
    {b : Option Best} {e : State × WalkEnd} (h : State.walkNodes root any g r fuel s l b = some e) : e.1.warp.slots = s.warp.slots := by
  induction fuel generalizing s l b with
  | zero =>
    unfold State.walkNodes at h
    split at h <;> (cases h; rfl)
  | succ fuel ih =>
    unfold State.walkNodes at h
    dsimp only at h
    split at h
    · cases h; rfl
    split at h
    · cases h; rfl
    split at h
    · cases h; rfl
    split at h
    · cases h
    split at h
    · cases h
    next hread =>
      have hslots := (State.engineRead_slots hread).trans (congrArg Warp.slots (State.sampleFor_warp ..))
      split at h
      · cases h; exact hslots
      split at h
      · exact (ih h).trans hslots
      split at h
      · cases h; exact hslots
      · exact (ih h).trans hslots

/-! ## What data that arrive leave of a slot -/

/-- What stands of a slot until it lands: its state and its destination. -/
def Slot.standing (x : Slot) : SlotState × Nat := (x.state, x.dest)

/-- What stands of every slot of a warp. -/
def Warp.standing (w : Warp) (j : Nat) : SlotState × Nat := (w.land j).standing

theorem Warp.standing_of_slots {w x : Warp} (h : w.slots = x.slots) : w.standing = x.standing :=
  funext fun j => congrArg (fun v => (look v Slot.blank j).standing) h

theorem Warp.standing_setSlot {w : Warp} {k : Nat} {x : Slot} (h : x.standing = w.standing k) : (w.setSlot k x).standing = w.standing := by
  funext j
  unfold Warp.standing
  by_cases hj : j = k
  · subst hj
    by_cases hk : j < 16
    · rw [w.land_setSlot_same x hk]; exact h
    · have hout : (w.setSlot j x).land j = w.land j := by
        simp [Warp.land, Warp.setSlot, look, put, List.getD, hk]
      rw [hout]
  · rw [w.land_setSlot_other x hj]

theorem Slot.foldl_put_standing (d : Slot → LaneLoad → List Byte) (l : List LaneLoad) (x : Slot) :
    (l.foldl (fun x a => x.put a.lane (d x a)) x).standing = x.standing :=
  foldl_keeps Slot.standing (f := fun x a => x.put a.lane (d x a)) (fun _ _ => rfl) l x

/-- A slot whose loads of a line have got the line's bytes d; poisoned tells that the line is (R202, R221). -/
def Slot.served (x : Slot) (line : Nat) (d : Vector Byte 128) (poisoned : Bool) : Slot :=
  let y := (x.on line).foldl (fun x l => x.put l.lane (lineBytes d (l.pa % 128) x.kind.bytes)) x
  { y with poisoned := if poisoned then y.poisoned ||| maskOf fun L => (x.on line).any fun l => l.lane == L else y.poisoned }

theorem Slot.served_standing (x : Slot) (line : Nat) (d : Vector Byte 128) (p : Bool) : (x.served line d p).standing = x.standing :=
  Slot.foldl_put_standing (fun x l => lineBytes d (l.pa % 128) x.kind.bytes) _ _

theorem State.landLine_slots (s : State) (k line : Nat) (d : Vector Byte 128) :
    (s.landLine k line d).warp.slots = (s.warp.setSlot k ((s.warp.land k).served line d (s.poison.contains line))).slots := rfl

theorem State.landLine_standing (s : State) (k line : Nat) (d : Vector Byte 128) : (s.landLine k line d).warp.standing = s.warp.standing :=
  (Warp.standing_of_slots (s.landLine_slots k line d)).trans
    (Warp.standing_setSlot (Slot.served_standing _ _ _ _))

theorem State.loseLine_standing (s : State) (k line : Nat) : (s.loseLine k line).warp.standing = s.warp.standing := by
  unfold State.loseLine
  exact Warp.standing_setSlot rfl

theorem State.serveLine_standing {s t : State} {k line : Nat} (h : s.serveLine k line = some t) : t.warp.standing = s.warp.standing := by
  unfold State.serveLine at h
  split at h
  · cases h; rfl
  dsimp only at h
  have hhome : (s.settleHome line).warp.standing = s.warp.standing := Warp.standing_of_slots (s.settleHome_slots line)
  split at h
  · cases h
  split at h
  · cases h; exact (State.loseLine_standing _ _ _).trans hhome
  · obtain ⟨r, hr, rfl⟩ := Option.map_eq_some_iff.1 h
    exact (State.landLine_standing _ _ _ _).trans ((Warp.standing_of_slots (State.readLine_slots hr)).trans hhome)

theorem State.serveSlots_standing {line : Nat} {l : List Nat} {s t : State} (h : s.serveSlots line l = some t) :
    t.warp.standing = s.warp.standing := by
  induction l generalizing s with
  | nil => cases h; rfl
  | cons k l ih =>
    unfold State.serveSlots at h
    split at h
    · cases h
    next hk => exact (ih h).trans (State.serveLine_standing hk)

theorem State.serveSlot_standing {k : Nat} {l : List Nat} {s t : State} (h : s.serveSlot k l = some t) :
    t.warp.standing = s.warp.standing := by
  induction l generalizing s with
  | nil => cases h; rfl
  | cons line l ih =>
    unfold State.serveSlot at h
    split at h
    · cases h
    next hline => exact (ih h).trans (State.serveSlots_standing hline)

theorem State.traceLane_standing {s t : State} {j : TraceJob} {k L : Nat} (h : s.traceLane j k L = some t) :
    t.warp.standing = s.warp.standing := by
  unfold State.traceLane at h
  obtain ⟨e, he, rfl⟩ := Option.map_eq_some_iff.1 h
  have hput : ∀ d, (e.1.warp.setSlot k ((e.1.warp.land k).put L d)).standing = e.1.warp.standing := fun _ => Warp.standing_setSlot rfl
  refine (hput _).trans (Warp.standing_of_slots ?_)
  split at he
  · cases he; rfl
  · exact State.walkNodes_slots he

/-- The walks of the lanes of a list, in turn. -/
def State.traceLanes (j : TraceJob) (k : Nat) (l : List Nat) (s : Option State) : Option State :=
  l.foldl (fun s L => s.bind fun s => s.traceLane j k L) s

theorem State.traceLanes_none (j : TraceJob) (k : Nat) (l : List Nat) : State.traceLanes j k l none = none := by
  induction l with
  | nil => rfl
  | cons L l ih => exact ih

theorem State.traceLanes_standing {j : TraceJob} {k : Nat} {l : List Nat} {s t : State} (h : State.traceLanes j k l (some s) = some t) :
    t.warp.standing = s.warp.standing := by
  induction l generalizing s with
  | nil => cases h; rfl
  | cons L l ih =>
    have h : State.traceLanes j k l (s.traceLane j k L) = some t := h
    cases hL : s.traceLane j k L with
    | none => rw [hL, State.traceLanes_none] at h; cases h
    | some u =>
      rw [hL] at h
      exact (ih h).trans (State.traceLane_standing hL)

/-- The walk of a lane whose ray misses the volume of the tree reads nothing, and ends (R325). -/
theorem State.traceLanes_isSome_of_misses {j : TraceJob} (k : Nat) {l : List Nat} (h : ∀ L ∈ l, (j.ray L).misses = true) (s : State) :
    ∃ t, State.traceLanes j k l (some s) = some t := by
  induction l generalizing s with
  | nil => exact ⟨s, rfl⟩
  | cons L l ih =>
    have hL : ∃ t, s.traceLane j k L = some t := by
      unfold State.traceLane
      dsimp only
      rw [if_pos (h L List.mem_cons_self)]
      exact ⟨_, rfl⟩
    obtain ⟨t, ht⟩ := hL
    have hstep : State.traceLanes j k (L :: l) (some s) = State.traceLanes j k l (s.traceLane j k L) := rfl
    rw [hstep, ht]
    exact ih (fun M hM => h M (List.mem_cons_of_mem _ hM)) t

/-- Slot k has landed, and every slot stands otherwise as it did. -/
def Warp.Landed (w x : Warp) (k : Nat) : Prop :=
  (x.land k).state = .landed ∧ (∀ j, (x.land j).dest = (w.land j).dest) ∧ ∀ j, j ≠ k → (x.land j).state = (w.land j).state

theorem Warp.landed_of_standing {u w : Warp} {k : Nat} (hk : k < 16) (h : w.standing = u.standing) {x : Slot} (hstate : x.state = .landed)
    (hdest : x.dest = (w.land k).dest) : u.Landed (w.setSlot k x) k := by
  have hland : ∀ j, (w.land j).standing = (u.land j).standing := congrFun h
  refine ⟨by rw [w.land_setSlot_same _ hk]; exact hstate, fun j => ?_, fun j hj => ?_⟩
  · rw [← congrArg Prod.snd (hland j) |> fun e => (e : (w.land j).dest = (u.land j).dest)]
    by_cases hj : j = k
    · rw [hj, w.land_setSlot_same _ hk, hdest]
    · rw [w.land_setSlot_other _ hj]
  · rw [w.land_setSlot_other _ hj]
    exact congrArg Prod.fst (hland j)

theorem exec_loadLanding (h w : Nat) (k : BitVec 4) (s : State) : exec (.loadLanding h w k) s = execLoadLanding h w k s := rfl

theorem exec_traceLanding (h w : Nat) (k : BitVec 4) (s : State) : exec (.traceLanding h w k) s = execTraceLanding h w k s := rfl

theorem exec_homeLoadServe (core line : Nat) (s : State) : exec (.homeLoadServe core line) s = execHomeLoadServe core line s := rfl

theorem exec_resultProduced (h w n : Nat) (s : State) : exec (.resultProduced h w n) s = execResultProduced h w n s := rfl

theorem exec_roundTripCompletion (h w : Nat) (s : State) : exec (.roundTripCompletion h w) s = execRoundTripCompletion h w s := rfl

/-- LOAD_LANDING lands a slot once the homes have served each line that it still waits for (R62, R202). -/
theorem loadLanding_lands {h w : Nat} {s u v : State} (hu : s.focusOn h w = some u) {k : BitVec 4}
    (hstate : (u.warp.land k.toNat).state = .inflight) (hkind : (u.warp.land k.toNat).kind ≠ .trace)
    (hv : u.serveSlot k.toNat ((u.warp.land k.toNat).todo.map fun l => lineOf l.pa).dedup = some v) :
    ∃ t, exec (.loadLanding h w k) s = .next t ∧ u.warp.Landed t.warp k.toNat := by
  rw [exec_loadLanding, execLoadLanding, hu]
  dsimp only
  rw [if_pos ⟨hstate, hkind⟩, hv]
  exact ⟨_, rfl, Warp.landed_of_standing k.isLt (State.serveSlot_standing hv) rfl rfl⟩

theorem loadLanding_waits {h w : Nat} {s u : State} (hu : s.focusOn h w = some u) {k : BitVec 4}
    (hv : u.serveSlot k.toNat ((u.warp.land k.toNat).todo.map fun l => lineOf l.pa).dedup = none) :
    exec (.loadLanding h w k) s = .fault .cannotHappen := by
  rw [exec_loadLanding, execLoadLanding, hu]
  dsimp only
  rw [hv]
  exact ite_self _

/-- TRACE_LANDING lands a slot once what its TRACE comes after has been performed and its walks have ended (R329). -/
theorem traceLanding_eq {h w : Nat} {s u : State} (hu : s.focusOn h w = some u) {k : BitVec 4} {j : TraceJob}
    (htrace : (u.warp.land k.toNat).trace = some j) (hstate : (u.warp.land k.toNat).state = .inflight)
    (hkind : (u.warp.land k.toNat).kind = .trace) :
    exec (.traceLanding h w k) s =
      if u.forkSeen h w u.warp.uid (u.warp.land k.toNat).order = false then .fault .cannotHappen
      else match State.traceLanes j k.toNat (maskLanes (u.warp.land k.toNat).mask) (some (u.useRat u.ctx)) with
        | none => .fault .cannotHappen
        | some v => .next ({ v with
            warp := v.warp.setSlot k.toNat { v.warp.land k.toNat with state := .landed, trace := none }
            ctx := { v.ctx with lastBusy := v.gtc } } : State).wake := by
  rw [exec_traceLanding, execTraceLanding, hu]
  dsimp only
  rw [htrace]
  simp only [hstate, hkind, ne_eq, not_true_eq_false, false_or]
  rfl

theorem traceLanding_lands {h w : Nat} {s u v : State} (hu : s.focusOn h w = some u) {k : BitVec 4} {j : TraceJob}
    (htrace : (u.warp.land k.toNat).trace = some j) (hstate : (u.warp.land k.toNat).state = .inflight)
    (hkind : (u.warp.land k.toNat).kind = .trace) (hseen : u.forkSeen h w u.warp.uid (u.warp.land k.toNat).order = true)
    (hv : State.traceLanes j k.toNat (maskLanes (u.warp.land k.toNat).mask) (some (u.useRat u.ctx)) = some v) :
    ∃ t, exec (.traceLanding h w k) s = .next t ∧ u.warp.Landed t.warp k.toNat ∧ (t.warp.land k.toNat).trace = none := by
  rw [traceLanding_eq hu htrace hstate hkind, if_neg (by simp [hseen]), hv]
  have hstand : v.warp.standing = u.warp.standing :=
    (State.traceLanes_standing hv).trans (Warp.standing_of_slots (State.slots_of_besidesMemory (u.useRat_besidesMemory u.ctx)))
  refine ⟨_, rfl, Warp.landed_of_standing k.isLt hstand rfl rfl, ?_⟩
  exact congrArg Slot.trace (Warp.land_setSlot_same v.warp _ k.isLt)

theorem traceLanding_waits {h w : Nat} {s u : State} (hu : s.focusOn h w = some u) {k : BitVec 4} {j : TraceJob}
    (htrace : (u.warp.land k.toNat).trace = some j) (hstate : (u.warp.land k.toNat).state = .inflight)
    (hkind : (u.warp.land k.toNat).kind = .trace)
    (hv : State.traceLanes j k.toNat (maskLanes (u.warp.land k.toNat).mask) (some (u.useRat u.ctx)) = none) :
    exec (.traceLanding h w k) s = .fault .cannotHappen := by
  rw [traceLanding_eq hu htrace hstate hkind, hv]
  exact ite_self _

/-! ## A home serves the oldest load of a warp (R198, R203) -/

theorem mem_of_mem_insertBy {α : Type} {le : α → α → Bool} {a x : α} {l : List α} (h : x ∈ insertBy le a l) : x = a ∨ x ∈ l := by
  induction l with
  | nil => exact .inl (List.mem_singleton.1 h)
  | cons b l ih =>
    unfold insertBy at h
    split at h
    · exact List.mem_cons.1 h
    · rcases List.mem_cons.1 h with rfl | h
      · exact .inr List.mem_cons_self
      · exact (ih h).imp_right (List.mem_cons_of_mem _)

theorem mem_of_mem_sortBy {α : Type} {le : α → α → Bool} {x : α} {l : List α} (h : x ∈ sortBy le l) : x ∈ l := by
  induction l with
  | nil => exact h
  | cons a l ih =>
    rcases mem_of_mem_insertBy h with rfl | h
    · exact List.mem_cons_self
    · exact List.mem_cons_of_mem _ (ih h)

theorem Warp.on_of_mem_slotsOn {w : Warp} {line k : Nat} (h : k ∈ w.slotsOn line) : k < 16 ∧ (w.land k).on line ≠ [] := by
  have hmem := List.mem_filter.1 (mem_of_mem_sortBy h)
  exact ⟨List.mem_range.1 hmem.1, by simpa using hmem.2⟩

/-- Each lane that is given its data waits no longer. -/
theorem Slot.foldl_put_todo (d : Slot → LaneLoad → List Byte) (l : List LaneLoad) (x : Slot) :
    ∀ a ∈ (l.foldl (fun x a => x.put a.lane (d x a)) x).todo, a ∈ x.todo ∧ ∀ b ∈ l, a.lane ≠ b.lane := by
  induction l generalizing x with
  | nil => exact fun a ha => ⟨ha, nofun⟩
  | cons c l ih =>
    intro a ha
    obtain ⟨hmem, hrest⟩ := ih _ a ha
    obtain ⟨hx, hc⟩ := List.mem_filter.1 hmem
    exact ⟨hx, List.forall_mem_cons.2 ⟨by simpa using hc, hrest⟩⟩

/-- All loads of the line are served by one answer (R202). -/
theorem Slot.served_on {x : Slot} {line : Nat} (h : x.on line ≠ []) (d : Vector Byte 128) (p : Bool) : (x.served line d p).on line = [] := by
  have hon : x.on line = x.todo.filter fun l => lineOf l.pa == line := by
    unfold Slot.on at h ⊢
    split at h
    next hwaits => exact if_pos hwaits
    next => exact absurd rfl h
  refine List.eq_nil_iff_forall_not_mem.2 fun a ha => ?_
  unfold Slot.on at ha
  split at ha
  · obtain ⟨htodo, hline⟩ := List.mem_filter.1 ha
    obtain ⟨hmem, hlanes⟩ := Slot.foldl_put_todo (fun x l => lineBytes d (l.pa % 128) x.kind.bytes) (x.on line) x a htodo
    exact hlanes a (hon ▸ List.mem_filter.2 ⟨hmem, hline⟩) rfl
  · cases ha

/-! ## A home that answers goes on answering as its updates are performed (R200, R206) -/

/-- No agent holds the line exclusively, in any entry that the homes have for it. -/
def HomeAnswers (line : Nat) (l : List HomeLine) : Prop := ∀ x ∈ l, x.line = line → x.excl = none

theorem State.homeLine_line (s : State) (line : Nat) : (s.homeLine line).line = line := by
  unfold State.homeLine
  split
  next h => exact eq_of_beq (List.find?_some h :)
  next => rfl

theorem HomeAnswers.homeLine {line : Nat} {s : State} (h : HomeAnswers line s.home) : (s.homeLine line).excl = none := by
  unfold State.homeLine
  split
  next x hx => exact h x (List.mem_of_find?_eq_some hx) (eq_of_beq (List.find?_some hx :))
  next => rfl

/-- The entry that a home writes is its only one of its line. -/
theorem HomeAnswers.of_setHomeLine (s : State) {x : HomeLine} (hx : x.excl = none) : HomeAnswers x.line (s.setHomeLine x).home := by
  intro y hy hline
  rcases List.mem_cons.1 hy with rfl | hy
  · exact hx
  · exact absurd hline (by simpa using (List.mem_filter.1 hy).2)

theorem HomeAnswers.setHomeLine {line : Nat} {s : State} (h : HomeAnswers line s.home) {x : HomeLine} (hx : x.line = line → x.excl = none) :
    HomeAnswers line (s.setHomeLine x).home := by
  intro y hy hline
  rcases List.mem_cons.1 hy with rfl | hy
  · exact hx hline
  · exact h y (List.mem_filter.1 hy).1 hline

theorem HomeAnswers.forgetLine {line : Nat} {s : State} (h : HomeAnswers line s.home) {x : HomeLine} (hx : x ∈ s.home) :
    HomeAnswers line (s.forgetLine x).home := by
  unfold State.forgetLine
  split
  · exact h.setHomeLine (x := { x with cached := false }) (h x hx)
  · exact fun y hy => h y (List.mem_filter.1 hy).1

theorem HomeAnswers.cacheLine {line : Nat} {s : State} (h : HomeAnswers line s.home) : HomeAnswers line (s.cacheLine line).home := by
  have hkeep : ∀ t : State, HomeAnswers line t.home → HomeAnswers line (t.setHomeLine { t.homeLine line with cached := true }).home :=
    fun t ht => ht.setHomeLine (x := { t.homeLine line with cached := true }) fun _ => ht.homeLine
  unfold State.cacheLine
  dsimp only
  split
  · exact h
  · refine hkeep _ ?_
    split
    · exact h
    · cases hlast : (s.home.filter fun x => x.cached && sliceNo x.line == sliceNo line).getLast? with
      | none => exact h
      | some x => exact h.forgetLine (List.mem_filter.1 (List.mem_of_getLast? hlast)).1

theorem HomeAnswers.putChunk {line : Nat} {s : State} (h : HomeAnswers line s.home) (pa : Nat) (l : List Byte) :
    HomeAnswers line (s.putChunk pa l).home := by
  unfold State.putChunk
  split
  · refine HomeAnswers.setHomeLine (s := { s with nextId := s.nextId + 1 }) h fun hline => ?_
    have hx : lineOf pa = line := (s.homeLine_line _).symm.trans hline
    exact (hx ▸ h.homeLine : (s.homeLine (lineOf pa)).excl = none)
  · exact h

theorem HomeAnswers.foldl {α : Type} {line : Nat} {f : State → α → State}
    (hf : ∀ s a, HomeAnswers line s.home → HomeAnswers line (f s a).home) (l : List α) {s : State}
    (h : HomeAnswers line s.home) : HomeAnswers line (l.foldl f s).home := by
  induction l generalizing s with
  | nil => exact h
  | cons a l ih => exact ih (hf s a h)

theorem HomeAnswers.postTo {line : Nat} {s : State} (h : HomeAnswers line s.home) (r : Ring) (l : List Byte) :
    HomeAnswers line (s.postTo r l).1.home := by
  unfold State.postTo State.putBytes
  dsimp only
  split
  · exact h
  · exact HomeAnswers.foldl (fun s a hs => hs.putChunk _ _) _ h

theorem HomeAnswers.countMiss {line : Nat} {s : State} (h : HomeAnswers line s.home) (ctx pa : Nat) (va : BitVec 64) (core : Nat) :
    HomeAnswers line (s.countMiss ctx pa va core).home := by
  have hnotify : ∀ d k, HomeAnswers line (s.notify d k ctx va core).1.home := by
    intro d k
    unfold State.notify
    dsimp only
    split
    · exact h
    · split
      · exact h
      · exact h.postTo _ _
  exact hnotify _ _

theorem State.slog_home (s : State) (line cls : Nat) (hit : Bool) (core requester : Nat) : (s.slog line cls hit core requester).home = s.home := by
  unfold State.slog; dsimp only; split <;> rfl

theorem HomeAnswers.performUpdate {line : Nat} {s : State} (h : HomeAnswers line s.home) (u : Update) (hit : Bool) :
    HomeAnswers line (s.performUpdate u hit).home := by
  have hfire : ∀ t : State, t.home = s.home → ∀ m, (({ t with mem := u.perform m } : State).fire (lineOf u.pa)).home = s.home :=
    fun _ ht _ => ht
  have hlogged : ∀ t : State, t.home = s.home → ∀ cls,
      HomeAnswers line (if u.byUnit then t else t.slog (lineOf u.pa) cls hit (logCore u.core) u.asker).home := by
    intro t ht cls
    rw [apply_ite State.home, State.slog_home, ite_self, ht]
    exact h
  have hcounted : ∀ t : State, HomeAnswers line t.home →
      HomeAnswers line (if !hit && u.counted then t.countMiss u.ctx (128 * lineOf u.pa) u.va u.core else t).home := by
    intro t ht
    split
    · exact ht.countMiss _ _ _ _
    · exact ht
  unfold State.performUpdate
  dsimp only
  refine hcounted _ (hlogged _ (hfire _ ?_ _) _)
  split <;> rfl

theorem State.performFirst_open {s : State} {line : Nat} (hpend : (s.homeLine line).pend ≠ []) (h : (s.homeLine line).excl = none) :
    HomeAnswers line (s.performFirst line).home := by
  unfold State.performFirst
  dsimp only
  split
  next hnil => exact absurd hnil hpend
  next u rest _ =>
    have hset : ∀ x : HomeLine, x.line = line → x.excl = none → HomeAnswers line (s.setHomeLine x).home :=
      fun x hx he => hx ▸ HomeAnswers.of_setHomeLine s he
    have hset := hset { s.homeLine line with pend := rest, cached := (s.homeLine line).cached && u.alloc } (s.homeLine_line line) h
    split
    · exact hset.cacheLine.performUpdate _ _
    · exact hset.performUpdate _ _

/-- Performing what is due at a home that answers leaves it answering. -/
theorem State.settleLine_answers {line n : Nat} {s : State} (h : (s.homeLine line).excl = none) :
    ((s.settleLine line n).homeLine line).excl = none := by
  induction n generalizing s with
  | zero => exact h
  | succ n ih =>
    unfold State.settleLine
    split
    next u rest hpend =>
      split
      · exact ih (State.performFirst_open (by simp [hpend]) h).homeLine
      · exact h
    next => exact h

/-- The bytes of a line of HBM or of the host come where its home answers (R198, R206). -/
theorem State.readLine_isSome {s : State} {line : Nat} (htarget : target (128 * line) ≠ .peer) (h : (s.homeLine line).excl = none)
    (va : BitVec 64) (counted : Bool) (asker : Nat) : ∃ r, s.readLine line va counted asker = some r := by
  have hexcl : ((s.settleHome line).homeLine line).excl.isSome = false := by
    rw [show ((s.settleHome line).homeLine line).excl = none from State.settleLine_answers h]; rfl
  unfold State.readLine
  split
  · exact ⟨_, rfl⟩
  · rw [if_neg htarget]
    unfold State.homeServe
    dsimp only
    rw [hexcl]
    exact ⟨_, rfl⟩

theorem State.settleHome_team (s : State) (line : Nat) : (s.settleHome line).team = s.team :=
  (congrArg State.team (s.settleHome_besidesMemory line) :)

theorem State.settleHome_idx (s : State) (line : Nat) : (s.settleHome line).warp.idx = s.warp.idx :=
  (congrArg (fun t => t.warp.idx) (s.settleHome_besidesMemory line) :)

theorem Warp.land_of_slots {w x : Warp} (h : w.slots = x.slots) (j : Nat) : w.land j = x.land j := congrArg (fun v => look v Slot.blank j) h

/-- A slot that waits for a line is served, all its lanes on the line, where the line's home answers (R202, R206). -/
theorem State.serveLine_serves {s : State} {k line : Nat} (hon : (s.warp.land k).on line ≠ []) (htarget : target (128 * line) ≠ .peer)
    (hexcl : ((s.settleHome line).homeLine line).excl = none) (hgone : (s.settleHome line).hostGone = false)
    (howes : (s.settleHome line).owes s.team.handle s.warp.idx (s.warp.land k).order (· == line) = false) :
    ∃ t d p, s.serveLine k line = some t ∧ t.warp.slots = (s.warp.setSlot k ((s.warp.land k).served line d p)).slots := by
  have hland := Warp.land_of_slots (s.settleHome_slots line) k
  unfold State.serveLine
  split
  next hnil => exact absurd hnil hon
  next first _ _ =>
    dsimp only
    rw [State.settleHome_team, State.settleHome_idx, hland, howes, if_neg Bool.false_ne_true, hgone, if_neg (by simp)]
    obtain ⟨r, hr⟩ := State.readLine_isSome htarget hexcl first.va (!(s.settleHome line).privileged) 0
    have hslots : r.1.warp.slots = s.warp.slots := (State.readLine_slots hr).trans (s.settleHome_slots line)
    refine ⟨_, r.2, r.1.poison.contains line, by rw [hr]; rfl, (State.landLine_slots _ _ _ _).trans ?_⟩
    rw [Warp.land_of_slots hslots]
    exact congrArg (fun v => put v k _) hslots

/-- HOME_LOAD_SERVE answers the first warp of the core, whose oldest load of the line is then done (R198, R203). -/
theorem homeLoadServe_serves {core line k : Nat} {s y : State} {x : Warp} (hx : (s.coreWarps core).head? = some x)
    (hk : (x.slotsOn line).head? = some k) (hy : s.focusOn x.team x.idx = some y) (hyx : y.warp = x) (htarget : target (128 * line) ≠ .peer)
    (hexcl : ((y.settleHome line).homeLine line).excl = none) (hgone : (y.settleHome line).hostGone = false)
    (howes : (y.settleHome line).owes y.team.handle x.idx (x.land k).order (· == line) = false) :
    ∃ t, exec (.homeLoadServe core line) s = .next t ∧ (t.warp.land k).on line = [] ∧ (∀ j, (t.warp.land j).dest = (x.land j).dest) ∧
      ∀ j, j ≠ k → t.warp.land j = x.land j := by
  obtain ⟨hk16, hon⟩ := Warp.on_of_mem_slotsOn (List.mem_of_head? hk)
  subst hyx
  obtain ⟨t, d, p, ht, hslots⟩ := State.serveLine_serves hon htarget hexcl hgone howes
  have hserve : s.serveWarp line y.warp = some t := by
    unfold State.serveWarp
    rw [hk, hy]
    exact ht
  have hfind : (s.coreWarps core).findSome? (s.serveWarp line) = some t := by
    obtain ⟨l, hl⟩ : ∃ l, s.coreWarps core = y.warp :: l := by
      cases hw : s.coreWarps core with
      | nil => rw [hw] at hx; cases hx
      | cons a l => rw [hw] at hx; cases hx; exact ⟨l, rfl⟩
    rw [hl, List.findSome?_cons_of_isSome] <;> simp [hserve]
  have hland : ∀ j, t.wake.warp.land j = (y.warp.setSlot k ((y.warp.land k).served line d p)).land j := Warp.land_of_slots hslots
  refine ⟨t.wake, ?_, ?_, fun j => ?_, fun j hj => (hland j).trans (y.warp.land_setSlot_other _ hj)⟩
  · rw [exec_homeLoadServe, execHomeLoadServe, hfind]
  · rw [hland, y.warp.land_setSlot_same _ hk16, Slot.served_on hon]
  · rw [hland]
    exact congrArg Prod.snd (congrFun (Warp.standing_setSlot (w := y.warp) (Slot.served_standing (y.warp.land k) line d p)) j)

/-! ## Results and round trips (R60, R211) -/

/-- A result that no operation under way is to return gets its value (R60). -/
theorem resultProduced_produces {h w n : Nat} {s u : State} (hu : s.focusOn h w = some u) {e : WinEntry} (he : u.warp.unproduced[n]? = some e)
    (hripe : u.ripe e = true) (hheld : ∀ a ∈ u.core.atoms, a.seq = e.seq → a.held = true) :
    exec (.resultProduced h w n) s = .next (u.produce e.seq id).wake := by
  have hnone : (u.core.atoms.find? fun a => a.seq == e.seq && !a.held) = none :=
    List.find?_eq_none.2 fun a ha hp => by
      obtain ⟨hseq, hfree⟩ := Bool.and_eq_true_iff.1 hp
      simp [hheld a ha (eq_of_beq hseq)] at hfree
  rw [exec_resultProduced, execResultProduced, hu]
  dsimp only
  rw [he]
  dsimp only
  rw [if_pos hripe, hnone]

theorem resultProduced_completes {h w n : Nat} {s u : State} (hu : s.focusOn h w = some u) {e : WinEntry} (he : u.warp.unproduced[n]? = some e)
    (hripe : u.ripe e = true) : ∃ t, exec (.resultProduced h w n) s = .next t := by
  rw [exec_resultProduced, execResultProduced, hu]
  dsimp only
  rw [he]
  dsimp only
  rw [if_pos hripe]
  split
  · split <;> exact ⟨_, rfl⟩
  · exact ⟨_, rfl⟩

theorem roundTripCompletion_ends {h w : Nat} {s u : State} (hu : s.focusOn h w = some u) (hwrote : u.settleOwn.warp.hostWritten = true)
    (hout : u.settleOwn.outstanding = false) (hpend : u.settleOwn.hostPending = false) (hgone : u.settleOwn.hostGone = false) :
    ∃ t, exec (.roundTripCompletion h w) s = .next t ∧ t.warp.hostWritten = false := by
  rw [exec_roundTripCompletion, execRoundTripCompletion, hu]
  dsimp only
  rw [hwrote, hout, hpend, hgone]
  exact ⟨_, rfl, rfl⟩

/-- Settles O47: serving a line changes neither the state nor the destination of any slot, so that what lands is the slot alone. -/
theorem dataArriveForTheirSlots : Obligations.DataArriveForTheirSlots := by
  intro h w s u hu
  refine ⟨fun k => ⟨fun hstate hkind => ⟨fun htodo => ?none_left, ?load⟩,
      fun j htrace hstate hkind => ⟨fun hseen => ?before, fun hseen hmiss => ?misses, fun hseen => ?walks⟩⟩,
    fun core line x k y hx hk hy hyx => homeLoadServe_serves hx hk hy hyx,
    fun n e he hripe => ⟨resultProduced_produces hu he hripe, resultProduced_completes hu he hripe⟩, roundTripCompletion_ends hu⟩
  case none_left => exact loadLanding_lands hu hstate hkind (by rw [htodo]; rfl)
  case load =>
    cases hv : u.serveSlot k.toNat ((u.warp.land k.toNat).todo.map fun l => lineOf l.pa).dedup with
    | none => exact loadLanding_waits hu hv
    | some v => exact loadLanding_lands hu hstate hkind hv
  case before => rw [traceLanding_eq hu htrace hstate hkind, if_pos hseen]
  case misses =>
    have hlanes : ∀ L ∈ maskLanes (u.warp.land k.toNat).mask, (j.ray L).misses = true := fun L hL => by
      obtain ⟨hlt, hbit⟩ := List.mem_filter.1 hL
      exact hmiss L (List.mem_range.1 hlt) hbit
    obtain ⟨v, hv⟩ := State.traceLanes_isSome_of_misses k.toNat hlanes (u.useRat u.ctx)
    exact traceLanding_lands hu htrace hstate hkind hseen hv
  case walks =>
    split
    next hv => exact traceLanding_waits hu htrace hstate hkind hv
    next v hv => exact traceLanding_lands hu htrace hstate hkind hseen hv

end Sys2Proof.Machine
end

section
/-! The scratchpad: its addresses, its checks, and what the lanes of a store leave in it (R130 to R134). -/

namespace Sys2Proof.Machine
open Sys2Proof.Claims

/-! ## The lowest lane of a mask -/

theorem lowest_eq_some {m : Mask} {L : Nat} (hL : L < 32) (hin : m.getLsbD L = true) (hlow : ∀ j, j < L → m.getLsbD j = false) :
    lowest m = some L := by
  unfold lowest maskLanes laneNos
  rw [List.head?_filter, List.find?_range_eq_some]
  exact ⟨hin, List.mem_range.2 hL, fun j hj => by simp [hlow j hj]⟩

theorem lowest_eq_none {m : Mask} (h : ∀ j, j < 32 → m.getLsbD j = false) : lowest m = none := by
  unfold lowest maskLanes laneNos
  rw [List.head?_filter, List.find?_eq_none]
  exact fun j hj => by simp [h j (List.mem_range.1 hj)]

theorem mem_maskLanes {m : Mask} {L : Nat} : L ∈ maskLanes m ↔ L < 32 ∧ m.getLsbD L = true := by
  unfold maskLanes laneNos
  rw [List.mem_filter, List.mem_range]

theorem maskLanes_pairwise (m : Mask) : (maskLanes m).Pairwise (· < ·) := List.Pairwise.filter _ List.pairwise_lt_range

/-! ## The checks of LDS and STS (R130) -/

theorem State.getLsbD_scratchLanes (s : State) (a b : VOp) (p : Word → Bool) {L : Nat} (hL : L < 32) :
    (s.scratchLanes a b p).getLsbD L = (s.mask.getLsbD L && p (s.scratchAddr a b L)) :=
  Bool.eq_iff_iff.2 (getLsbD_maskOf _ hL)

/-- The lowest active lane whose address meets a condition that no lower one meets. -/
theorem State.lowest_scratchLanes {s : State} {a b : VOp} {p : Word → Bool} {L : Nat} (hL : L < 32) (hin : s.mask.getLsbD L = true)
    (hp : p (s.scratchAddr a b L) = true) (hlow : ∀ j, j < L → s.mask.getLsbD j = true → p (s.scratchAddr a b j) = false) :
    lowest (s.scratchLanes a b p) = some L := by
  refine lowest_eq_some hL (by rw [s.getLsbD_scratchLanes a b p hL, hin, hp]; rfl) fun j hj => ?_
  rw [s.getLsbD_scratchLanes a b p (hj.trans hL), Bool.and_eq_false_imp]
  exact hlow j hj

theorem State.lowest_scratchLanes_none {s : State} {a b : VOp} {p : Word → Bool}
    (h : ∀ j, j < 32 → s.mask.getLsbD j = true → p (s.scratchAddr a b j) = false) : lowest (s.scratchLanes a b p) = none :=
  lowest_eq_none fun j hj => by
    rw [s.getLsbD_scratchLanes a b p hj, Bool.and_eq_false_imp]
    exact h j hj

/-- The address of a word is a multiple of 4 (R130). -/
theorem misaligned_eq_false {x : Word} : (bits x 0 2 != 0) = false ↔ x.toNat % 4 = 0 := by simp [bits]

theorem misaligned_eq_true {x : Word} : (bits x 0 2 != 0) = true ↔ x.toNat % 4 ≠ 0 := by simp [bits]

/-- R130: an address that is no multiple of 4 faults at the lowest such lane. -/
theorem State.scratchCheck_of_misaligned {s : State} {a b : VOp} {L : Nat} (hL : L < 32) (hin : s.mask.getLsbD L = true)
    (h : (s.scratchAddr a b L).toNat % 4 ≠ 0) (hlow : ∀ j, j < L → s.mask.getLsbD j = true → (s.scratchAddr a b j).toNat % 4 = 0) :
    ∃ r, s.scratchCheck a b = some r ∧ r.code = 0x0022 ∧ r.addr = BitVec.ofNat 64 (s.scratchAddr a b L).toNat := by
  unfold State.scratchCheck firstRaise
  rw [State.lowest_scratchLanes hL hin (misaligned_eq_true.2 h) fun j hj hm => misaligned_eq_false.2 (hlow j hj hm)]
  exact ⟨_, rfl, rfl, (BitVec.ofNat_toNat 64 (s.scratchAddr a b L)).symm⟩

/-- R130: past the scratchpad, where every address is a multiple of 4. -/
theorem State.scratchCheck_of_past {s : State} {a b : VOp} {L : Nat} (hL : L < 32) (hin : s.mask.getLsbD L = true)
    (haligned : ∀ j, j < 32 → s.mask.getLsbD j = true → (s.scratchAddr a b j).toNat % 4 = 0)
    (h : s.team.scratchSize ≤ (s.scratchAddr a b L).toNat)
    (hlow : ∀ j, j < L → s.mask.getLsbD j = true → (s.scratchAddr a b j).toNat < s.team.scratchSize) :
    ∃ r, s.scratchCheck a b = some r ∧ r.code = 0x0021 ∧ r.addr = BitVec.ofNat 64 (s.scratchAddr a b L).toNat := by
  unfold State.scratchCheck firstRaise firstRaise
  rw [State.lowest_scratchLanes_none fun j hj hm => misaligned_eq_false.2 (haligned j hj hm),
    State.lowest_scratchLanes (p := fun x => decide (s.team.scratchSize ≤ x.toNat)) hL hin (decide_eq_true h)
      fun j hj hm => decide_eq_false (Nat.not_le.2 (hlow j hj hm))]
  exact ⟨_, rfl, rfl, (BitVec.ofNat_toNat 64 (s.scratchAddr a b L)).symm⟩

theorem State.scratchCheck_of_fits {s : State} {a b : VOp}
    (h : ∀ L, L < 32 → s.mask.getLsbD L = true → (s.scratchAddr a b L).toNat % 4 = 0 ∧ (s.scratchAddr a b L).toNat < s.team.scratchSize) :
    s.scratchCheck a b = none := by
  unfold State.scratchCheck firstRaise firstRaise firstRaise
  rw [State.lowest_scratchLanes_none fun j hj hm => misaligned_eq_false.2 (h j hj hm).1,
    State.lowest_scratchLanes_none (p := fun x => decide (s.team.scratchSize ≤ x.toNat))
      fun j hj hm => decide_eq_false (Nat.not_le.2 (h j hj hm).2)]

/-! ## What a store leaves in the scratchpad (R130) -/

theorem Memory.readBytes_congr {m m' : List Host.Cell} {a n : Nat} (h : ∀ i, i < n → Memory.read m' (a + i) = Memory.read m (a + i)) :
    Memory.readBytes m' a n = Memory.readBytes m a n := by
  induction n generalizing a with
  | zero => rfl
  | succ n ih =>
    rw [Memory.readBytes, Memory.readBytes, ih fun i hi => by simpa [Nat.add_assoc, Nat.add_comm 1] using h (i + 1) (by omega)]
    rw [show Memory.read m' a = Memory.read m a from h 0 (by omega)]

/-- A word reads as it was written. -/
theorem Memory.readNat_writeWord {m : List Host.Cell} (a : Nat) (x : Word) (h : Memory.wf m = true) :
    Memory.readNat (Memory.writeNat m a 4 x.toNat) a 4 = x.toNat := by
  have hread := Memory.readBytes_writeBytes a (leBytes x.toNat 4) h
  rw [leBytes_length] at hread
  rw [Memory.readNat, Memory.writeNat, hread, leNat_leBytes]
  exact Nat.mod_eq_of_lt x.isLt

/-- The words of lanes, stored one after another at addresses. -/
def storeWords (at' : Nat → Nat) (y : Nat → Word) (l : List Nat) (m : List Host.Cell) : List Host.Cell :=
  l.foldl (fun m L => Memory.writeNat m (at' L) 4 (y L).toNat) m

theorem storeWords_concat (at' : Nat → Nat) (y : Nat → Word) (l : List Nat) (L : Nat) (m : List Host.Cell) :
    storeWords at' y (l ++ [L]) m = Memory.writeNat (storeWords at' y l m) (at' L) 4 (y L).toNat := by
  rw [storeWords, List.foldl_append]; rfl

theorem storeWords_wf (at' : Nat → Nat) (y : Nat → Word) (l : List Nat) {m : List Host.Cell} (h : Memory.wf m = true) :
    Memory.wf (storeWords at' y l m) = true := by
  induction l using List.reverseRecOn with
  | nil => exact h
  | append_singleton l L ih => rw [storeWords_concat]; exact Memory.wf_writeNat _ _ _ ih

theorem storeWords_other {at' : Nat → Nat} (y : Nat → Word) {l : List Nat} {m : List Host.Cell} (h : Memory.wf m = true) {c : Nat}
    (hc : ∀ L ∈ l, ¬ (at' L ≤ c ∧ c < at' L + 4)) : Memory.read (storeWords at' y l m) c = Memory.read m c := by
  induction l using List.reverseRecOn with
  | nil => rfl
  | append_singleton l L ih =>
    have hL := hc L (by simp)
    rw [storeWords_concat, Memory.writeNat, Memory.read_writeBytes_other _ (by rw [leBytes_length]; omega) (storeWords_wf at' y l h)]
    exact ih fun M hM => hc M (List.mem_append_left _ hM)

/-- The last lane that writes a word leaves its value: aligned words do not overlap. -/
theorem storeWords_last {at' : Nat → Nat} (y : Nat → Word) {l : List Nat} {m : List Host.Cell} (h : Memory.wf m = true)
    (haligned : ∀ L ∈ l, at' L % 4 = 0) (hsorted : l.Pairwise (· < ·)) {L : Nat} (hL : L ∈ l)
    (hlast : ∀ j ∈ l, L < j → at' j ≠ at' L) : Memory.readNat (storeWords at' y l m) (at' L) 4 = (y L).toNat := by
  induction l using List.reverseRecOn with
  | nil => cases hL
  | append_singleton l M ih =>
    have hwf := storeWords_wf at' y l h
    rw [storeWords_concat]
    rcases List.mem_append.1 hL with hl | hM
    · have hne : at' M ≠ at' L := hlast M (by simp) ((List.pairwise_append.1 hsorted).2.2 L hl M (by simp))
      have hM4 := haligned M (by simp)
      have hL4 := haligned L hL
      rw [← ih (fun j hj => haligned j (List.mem_append_left _ hj)) (List.pairwise_append.1 hsorted).1 hl
        fun j hj => hlast j (List.mem_append_left _ hj)]
      exact congrArg leNat (Memory.readBytes_congr fun i hi => Memory.read_writeBytes_other _ (by rw [leBytes_length]; omega) hwf)
    · obtain rfl := List.mem_singleton.1 hM
      exact Memory.readNat_writeWord _ _ hwf

theorem Team.foldl_setScratch (t : Team) (at' : Nat → Nat) (y : Nat → Word) (l : List Nat) :
    (l.foldl (fun t L => t.setScratch (at' L) (y L)) t).scratch = storeWords at' y l t.scratch := by
  induction l generalizing t with
  | nil => rfl
  | cons L l ih => exact ih (t.setScratch (at' L) (y L))

/-! ## LDS and STS -/

theorem exec_lds (d a b : VOp) (k : BitVec 4) (s : State) : exec (.lds d a b k) s = execLds d a b k s := rfl

theorem exec_sts (d a b : VOp) (s : State) : exec (.sts d a b) s = execSts d a b s := rfl

/-- What STS asks of the checks before those of its own. -/
def stsNeeds (d a b : VOp) : State → Uses :=
  fun _ => { legal := (Instr.sts d a b).wellFormed, srcs := [{ op := d }, { op := a }, { op := b }] }

theorem execLds_faults {d a b : VOp} {k : BitVec 4} {s : State} {r : Raise} (h : Goes s (needs (.lds d a b k) [{ op := a }, { op := b }] d))
    (htag : s.prelude.offsetTag b = true) (hr : s.prelude.scratchCheck a b = some r) : exec (.lds d a b k) s = .next (s.prelude.raise r) := by
  rw [exec_lds, execLds, State.issueNext]
  refine State.issue_own_fault (b := s.prelude.scoreboard false a b) _ h ⟨rfl, rfl, rfl, rfl⟩ rfl ?_
  rw [htag, hr]; rfl

theorem execLds_goes {d a b : VOp} {k : BitVec 4} {s : State} (h : Goes s (needs (.lds d a b k) [{ op := a }, { op := b }] d))
    (htag : s.prelude.offsetTag b = true) (hr : s.prelude.scratchCheck a b = none) (hfree : s.prelude.scoreboard false a b = false) :
    exec (.lds d a b k) s = .next (written s.prelude []
      { dst := d, tag := .i32, lo := lanesOf fun L => s.prelude.team.scratchWord (s.prelude.scratchAddr a b L).toNat, long := true,
        look := some k }) := by
  rw [exec_lds, execLds]
  exact State.issueNext_of_go _ (goes_of_uses h (by rw [htag, hr, hfree]; rfl))

theorem execSts_faults {d a b : VOp} {s : State} {r : Raise} (h : Goes s (stsNeeds d a b)) (htag : s.prelude.offsetTag b = true)
    (hr : s.prelude.scratchCheck a b = some r) : exec (.sts d a b) s = .next (s.prelude.raise r) := by
  rw [exec_sts, execSts, State.issueNext]
  refine State.issue_own_fault (b := s.prelude.scoreboard true a b) _ h ⟨rfl, rfl, rfl, rfl⟩ rfl ?_
  rw [htag, hr]; rfl

theorem execSts_goes {d a b : VOp} {s : State} (h : Goes s (stsNeeds d a b)) (htag : s.prelude.offsetTag b = true)
    (hr : s.prelude.scratchCheck a b = none) (hfree : s.prelude.scoreboard true a b = false) :
    ∃ t, exec (.sts d a b) s = .next t ∧ t.mem = s.mem ∧
      t.team.scratch = storeWords (fun L => (s.prelude.scratchAddr a b L).toNat) (fun L => lane (s.prelude.vec d) L) s.prelude.active
        s.prelude.team.scratch := by
  rw [exec_sts, execSts]
  refine ⟨_, State.issueNext_of_go _ (goes_of_uses h (by rw [htag, hr, hfree]; rfl)), rfl, ?_⟩
  exact Team.foldl_setScratch s.prelude.team _ _ _

theorem scratchpadLoadsAndStores : Sys2Proof.Claims.ScratchpadLoadsAndStores := by
  intro d a b k s p x fits htag
  refine ⟨fun h => ⟨fun hfits hfree => ?lds, fun L hL hin hx hlow => ?ldsAlign, fun L hL hin hal hx hlow => ?ldsAccess⟩,
    fun h => ⟨fun L hL hin hx hlow => ?stsAlign, fun L hL hin hal hx hlow => ?stsAccess⟩, fun h hfits hfree hwf => ?sts⟩
  case lds =>
    exact ⟨_, execLds_goes h htag (State.scratchCheck_of_fits hfits) hfree, fun L hL => lane_lanesOf _ L hL⟩
  case ldsAlign =>
    obtain ⟨r, hr, hcode, haddr⟩ := State.scratchCheck_of_misaligned hL hin hx hlow
    exact ⟨r, execLds_faults h htag hr, hcode, haddr⟩
  case ldsAccess =>
    obtain ⟨r, hr, hcode, haddr⟩ := State.scratchCheck_of_past hL hin hal hx hlow
    exact ⟨r, execLds_faults h htag hr, hcode, haddr⟩
  case stsAlign =>
    obtain ⟨r, hr, hcode, haddr⟩ := State.scratchCheck_of_misaligned hL hin hx hlow
    exact ⟨r, execSts_faults h htag hr, hcode, haddr⟩
  case stsAccess =>
    obtain ⟨r, hr, hcode, haddr⟩ := State.scratchCheck_of_past hL hin hal hx hlow
    exact ⟨r, execSts_faults h htag hr, hcode, haddr⟩
  case sts =>
    obtain ⟨t, ht, hmem, hscratch⟩ := execSts_goes h htag (State.scratchCheck_of_fits hfits) hfree
    refine ⟨t, ht, hmem, fun c hc => ?_, fun L hL hin hlast => ?_⟩
    · rw [hscratch]
      exact storeWords_other _ hwf fun L hL => hc L (mem_maskLanes.1 hL).1 (mem_maskLanes.1 hL).2
    · rw [hscratch]
      exact storeWords_last (fun L => lane (p.vec d) L) hwf (fun j hj => (hfits j (mem_maskLanes.1 hj).1 (mem_maskLanes.1 hj).2).1)
        (maskLanes_pairwise _) (mem_maskLanes.2 ⟨hL, hin⟩) fun j hj hlt => hlast j hlt (mem_maskLanes.1 hj).1 (mem_maskLanes.1 hj).2

end Sys2Proof.Machine
end

section
/-! Decoupled loads fork into their slots (R62, R63, R127, R220). -/

namespace Sys2Proof.Machine
open Sys2Proof.Claims

/-! ## What the checks of an access leave as it is -/

theorem State.translateAll_besidesMemory (k : Access) (priv : Bool) (l : List (Nat × BitVec 64)) (pipe : Nat) (s : State) :
    (s.translateAll k priv l pipe).1.besidesMemory = s.besidesMemory := by
  induction l generalizing s with
  | nil => rfl
  | cons x l ih => exact (ih _).trans (s.translate_besidesMemory s.ctx k priv x.2 pipe)

theorem State.check_besidesMemory (s : State) (k : Access) (width : Nat) (l : List (Nat × BitVec 64)) (red : Bool) :
    (s.check k width l red).1.besidesMemory = s.besidesMemory := by
  have hx : ((s.useRat s.ctx).translateAll k s.privileged l).1.besidesMemory = s.besidesMemory :=
    (State.translateAll_besidesMemory k s.privileged l 0 _).trans (s.useRat_besidesMemory s.ctx)
  unfold State.check
  dsimp only
  split
  · exact hx
  · split
    · exact hx
    · split <;> exact hx

theorem State.mask_of_besidesMemory {s t : State} (h : t.besidesMemory = s.besidesMemory) : t.mask = s.mask := (congrArg State.mask h :)

/-! ## The slot that a load forks into, and what it marks (R63) -/

theorem Warp.awaitLoad_slots (w : Warp) (p : Place) : (w.awaitLoad p).slots = w.slots := by
  cases p <;> rfl

/-- No load takes a PENDING mark away. -/
theorem Warp.awaitLoad_pending {w : Warp} (p : Place) {r : Nat} (hr : r < 256) (h : (w.bankReg r).pending = true ∨ p = .reg r) :
    ((w.awaitLoad p).bankReg r).pending = true := by
  cases p with
  | reg q =>
    refine (Warp.setPending_pending _ _ _ hr).trans ?_
    by_cases hq : q = r
    · rw [if_pos hq]
    · rw [if_neg hq]
      exact h.resolve_right fun he => hq (Place.reg.inj he)
  | _ => exact h.resolve_right nofun

theorem Warp.awaitLoads_pending {ps : List Place} {w : Warp} {r : Nat} (hr : r < 256) (h : (w.bankReg r).pending = true ∨ .reg r ∈ ps) :
    ((ps.foldl Warp.awaitLoad w).bankReg r).pending = true := by
  induction ps generalizing w with
  | nil => exact h.resolve_right nofun
  | cons p ps ih =>
    refine ih ?_
    rcases h with h | h
    · exact .inl (Warp.awaitLoad_pending p hr (.inl h))
    · rcases List.mem_cons.1 h with rfl | h
      · exact .inl (Warp.awaitLoad_pending _ hr (.inr rfl))
      · exact .inr h

theorem Warp.mem_spend_awaitScalar (w : Warp) (r : Nat) : r ∈ (w.awaitScalar r).spend := List.mem_cons_self

theorem State.sendPeer_warp (s : State) (va : BitVec 64) (pa : Nat) (what : PeerWhat) : (s.sendPeer va pa what).warp = s.warp := rfl

theorem State.sendLoads_warp (s : State) (k : Nat) (lanes : List LaneLoad) : (s.sendLoads k lanes).warp = s.warp := by
  unfold State.sendLoads
  refine State.foldl_keeps State.warp _ (fun s line => ?_) _ s
  split
  · exact s.sendPeer_warp _ _ _
  · rfl

/-- What a load leaves whose checks have found the addresses of its lanes: c is the state after the checks, vas the addresses. -/
def State.forkLoad (c : State) (k : Nat) (kind : SlotKind) (ps : List Place) (lanes : List LaneLoad) (opcode : Nat)
    (vas : List (BitVec 64)) : State :=
  ((c.landing k kind ps lanes).sendLoads k lanes).sample opcode .load vas

theorem State.forkLoad_warp (c : State) (k : Nat) (kind : SlotKind) (ps : List Place) (lanes : List LaneLoad) (opcode : Nat)
    (vas : List (BitVec 64)) : (c.forkLoad k kind ps lanes opcode vas).warp = (c.landing k kind ps lanes).warp :=
  (State.sampleFor_warp ..).trans (State.sendLoads_warp ..)

theorem State.landing_slots (c : State) (k : Nat) (kind : SlotKind) (ps : List Place) (lanes : List LaneLoad) : ∃ x : Slot,
    (c.landing k kind ps lanes).warp.slots = (c.warp.setSlot k x).slots ∧ x.state = .inflight ∧ x.kind = kind ∧ x.mask = c.mask ∧
      x.todo = lanes ∧ x.dest = slotDest (ps.headD .void) := by
  have hslots : (ps.foldl Warp.awaitLoad c.warp).slots = c.warp.slots :=
    Sys2Proof.Machine.foldl_keeps Warp.slots (f := Warp.awaitLoad) Warp.awaitLoad_slots ps c.warp
  exact ⟨_, congrArg (fun v => put v k _) hslots, rfl, rfl, rfl, rfl, rfl⟩

/-- The instruction that forks a load leaves the slot and the marks that the fork has set, and no other slot (R63). -/
theorem forked_spec {p c X : State} {k : Nat} {kind : SlotKind} {ps : List Place} {lanes : List LaneLoad}
    (hc : c.besidesMemory = p.besidesMemory) (hk : k < 16) (hX : X.warp = (c.landing k kind ps lanes).warp) :
    let t := wentOn X.enterInvalid
    let x := t.warp.land k
    (x.state = .inflight ∧ x.kind = kind ∧ x.mask = p.mask ∧ x.todo = lanes ∧ x.dest = slotDest (ps.headD .void)) ∧
      (∀ r, r < 256 → .reg r ∈ ps → (t.warp.bankReg r).pending = true) ∧ t.warp.spend = (ps.foldl Warp.awaitLoad c.warp).spend ∧
      ∀ m, m ≠ k → t.warp.land m = p.warp.land m := by
  intro t x
  obtain ⟨y, hslots, hstate, hkind, hmask, htodo, hdest⟩ := c.landing_slots k kind ps lanes
  have hland : ∀ j, t.warp.land j = (c.warp.setSlot k y).land j := fun j =>
    (wentOn_enterInvalid_land X X.warp j).trans (Warp.land_of_slots (hX ▸ hslots) j)
  have hx : x = y := (hland k).trans (Warp.land_setSlot_same _ _ hk)
  refine ⟨hx ▸ ⟨hstate, hkind, hmask.trans (State.mask_of_besidesMemory hc), htodo, hdest⟩, fun r hr hmem => ?_, ?_, fun m hm => ?_⟩
  · refine (wentOn_enterInvalid_pending X X.warp hr).trans ?_
    rw [hX]
    exact Warp.awaitLoads_pending (w := c.warp) hr (.inr hmem)
  · exact (wentOn_enterInvalid_spend X X.warp).trans (congrArg Warp.spend hX :)
  · exact (hland m).trans ((Warp.land_setSlot_other _ _ hm).trans (Warp.land_of_slots (State.slots_of_besidesMemory hc) m))

/-! ## LDG and SLD -/

theorem exec_ldgW (d a b : VOp) (k : BitVec 4) (s : State) : exec (.ldgW d a b k) s = execLdgW d a b k s := rfl

theorem exec_ldgD (d a b : VOp) (k : BitVec 4) (s : State) : exec (.ldgD d a b k) s = execLdgD d a b k s := rfl

theorem exec_ldgQ (d a b : VOp) (k : BitVec 4) (s : State) : exec (.ldgQ d a b k) s = execLdgQ d a b k s := rfl

theorem exec_sld (d a b : SOp) (k : BitVec 4) (s : State) : exec (.sld d a b k) s = execSld d a b k s := rfl

/-- The addresses of the lanes of a load (R216). -/
def State.loadAddrs (s : State) (a b : VOp) : List (Nat × BitVec 64) :=
  s.active.map fun L => (L, s.pair a s.firstLane + BitVec.ofNat 64 (lane (s.vec b) L).toNat)

theorem State.loadAddrs_eq (s : State) (a b : VOp) : (s.active.map fun L => (L, s.based a b L)) = s.loadAddrs a b :=
  List.map_congr_left fun L _ => by rw [State.based, ← BitVec.ofNat_toNat]

/-- LDG that passes its checks (R220). -/
theorem State.load_forks {s : State} {i : Instr} {opcode : Nat} {d a b : VOp} {n k : Nat} (hk : k < 16) {kind : SlotKind}
    (h : Goes s fun _ => loadUses i d a b n k) {lanes : List LaneLoad}
    (hlanes : (s.prelude.check .load (4 * n) (s.prelude.loadAddrs a b)).2 = .ok lanes) :
    ∃ t, s.load i opcode d a b n k kind = .next t ∧
      let x := t.warp.land k
      x.state = .inflight ∧ x.kind = kind ∧ x.mask = s.prelude.mask ∧ x.todo = lanes ∧
      (∀ j r, j < n → s.prelude.place d j = .reg r → r < 256 → (t.warp.bankReg r).pending = true) ∧
      ∀ m, m ≠ k → t.warp.land m = s.prelude.warp.land m := by
  unfold State.load
  rw [State.attempt_goes _ h.1 h.2.1 h.2.2]
  dsimp only
  rw [State.loadAddrs_eq, hlanes]
  have hcheck := s.prelude.check_besidesMemory .load (4 * n) (s.prelude.loadAddrs a b) false
  obtain ⟨⟨hstate, hkind, hmask, htodo, -⟩, hpend, -, hother⟩ := forked_spec hcheck hk
    (State.forkLoad_warp _ k kind ((List.range n).map fun j => s.prelude.place d j) lanes opcode ((s.prelude.loadAddrs a b).map (·.2)))
  refine ⟨_, rfl, ?_⟩
  refine ⟨hstate, hkind, hmask, htodo, fun j r hj hplace hr => hpend r hr ?_, hother⟩
  exact List.mem_map.2 ⟨j, List.mem_range.2 hj, hplace⟩

theorem loadsForkIntoTheirSlots : Sys2Proof.Claims.LoadsForkIntoTheirSlots := by
  intro d a b e f g k s p at' forked
  refine ⟨fun h lanes hl => ?w, fun h lanes hl => ?d, fun h lanes hl => ?q, fun h lanes hl => ?sld⟩
  case w => exact (State.load_forks k.isLt h hl).imp fun t ht => ⟨(exec_ldgW ..).trans ht.1, ht.2⟩
  case d => exact (State.load_forks k.isLt h hl).imp fun t ht => ⟨(exec_ldgD ..).trans ht.1, ht.2⟩
  case q => exact (State.load_forks k.isLt h hl).imp fun t ht => ⟨(exec_ldgQ ..).trans ht.1, ht.2⟩
  case sld =>
    have hbase : p.sbased f g = p.scPair f + BitVec.ofNat 64 (p.sc g).toNat := by rw [State.sbased, ← BitVec.ofNat_toNat]
    rw [exec_sld, execSld, State.attempt_goes _ h.1 h.2.1 h.2.2]
    dsimp only
    rw [hbase, hl]
    have hcheck := p.check_besidesMemory .load 4 [(p.firstLane, p.scPair f + BitVec.ofNat 64 (p.sc g).toNat)] false
    obtain ⟨⟨hstate, hkind, -, -, hdest⟩, -, hspend, hother⟩ := forked_spec hcheck k.isLt
      (State.forkLoad_warp _ k.toNat .scalar [p.splace e] lanes 0x37 ([(p.firstLane, p.scPair f + BitVec.ofNat 64 (p.sc g).toNat)].map (·.2)))
    have hmark : ∀ r, (∀ w : Warp, w.awaitLoad (p.splace e) = w.awaitScalar r) → slotDest (p.splace e) = r → _ ∧ _ := fun r hw hr =>
      And.intro (hspend ▸ hw _ ▸ Warp.mem_spend_awaitScalar _ r) (hdest.trans hr)
    refine ⟨_, rfl, hstate, hkind, fun r hr => hmark r (fun w => by rw [hr]; rfl) (by rw [hr]; rfl),
      fun he => hmark litNo (fun w => by rw [he]; rfl) (by rw [he]; rfl), fun he => hmark sccNo (fun w => by rw [he]; rfl) (by rw [he]; rfl),
      hother⟩

end Sys2Proof.Machine
end

section
/-! COMMIT and COMMIT.ALL (R222 to R224): what one slot's data leave, and what a list of slots leaves. -/

namespace Sys2Proof.Machine
open Sys2Proof.Claims

/-! ## Registers and rows that are written once each -/

/-- A place that no element of a list writes stays as it is. -/
theorem foldl_writes_others {σ ι β : Type} (key : ι → Nat) (get : Nat → σ → β) (f : σ → ι → σ) {l : List ι} {j : Nat}
    (hother : ∀ s, ∀ p ∈ l, j ≠ key p → get j (f s p) = get j s) (hj : ∀ p ∈ l, j ≠ key p) (s : σ) : get j (l.foldl f s) = get j s := by
  induction l generalizing s with
  | nil => rfl
  | cons p l ih =>
    rw [List.foldl_cons, ih (fun s q hq => hother s q (List.mem_cons_of_mem _ hq)) fun q hq => hj q (List.mem_cons_of_mem _ hq)]
    exact hother s p List.mem_cons_self (hj p List.mem_cons_self)

/-- Elements that write a place each, and no two the same: a place has what its own element writes. -/
theorem foldl_writes_once {σ ι β : Type} (key : ι → Nat) (get : Nat → σ → β) (f : σ → ι → σ) (g : ι → β → β) {l : List ι}
    (hsame : ∀ s, ∀ p ∈ l, get (key p) (f s p) = g p (get (key p) s)) (hother : ∀ s j, ∀ p ∈ l, j ≠ key p → get j (f s p) = get j s)
    (hnodup : (l.map key).Nodup) {p : ι} (hp : p ∈ l) (s : σ) : get (key p) (l.foldl f s) = g p (get (key p) s) := by
  induction l generalizing s with
  | nil => cases hp
  | cons q l ih =>
    obtain ⟨hq, hnodup⟩ := List.nodup_cons.1 hnodup
    have hotherl : ∀ s j, ∀ x ∈ l, j ≠ key x → get j (f s x) = get j s := fun s j x hx => hother s j x (List.mem_cons_of_mem _ hx)
    rw [List.foldl_cons]
    rcases List.mem_cons.1 hp with rfl | hmem
    · have hne : ∀ x ∈ l, key p ≠ key x := fun x hx he => hq (he ▸ List.mem_map_of_mem hx)
      rw [foldl_writes_others key get f (fun s => hotherl s _) hne, hsame s p List.mem_cons_self]
    · have hne : key p ≠ key q := fun he => hq (he ▸ List.mem_map_of_mem hmem)
      rw [ih (fun s x hx => hsame s x (List.mem_cons_of_mem _ hx)) hotherl hnodup hmem, hother s _ q List.mem_cons_self hne]

theorem getD_modifyAt {α : Type} (f : α → α) (d : α) {n : Nat} {l : List α} (h : n < l.length) : (modifyAt f n l).getD n d = f (l.getD n d) := by
  induction l generalizing n with
  | nil => cases h
  | cons a l ih =>
    cases n with
    | zero => rfl
    | succ n => exact ih (Nat.lt_of_succ_lt_succ h)

theorem modifyAt_modifyAt {α : Type} (f g : α → α) (n : Nat) (l : List α) : modifyAt g n (modifyAt f n l) = modifyAt (fun x => g (f x)) n l := by
  induction l generalizing n with
  | nil => simp only [modifyAt]
  | cons a l ih =>
    cases n with
    | zero => rfl
    | succ n => exact congrArg (List.cons a) (ih n)

theorem modifyAt_id {α : Type} (n : Nat) (l : List α) : modifyAt (fun x => x) n l = l := by
  induction l generalizing n with
  | nil => simp only [modifyAt]
  | cons a l ih =>
    cases n with
    | zero => rfl
    | succ n => exact congrArg (List.cons a) (ih n)

/-! ## Rows of a tile (R47) -/

/-- The double word k of a row that lanes are written to. -/
def rowWord (y : Lanes) (m : Mask) (k : Nat) (old : Dword) : Dword :=
  (if m.getLsbD (2 * k + 1) then lane y (2 * k + 1) else (old >>> 32).setWidth 32) ++
    (if m.getLsbD (2 * k) then lane y (2 * k) else old.setWidth 32)

theorem Tile.writeRow_slots (t : Tile) (row : Nat) (y : Lanes) (m : Mask) : (t.writeRow row y m).slots =
    (List.range 16).foldl (fun v k => put v (16 * row + k) (rowWord y m k (look t.slots 0 (16 * row + k)))) t.slots := rfl

theorem Tile.look_writeRow_other (t : Tile) {row i : Nat} (y : Lanes) (m : Mask) (h : ∀ k, k < 16 → i ≠ 16 * row + k) :
    look (t.writeRow row y m).slots 0 i = look t.slots 0 i := by
  rw [Tile.writeRow_slots]
  exact foldl_writes_others (fun k => 16 * row + k) (fun i v => look v 0 i) _ (fun v k _ hne => look_put_of_ne _ _ _ _ _ (Ne.symm hne))
    (fun k hk => h k (List.mem_range.1 hk)) t.slots

theorem Tile.look_writeRow_same (t : Tile) {row k : Nat} (y : Lanes) (m : Mask) (hrow : row < 16) (hk : k < 16) :
    look (t.writeRow row y m).slots 0 (16 * row + k) = rowWord y m k (look t.slots 0 (16 * row + k)) := by
  have hnodup : ((List.range 16).map fun k => 16 * row + k).Nodup := List.nodup_range.map fun a b h => Nat.add_left_cancel h
  rw [Tile.writeRow_slots]
  refine foldl_writes_once (fun k => 16 * row + k) (fun i v => look v 0 i)
    (fun v k => put v (16 * row + k) (rowWord y m k (look t.slots 0 (16 * row + k))))
    (fun k _ => rowWord y m k (look t.slots 0 (16 * row + k))) (fun v k hk => ?_) (fun v j k _ hne => look_put_of_ne _ _ _ _ _ (Ne.symm hne))
    hnodup (List.mem_range.2 hk) t.slots
  have := List.mem_range.1 hk
  exact look_put_self _ _ _ _ (by omega)

theorem lanes_ext {y z : Lanes} (h : ∀ L, L < 32 → lane y L = lane z L) : y = z := by
  refine Vector.ext fun i hi => ?_
  have hL := h i hi
  simpa [lane, hi] using hL

theorem Tile.row_writeRow_other (t : Tile) {row q : Nat} (y : Lanes) (m : Mask) (h : q ≠ row) : (t.writeRow row y m).row q = t.row q := by
  refine lanes_ext fun L hL => ?_
  rw [Tile.row, Tile.row, lane_lanesOf _ _ hL, lane_lanesOf _ _ hL, t.look_writeRow_other y m fun k hk => by omega]

theorem upper_append (hi lo : Word) : ((hi ++ lo) >>> 32).setWidth 32 = hi := by
  ext i h
  rw [BitVec.getElem_setWidth, BitVec.getLsbD_ushiftRight, BitVec.getLsbD_append, if_neg (by omega)]
  simp [h]

theorem Tile.lane_row_even (t : Tile) (row : Nat) {k : Nat} (hk : k < 16) :
    lane (t.row row) (2 * k) = (look t.slots 0 (16 * row + k)).setWidth 32 := by
  rw [Tile.row, lane_lanesOf _ _ (by omega), show 2 * k / 2 = k by omega]
  exact if_pos (by omega)

theorem Tile.lane_row_odd (t : Tile) (row : Nat) {k : Nat} (hk : k < 16) :
    lane (t.row row) (2 * k + 1) = (look t.slots 0 (16 * row + k) >>> 32).setWidth 32 := by
  rw [Tile.row, lane_lanesOf _ _ (by omega), show (2 * k + 1) / 2 = k by omega]
  exact if_neg (by omega)

/-- A row reads as its written lanes over what it was. -/
theorem Tile.row_writeRow_same (t : Tile) {row : Nat} (y : Lanes) (m : Mask) (hrow : row < 16) :
    (t.writeRow row y m).row row = mergeLanes m y (t.row row) := by
  refine lanes_ext fun L hL => ?_
  rw [mergeLanes, lane_lanesOf _ _ hL]
  rcases Nat.even_or_odd' L with ⟨k, rfl | rfl⟩
  · have hk : k < 16 := by omega
    rw [Tile.lane_row_even _ _ hk, Tile.lane_row_even _ _ hk, t.look_writeRow_same y m hrow hk]
    exact BitVec.setWidth_append_eq_right
  · have hk : k < 16 := by omega
    rw [Tile.lane_row_odd _ _ hk, Tile.lane_row_odd _ _ hk, t.look_writeRow_same y m hrow hk]
    exact upper_append _ _

/-! ## The data of one slot (R222, R224) -/

/-- The warp with slot k empty. -/
def Warp.emptySlot (w : Warp) (k : Nat) : Warp :=
  { (w.setSlot k { w.land k with state := .empty, todo := [] }) with trslot := w.trslot &&& ~~~(1#16 <<< k) }

/-- The word of a scalar slot. -/
def Slot.word (x : Slot) : Word := lane (look x.data (splat 0) 0) ((lowest x.mask).getD 0)

/-- What a scalar slot's word is written to (R223). -/
def Warp.commitScalar (w : Warp) (x : Slot) : Warp :=
  let u := { w with spend := w.spend.filter fun r => r != x.dest }
  if x.dest = litNo then { u with lit := x.word } else if x.dest = sccNo then { u with ccs := x.word != 0 } else u.setScalar x.dest x.word

/-- The tags of a slot's destinations, each with its place. -/
def places (ts : List Tag) : List (Tag × Nat) := ts.zip (List.range ts.length)

def Warp.commitRegs (w : Warp) (x : Slot) (ts : List Tag) : Warp := (places ts).foldl (fun w p => w.commitReg x p.2 (x.dest + p.2) p.1) w

def Tile.commitRows (t : Tile) (x : Slot) (ts : List Tag) : Tile :=
  (places ts).foldl (fun t p => t.writeRow (x.dest - 256 + p.2) (look x.data (splat 0) p.2) x.mask) t

theorem State.commitData_scalar {s : State} {k : Nat} (h : (s.warp.land k).kind = .scalar) (ts : List Tag) :
    s.commitData k ts = s.withWarp ((s.warp.emptySlot k).commitScalar (s.warp.land k)) := by
  unfold State.commitData
  dsimp only
  split
  next => rfl
  next hk => exact absurd h hk

theorem State.foldl_commitReg (x : Slot) (l : List (Tag × Nat)) (s : State) :
    l.foldl (fun (s : State) p => { s with warp := s.warp.commitReg x p.2 (x.dest + p.2) p.1 }) s =
      s.withWarp (l.foldl (fun w p => w.commitReg x p.2 (x.dest + p.2) p.1) s.warp) := by
  induction l generalizing s with
  | nil => rfl
  | cons p l ih => exact ih _

theorem State.foldl_commitRow (x : Slot) (l : List (Tag × Nat)) (s : State) :
    l.foldl (fun (s : State) p => s.lateWrite (.vtRow x.tile (x.dest - 256 + p.2) (look x.data (splat 0) p.2) x.mask)) s =
      { s with team := { s.team with tiles := modifyAt (fun t =>
        l.foldl (fun t p => t.writeRow (x.dest - 256 + p.2) (look x.data (splat 0) p.2) x.mask) t) x.tile s.team.tiles } } := by
  induction l generalizing s with
  | nil => simp only [List.foldl_nil, modifyAt_id]
  | cons p l ih =>
    rw [List.foldl_cons, ih]
    simp only [State.lateWrite, modifyAt_modifyAt, List.foldl_cons]

theorem State.commitData_regs {s : State} {k : Nat} (h : (s.warp.land k).kind ≠ .scalar) (hdest : (s.warp.land k).dest < 256) (ts : List Tag) :
    s.commitData k ts = s.withWarp ((s.warp.emptySlot k).commitRegs (s.warp.land k) ts) := by
  unfold State.commitData
  dsimp only
  split
  next hk => exact absurd hk h
  next => simp only [if_neg (Nat.not_le.2 hdest)]; exact State.foldl_commitReg _ _ _

theorem State.commitData_rows {s : State} {k : Nat} (h : (s.warp.land k).kind ≠ .scalar) (hdest : 256 ≤ (s.warp.land k).dest) (ts : List Tag) :
    s.commitData k ts = { s.withWarp (s.warp.emptySlot k) with team := { s.team with
      tiles := modifyAt (fun t => t.commitRows (s.warp.land k) ts) (s.warp.land k).tile s.team.tiles } } := by
  unfold State.commitData
  dsimp only
  split
  next hk => exact absurd hk h
  next => simp only [if_pos hdest]; exact State.foldl_commitRow _ _ _

/-- Committing a slot empties it, and leaves every other slot, the trace marks of the others, and the operations of the team. -/
theorem State.commitData_frame (s : State) (k : Nat) (ts : List Tag) :
    (s.commitData k ts).warp.slots = (s.warp.emptySlot k).slots ∧ (s.commitData k ts).warp.trslot = (s.warp.emptySlot k).trslot ∧
      (s.commitData k ts).team.mops = s.team.mops := by
  have hregs : ∀ {β : Type} (p : Warp → β), (∀ w r x, p (w.setBank r x) = p w) →
      p ((s.warp.emptySlot k).commitRegs (s.warp.land k) ts) = p (s.warp.emptySlot k) := fun p hp =>
    Sys2Proof.Machine.foldl_keeps p (f := fun w (q : Tag × Nat) => w.commitReg (s.warp.land k) q.2 ((s.warp.land k).dest + q.2) q.1)
      (fun _ _ => hp _ _ _) _ _
  by_cases h : (s.warp.land k).kind = .scalar
  · rw [State.commitData_scalar h]
    refine ⟨?_, ?_, rfl⟩ <;>
    · unfold Warp.commitScalar State.withWarp
      dsimp only
      split
      · rfl
      · split <;> rfl
  · rcases Nat.lt_or_ge (s.warp.land k).dest 256 with hd | hd
    · rw [State.commitData_regs h hd]
      exact ⟨hregs Warp.slots fun _ _ _ => rfl, hregs Warp.trslot fun _ _ _ => rfl, rfl⟩
    · rw [State.commitData_rows h hd]
      exact ⟨rfl, rfl, rfl⟩

theorem mem_places {ts : List Tag} {j : Nat} {t : Tag} (h : ts[j]? = some t) : (t, j) ∈ places ts := by
  obtain ⟨hj, ht⟩ := List.getElem?_eq_some_iff.1 h
  exact List.mem_of_getElem? (i := j) (List.getElem?_zip_eq_some.2 ⟨h, by simp [hj]⟩)

theorem snd_places (ts : List Tag) : (places ts).map (·.2) = List.range ts.length := List.map_snd_zip (by simp)

theorem snd_lt_of_mem_places {ts : List Tag} {p : Tag × Nat} (h : p ∈ places ts) : p.2 < ts.length :=
  List.mem_range.1 (snd_places ts ▸ List.mem_map_of_mem h)

theorem nodup_places (ts : List Tag) : ((places ts).map (·.2)).Nodup := snd_places ts ▸ List.nodup_range

/-- Each destination register has its lanes written, and its tag, and is neither stale nor PENDING (R222). -/
theorem Warp.commitRegs_bankReg (w : Warp) (x : Slot) {ts : List Tag} (hfit : x.dest + ts.length ≤ 256) {j : Nat} {t : Tag} (h : ts[j]? = some t) :
    (w.commitRegs x ts).bankReg (x.dest + j) =
      { data := mergeLanes x.mask (look x.data (splat 0) j) (w.bankReg (x.dest + j)).data, tag := t, stale := false, pending := false } := by
  refine foldl_writes_once Prod.snd (fun j (w : Warp) => w.bankReg (x.dest + j)) (fun w p => w.commitReg x p.2 (x.dest + p.2) p.1)
    (fun p old => { data := mergeLanes x.mask (look x.data (splat 0) p.2) old.data, tag := p.1, stale := false, pending := false })
    (fun w p hp => ?_) (fun w j p _ hne => ?_) (nodup_places ts) (mem_places h) w
  · have := snd_lt_of_mem_places hp
    exact Warp.bankReg_setBank_same _ _ _ (by omega)
  · exact Warp.bankReg_setBank_other _ _ fun he => hne (Nat.add_left_cancel he)

/-- Each destination row has its lanes written (R47). -/
theorem Tile.commitRows_row (t : Tile) (x : Slot) {ts : List Tag} (hdest : 256 ≤ x.dest) (hfit : x.dest + ts.length ≤ 272) {j : Nat}
    (hj : j < ts.length) :
    (t.commitRows x ts).row (x.dest - 256 + j) = mergeLanes x.mask (look x.data (splat 0) j) (t.row (x.dest - 256 + j)) := by
  refine foldl_writes_once Prod.snd (fun j (t : Tile) => t.row (x.dest - 256 + j))
    (fun t (p : Tag × Nat) => t.writeRow (x.dest - 256 + p.2) (look x.data (splat 0) p.2) x.mask)
    (fun p old => mergeLanes x.mask (look x.data (splat 0) p.2) old) (fun t p hp => ?_) (fun t j p _ hne => ?_) (nodup_places ts)
    (mem_places (List.getElem?_eq_getElem hj)) t
  · have := snd_lt_of_mem_places hp
    exact t.row_writeRow_same _ _ (by omega)
  · exact t.row_writeRow_other _ _ fun he => hne (Nat.add_left_cancel he)

end Sys2Proof.Machine
end

section
/-! COMMIT and COMMIT.ALL as instructions (R222 to R224). -/

namespace Sys2Proof.Machine
open Sys2Proof.Claims

/-! ## A register without a result in the window keeps its bank (R53) -/

theorem Warp.writeBack_bankReg (w : Warp) {x : WinReg} {r : Nat} (h : x.reg = r → x.life ≠ .live) : (w.writeBack x).bankReg r = w.bankReg r := by
  unfold Warp.writeBack
  split
  next hlive => exact Warp.bankReg_setBank_other w _ fun he => h he.symm hlive
  next => rfl

theorem WinEntry.not_live_of_reg? {e : WinEntry} {r : Nat} (h : e.reg? r = none) {x : WinReg} (hx : x ∈ e.regs) (hr : x.reg = r) :
    x.life ≠ .live := fun hlive => by
  simpa [hr, hlive] using List.find?_eq_none.1 h x hx

theorem Warp.writeBackAll_bankReg (w : Warp) {e : WinEntry} {r : Nat} (h : e.reg? r = none) : (w.writeBackAll e).bankReg r = w.bankReg r := by
  unfold Warp.writeBackAll
  have hregs : ∀ x ∈ e.regs, x.reg = r → x.life ≠ .live := fun x hx => WinEntry.not_live_of_reg? h hx
  generalize e.regs = l at hregs
  induction l with
  | nil => rfl
  | cons x l ih =>
    rw [List.foldr_cons, Warp.writeBack_bankReg _ (hregs x List.mem_cons_self)]
    exact ih fun y hy => hregs y (List.mem_cons_of_mem _ hy)

theorem Warp.leave_bankReg (w : Warp) {e : WinEntry} {r : Nat} (h : e.reg? r = none) : (w.leave e).bankReg r = w.bankReg r := by
  unfold Warp.leave
  split
  · exact w.writeBackAll_bankReg h
  · rfl

/-- An instruction without a result leaves the bank of a register that awaits none. -/
theorem Warp.push_blank_bankReg (w : Warp) {seq : Nat} {l : List LateWrite} {r : Nat} (h : w.live? r = none) :
    (w.push { WinEntry.blank with seq := seq, late := l }).bankReg r = w.bankReg r := by
  have hwindow : ∀ e ∈ (w.window.drop 7).reverse, e.reg? r = none := fun e he =>
    List.findSome?_eq_none_iff.1 h e (List.mem_append_left _ (List.mem_of_mem_drop (List.mem_reverse.1 he)))
  have hleave : ∀ (l : List WinEntry), (∀ e ∈ l, e.reg? r = none) → ∀ v : Warp, (l.foldl Warp.leave v).bankReg r = v.bankReg r := by
    intro l
    induction l with
    | nil => exact fun _ _ => rfl
    | cons e l ih =>
      intro hl v
      rw [List.foldl_cons, ih fun x hx => hl x (List.mem_cons_of_mem _ hx), v.leave_bankReg (hl e List.mem_cons_self)]
  exact hleave _ hwindow _

theorem wentOn_enterInvalid_bankReg (s : State) {r : Nat} (h : s.warp.live? r = none) :
    (wentOn s.enterInvalid).warp.bankReg r = s.warp.bankReg r := (s.warp.orFlags 0).push_blank_bankReg h

theorem Warp.commitRegs_live? (w : Warp) (x : Slot) (ts : List Tag) (r : Nat) : (w.commitRegs x ts).live? r = w.live? r :=
  foldl_keeps (fun w : Warp => w.live? r) (f := fun w (p : Tag × Nat) => w.commitReg x p.2 (x.dest + p.2) p.1) (fun _ _ => rfl) _ _

/-! ## One slot (R222, R223) -/

/-- The tag of a COMMIT does not fit its slot: a load of one word into a register of two (Table 12-4). -/
theorem Slot.tags_eq_none_iff {x : Slot} {g : Tag} {b : Bool} : x.tags g b = none ↔ b = false ∧ x.kind = .w ∧ (g = .fp64 ∨ g = .rw) := by
  unfold Slot.tags
  cases b with
  | true => simp
  | false =>
    cases x.kind with
    | w =>
      rw [if_neg Bool.false_ne_true]
      by_cases hg : g = .fp64 ∨ g = .rw
      · exact iff_of_true (if_pos hg) ⟨rfl, rfl, hg⟩
      · exact iff_of_false (fun h => nomatch (if_neg hg).symm.trans h) fun h => hg h.2.2
    | d | q | trace | scalar => simp

theorem State.commitSlot_of_empty {s : State} {k : Nat} (g : Tag) (h : (s.warp.land k).state = .empty) : s.commitSlot g k = .pass s := by
  unfold State.commitSlot
  exact if_pos h

section
variable {s : State} {g : Tag} {k : Nat} (hstate : (s.warp.land k).state ≠ .empty)
include hstate

theorem State.commitSlot_of_bad (h : (s.warp.land k).tags g (s.warp.trslot.getLsbD k) = none) :
    s.commitSlot g k = .raise s { code := 0x0003, lanes := s.mask, addr := 0 } := by
  unfold State.commitSlot
  dsimp only
  rw [if_neg hstate, h]
  rfl

variable {ts : List Tag} (htags : (s.warp.land k).tags g (s.warp.trslot.getLsbD k) = some ts)
include htags

theorem State.commitSlot_of_waits (h : (s.warp.land k).state = .inflight ∨ s.rowWaits (s.warp.land k) = true) : s.commitSlot g k = .wait s := by
  unfold State.commitSlot
  dsimp only
  rw [if_neg hstate, htags]
  exact if_pos (by simpa using h)

variable (hready : (s.warp.land k).state ≠ .inflight ∧ s.rowWaits (s.warp.land k) = false)
include hready

theorem State.commitSlot_of_clean (h : (s.warp.land k).marked = 0) : s.commitSlot g k = .pass (s.commitData k ts) := by
  unfold State.commitSlot
  dsimp only
  rw [if_neg hstate, htags]
  exact (if_neg (by simp [hready])).trans (if_neg (by simp [h]))

theorem State.commitSlot_of_marked (h : (s.warp.land k).marked ≠ 0) (hguard : s.team.guarded = false) :
    s.commitSlot g k = .raise (s.commitBad k) (s.warp.land k).fault := by
  unfold State.commitSlot
  dsimp only
  rw [if_neg hstate, htags]
  exact (if_neg (by simp [hready])).trans ((if_pos h).trans (if_neg (by simp [hguard])))

end

/-! ## A list of slots (R224) -/

/-- COMMIT takes the slot at once: it is empty, or landed without a mark, with tags that fit and no row that waits. -/
def State.commitReady (s : State) (g : Tag) (k : Nat) : Prop :=
  (s.warp.land k).state = .empty ∨ ((s.warp.land k).state = .landed ∧ (s.warp.land k).marked = 0 ∧
    ((s.warp.land k).tags g (s.warp.trslot.getLsbD k)).isSome = true ∧ s.rowWaits (s.warp.land k) = false)

theorem Warp.emptySlot_land_same (w : Warp) {k : Nat} (hk : k < 16) : ((w.emptySlot k).land k).state = .empty :=
  congrArg Slot.state (w.land_setSlot_same _ hk)

theorem Warp.emptySlot_land_other (w : Warp) {j k : Nat} (h : j ≠ k) : (w.emptySlot k).land j = w.land j := w.land_setSlot_other _ h

theorem Warp.emptySlot_trslot (w : Warp) (k : Nat) {j : Nat} (hj : j < 16) :
    (w.emptySlot k).trslot.getLsbD j = (w.trslot.getLsbD j && decide (j ≠ k)) := by
  have hbit : (1#16 <<< k).getLsbD j = decide (j = k) := by
    rw [BitVec.getLsbD_shiftLeft, BitVec.getLsbD_one, Bool.eq_iff_iff]
    simp only [Bool.and_eq_true, decide_eq_true_eq, Bool.not_eq_true', decide_eq_false_iff_not]
    omega
  simp only [Warp.emptySlot, BitVec.getLsbD_and, BitVec.getLsbD_not, hbit, hj, decide_true, Bool.true_and]
  by_cases h : j = k <;> simp [h]

/-- A slot that is committed is then empty, and no other is touched. -/
theorem State.commitSlot_of_ready {s : State} {g : Tag} {k : Nat} (hk : k < 16) (h : s.commitReady g k) :
    ∃ q, s.commitSlot g k = .pass q ∧ (q.warp.land k).state = .empty ∧
      ∀ j, j < 16 → j ≠ k → q.warp.land j = s.warp.land j ∧ (s.commitReady g j → q.commitReady g j) := by
  rcases h with h | ⟨hlanded, hmarked, htags, hrow⟩
  · exact ⟨s, State.commitSlot_of_empty g h, h, fun j _ _ => ⟨rfl, id⟩⟩
  · obtain ⟨ts, hts⟩ := Option.isSome_iff_exists.1 htags
    obtain ⟨hslots, htrslot, hmops⟩ := s.commitData_frame k ts
    have hland := Warp.land_of_slots hslots
    refine ⟨_, State.commitSlot_of_clean (by simp [hlanded]) hts ⟨by simp [hlanded], hrow⟩ hmarked,
      (congrArg Slot.state (hland k)).trans (s.warp.emptySlot_land_same hk), fun j hj hne => ?_⟩
    have hother : (s.commitData k ts).warp.land j = s.warp.land j := (hland j).trans (s.warp.emptySlot_land_other hne)
    have htr : (s.commitData k ts).warp.trslot.getLsbD j = s.warp.trslot.getLsbD j := by
      rw [htrslot, s.warp.emptySlot_trslot k hj, decide_eq_true hne, Bool.and_true]
    have hrowj : (s.commitData k ts).rowWaits (s.warp.land j) = s.rowWaits (s.warp.land j) := by
      simp only [State.rowWaits, Team.pend, hmops]
    refine ⟨hother, fun hr => ?_⟩
    unfold State.commitReady
    rw [hother, htr, hrowj]
    exact hr

theorem State.commitSlots_of_ready {g : Tag} {l : List Nat} (hl : ∀ k ∈ l, k < 16) {s : State} (h : ∀ k, k < 16 → s.commitReady g k) :
    ∃ q, s.commitSlots g l = .pass q ∧ (∀ k ∈ l, (q.warp.land k).state = .empty) ∧
      ∀ k, k < 16 → (s.warp.land k).state = .empty → (q.warp.land k).state = .empty := by
  induction l generalizing s with
  | nil => exact ⟨s, rfl, nofun, fun _ _ => id⟩
  | cons k l ih =>
    have hk := hl k List.mem_cons_self
    obtain ⟨u, hu, hempty, hothers⟩ := State.commitSlot_of_ready hk (h k hk)
    have hready : ∀ j, j < 16 → u.commitReady g j := fun j hj => by
      by_cases hjk : j = k
      · exact .inl (hjk ▸ hempty)
      · exact (hothers j hj hjk).2 (h j hj)
    obtain ⟨q, hq, hdone, hkeep⟩ := ih (fun j hj => hl j (List.mem_cons_of_mem _ hj)) hready
    refine ⟨q, ?_, List.forall_mem_cons.2 ⟨hkeep k hk hempty, hdone⟩, fun j hj hj0 => hkeep j hj ?_⟩
    · unfold State.commitSlots
      rw [hu]
      exact hq
    · by_cases hjk : j = k
      · exact hjk ▸ hempty
      · rw [(hothers j hj hjk).1, hj0]

/-! ## The instructions -/

theorem exec_commit (g : Tag) (k : BitVec 4) (s : State) : exec (.commit g k) s = execCommit g k s := rfl

theorem exec_commitAll (g : Tag) (s : State) : exec (.commitAll g) s = execCommitAll g s := rfl

/-- What COMMIT comes to by what it does with its slots. -/
def CommitStep.outcome (p : State) : CommitStep → Host.Outcome State Fault Refusal
  | .pass t => .next (wentOn t.enterInvalid)
  | .wait t => .next (if t.warp.slotsUsed != p.warp.slotsUsed then t.wake else t).stall
  | .raise t r => .next (t.raise r)
  | .rollback t a => .next (t.rollback t.team.handle t.entry.pc a).finish

theorem CommitStep.outcome_wait (p : State) : (CommitStep.wait p).outcome p = .next p.stall := by
  rw [CommitStep.outcome, bne_self_eq_false]
  rfl

theorem State.commitBy_eq {s : State} {i : Instr} (g : Tag) (slots : List Nat) (h : Goes s (bare i)) :
    s.commitBy i g slots = (s.prelude.commitSlots g slots).outcome s.prelude := by
  unfold State.commitBy
  rw [State.attempt_goes (u := fun _ => { legal := i.wellFormed }) _ h.1 h.2.1 h.2.2]
  cases s.prelude.commitSlots g slots <;> rfl

theorem exec_commit_eq {g : Tag} {k : BitVec 4} {s : State} (h : Goes s (bare (.commit g k))) :
    exec (.commit g k) s = (s.prelude.commitSlot g k.toNat).outcome s.prelude := by
  rw [exec_commit, execCommit, State.commitBy_eq g _ h, State.commitSlots]
  cases s.prelude.commitSlot g k.toNat <;> rfl

theorem Warp.commitScalar_spec (w : Warp) (x : Slot) :
    x.dest ∉ (w.commitScalar x).spend ∧ (x.dest < 384 → (w.commitScalar x).scalar x.dest = x.word) ∧
      (x.dest = litNo → (w.commitScalar x).lit = x.word) ∧ (x.dest = sccNo → ((w.commitScalar x).ccs = true ↔ x.word ≠ 0)) := by
  have hspend : x.dest ∉ w.spend.filter fun r => r != x.dest := by simp
  unfold Warp.commitScalar
  dsimp only
  split
  next hlit => exact ⟨hspend, fun h => absurd (hlit ▸ h) (by decide), fun _ => rfl, fun h => absurd (hlit ▸ h) (by decide)⟩
  next hlit =>
    split
    next hscc => exact ⟨hspend, fun h => absurd (hscc ▸ h) (by decide), fun h => absurd h hlit, fun _ => by simp⟩
    next hscc => exact ⟨hspend, fun h => look_put_self _ _ _ _ h, fun h => absurd h hlit, fun h => absurd h hscc⟩

/-- R222 and R223: what a landed slot without a mark leaves where it names. -/
theorem commitWrites {p : State} {k : Nat} (hk : k < 16) (ts : List Tag) :
    let x := p.warp.land k
    let t := wentOn (p.commitData k ts).enterInvalid
    (t.warp.land k).state = .empty ∧ t.warp.trslot.getLsbD k = false ∧
      (x.kind ≠ .scalar → x.dest + ts.length ≤ 256 → ∀ j tag, ts[j]? = some tag → p.warp.live? (x.dest + j) = none →
        t.warp.bankReg (x.dest + j) =
          { data := mergeLanes x.mask (look x.data (splat 0) j) (p.warp.bankReg (x.dest + j)).data, tag := tag, stale := false, pending := false }) ∧
      (x.kind ≠ .scalar → 256 ≤ x.dest → x.dest + ts.length ≤ 272 → x.tile < p.team.tiles.length → ∀ j, j < ts.length →
        (t.team.tiles.getD x.tile default).row (x.dest - 256 + j) =
          mergeLanes x.mask (look x.data (splat 0) j) ((p.team.tiles.getD x.tile default).row (x.dest - 256 + j))) ∧
      (x.kind = .scalar → x.dest ∉ t.warp.spend ∧ (x.dest < 384 → t.warp.scalar x.dest = x.word) ∧ (x.dest = litNo → t.warp.lit = x.word) ∧
        (x.dest = sccNo → (t.warp.ccs = true ↔ x.word ≠ 0))) := by
  intro x t
  obtain ⟨hslots, htrslot, -⟩ := p.commitData_frame k ts
  have hfield : ∀ {β : Type} (f : Warp → β), (∀ w, f w.besidesBanks = f w) →
      (∀ (w : Warp) fr i n, f { w with frontier := fr, issued := i, runCount := n, stalled := false } = f w) →
      f t.warp = f (p.commitData k ts).warp := fun f => wentOn_enterInvalid_field (p.commitData k ts) (p.commitData k ts).warp f
  refine ⟨?state, ?trslot, fun hkind hfit j tag htag hlive => ?regs, fun hkind hdest hfit htile j hj => ?rows, fun hkind => ?scalar⟩
  case state =>
    rw [hfield (fun w => (w.land k).state) (fun _ => rfl) fun _ _ _ _ => rfl, Warp.land_of_slots hslots]
    exact p.warp.emptySlot_land_same hk
  case trslot =>
    rw [hfield (fun w => w.trslot) (fun _ => rfl) fun _ _ _ _ => rfl, htrslot, p.warp.emptySlot_trslot k hk]
    simp
  case regs =>
    have hj : j < ts.length := (List.getElem?_eq_some_iff.1 htag).1
    have hdata := State.commitData_regs hkind (by omega : x.dest < 256) ts
    have hlive' : (p.commitData k ts).warp.live? (x.dest + j) = none := by
      rw [hdata]
      exact (Warp.commitRegs_live? (p.warp.emptySlot k) x ts _).trans hlive
    rw [wentOn_enterInvalid_bankReg _ hlive', hdata]
    exact Warp.commitRegs_bankReg (p.warp.emptySlot k) x hfit htag
  case rows =>
    have htiles : t.team.tiles = modifyAt (fun t => t.commitRows x ts) x.tile p.team.tiles := by
      rw [show t.team.tiles = (p.commitData k ts).team.tiles from rfl, State.commitData_rows hkind hdest]
    rw [htiles, getD_modifyAt _ _ htile]
    exact Tile.commitRows_row _ x hdest hfit hj
  case scalar =>
    have hdata : (p.commitData k ts).warp = (p.warp.emptySlot k).commitScalar x := by rw [State.commitData_scalar hkind]; rfl
    obtain ⟨hspend, hscalar, hlit, hscc⟩ := (p.warp.emptySlot k).commitScalar_spec x
    rw [hfield (fun w => w.spend) (fun _ => rfl) fun _ _ _ _ => rfl, hfield (fun w => w.scalar x.dest) (fun _ => rfl) fun _ _ _ _ => rfl,
      hfield (fun w => w.lit) (fun _ => rfl) fun _ _ _ _ => rfl, hfield (fun w => w.ccs) (fun _ => rfl) fun _ _ _ _ => rfl, hdata]
    exact ⟨hspend, hscalar, hlit, hscc⟩

theorem commitWritesLandedSlots : Sys2Proof.Claims.CommitWritesLandedSlots := by
  intro g k s p x traced bad waits tags v h
  have hwaits : ∀ n, p.rowWaits (p.warp.land n) = true ↔ waits n := fun n => by
    simp [State.rowWaits, waits, and_assoc]
  have hbad : ∀ n, bad n ↔ (p.warp.land n).tags g (p.warp.trslot.getLsbD n) = none := fun n => (Slot.tags_eq_none_iff ..).symm
  have htags : ¬ bad k.toNat → x.tags g (p.warp.trslot.getLsbD k.toNat) = some tags := fun hb => by
    unfold Slot.tags
    by_cases htr : traced k.toNat = true
    · exact (if_pos htr).trans (congrArg some (if_pos htr).symm)
    · refine (if_neg htr).trans (Eq.trans ?_ (congrArg some (if_neg htr).symm))
      cases hkind : x.kind with
      | w => exact if_neg fun hg => hb ⟨Bool.eq_false_iff.2 htr, hkind, hg⟩
      | d | q | trace | scalar => rfl
  have hready : x.state = .landed → ¬ waits k.toNat → x.state ≠ .inflight ∧ p.rowWaits x = false := fun hlanded hw =>
    ⟨by simp [hlanded], Bool.eq_false_iff.2 fun h => hw ((hwaits _).1 h)⟩
  rw [exec_commit_eq h]
  refine ⟨fun hempty => ?empty, fun hstate hb => ?bad, fun hstate hb => ?waits, fun hlanded hmarked hb hw => ?lands,
    fun hlanded hmarked hb hw hguard => ?marked, fun hall h => ?all⟩
  case empty => rw [State.commitSlot_of_empty g hempty]; rfl
  case bad => rw [State.commitSlot_of_bad hstate ((hbad _).1 hb)]; rfl
  case waits =>
    have hne : x.state ≠ .empty := by rcases hstate with h | ⟨h, -⟩ <;> simp [h]
    rw [State.commitSlot_of_waits hne (htags hb) (hstate.imp_right fun h => (hwaits _).2 h.2)]
    exact CommitStep.outcome_wait p
  case lands =>
    rw [State.commitSlot_of_clean (by simp [hlanded, x]) (htags hb) (hready hlanded hw) hmarked]
    exact ⟨_, rfl, commitWrites k.isLt tags⟩
  case marked =>
    rw [State.commitSlot_of_marked (by simp [hlanded, x]) (htags hb) (hready hlanded hw) hmarked hguard]
    exact ⟨_, rfl, rfl, rfl⟩
  case all =>
    have hall : ∀ n, n < 16 → p.commitReady g n := fun n hn => (hall n hn).imp_right fun ⟨hlanded, hmarked, hb, hw⟩ =>
      ⟨hlanded, hmarked, Option.isSome_iff_ne_none.2 fun he => hb ((hbad n).2 he), Bool.eq_false_iff.2 fun h => hw ((hwaits n).1 h)⟩
    obtain ⟨q, hq, hempty, -⟩ := State.commitSlots_of_ready (l := List.range 16) (fun _ => List.mem_range.1) hall
    refine ⟨q, hq, ?_, fun n hn => hempty n (List.mem_range.2 hn)⟩
    rw [exec_commitAll, execCommitAll, State.commitBy_eq g _ h, hq]
    rfl

/-- Settles O20: aligned words do not overlap, a fork sets the marks of its own slot alone, and each destination of a slot is written once. -/
theorem loadsAndTheScratchpad : Obligations.LoadsAndTheScratchpad :=
  ⟨scratchpadLoadsAndStores, loadsForkIntoTheirSlots, commitWritesLandedSlots⟩

end Sys2Proof.Machine
end

section
/-! Elements of a lane: an element that has been packed reads as it was (R73), and the flags of the elements (R79). -/

namespace Sys2Proof.Machine
open Sys2Proof.Claims

/-! ## Packing (R73) -/

/-- The digits of a number to a base above 1, by division. -/
theorem ofDigits_div_pow_mod {b : Nat} (hb : 1 < b) {l : List Nat} (hl : ∀ x ∈ l, x < b) {i : Nat} (hi : i < l.length) :
    Nat.ofDigits b l / b ^ i % b = l[i] := by
  rw [Nat.ofDigits_div_pow_eq_ofDigits_drop i (by omega) l hl, List.drop_eq_getElem_cons hi, Nat.ofDigits_cons, Nat.add_mul_mod_self_left,
    Nat.mod_eq_of_lt (hl _ (List.getElem_mem hi))]

/-- The formats whose elements stand one after another from bit 0 of a lane. -/
def Tag.dense (t : Tag) : Prop := t ≠ .fp64 ∧ t ≠ .rw ∧ t ≠ .fp19

theorem Tag.one_lt_two_pow_width (t : Tag) : 1 < 2 ^ Tag.width t := by cases t <;> decide

theorem Tag.dense_fits {t : Tag} (h : Tag.dense t) : Tag.width t * Tag.count t ≤ 32 := by
  obtain ⟨h64, hrw, -⟩ := h
  cases t
  case fp64 => exact absurd rfl h64
  case rw => exact absurd rfl hrw
  all_goals decide

/-- A lane of dense elements is the number with those digits. -/
theorem toNat_packElems {t : Tag} (h : Tag.dense t) {xs : List Nat} (hlen : xs.length ≤ Tag.count t) :
    (packElems t xs).toNat = Nat.ofDigits (2 ^ Tag.width t) (xs.map (· % 2 ^ Tag.width t)) := by
  have ⟨_, _, h19⟩ := h
  have hsum : (xs.zipIdx.map fun p => p.1 % 2 ^ Tag.width t * 2 ^ Tag.offset t p.2).sum =
      Nat.ofDigits (2 ^ Tag.width t) (xs.map (· % 2 ^ Tag.width t)) := by
    rw [Nat.ofDigits_eq_sum_mapIdx, List.mapIdx_eq_zipIdx_map, List.zipIdx_map, List.map_map]
    refine congrArg List.sum (List.map_congr_left fun p _ => ?_)
    simp only [Tag.offset, if_neg h19, Function.comp, Prod.map, id, ← pow_mul, Nat.mul_comm p.2]
  have hlt : Nat.ofDigits (2 ^ Tag.width t) (xs.map (· % 2 ^ Tag.width t)) < 2 ^ 32 := calc
    _ < (2 ^ Tag.width t) ^ (xs.map (· % 2 ^ Tag.width t)).length := Nat.ofDigits_lt_base_pow_length (Tag.one_lt_two_pow_width t) (by
      simp only [List.mem_map, forall_exists_index, and_imp, forall_apply_eq_imp_iff₂]
      exact fun x _ => Nat.mod_lt _ (by positivity))
    _ = 2 ^ (Tag.width t * xs.length) := by rw [List.length_map, pow_mul]
    _ ≤ 2 ^ 32 := Nat.pow_le_pow_right (by norm_num) ((Nat.mul_le_mul_left _ hlen).trans (Tag.dense_fits h))
  rw [packElems, hsum, BitVec.toNat_ofNat, Nat.mod_eq_of_lt hlt]

/-- R73: element i of a packed lane is the i-th of its elements, to the width of the format. -/
theorem elemBits_packElems {t : Tag} (h64 : t ≠ .fp64) (hrw : t ≠ .rw) (g : Nat → Nat) {i : Nat} (hi : i < Tag.count t) :
    elemBits t (packElems t ((List.range (Tag.count t)).map g)) i = g i % 2 ^ Tag.width t := by
  by_cases h19 : t = .fp19
  · subst h19
    obtain rfl : i = 0 := by simpa [Tag.count] using hi
    simp only [elemBits, bits, packElems, Tag.count, Tag.offset, Tag.width, BitVec.toNat_ofNat]
    simp
    omega
  · have hdense : Tag.dense t := ⟨h64, hrw, h19⟩
    rw [elemBits, bits, toNat_packElems hdense (by simp), Tag.offset, if_neg h19, Nat.mul_comm i, pow_mul,
      ofDigits_div_pow_mod (Tag.one_lt_two_pow_width t) (fun x hx => ?_) (by rwa [List.length_map, List.length_map, List.length_range])]
    · simp
    · obtain ⟨y, -, rfl⟩ := List.mem_map.1 hx
      exact Nat.mod_lt _ (by positivity)

/-- A pair's two words are the low 64 bits of a number. -/
theorem splitPair_toNat {f : Nat → Nat} {L : Nat} (hL : L < 32) (hf : f L < 2 ^ 64) :
    (lane (splitPair f).1 L).toNat + 2 ^ 32 * (lane (splitPair f).2 L).toNat = f L := by
  simp only [splitPair, lane_lanesOf _ L hL, BitVec.toNat_ofNat]
  omega

/-- R73: what a float result's element reads as; FP64 fills a pair. -/
theorem resultBits_floatLanes {t : Tag} (hrw : t ≠ .rw) (f : Nat → Nat → Nat) {L i : Nat} (hL : L < 32) (hi : i < Tag.count t) :
    resultBits t (floatLanes t f).1 (floatLanes t f).2 L i = f L i % 2 ^ Tag.width t := by
  by_cases h : t = .fp64
  · subst h
    obtain rfl : i = 0 := by simpa [Tag.count] using hi
    simp only [resultBits, floatLanes, if_true, lane_lanesOf _ L hL, Tag.width, BitVec.toNat_append, BitVec.toNat_ofNat]
    rw [← Nat.shiftLeft_add_eq_or_of_lt (Nat.mod_lt _ (by norm_num)), Nat.shiftLeft_eq]
    omega
  · simp only [resultBits, floatLanes, if_neg h, lane_lanesOf _ L hL]
    exact elemBits_packElems h hrw (f L) hi

/-! ## Flags of the active lanes (R79) -/

theorem getLsbD_foldl_or {w : Nat} (l : List (BitVec w)) (m : BitVec w) (k : Nat) :
    (l.foldl (· ||| ·) m).getLsbD k = true ↔ m.getLsbD k = true ∨ ∃ x ∈ l, x.getLsbD k = true := by
  induction l generalizing m with
  | nil => simp
  | cons a l ih => rw [List.foldl_cons, ih, BitVec.getLsbD_or, Bool.or_eq_true, List.exists_mem_cons_iff, or_assoc]

theorem State.mem_active {s : State} {L : Nat} : L ∈ s.active ↔ L < 32 ∧ s.mask.getLsbD L = true := mem_maskLanes

/-- R79: a flag is set where an element of an active lane sets it. -/
theorem State.getLsbD_floatFlags (s : State) (t : Tag) (f : Nat → Nat → Word) (k : Nat) :
    (s.floatFlags t f).getLsbD k = true ↔ ∃ L e, s.mask.getLsbD L = true ∧ L < 32 ∧ e < Tag.count t ∧ (f L e).getLsbD k = true := by
  rw [State.floatFlags, getLsbD_foldl_or]
  simp only [List.mem_flatMap, List.mem_map, List.mem_range, State.mem_active]
  constructor
  · rintro (h | ⟨_, ⟨L, ⟨hL, hm⟩, e, he, rfl⟩, hx⟩)
    · simp at h
    · exact ⟨L, e, hm, hL, he, hx⟩
  · rintro ⟨L, e, hm, hL, he, hx⟩
    exact .inr ⟨_, ⟨L, ⟨hL, hm⟩, e, he, rfl⟩, hx⟩

end Sys2Proof.Machine
end

section
/-! Residue codes: an integer's code is no VOID element and decodes to it (R85 to R88). -/

namespace Sys2Proof.Machine
open Sys2Proof.Claims

/-! ## The layout of a residue format (R85, Table 5-7) -/

/-- Three channels one above the other, and what makes their weights those of the Chinese remainder theorem: each weight is divided by the
other two moduli, and together they are 1 modulo M. -/
structure Tag.Laid (t : Tag) (a b c : Channel) : Prop where
  channels : Tag.channels t = [a, b, c]
  low : a.lo = 0 ∧ b.lo = a.len ∧ c.lo = a.len + b.len
  fits : (0 < a.m ∧ a.m ≤ 2 ^ a.len) ∧ (0 < b.m ∧ b.m ≤ 2 ^ b.len) ∧ 0 < c.m ∧ c.m ≤ 2 ^ c.len
  width : a.len + b.len + c.len ≤ Tag.width t
  width_rw : t = .rw → a.len + b.len + c.len ≤ 49
  weights : Tag.modulus t ∣ a.m * a.weight ∧ Tag.modulus t ∣ b.m * b.weight ∧ Tag.modulus t ∣ c.m * c.weight
  one : (a.weight + b.weight + c.weight) % Tag.modulus t = 1
  range : 0 ≤ (Tag.residueRange t).2 ∧ (Tag.residueRange t).1 ≤ 0 ∧
    (Tag.residueRange t).2 = (Tag.residueRange t).1 + Tag.modulus t - 1

theorem Tag.exists_laid {t : Tag} (h : Tag.isResidue t = true) : ∃ a b c, Tag.Laid t a b c := by
  cases t
  case rs6 | rp6 | rs8 | rp8 | rs12 | rp12 | rs16 | rp16 | rw =>
    exact ⟨_, _, _, rfl, by decide, by decide, by decide, by decide, by decide, by decide, by decide⟩
  all_goals exact absurd h (by decide)

/-! ## Codes (R86, R87) -/

/-- The fields of a word of three fields. -/
theorem three_fields {p q r x y z : Nat} (hx : x < 2 ^ p) (hy : y < 2 ^ q) (hz : z < 2 ^ r) :
    (x + y * 2 ^ p + z * 2 ^ (p + q)) % 2 ^ p = x ∧ (x + y * 2 ^ p + z * 2 ^ (p + q)) / 2 ^ p % 2 ^ q = y ∧
      (x + y * 2 ^ p + z * 2 ^ (p + q)) / 2 ^ (p + q) % 2 ^ r = z ∧ x + y * 2 ^ p + z * 2 ^ (p + q) < 2 ^ (p + q + r) := by
  have hform : x + y * 2 ^ p + z * 2 ^ (p + q) = x + 2 ^ p * (y + 2 ^ q * z) := by ring
  have hhigh : (x + 2 ^ p * (y + 2 ^ q * z)) / 2 ^ p = y + 2 ^ q * z := by
    rw [Nat.add_mul_div_left _ _ (by positivity), Nat.div_eq_of_lt hx, zero_add]
  rw [hform, pow_add, ← Nat.div_div_eq_div_mul, hhigh, Nat.add_mul_mod_self_left, Nat.mod_eq_of_lt hx, Nat.add_mul_mod_self_left,
    Nat.mod_eq_of_lt hy, Nat.add_mul_div_left _ _ (by positivity), Nat.div_eq_of_lt hy, zero_add, Nat.mod_eq_of_lt hz, pow_add, pow_add]
  refine ⟨rfl, rfl, rfl, ?_⟩
  calc x + 2 ^ p * (y + 2 ^ q * z) < 2 ^ p * (y + 2 ^ q * z + 1) := by rw [mul_add _ _ 1, mul_one]; omega
    _ ≤ 2 ^ p * (2 ^ q * (z + 1)) := Nat.mul_le_mul_left _ (by rw [mul_add, mul_one]; omega)
    _ ≤ 2 ^ p * (2 ^ q * 2 ^ r) := Nat.mul_le_mul_left _ (Nat.mul_le_mul_left _ hz)
    _ = 2 ^ p * 2 ^ q * 2 ^ r := (mul_assoc _ _ _).symm

section
variable {t : Tag} {a b c : Channel} (h : Tag.Laid t a b c) (x : Int)
include h

/-- The channels of a code are the remainders of its integer. -/
theorem Tag.Laid.fields_rencode :
    rencode t x / 2 ^ a.lo % 2 ^ a.len = (x % a.m).toNat ∧ rencode t x / 2 ^ b.lo % 2 ^ b.len = (x % b.m).toNat ∧
      rencode t x / 2 ^ c.lo % 2 ^ c.len = (x % c.m).toNat ∧ rencode t x < 2 ^ (a.len + b.len + c.len) := by
  obtain ⟨ha, hb, hc⟩ := h.fits
  obtain ⟨hal, hbl, hcl⟩ := h.low
  have hsmall : ∀ {m n : Nat}, 0 < m ∧ m ≤ n → (x % m).toNat < n := fun {m n} hm => by
    have := Int.emod_lt_of_pos x (b := m) (by omega)
    have := Int.emod_nonneg x (b := m) (by omega)
    omega
  have hcode : rencode t x = (x % a.m).toNat + (x % b.m).toNat * 2 ^ a.len + (x % c.m).toNat * 2 ^ (a.len + b.len) := by
    simp [rencode, h.channels, hal, hbl, hcl, add_assoc]
  rw [hal, hbl, hcl, pow_zero, Nat.div_one, hcode]
  exact three_fields (hsmall ha) (hsmall hb) (hsmall hc)

theorem Tag.Laid.rencode_lt : rencode t x < 2 ^ Tag.width t := by
  obtain ⟨-, -, -, hlt⟩ := h.fields_rencode x
  exact hlt.trans_le (Nat.pow_le_pow_right (by norm_num) h.width)

/-- R87: no code of an integer is VOID. -/
theorem Tag.Laid.isVoid_rencode : isVoid t (rencode t x) = false := by
  obtain ⟨ha, hb, hc, hlt⟩ := h.fields_rencode x
  obtain ⟨⟨hpa, -⟩, ⟨hpb, -⟩, hpc, -⟩ := h.fits
  have hsmall : ∀ {m : Nat}, 0 < m → ¬ m ≤ (x % m).toNat := fun {m} hm => by
    have := Int.emod_lt_of_pos x (b := m) (by omega)
    omega
  have hhigh : t = .rw → rencode t x < 2 ^ 49 := fun hrw => hlt.trans_le (Nat.pow_le_pow_right (by norm_num) (h.width_rw hrw))
  simpa [isVoid, h.channels, ha, hb, hc, hsmall hpa, hsmall hpb, hsmall hpc] using hhigh

theorem Tag.Laid.modulus_pos : 0 < Tag.modulus t := by
  rcases Nat.eq_zero_or_pos (Tag.modulus t) with hm | hm
  · have := h.range
    rw [hm] at this
    omega
  · exact hm

/-- R86: what an element decodes to is within the range of its format. -/
theorem Tag.Laid.rdecode_mem (u : Nat) : (Tag.residueRange t).1 ≤ rdecode t u ∧ rdecode t u ≤ (Tag.residueRange t).2 := by
  obtain ⟨hhi, hlo, heq⟩ := h.range
  have hlt := fun n => Nat.mod_lt n h.modulus_pos
  unfold rdecode
  dsimp only
  have := hlt ((Tag.channels t).map fun c => u / 2 ^ c.lo % 2 ^ c.len * c.weight).sum
  split <;> omega

/-- R86 and R88: the code of any integer decodes to it modulo M. -/
theorem Tag.Laid.modulus_dvd_rdecode_rencode : (Tag.modulus t : Int) ∣ rdecode t (rencode t x) - x := by
  obtain ⟨ha, hb, hc, -⟩ := h.fields_rencode x
  obtain ⟨hwa, hwb, hwc⟩ := h.weights
  obtain ⟨⟨hpa, -⟩, ⟨hpb, -⟩, hpc, -⟩ := h.fits
  have hsum : (Tag.modulus t : Int) ∣
      (((x % a.m).toNat * a.weight + ((x % b.m).toNat * b.weight + (x % c.m).toNat * c.weight) : Nat) : Int) - x := by
    have hpos : ∀ {m : Nat}, 0 < m → ((x % m).toNat : Int) = x - m * (x / m) := fun {m} hm => by
      rw [Int.toNat_of_nonneg (Int.emod_nonneg _ (by omega)), Int.emod_def]
    have hone : (Tag.modulus t : Int) ∣ (a.weight + b.weight + c.weight : Int) - 1 :=
      Int.dvd_self_sub_of_emod_eq (by exact_mod_cast h.one)
    have hterm : ∀ {n : Nat} (q : Int), Tag.modulus t ∣ n → (Tag.modulus t : Int) ∣ n * q := fun q hn =>
      (Int.natCast_dvd_natCast.2 hn).mul_right q
    have := ((hone.mul_left x).sub (hterm (x / a.m) hwa)).sub ((hterm (x / b.m) hwb).add (hterm (x / c.m) hwc))
    refine this.trans (dvd_of_eq ?_)
    push_cast
    rw [hpos hpa, hpos hpb, hpos hpc]
    ring
  have hmod : ∀ u : Nat, (Tag.modulus t : Int) ∣ (u % Tag.modulus t : Nat) - (u : Int) := fun u => by
    rw [← dvd_neg, neg_sub]
    exact Int.natCast_mod u _ ▸ Int.dvd_self_sub_emod
  simp only [rdecode, h.channels, List.map_cons, List.map_nil, List.sum_cons, List.sum_nil, add_zero, ha, hb, hc]
  split
  · exact sub_add_sub_cancel _ _ x ▸ (hmod _).add hsum
  · rw [sub_right_comm]
    exact (sub_add_sub_cancel _ _ x ▸ (hmod _).add hsum).sub dvd_rfl

/-- R86: the code of an integer in range decodes to it. -/
theorem Tag.Laid.rdecode_rencode (hlo : (Tag.residueRange t).1 ≤ x) (hhi : x ≤ (Tag.residueRange t).2) :
    rdecode t (rencode t x) = x := by
  obtain ⟨hdlo, hdhi⟩ := h.rdecode_mem (rencode t x)
  have hrange := h.range
  refine sub_eq_zero.1 (Int.eq_zero_of_abs_lt_dvd (h.modulus_dvd_rdecode_rencode x) (abs_lt.2 ?_))
  omega

end

theorem residueCodesInvert : Sys2Proof.Claims.ResidueCodesInvert := by
  intro t x hres hlo hhi
  obtain ⟨a, b, c, h⟩ := Tag.exists_laid hres
  exact ⟨h.isVoid_rencode x, h.rdecode_rencode x hlo hhi, h.rencode_lt x⟩

end Sys2Proof.Machine
end

section
/-! Residue instructions (R148 to R151). -/

namespace Sys2Proof.Machine
open Sys2Proof.Claims

/-! ## Instructions that check tags and VOID elements (Table 6-6, rows 9 and 10) -/

/-- An instruction whose sources have accepted tags, and no VOID element where FRM.VT would trap on it. -/
theorem State.issueNext_of_tagged {s : State} {u u' : State → Uses} {b : Bool} {v : Mask} (e : State → State) (h : Goes s u)
    (hplain : (u s.prelude).plain) (huniform : (u s.prelude).uniform = true) (hspecific : (u s.prelude).specific = none)
    (hu : u' s.prelude = { u s.prelude with tagsOk := b, voids := v }) (hb : b = true) (hv : frmVt s.prelude.warp.frm = true → v = 0) :
    s.issueNext u' e = .next (wentOn (e s.prelude)) := by
  obtain ⟨hissuing, hswitch, hgate⟩ := h
  obtain ⟨hpriv, -, -, hretry⟩ := hplain
  refine State.issue_goes _ hissuing hswitch ?_
  rw [hu, hb]
  refine (State.gate_more hgate (u s.prelude).privileged true (u s.prelude).uniform (u s.prelude).retry v (u s.prelude).specific).trans ?_
  simpa [hpriv, huniform, hspecific, hretry] using hv

theorem State.voidLanes_eq_zero {s : State} {t : Tag} {x : VOp} {elems : Nat → List Nat}
    (h : ∀ L e, s.mask.getLsbD L = true → L < 32 → e ∈ elems L → isVoid t (elemBits t (lane (s.vec x) L) e) = false) :
    s.voidLanes t x elems = 0 := by
  refine maskOf_eq fun L hL => ?_
  simp only [BitVec.ofNat_eq_ofNat, BitVec.getLsbD_zero, Bool.false_eq_true, false_iff, Bool.and_eq_true, List.any_eq_true, not_and, not_exists]
  intro hm e he hvoid
  exact Bool.false_ne_true ((h L e hm hL he).symm.trans hvoid)

theorem State.rwVoid_eq_zero {s : State} {x : VOp}
    (h : ∀ L, s.mask.getLsbD L = true → L < 32 → isVoid .rw (s.pair x L).toNat = false) : s.rwVoid x = 0 := by
  refine maskOf_eq fun L hL => ?_
  simp only [BitVec.ofNat_eq_ofNat, BitVec.getLsbD_zero, Bool.false_eq_true, false_iff, Bool.and_eq_true, not_and]
  intro hm hvoid
  exact Bool.false_ne_true ((h L hm hL).symm.trans hvoid)

/-! ## The instructions' meanings -/

theorem exec_rmac (d a b : VOp) (da db : BitVec 1) (s : State) : exec (.rmac d a b da db) s = execRmac d a b da db s := rfl

theorem exec_rcrt (d a b : VOp) (da db : BitVec 1) (f : BitVec 2) (s : State) : exec (.rcrt d a b da db f) s = execRcrt d a b da db f s := rfl

theorem exec_renc (d a : VOp) (g : Tag) (da : BitVec 1) (s : State) : exec (.renc d a g da) s = execRenc d a g da s := rfl

/-! ## RADD, RMUL, RNEG and RMAC (R149) -/

/-- A common residue tag is one of the packed residue formats. -/
theorem State.mem_residueTags {s : State} {xs : List VOp} {t : Tag} (h : s.residueTag xs = some t) : t ∈ residueTags := by
  unfold State.residueTag at h
  split at h
  next u rest _ =>
    split at h
    next hok =>
      obtain rfl := Option.some.inj h
      exact List.contains_iff_mem.1 (Bool.and_eq_true_iff.1 hok).1
    next => cases h
  next => cases h

theorem isResidue_of_mem_residueTags {t : Tag} (h : t ∈ residueTags) : Tag.isResidue t = true ∧ t ≠ .fp64 ∧ t ≠ .rw := by
  revert t; decide

/-- R87: what arithmetic notes of an element is VOID alone. -/
theorem getLsbD_relem (t : Tag) (x : Nat) : (relem t x).2.getLsbD 13 = isVoid t x := by
  unfold relem
  split <;> simp_all [Flag.void]

/-- R149: each element of the result is the code of the operation on the integers of the sources' elements, and VOID is set where one
of them is VOID. -/
theorem State.residue_of_goes {s : State} {i : Instr} {srcs : List Src} {d : VOp} {t : Tag} (op : List Int → Int)
    (ht : s.prelude.residueTag (srcs.map (·.op)) = some t)
    (hvoid : frmVt s.prelude.warp.frm = true → ∀ x ∈ srcs, ∀ L e, s.prelude.mask.getLsbD L = true → L < 32 → e < Tag.count t →
      isVoid t (elemBits t (lane (s.prelude.vec x.op) L) e) = false)
    (h : Goes s (needs i srcs d)) :
    ∃ y fl, s.residue i srcs d op = .next (written s.prelude srcs { dst := d, tag := t, lo := y, flags := fl }) ∧
      (∀ L e, L < 32 → e < Tag.count t → elemBits t (lane y L) e =
        rencode t (op (srcs.map fun x => (relem t (elemBits t (lane (s.prelude.vec x.op) L) e)).1))) ∧
      (fl.getLsbD 13 = true ↔ ∃ L e, s.prelude.mask.getLsbD L = true ∧ L < 32 ∧ e < Tag.count t ∧
        ∃ x ∈ srcs, isVoid t (elemBits t (lane (s.prelude.vec x.op) L) e) = true) := by
  obtain ⟨hres, h64, hrw⟩ := isResidue_of_mem_residueTags (State.mem_residueTags ht)
  obtain ⟨_, _, _, hlaid⟩ := Tag.exists_laid hres
  have hnone : ∀ l : List Src, (∀ x ∈ l, s.prelude.voidLanes t x.op (allElems t) = 0) →
      ∀ m : Mask, l.foldl (fun m x => m ||| s.prelude.voidLanes t x.op (allElems t)) m = m := fun l hl m => by
    induction l generalizing m with
    | nil => rfl
    | cons x l ih =>
      rw [List.foldl_cons, hl x List.mem_cons_self, ih fun y hy => hl y (List.mem_cons_of_mem _ hy)]
      exact BitVec.or_zero
  have hvoids : frmVt s.prelude.warp.frm = true →
      srcs.foldl (fun m x => m ||| s.prelude.voidLanes t x.op (allElems t)) 0 = 0 := fun hvt =>
    hnone srcs (fun x hx => State.voidLanes_eq_zero fun L e hm hL he => hvoid hvt x hx L e hm hL (List.mem_range.1 he)) 0
  have hsome : (s.prelude.residueTag (srcs.map (·.op))).isSome = true := by rw [ht]; rfl
  obtain rfl : (s.prelude.residueTag (srcs.map (·.op))).getD .rs8 = t := by rw [ht]; rfl
  refine ⟨_, _, State.issueNext_of_tagged _ h ⟨rfl, rfl, rfl, rfl⟩ rfl rfl rfl hsome hvoids, fun L e hL he => ?elements, ?flag⟩
  case elements =>
    rw [lane_lanesOf _ L hL, elemBits_packElems h64 hrw _ he, Nat.mod_eq_of_lt (hlaid.rencode_lt _), List.map_map]
    rfl
  case flag =>
    rw [State.getLsbD_floatFlags]
    simp only [getLsbD_foldl_or, List.map_map, Function.comp_def, BitVec.ofNat_eq_ofNat, BitVec.getLsbD_zero, Bool.false_eq_true, false_or,
      List.mem_map, exists_exists_and_eq_and, getLsbD_relem]

theorem State.rw_rencode {f : Nat → Int} {L : Nat} (hL : L < 32) :
    (lane (splitPair fun L => rencode .rw (f L)).1 L).toNat + 2 ^ 32 * (lane (splitPair fun L => rencode .rw (f L)).2 L).toNat =
      rencode .rw (f L) := by
  obtain ⟨_, _, _, hlaid⟩ := Tag.exists_laid (t := .rw) rfl
  exact splitPair_toNat hL (hlaid.rencode_lt (f L))

theorem residueArithmeticModM : Sys2Proof.Claims.ResidueArithmeticModM := by
  intro d a b da db voidFree R
  have hR : ∀ {i : Instr} {xs : List (VOp × BitVec 1)} {op : Int → Int → Int} (f : List Int → Int),
      (∀ s, exec i s = s.residue i (xs.map fun x => srcA x.1 x.2) d f) →
      (∀ g : VOp → Int, f (xs.map fun x => g x.1) = op (g ((xs.map (·.1)).getD 0 .zero)) (g ((xs.map (·.1)).getD 1 .zero))) →
      R i xs op := by
    intro i xs op f hexec hop s t ht p srcs u hvoid hgo
    obtain ⟨_, _, _, hlaid⟩ := Tag.exists_laid (isResidue_of_mem_residueTags (State.mem_residueTags ht)).1
    have hops : srcs.map (·.op) = xs.map (·.1) := List.map_map
    obtain ⟨y, fl, hnext, helems, hflag⟩ := State.residue_of_goes f (hops ▸ ht)
      (fun hvt x hx => hvoid hvt x.op (hops ▸ List.mem_map_of_mem hx)) hgo
    refine ⟨y, fl, (hexec s).trans hnext, fun L e hL he => ?_, hflag.trans ?_⟩
    · have := hop fun x => (relem t (elemBits t (lane (p.vec x) L) e)).1
      rw [helems L e hL he, List.map_map]
      exact this ▸ ⟨hlaid.isVoid_rencode _, (hlaid.rdecode_mem _).1, (hlaid.rdecode_mem _).2, hlaid.modulus_dvd_rdecode_rencode _⟩
    · have hsource : ∀ L e k (hk : k < xs.length), u k L e = elemBits t (lane (p.vec xs[k].1) L) e := fun L e k hk => by
        simp only [u, List.getD_eq_getElem?_getD, List.getElem?_map, List.getElem?_eq_getElem hk, Option.map_some, Option.getD_some]
      constructor
      · rintro ⟨L, e, hm, hL, he, x, hx, hv⟩
        obtain ⟨z, hz, rfl⟩ := List.mem_map.1 hx
        obtain ⟨k, hk, rfl⟩ := List.getElem_of_mem hz
        exact ⟨L, e, k, hm, hL, he, hk, hsource L e k hk ▸ hv⟩
      · rintro ⟨L, e, k, hm, hL, he, hk, hv⟩
        exact ⟨L, e, hm, hL, he, _, List.mem_map_of_mem (List.getElem_mem hk), hsource L e k hk ▸ hv⟩
  refine ⟨hR List.sum (fun _ => rfl) fun g => by simp, hR List.prod (fun _ => rfl) fun g => by simp,
    hR (xs := [(a, da)]) (op := fun x _ => -x) (fun xs => -xs.sum) (fun _ => rfl) fun g => by simp, ?_⟩
  intro s t ht hd hd' p srcs x acc hvoid hvoidRw hgo
  obtain ⟨_, _, _, hlaid⟩ := Tag.exists_laid (t := .rw) rfl
  have hsome : ((p.residueTag [a, b]).isSome && p.rwTagged d) = true := by simp [p, ht, State.rwTagged, hd, hd']
  have hvoids : frmVt p.warp.frm = true → p.voidLanes t a (allElems t) ||| p.voidLanes t b (allElems t) ||| p.rwVoid d = 0 := by
    intro hvt
    have hlanes : ∀ v ∈ [a, b], p.voidLanes t v (allElems t) = 0 := fun v hv => State.voidLanes_eq_zero fun L e hm hL he =>
      hvoid hvt v hv L e hm hL (List.mem_range.1 he)
    rw [hlanes a (by simp), hlanes b (by simp), State.rwVoid_eq_zero (hvoidRw hvt)]
    rfl
  obtain rfl : (p.residueTag [a, b]).getD .rs8 = t := by rw [ht]; rfl
  refine ⟨_, _, _, (exec_rmac ..).trans (State.issueNext_of_tagged _ hgo ⟨rfl, rfl, rfl, rfl⟩ rfl rfl rfl hsome hvoids), fun L hL => ?_⟩
  dsimp only
  rw [State.rw_rencode hL]
  exact ⟨hlaid.isVoid_rencode _, hlaid.modulus_dvd_rdecode_rencode _⟩

/-! ## RCRT and RENC (R150, R151) -/

/-- The nearest end of a range, as a maximum and a minimum. -/
theorem saturate_fst {r : Int × Int} (h : r.1 ≤ r.2) (x : Int) : (saturate r x).1 = max r.1 (min r.2 x) := by
  unfold saturate
  split
  · rw [min_eq_right (by omega), max_eq_left (by omega)]
  · split
    · rw [min_eq_left (by omega), max_eq_right (by omega)]
    · rw [min_eq_right (by omega), max_eq_right (by omega)]

theorem saturate_snd (r : Int × Int) (x : Int) : (saturate r x).2 = true ↔ ¬ (r.1 ≤ x ∧ x ≤ r.2) := by
  unfold saturate
  split
  · simp only [true_iff]; omega
  · split
    · simp only [true_iff]; omega
    · simp only [Bool.false_eq_true, false_iff, not_not]; omega

theorem saturate_signed32 (x : Int) : saturate (rangeOf true 32) x = clampS 32 x := rfl

theorem toInt_ofInt_clampS (x : Int) : (BitVec.ofInt 32 (clampS 32 x).1).toInt = (clampS 32 x).1 := by
  have h : -2 ^ 31 ≤ (clampS 32 x).1 ∧ (clampS 32 x).1 < 2 ^ 31 := by
    unfold clampS
    split
    · norm_num
    · split
      · norm_num
      · norm_num; omega
  rw [BitVec.toInt_ofInt, Int.bmod_eq_of_le]
  · exact h.1
  · exact h.2

/-- A code of another residue format than RW fits in a lane; a format that is none has no codes. -/
theorem rencode_lt_word {t : Tag} (hrw : t ≠ .rw) (x : Int) : rencode t x < 2 ^ 32 := by
  by_cases h : Tag.isResidue t = true
  · obtain ⟨_, _, _, hlaid⟩ := Tag.exists_laid h
    have hwidth : Tag.width t ≤ 32 := by revert h hrw; cases t <;> decide
    exact (hlaid.rencode_lt x).trans_le (Nat.pow_le_pow_right (by norm_num) hwidth)
  · have : Tag.channels t = [] := by simpa [Tag.isResidue] using h
    simp [rencode, this]

theorem residueRange_le (t : Tag) : (Tag.residueRange t).1 ≤ (Tag.residueRange t).2 := by cases t <;> decide

theorem residueToAndFromIntegers : Sys2Proof.Claims.ResidueToAndFromIntegers := by
  intro d a b da db g s p
  have hno : frmVt p.warp.frm = false → ∀ m : Mask, frmVt p.warp.frm = true → m = 0 := fun hvt _ h =>
    absurd (hvt.symm.trans h) Bool.false_ne_true
  refine ⟨fun t ht hvt hgo => ?element, fun ht ht' hvt hgo => ?pair, fun ht hgo => ?encode⟩
  case element =>
    have hsome : (p.residueTag [a]).isSome = true := by rw [ht]; rfl
    obtain rfl : (p.residueTag [a]).getD .rs8 = t := by rw [ht]; rfl
    refine ⟨_, _, (exec_rcrt ..).trans ((if_pos rfl).trans
      (State.issueNext_of_tagged _ hgo ⟨rfl, rfl, rfl, rfl⟩ rfl rfl rfl hsome (hno hvt _))), fun L hL => ?_⟩
    have hpick : bits (lane (p.vec b) L) 0 3 = (lane (p.vec b) L).toNat % 8 := by simp [bits]
    rw [lane_lanesOf _ L hL, ← hpick]
    dsimp only
    split <;> rfl
  case pair =>
    have htagged : p.rwTagged a = true := by simp [State.rwTagged, p, ht, ht']
    refine ⟨_, _, (exec_rcrt ..).trans ((if_neg (by decide)).trans
      (State.issueNext_of_tagged _ hgo ⟨rfl, rfl, rfl, rfl⟩ rfl rfl rfl htagged (hno hvt _))), fun L hL => ?_⟩
    rw [lane_lanesOf _ L hL]
    dsimp only
    rw [saturate_signed32]
    exact toInt_ofInt_clampS _
  case encode =>
    intro v
    have htag : ((p.srcTag a).getD .i32 == .i32) = true := beq_iff_eq.2 ht
    refine ⟨_, _, _, (exec_renc ..).trans (State.issueNext_of_tagged _ hgo ⟨rfl, rfl, rfl, rfl⟩ rfl rfl rfl htag fun _ => rfl), ?high,
      fun L hL => ?value⟩
    case high => split <;> simp [*]
    case value =>
      have hsat : (saturate (Tag.residueRange g) (lane (p.vec a) L).toInt).1 = v L := saturate_fst (residueRange_le g) _
      by_cases hg : g = .rw
      · subst hg
        rw [if_pos rfl, ← hsat]
        exact State.rw_rencode hL
      · rw [if_neg hg]
        simp only [splitPair, lane_lanesOf _ L hL, BitVec.toNat_ofNat, Nat.mod_eq_of_lt (rencode_lt_word hg _)]
        exact congrArg (rencode g) hsat

/-- Settles O11: the channels of a code are its integer's remainders, from which the weights of the Chinese remainder theorem give it back
modulo M. -/
theorem residueCodesAndArithmetic : Obligations.ResidueCodesAndArithmetic :=
  ⟨residueCodesInvert, residueArithmeticModM, residueToAndFromIntegers⟩

end Sys2Proof.Machine
end

section
/-! Rounding to a scale of values: to nearest, inward and outward (R79, R84), and of a number to whole units. -/

namespace Sys2Proof.Machine
open Sys2Proof.Claims

/-! ## Rounding a magnitude to a scale -/

/-- Whether a magnitude rounds up in mode k: it lies by below over one value of a scale and by above under the next; odd tells that the
number of the lower one is odd. -/
def RoundsUp (k : Nat) (neg : Bool) (below above : ℚ) (odd : Prop) : Prop :=
  match k with
  | 0 => above < below ∨ (above = below ∧ odd)
  | 1 => False
  | 2 => 0 < below ∧ neg = false
  | _ => 0 < below ∧ neg = true

/-- Value r of the scale g is what the magnitude x, which lies from value i on and below the next, rounds to in mode k. -/
structure Rounded (k : Nat) (neg : Bool) (x : ℚ) (g : Nat → ℚ) (i r : Nat) : Prop where
  le : g i ≤ x
  lt : x < g (i + 1)
  up : RoundsUp k neg (x - g i) (g (i + 1) - x) (i % 2 = 1) → r = i + 1
  down : ¬ RoundsUp k neg (x - g i) (g (i + 1) - x) (i % 2 = 1) → r = i

/-- The modes that round a magnitude of this sign toward zero, and those that round it away from zero. -/
def inward (k : Nat) (neg : Bool) : Prop := k = 1 ∨ (k = 2 ∧ neg = true) ∨ (k = 3 ∧ neg = false)

def outward (k : Nat) (neg : Bool) : Prop := (k = 2 ∧ neg = false) ∨ (k = 3 ∧ neg = true)

theorem mode_cases {k : Nat} (hk : k < 4) (neg : Bool) : k = 0 ∨ inward k neg ∨ outward k neg := by
  unfold inward outward
  cases neg <;> simp <;> omega

theorem RoundsUp.scale {k : Nat} {neg : Bool} {below above c : ℚ} {odd : Prop} (hc : 0 < c) :
    RoundsUp k neg (below * c) (above * c) odd ↔ RoundsUp k neg below above odd := by
  unfold RoundsUp
  split <;> simp [hc, hc.ne', mul_lt_mul_iff_left₀]

theorem RoundsUp.below_pos {k : Nat} {neg : Bool} {below above : ℚ} {odd : Prop} (h : RoundsUp k neg below above odd) (ha : 0 < above) :
    0 < below := by
  unfold RoundsUp at h
  split at h
  · rcases h with h | ⟨h, -⟩ <;> linarith
  · exact h.elim
  · exact h.1
  · exact h.1

section
variable {k : Nat} {neg : Bool} {x : ℚ} {g : Nat → ℚ} {i r : Nat} (h : Rounded k neg x g i r)
include h

theorem Rounded.eq_or_eq : r = i ∨ r = i + 1 := by
  by_cases hup : RoundsUp k neg (x - g i) (g (i + 1) - x) (i % 2 = 1)
  · exact .inr (h.up hup)
  · exact .inl (h.down hup)

/-- A value of the scale rounds to itself. -/
theorem Rounded.eq_of_exact (hx : g i = x) : r = i :=
  h.down fun hup => absurd (hup.below_pos (sub_pos.2 h.lt)) (by simp [hx])

theorem Rounded.exact_iff : g r = x ↔ g i = x := by
  constructor
  · intro hr
    rcases h.eq_or_eq with rfl | rfl
    · exact hr
    · exact absurd hr h.lt.ne'
  · intro hx
    rw [h.eq_of_exact hx, hx]

theorem Rounded.eq_of_inward (hm : inward k neg) : r = i := by
  refine h.down ?_
  rcases hm with rfl | ⟨rfl, rfl⟩ | ⟨rfl, rfl⟩ <;> simp [RoundsUp]

theorem Rounded.eq_of_outward (hm : outward k neg) (hx : g i ≠ x) : r = i + 1 := by
  have hpos : 0 < x - g i := sub_pos.2 (lt_of_le_of_ne h.le hx)
  refine h.up ?_
  rcases hm with ⟨rfl, rfl⟩ | ⟨rfl, rfl⟩
  · exact ⟨hpos, rfl⟩
  · exact ⟨hpos, rfl⟩

theorem Rounded.congr {c : ℚ} {f : Nat → ℚ} {j s : Nat} (hc : 0 < c) (hi : f j = g i * c) (hi' : f (j + 1) = g (i + 1) * c)
    (hodd : j % 2 = i % 2) (hs : s + i = r + j) : Rounded k neg (x * c) f j s := by
  have hup : RoundsUp k neg (x * c - f j) (f (j + 1) - x * c) (j % 2 = 1) ↔ RoundsUp k neg (x - g i) (g (i + 1) - x) (i % 2 = 1) := by
    rw [hi, hi', hodd, ← sub_mul, ← sub_mul, RoundsUp.scale hc]
  refine ⟨hi ▸ mul_le_mul_of_nonneg_right h.le hc.le, hi' ▸ mul_lt_mul_of_pos_right h.lt hc, fun hu => ?_, fun hd => ?_⟩
  · have := h.up (hup.1 hu); omega
  · have := h.down (hd ∘ hup.2); omega

variable (hg : StrictMono g)
include hg

/-- Rounding inward gives the greatest value that is no greater. -/
theorem Rounded.inward_spec (hm : inward k neg) : g r ≤ x ∧ ∀ c, g c ≤ x → g c ≤ g r := by
  rw [h.eq_of_inward hm]
  exact ⟨h.le, fun c hc => hg.monotone (Nat.lt_succ_iff.1 (hg.lt_iff_lt.1 (hc.trans_lt h.lt)))⟩

/-- Rounding outward gives the least value that is no less. -/
theorem Rounded.outward_spec (hm : outward k neg) : x ≤ g r ∧ ∀ c, x ≤ g c → g r ≤ g c := by
  by_cases hx : g i = x
  · rw [h.eq_of_exact hx, hx]
    exact ⟨le_rfl, fun _ hc => hc⟩
  · rw [h.eq_of_outward hm hx]
    exact ⟨h.lt.le, fun c hc => hg.monotone (hg.lt_iff_lt.1 ((lt_of_le_of_ne h.le hx).trans_le hc))⟩

/-- Rounding to nearest gives a value that none is nearer than, and an even one where another is as near. -/
theorem Rounded.nearest_spec (hm : k = 0) (c : Nat) : |g r - x| ≤ |g c - x| ∧ (|g r - x| = |g c - x| → g c ≠ g r → r % 2 = 0) := by
  subst hm
  have hlo := sub_nonneg.2 h.le
  have hhi := sub_pos.2 h.lt
  have hfar : g c ≤ g i ∧ x - g i ≤ |g c - x| ∧ (x - g i = |g c - x| → g c = g i) ∨
      g (i + 1) ≤ g c ∧ g (i + 1) - x ≤ |g c - x| ∧ (g (i + 1) - x = |g c - x| → g c = g (i + 1)) := by
    rcases (Nat.lt_or_ge i c).symm.imp (fun hc => hg.monotone hc) fun hc => hg.monotone (Nat.succ_le_of_lt hc) with hc | hc
    · rw [abs_of_nonpos (by linarith)]
      exact .inl ⟨hc, by linarith, fun _ => by linarith⟩
    · rw [abs_of_nonneg (by linarith)]
      exact .inr ⟨hc, by linarith, fun _ => by linarith⟩
  by_cases hup : RoundsUp 0 neg (x - g i) (g (i + 1) - x) (i % 2 = 1)
  · rw [h.up hup, abs_of_pos hhi]
    rcases hfar with ⟨-, hd, -⟩ | ⟨-, hd, heq⟩
    · rcases hup with hnear | ⟨heven, hodd⟩
      · exact ⟨by linarith, fun heq => by linarith⟩
      · exact ⟨by linarith, fun _ _ => by omega⟩
    · exact ⟨hd, fun he hne => absurd (heq he) hne⟩
  · have hle : x - g i ≤ g (i + 1) - x := not_lt.1 fun hlt => hup (.inl hlt)
    rw [h.down hup, abs_sub_comm, abs_of_nonneg hlo]
    rcases hfar with ⟨-, hd, heq⟩ | ⟨-, hd, -⟩
    · exact ⟨hd, fun he hne => absurd (heq he) hne⟩
    · refine ⟨hle.trans hd, fun he _ => ?_⟩
      have : ¬ i % 2 = 1 := fun hodd => hup (.inr ⟨by linarith, hodd⟩)
      omega

/-- Where the result lies beyond value n of the scale. -/
theorem Rounded.lt_iff_of_inward (hm : inward k neg) (n : Nat) : n < r ↔ g (n + 1) ≤ x := by
  rw [h.eq_of_inward hm]
  exact ⟨fun hn => (hg.monotone hn).trans h.le, fun hx => Nat.lt_of_succ_lt_succ (hg.lt_iff_lt.1 (hx.trans_lt h.lt))⟩

theorem Rounded.lt_iff_of_outward (hm : outward k neg) (n : Nat) : n < r ↔ g n < x := by
  obtain ⟨hle, hleast⟩ := h.outward_spec hg hm
  exact ⟨fun hn => lt_of_not_ge fun hx => (hg hn).not_ge (hleast n hx), fun hx => hg.lt_iff_lt.1 (hx.trans_le hle)⟩

theorem Rounded.lt_iff_of_nearest (hm : k = 0) (n : Nat) :
    n < r ↔ g (n + 1) - x < x - g n ∨ (g (n + 1) - x = x - g n ∧ n % 2 = 1) := by
  subst hm
  rcases Nat.lt_trichotomy i n with hlt | rfl | hgt
  · have hr : ¬ n < r := by have := h.eq_or_eq; omega
    have := hg.monotone (show i + 1 ≤ n from hlt)
    have := hg (Nat.lt_succ_self n)
    have := h.lt
    simp only [hr, false_iff, not_or, not_and]
    exact ⟨by linarith, fun _ => by linarith⟩
  · constructor
    · intro hr
      by_contra hup
      exact hr.ne' (h.down hup)
    · intro hup
      rw [h.up hup]
      exact Nat.lt_succ_self _
  · have hr : n < r := by have := h.eq_or_eq; omega
    have := hg.monotone (show n + 1 ≤ i from hgt)
    have := hg (Nat.lt_succ_self n)
    have := h.le
    exact iff_of_true hr (.inl (by linarith))

end

/-! ## Rounding to whole units -/

/-- Nothing rounds up that lies on a value. -/
theorem roundsUp_exact (k : Nat) (neg : Bool) (n : Nat) : roundsUp k neg n false .lt = false := by
  unfold roundsUp
  split <;> rfl

/-- A remainder of p bits beside half a unit. -/
def besideHalf (p r : Nat) : Ordering := if r < 2 ^ (p - 1) then .lt else if 2 ^ (p - 1) < r then .gt else .eq

/-- A number in units of 2^p: the quotient, or the next number, and whether a remainder is left. -/
theorem roundUnits_of_lt (k : Nat) (neg : Bool) (m : Nat) {e q : Int} {p : Nat} (hqe : ¬ q ≤ e) (hp : q - e = p) :
    roundUnits k neg m e q false =
      (if roundsUp k neg (m / 2 ^ p) (m % 2 ^ p != 0) (besideHalf p (m % 2 ^ p)) then m / 2 ^ p + 1 else m / 2 ^ p, m % 2 ^ p != 0) := by
  simp [roundUnits, hqe, hp, besideHalf] <;> rfl

/-- The model's test on a remainder of p bits is that of its distances below and above. -/
theorem roundsUp_iff (k : Nat) (neg : Bool) (n : Nat) {p : Nat} (r : Nat) (hp : p ≠ 0) :
    roundsUp k neg n (r != 0) (besideHalf p r) = true ↔ RoundsUp k neg (r : ℚ) (2 ^ p - r : ℚ) (n % 2 = 1) := by
  obtain ⟨j, rfl⟩ := Nat.exists_eq_succ_of_ne_zero hp
  have hpow : (2 : ℚ) ^ (j + 1) = 2 * (2 ^ j : Nat) := by push_cast; ring
  rw [Nat.succ_eq_add_one, besideHalf, Nat.add_sub_cancel, hpow]
  match k with
  | 0 =>
    rcases Nat.lt_trichotomy r (2 ^ j) with hlt | rfl | hgt
    · have : (r : ℚ) < (2 ^ j : Nat) := by exact_mod_cast hlt
      simp only [roundsUp, RoundsUp, hlt, if_true, Bool.false_eq_true, false_iff, not_or, not_and]
      exact ⟨by linarith, fun _ => by linarith⟩
    · simp only [roundsUp, RoundsUp, lt_irrefl, if_false, beq_iff_eq]
      exact ⟨fun hn => .inr ⟨by ring, hn⟩, fun h => h.elim (fun h => by linarith) And.right⟩
    · have : ((2 ^ j : Nat) : ℚ) < r := by exact_mod_cast hgt
      simp only [roundsUp, RoundsUp, hgt, hgt.not_gt, if_true, if_false, true_iff]
      exact .inl (by linarith)
  | 1 => simp [roundsUp, RoundsUp]
  | 2 => simp [roundsUp, RoundsUp, Nat.pos_iff_ne_zero]
  | k + 3 => simp [roundsUp, RoundsUp, Nat.pos_iff_ne_zero]

/-- roundUnits rounds m·2^e / 2^q to a whole number, and tells whether that changes it. -/
theorem roundUnits_rounded (k : Nat) (neg : Bool) (m : Nat) (e q : Int) :
    ∃ n, Rounded k neg (m * 2 ^ (e - q)) (fun n => (n : ℚ)) n (roundUnits k neg m e q false).1 ∧
      ((roundUnits k neg m e q false).2 = true ↔ (n : ℚ) ≠ m * 2 ^ (e - q)) := by
  by_cases hqe : q ≤ e
  case pos =>
    obtain ⟨p, hp⟩ := Int.eq_ofNat_of_zero_le (sub_nonneg.2 hqe)
    have hx : (m : ℚ) * 2 ^ (e - q) = (m * 2 ^ p : Nat) := by rw [hp]; push_cast; rfl
    have hr : roundUnits k neg m e q false = (m * 2 ^ p, false) := by
      simp [roundUnits, hqe, roundsUp_exact, hp]
    rw [hr, hx]
    refine ⟨m * 2 ^ p, ⟨le_rfl, by push_cast; linarith, fun hup => ?_, fun _ => rfl⟩, by simp⟩
    exact absurd (hup.below_pos (by push_cast; linarith)) (by simp)
  case neg =>
    obtain ⟨p, hp⟩ := Int.eq_ofNat_of_zero_le (show 0 ≤ q - e by omega)
    have hp0 : p ≠ 0 := by rintro rfl; simp at hp; omega
    have hpow : (0 : ℚ) < 2 ^ p := by positivity
    have hx : (m : ℚ) * 2 ^ (e - q) * 2 ^ p = m := by
      rw [mul_assoc, ← zpow_natCast, ← zpow_add₀ (by norm_num), show e - q + (p : Int) = 0 by omega, zpow_zero, mul_one]
    have hdiv : (m : ℚ) = (m / 2 ^ p : Nat) * 2 ^ p + (m % 2 ^ p : Nat) := by
      exact_mod_cast (Nat.div_add_mod' m (2 ^ p)).symm
    have hmod : ((m % 2 ^ p : Nat) : ℚ) < 2 ^ p := by exact_mod_cast Nat.mod_lt m (Nat.two_pow_pos p)
    have hup : RoundsUp k neg (m * 2 ^ (e - q) - (m / 2 ^ p : Nat)) ((m / 2 ^ p + 1 : Nat) - m * 2 ^ (e - q)) (m / 2 ^ p % 2 = 1) ↔
        RoundsUp k neg (m % 2 ^ p : Nat) (2 ^ p - (m % 2 ^ p : Nat)) (m / 2 ^ p % 2 = 1) := by
      rw [← RoundsUp.scale hpow, sub_mul, sub_mul, hx]
      push_cast
      congr! 1 <;> linarith
    have hiff := roundsUp_iff k neg (m / 2 ^ p) (m % 2 ^ p) hp0
    rw [roundUnits_of_lt k neg m hqe hp]
    refine ⟨m / 2 ^ p, ⟨?le, ?lt, fun h => if_pos (hiff.2 (hup.1 h)), fun h => if_neg fun h' => h (hup.2 (hiff.1 h'))⟩, ?exact⟩
    case le =>
      refine le_of_mul_le_mul_right ?_ hpow
      rw [hx]
      linarith [Nat.cast_nonneg (α := ℚ) (m % 2 ^ p)]
    case lt =>
      refine lt_of_mul_lt_mul_right ?_ hpow.le
      rw [hx]
      push_cast at hdiv hmod ⊢
      linarith
    case exact =>
      rw [← (mul_left_injective₀ hpow.ne').ne_iff, hx, hdiv]
      simp

end Sys2Proof.Machine
end

section
/-! Conversions, tags and moves (R84, R152 to R154). -/

namespace Sys2Proof.Machine
open Sys2Proof.Claims

/-! ## Rounding to an integer (R84) -/

section
variable {k : Nat} {neg : Bool} {x : ℚ} {i r : Nat} (h : Rounded k neg x (fun n => (n : ℚ)) i r)
include h

theorem Rounded.near : x - 1 < r ∧ (r : ℚ) < x + 1 := by
  have hle := h.le
  have hlt := h.lt
  push_cast at hlt
  rcases h.eq_or_eq with rfl | rfl
  · exact ⟨by linarith, by linarith⟩
  · have hne : (i : ℚ) ≠ x := fun hx => absurd (h.eq_of_exact hx) (by omega)
    have := lt_of_le_of_ne hle hne
    push_cast
    exact ⟨by linarith, by linarith⟩

/-- The nearest integer is half a unit away at most, and even where it is half a unit away. -/
theorem Rounded.half (hm : k = 0) : |(r : ℚ) - x| ≤ 1 / 2 ∧ (|(r : ℚ) - x| = 1 / 2 → r % 2 = 0) := by
  have hmono : StrictMono fun n : Nat => (n : ℚ) := Nat.strictMono_cast
  have hle := h.le
  have hlt := h.lt
  obtain ⟨hlow, hlowTie⟩ := h.nearest_spec hmono hm i
  obtain ⟨hhigh, hhighTie⟩ := h.nearest_spec hmono hm (i + 1)
  push_cast at hlt hlowTie hhigh hhighTie
  rw [abs_sub_comm (i : ℚ), abs_of_nonneg (sub_nonneg.2 hle)] at hlow hlowTie
  rw [abs_of_pos (sub_pos.2 hlt)] at hhigh hhighTie
  refine ⟨by linarith, fun htie => ?_⟩
  rcases h.eq_or_eq with rfl | rfl
  · exact hhighTie (by linarith) (by linarith)
  · exact hlowTie (by linarith) (by push_cast; linarith)

/-- R79 and R84: the four modes on a number of either sign. -/
theorem Rounded.roundsTo (hx : 0 ≤ x) : RoundsTo k ((if neg then -1 else 1) * x) (if neg then -(r : Int) else r) := by
  have hmono : StrictMono fun n : Nat => (n : ℚ) := Nat.strictMono_cast
  have hr : (0 : ℚ) ≤ r := Nat.cast_nonneg r
  obtain ⟨hlow, hhigh⟩ := h.near
  have hin : inward k neg → (r : ℚ) ≤ x := fun hm => (h.inward_spec hmono hm).1
  have hout : outward k neg → x ≤ r := fun hm => (h.outward_spec hmono hm).1
  have hdist : |((if neg then -(r : Int) else r : Int) : ℚ) - (if neg then -1 else 1) * x| = |(r : ℚ) - x| := by
    cases neg
    · simp
    · simp only [if_true]; push_cast; rw [← abs_neg]; congr 1; ring
  refine ⟨fun hm => ⟨hdist ▸ (h.half hm).1, fun htie => ?_⟩, fun hm => ?_, fun hm => ?_, fun hm => ?_⟩
  · have := (h.half hm).2 (hdist ▸ htie)
    split <;> omega
  · have := hin (.inl hm)
    cases neg
    · simp only [Bool.false_eq_true, if_false, one_mul, Int.cast_natCast, abs_of_nonneg hr, abs_of_nonneg hx]
      exact ⟨this, by linarith, mul_nonneg hr hx⟩
    · simp only [if_true, neg_mul, one_mul, Int.cast_neg, Int.cast_natCast, abs_neg, abs_of_nonneg hr, abs_of_nonneg hx, mul_neg, neg_neg]
      exact ⟨this, by linarith, mul_nonneg hr hx⟩
  · cases neg
    · have := hout (.inl ⟨hm, rfl⟩)
      simpa using ⟨this, by linarith⟩
    · have := hin (.inr (.inl ⟨hm, rfl⟩))
      simp only [if_true]
      push_cast
      exact ⟨by linarith, by linarith⟩
  · cases neg
    · have := hin (.inr (.inr ⟨hm, rfl⟩))
      simpa using ⟨this, by linarith⟩
    · have := hout (.inr ⟨hm, rfl⟩)
      simp only [if_true]
      push_cast
      exact ⟨by linarith, by linarith⟩

end

/-- R84: a finite value rounded to an integer of its sign, and whether that changes it. -/
theorem roundUnits_roundsTo (k : Nat) (neg : Bool) (m : Nat) (e : Int) :
    let u := roundUnits k neg m e 0 false
    let n : Int := if neg then -(u.1 : Int) else u.1
    RoundsTo k (val (.num neg m e false)) n ∧ (u.2 = true ↔ (n : ℚ) ≠ val (.num neg m e false)) := by
  intro u n
  obtain ⟨i, hround, hinexact⟩ := roundUnits_rounded k neg m e 0
  rw [sub_zero] at hround hinexact
  have hval : val (.num neg m e false) = (if neg then -1 else 1) * (m * 2 ^ e) := mul_assoc _ _ _
  rw [hval]
  refine ⟨hround.roundsTo (by positivity), hinexact.trans (hround.exact_iff.symm.not.trans ?_)⟩
  cases neg <;> simp [n, u]

/-! ## Delivery to integer and residue formats (Table 5-6) -/

/-- Table 5-5 and Table 5-7. -/
def integerRanges : List (Tag × Int × Int) :=
  [(.i32, -2 ^ 31, 2 ^ 31 - 1), (.n32, 0, 2 ^ 32 - 1), (.i16, -32768, 32767), (.n16, 0, 65535), (.i8, -128, 127), (.n8, 0, 255),
    (.i4, -8, 7), (.n4, 0, 15), (.i2, -2, 1), (.n1, 0, 1), (.rs6, -15, 14), (.rp6, 0, 29), (.rs8, -52, 52), (.rp8, 0, 104),
    (.rs12, -1560, 1559), (.rp12, 0, 3119), (.rs16, -16368, 16367), (.rp16, 0, 32735)]

theorem integerRanges_spec : ∀ p ∈ integerRanges, p.2.1 ≤ 0 ∧ 0 ≤ p.2.2 ∧ 0 < Tag.width p.1 ∧
    if Tag.isResidue p.1 then Tag.residueRange p.1 = p.2 else Tag.isInt p.1 = true ∧ rangeOf (Tag.signed p.1) (Tag.width p.1) = p.2 := by
  decide

/-- An integer in range, wrapped to its width, is read back. -/
theorem intOf_wrap {signed : Bool} {w : Nat} (hw : 0 < w) {n : Int} (hlo : (rangeOf signed w).1 ≤ n) (hhi : n ≤ (rangeOf signed w).2) :
    intOf signed w (wrap w n) = n ∧ wrap w n < 2 ^ w := by
  obtain ⟨j, rfl⟩ := Nat.exists_eq_succ_of_ne_zero hw.ne'
  have hpos : (0 : Int) < 2 ^ j := by positivity
  have hwrap : (wrap (j + 1) n : Int) = n % (2 * 2 ^ j) := by
    rw [wrap, Int.toNat_of_nonneg (Int.emod_nonneg _ (by positivity)), pow_succ', Nat.cast_mul, Nat.cast_pow]
    rfl
  have hcast : ((2 ^ j : Nat) : Int) = 2 ^ j := by push_cast; rfl
  have hlt : wrap (j + 1) n < 2 ^ (j + 1) := by
    have := Int.emod_lt_of_pos n (show (0 : Int) < 2 * 2 ^ j by positivity)
    zify
    rw [hwrap, pow_succ']
    exact this
  refine ⟨?_, hlt⟩
  cases signed with
  | false =>
    simp only [rangeOf, Bool.false_eq_true, if_false, Nat.succ_eq_add_one, pow_succ', Nat.cast_mul, hcast] at hlo hhi
    simp only [intOf, Bool.false_eq_true, false_and, if_false, Nat.succ_eq_add_one, hwrap]
    exact Int.emod_eq_of_lt hlo (by push_cast at hhi; omega)
  | true =>
    simp only [rangeOf, if_true, Nat.succ_eq_add_one, Nat.add_sub_cancel, hcast] at hlo hhi
    have hge : 2 ^ j ≤ wrap (j + 1) n ↔ (2 : Int) ^ j ≤ n % (2 * 2 ^ j) := by rw [← hwrap, ← hcast]; exact Int.ofNat_le.symm
    simp only [intOf, true_and, Nat.succ_eq_add_one, Nat.add_sub_cancel, hge, hwrap, pow_succ' (2 : Int)]
    rcases lt_or_ge n 0 with hneg | hnonneg
    · rw [← Int.add_emod_right, Int.emod_eq_of_lt (by omega) (by omega), if_pos (by omega)]
      omega
    · rw [Int.emod_eq_of_lt hnonneg (by omega), if_neg (by omega)]

/-- An element of a residue or an integer format reads as the integer n. -/
def Reads (g : Tag) (u : Nat) (n : Int) : Prop :=
  if Tag.isResidue g then isVoid g u = false ∧ rdecode g u = n else intOf (Tag.signed g) (Tag.width g) u = n ∧ u < 2 ^ Tag.width g

/-- Table 5-6: what is delivered to an integer or a residue format reads as the integer in its range, with its flags. -/
theorem convertTo_reads {g : Tag} {lo hi n : Int} {k : Nat} {x : Source} {fl : Word} (hg : (g, lo, hi) ∈ integerRanges)
    (hto : toRange (lo, hi) k x = (n, fl)) (hlo : lo ≤ n) (hhi : n ≤ hi) : (convertTo g k x).2 = fl ∧ Reads g (convertTo g k x).1 n := by
  obtain ⟨-, -, hwidth, hrange⟩ := integerRanges_spec _ hg
  dsimp only at hwidth hrange
  by_cases hres : Tag.isResidue g = true
  · rw [if_pos hres] at hrange
    obtain ⟨_, _, _, hlaid⟩ := Tag.exists_laid hres
    simp only [convertTo, Reads, hres, if_true, hrange, hto]
    exact ⟨trivial, hlaid.isVoid_rencode n, hlaid.rdecode_rencode n (hrange ▸ hlo) (hrange ▸ hhi)⟩
  · rw [if_neg hres] at hrange
    obtain ⟨hint, hrange⟩ := hrange
    simp only [convertTo, Reads, if_neg hres, hint, if_true, hrange, hto]
    exact ⟨trivial, intOf_wrap hwidth (hrange ▸ hlo) (hrange ▸ hhi)⟩

theorem saturate_mem {lo hi : Int} (h : lo ≤ hi) (x : Int) : lo ≤ (saturate (lo, hi) x).1 ∧ (saturate (lo, hi) x).1 ≤ hi := by
  rw [saturate_fst h]
  exact ⟨le_max_left _ _, max_le h (min_le_left _ _)⟩

/-- Table 5-6: a finite value goes to the nearest end of the range from the integer that it rounds to. -/
theorem toRange_num {lo hi : Int} (h : lo ≤ hi) (k : Nat) (neg : Bool) (m : Nat) (e : Int) :
    ∃ n, RoundsTo k (val (.num neg m e false)) n ∧ toRange (lo, hi) k (.float (.num neg m e false)) = (max lo (min hi n),
      if lo ≤ n ∧ n ≤ hi then (if (n : ℚ) = val (.num neg m e false) then 0 else Flag.nx) else Flag.nv ||| Flag.sat) := by
  obtain ⟨hround, hinexact⟩ := roundUnits_roundsTo k neg m e
  set u := roundUnits k neg m e 0 false
  set n : Int := if neg then -(u.1 : Int) else u.1
  have hsat := saturate_snd (lo, hi) n
  refine ⟨n, hround, Prod.ext (saturate_fst h n) ?_⟩
  show (if (saturate (lo, hi) n).2 then Flag.nv ||| Flag.sat else if u.2 then Flag.nx else 0) = _
  by_cases hin : lo ≤ n ∧ n ≤ hi
  · rw [if_pos hin, if_neg (hsat.not.2 (not_not.2 hin))]
    by_cases hx : (n : ℚ) = val (.num neg m e false)
    · rw [if_pos hx, if_neg (hinexact.not.2 (not_not.2 hx))]
    · rw [if_neg hx, if_pos (hinexact.2 hx)]
  · rw [if_neg hin, if_pos (hsat.2 hin)]

/-- Table 5-6: an integer goes to the nearest end of the range. -/
theorem toRange_int {lo hi : Int} (h : lo ≤ hi) (k : Nat) (v : Int) :
    toRange (lo, hi) k (.int v) = (max lo (min hi v), if lo ≤ v ∧ v ≤ hi then 0 else Flag.sat) := by
  have hsat := saturate_snd (lo, hi) v
  refine Prod.ext (saturate_fst h v) ?_
  show (if (saturate (lo, hi) v).2 then Flag.sat else 0) = _
  by_cases hin : lo ≤ v ∧ v ≤ hi
  · rw [if_pos hin, if_neg (hsat.not.2 (not_not.2 hin))]
  · rw [if_neg hin, if_pos (hsat.2 hin)]

/-! ## CVT (R84, R152) -/

theorem exec_cvt (d a : VOp) (r : BitVec 2) (g : Tag) (da : BitVec 1) (s : State) : exec (.cvt d a r g da) s = execCvt d a r g da s := rfl

/-- An instruction that goes is well-formed. -/
theorem legal_of_goes {s : State} {u : State → Uses} (h : Goes s u) : (u s.prelude).legal = true := by
  by_contra hl
  obtain ⟨-, -, hgate⟩ := h
  have hraise : s.prelude.gate (u s.prelude) = s.prelude.raiseAll Code.illegal := if_pos (by simpa using hl)
  exact Gate.noConfusion (hgate.symm.trans hraise)

theorem ne_rw_of_cvt {d a : VOp} {r : BitVec 2} {g : Tag} {da : BitVec 1} (h : (Instr.cvt d a r g da).wellFormed = true) : g ≠ .rw := by
  rintro rfl
  have hlist : (srcOk a da && !([Tag.raw, .ix4, .ix8, .rw].contains .rw) && d.dest) = true := h
  simp at hlist

theorem convertsEachElement (d a : VOp) (r : BitVec 2) (g : Tag) (da : BitVec 1) (s : State) :
    let p := s.prelude
    let t := (p.srcTag a).getD .i32
    t ≠ .raw → t ≠ .rw → (t = .fp64 → a.evenV = true ∧ p.srcTag a 1 = some .fp64) →
    (Tag.isResidue t = true → frmVt p.warp.frm = false) →
    Goes s (fun p => { legal := (Instr.cvt d a r g da).wellFormed, srcs := [p.floatSrc a da],
                       dsts := [{ op := d, count := if g = .fp64 then 2 else 1 }] }) →
    ∃ lo hi fl, exec (.cvt d a r g da) s = .next (written p [p.floatSrc a da] { dst := d, tag := g, lo := lo, hi := hi, flags := fl }) ∧
      (∀ L e, L < 32 → e < Tag.count g → resultBits g lo hi L e =
        if e < Tag.count t then
          (convertTo g (mode p.warp.frm r.toNat) (sourceOf (p.team.book false) (p.team.book true) t (p.floatBits t a L e))).1
            % 2 ^ Tag.width g
        else 0) ∧
      ∀ k, k < 32 → (fl.getLsbD k = true ↔ ∃ L e, p.mask.getLsbD L = true ∧ L < 32 ∧ e < Tag.count g ∧ e < Tag.count t ∧
        (convertTo g (mode p.warp.frm r.toNat) (sourceOf (p.team.book false) (p.team.book true) t (p.floatBits t a L e))).2.getLsbD k = true) := by
  intro p t hraw hrw h64 hvt hgo
  have hg : g ≠ .rw := ne_rw_of_cvt (r := r) (legal_of_goes hgo)
  have htags : (t != .raw && t != .rw && (!(p.srcTag a == some .fp64) || (a.evenV && p.srcTag a 1 == some .fp64))) = true := by
    have hpair : p.srcTag a = some .fp64 → a.evenV = true ∧ p.srcTag a 1 = some .fp64 := fun h => h64 (by simp [t, h])
    by_cases h : p.srcTag a = some .fp64
    · simp [hraw, hrw, hpair h]
    · simp [hraw, hrw, h]
  have hvoids : ∀ m : Mask, frmVt p.warp.frm = true → (if Tag.isResidue t then m else 0) = 0 := fun m hon => by
    refine if_neg fun hres => ?_
    exact Bool.false_ne_true ((hvt hres).symm.trans hon)
  refine ⟨_, _, _, (exec_cvt ..).trans (State.issueNext_of_tagged _ hgo ⟨rfl, rfl, rfl, rfl⟩ rfl rfl rfl htags (hvoids _)),
    fun L e hL he => ?_, fun k hk => ?_⟩
  · rw [resultBits_floatLanes hg _ hL he]
    by_cases het : e < Tag.count t
    · exact (congrArg (fun y : Nat × Word => y.1 % 2 ^ Tag.width g) (if_pos het)).trans (if_pos het).symm
    · exact (congrArg (fun y : Nat × Word => y.1 % 2 ^ Tag.width g) (if_neg het)).trans ((Nat.zero_mod _).trans (if_neg het).symm)
  · rw [State.getLsbD_floatFlags]
    refine exists_congr fun L => exists_congr fun e => and_congr_right fun _ => and_congr_right fun _ => and_congr_right fun _ => ?_
    by_cases het : e < Tag.count t
    · exact (iff_of_eq (congrArg (fun y : Nat × Word => y.2.getLsbD k = true) (if_pos het))).trans (and_iff_right het).symm
    · exact (iff_of_eq (congrArg (fun y : Nat × Word => y.2.getLsbD k = true) (if_neg het))).trans
        ⟨fun h => absurd h (by simp), fun h => absurd h.1 het⟩

/-! ### What a source element is worth -/

theorem sourceOf_residue (b4 b8 : Nat → Nat) {t : Tag} (x : Nat) (h : Tag.isResidue t = true) :
    sourceOf b4 b8 t x = if isVoid t x then .void else .int (rdecode t x) := by
  have hix : t ≠ .ix4 ∧ t ≠ .ix8 := ⟨by rintro rfl; exact absurd h (by decide), by rintro rfl; exact absurd h (by decide)⟩
  simp [sourceOf, hix, h]

theorem sourceOf_int (b4 b8 : Nat → Nat) {t : Tag} (x : Nat) (h : Tag.isInt t = true) :
    sourceOf b4 b8 t x = .int (if Tag.signed t = true ∧ 2 ^ (Tag.width t - 1) ≤ x then (x : Int) - 2 ^ Tag.width t else x) := by
  have hix : t ≠ .ix4 ∧ t ≠ .ix8 := ⟨by rintro rfl; exact absurd h (by decide), by rintro rfl; exact absurd h (by decide)⟩
  have hres : Tag.isResidue t = false := by revert h; cases t <;> decide
  simp [sourceOf, hix, hres, h, intOf]

theorem sourceOf_float (b4 b8 : Nat → Nat) {t : Tag} (x : Nat) (h : t ∈ floatFormats.map (·.1)) :
    sourceOf b4 b8 t x = .float ((fmt t).decode x) := by
  have hkind : ∀ t ∈ floatFormats.map (·.1), t ≠ .ix4 ∧ t ≠ .ix8 ∧ Tag.isResidue t = false ∧ Tag.isInt t = false := by decide
  obtain ⟨h4, h8, hres, hint⟩ := hkind t h
  simp [sourceOf, hres, hint]

theorem conversionByElement : Sys2Proof.Claims.ConversionByElement := by
  refine ⟨convertsEachElement, fun b4 b8 t x => ?source, fun g hg k => ?float, fun g lo hi k hk hg => ?range⟩
  case source =>
    refine ⟨?_, ?_, ?_, ?_, ?_⟩
    · rintro rfl; rfl
    · rintro rfl; rfl
    · exact sourceOf_residue b4 b8 x
    · exact sourceOf_int b4 b8 x
    · exact sourceOf_float b4 b8 x
  case float =>
    have hkind : ∀ g ∈ floatFormats.map (·.1), Tag.isResidue g = false ∧ Tag.isInt g = false := by decide
    obtain ⟨hres, hint⟩ := hkind g hg
    simp [convertTo, hres, hint]
  case range =>
    intro gives
    have hg : (g, lo, hi) ∈ integerRanges := hg
    obtain ⟨hlo, hhi, -, -⟩ := integerRanges_spec _ hg
    dsimp only at hlo hhi
    have hends := hlo.trans hhi
    have key : ∀ {x n fl}, toRange (lo, hi) k x = (n, fl) → lo ≤ n → n ≤ hi → gives x n fl := convertTo_reads hg
    have hclamp : ∀ n, lo ≤ max lo (min hi n) ∧ max lo (min hi n) ≤ hi := fun n => ⟨le_max_left _ _, max_le hends (min_le_left _ _)⟩
    refine ⟨key rfl hlo hhi, key rfl hlo hhi, fun n => ?inf, fun v => ?int, fun x hx => ?num⟩
    case inf =>
      cases n
      · exact key rfl hends le_rfl
      · exact key rfl le_rfl hends
    case int => exact key (toRange_int hends k v) (hclamp v).1 (hclamp v).2
    case num =>
      cases x with
      | nan => cases hx
      | inf n => cases hx
      | num neg m e sticky =>
        obtain rfl : sticky = false := by simpa [FVal.finite] using hx
        obtain ⟨n, hround, hto⟩ := toRange_num hends k neg m e
        exact ⟨n, hround, key hto (hclamp n).1 (hclamp n).2⟩

/-! ## TAG and MOV (R153, R154) -/

theorem exec_tag (d a : VOp) (g : Tag) (da : BitVec 1) (s : State) :
    let n := if g = .fp64 ∨ g = .rw then 2 else 1
    exec (.tag d a g da) s = s.vector (.tag d a g da) [{ op := a, count := n, dead := on da }] { op := d, count := n } (fun _ => some g)
      fun s t => { dst := d, tag := t, lo := s.vec a, hi := if n = 2 then some (s.vec a 1, t) else none } := rfl

theorem exec_mov (d a : VOp) (da : BitVec 1) (s : State) : exec (.mov d a da) s = execMov d a da s := rfl

theorem exec_movD (d a : VOp) (da : BitVec 1) (s : State) : exec (.movD d a da) s = execMovD d a da s := rfl

/-- A vector instruction that accepts the tags of its sources. -/
theorem State.vector_of_goes {s : State} {i : Instr} {srcs : List Src} {dst : Src} {tags : State → Option Tag} {t : Tag}
    (f : State → Tag → Result) (ht : tags s.prelude = some t)
    (h : Goes s (fun _ => { legal := i.wellFormed, srcs := srcs, dsts := [dst] })) :
    s.vector i srcs dst tags f = .next (written s.prelude srcs (f s.prelude t)) := by
  have hsome : (tags s.prelude).isSome = true := by rw [ht]; rfl
  obtain rfl : (tags s.prelude).getD .i32 = t := by rw [ht]; rfl
  exact State.issueNext_of_tagged _ h ⟨rfl, rfl, rfl, rfl⟩ rfl rfl rfl hsome fun _ => rfl

theorem tagAndMoveKeepBits : Sys2Proof.Claims.TagAndMoveKeepBits := by
  intro d a g da s p wide two
  have hhigh : (if (if wide then 2 else 1) = 2 then some (p.vec a 1, g) else none) = if wide then some (p.vec a 1, g) else none := by
    by_cases hwide : wide <;> simp [hwide]
  refine ⟨fun h => ?_, fun h => (exec_mov ..).trans (State.vector_of_goes _ rfl h), fun h => (exec_movD ..).trans (State.vector_of_goes _ rfl h)⟩
  rw [exec_tag, State.vector_of_goes _ rfl h, ← hhigh]

/-- Settles O12: the units that a value rounds to lie within one of it on the side of the mode, and the codes of a range are read back. -/
theorem conversionsAndTags : Obligations.ConversionsAndTags := ⟨conversionByElement, tagAndMoveKeepBits⟩

end Sys2Proof.Machine
end

section
/-! Delivery to a float format (R75, R84): the magnitudes of a format as a scale over its codes, and delivery as rounding to it. -/

namespace Sys2Proof.Machine
open Sys2Proof.Claims

/-! ## The magnitudes of a format (R75, Table 5-2) -/

/-- The magnitude of a code (exponent field above fraction) in units of the least subnormal, for every number, beyond the format too. -/
def Format.units (f : Format) (c : Nat) : Nat := (c - (c / 2 ^ f.fbits - 1) * 2 ^ f.fbits) * 2 ^ (c / 2 ^ f.fbits - 1)

/-- The least subnormal. -/
def Format.least (f : Format) : ℚ := 2 ^ (1 - (f.bias : Int) - f.fbits)

/-- The magnitude of a code. -/
def Format.mag (f : Format) (c : Nat) : ℚ := f.units c * f.least

/-- The code of the largest finite value. -/
def Format.last (f : Format) : Nat := f.maxExp * 2 ^ f.fbits + f.maxFrac

/-- The formats that have a fraction and more than one exponent. -/
structure Format.Sound (f : Format) : Prop where
  one_le_fbits : 1 ≤ f.fbits
  two_le_ebits : 2 ≤ f.ebits

theorem Format.least_pos (f : Format) : 0 < f.least := by unfold Format.least; positivity

/-- A fraction n (with its leading one) of binade j. -/
theorem Format.units_binade (f : Format) {n j : Nat} (hn : n ≤ 2 * 2 ^ f.fbits) (hj : 2 ^ f.fbits ≤ n ∨ j = 0) :
    f.units (n + j * 2 ^ f.fbits) = n * 2 ^ j := by
  have hpos : 0 < 2 ^ f.fbits := Nat.two_pow_pos _
  unfold Format.units
  rw [Nat.add_mul_div_right _ _ hpos]
  rcases hn.lt_or_eq with hlt | rfl
  · have hdiv : n / 2 ^ f.fbits + j - 1 = j := by
      have : n / 2 ^ f.fbits < 2 := (Nat.div_lt_iff_lt_mul hpos).2 hlt
      have : 2 ^ f.fbits ≤ n → 1 ≤ n / 2 ^ f.fbits := fun h => (Nat.le_div_iff_mul_le hpos).2 (by rwa [one_mul])
      omega
    rw [hdiv, Nat.add_sub_cancel]
  · rw [Nat.mul_div_cancel _ hpos, show 2 + j - 1 = j + 1 by omega, ← Nat.add_mul, ← Nat.sub_mul, show 2 + j - (j + 1) = 1 by omega, pow_succ]
    ring

/-- Every code is a fraction of a binade. -/
theorem Format.exists_binade (f : Format) (c : Nat) : ∃ n, c = n + (c / 2 ^ f.fbits - 1) * 2 ^ f.fbits ∧ n + 1 ≤ 2 * 2 ^ f.fbits ∧
    (2 ^ f.fbits ≤ n ∨ c / 2 ^ f.fbits - 1 = 0) := by
  have hpos : 0 < 2 ^ f.fbits := Nat.two_pow_pos _
  have hmod := Nat.mod_lt c hpos
  have hdiv := Nat.div_add_mod' c (2 ^ f.fbits)
  rcases Nat.eq_zero_or_pos (c / 2 ^ f.fbits) with hz | hp
  · rw [hz, zero_mul] at hdiv
    exact ⟨c, by simp [hz], by omega, by simp [hz]⟩
  · obtain ⟨j, hj⟩ := Nat.exists_eq_succ_of_ne_zero hp.ne'
    rw [hj, Nat.succ_eq_add_one, Nat.add_mul, one_mul] at hdiv
    rw [hj, Nat.succ_eq_add_one, Nat.add_sub_cancel]
    exact ⟨2 ^ f.fbits + c % 2 ^ f.fbits, by omega, by omega, .inl (by omega)⟩

theorem Format.units_succ (f : Format) (c : Nat) : f.units (c + 1) = f.units c + 2 ^ (c / 2 ^ f.fbits - 1) := by
  obtain ⟨n, hc, hn, hj⟩ := f.exists_binade c
  generalize c / 2 ^ f.fbits - 1 = j at *
  subst hc
  rw [f.units_binade (by omega) hj, show n + j * 2 ^ f.fbits + 1 = n + 1 + j * 2 ^ f.fbits by omega,
    f.units_binade hn (hj.imp_left fun h => h.trans (Nat.le_succ n)), Nat.succ_mul]

theorem Format.mag_zero (f : Format) : f.mag 0 = 0 := by simp [Format.mag, Format.units]

theorem Format.mag_strictMono (f : Format) : StrictMono f.mag :=
  strictMono_nat_of_lt_succ fun c => mul_lt_mul_of_pos_right (by
    rw [f.units_succ]
    exact_mod_cast Nat.lt_add_of_pos_right (Nat.two_pow_pos _)) f.least_pos

theorem Format.mag_nonneg (f : Format) (c : Nat) : 0 ≤ f.mag c := f.mag_zero ▸ f.mag_strictMono.monotone (Nat.zero_le c)

/-- A fraction n in units of 2^q. -/
theorem Format.mag_binade (f : Format) {n j : Nat} {q : Int} (hn : n ≤ 2 * 2 ^ f.fbits) (hj : 2 ^ f.fbits ≤ n ∨ j = 0)
    (hq : q = j + (1 - (f.bias : Int) - f.fbits)) : f.mag (n + j * 2 ^ f.fbits) = n * 2 ^ q := by
  rw [Format.mag, f.units_binade hn hj, Format.least, hq, zpow_add₀ (by norm_num), zpow_natCast]
  push_cast
  ring

/-! ## Codes in an encoding -/

/-- Codes compare by their exponents, and by their fractions where these are equal. -/
theorem code_lt_iff {P a b c d : Nat} (hb : b < P) (hd : d < P) : a * P + b < c * P + d ↔ a < c ∨ a = c ∧ b < d := by
  rcases Nat.lt_trichotomy a c with h | rfl | h
  · have := Nat.mul_le_mul_right P (Nat.succ_le_of_lt h)
    rw [Nat.succ_mul] at this
    exact iff_of_true (by omega) (.inl h)
  · simp
  · have := Nat.mul_le_mul_right P (Nat.succ_le_of_lt h)
    rw [Nat.succ_mul] at this
    exact iff_of_false (by omega) (by omega)

theorem Format.maxFrac_lt (f : Format) : f.maxFrac < 2 ^ f.fbits := by
  have := Nat.two_pow_pos f.fbits
  unfold Format.maxFrac
  split <;> omega

section
variable {f : Format} (hf : f.Sound)
include hf

theorem Format.Sound.one_lt_maxExp : 1 < f.maxExp ∧ f.maxExp < 2 ^ f.ebits := by
  have : 2 ^ 2 ≤ 2 ^ f.ebits := Nat.pow_le_pow_right (by norm_num) hf.two_le_ebits
  unfold Format.maxExp
  split <;> omega

theorem Format.Sound.last_lt : f.last < 2 ^ (f.ebits + f.fbits) := by
  have := (code_lt_iff (a := f.maxExp) (c := 2 ^ f.ebits) f.maxFrac_lt (Nat.two_pow_pos f.fbits)).2 (.inl hf.one_lt_maxExp.2)
  rwa [add_zero, ← pow_add] at this

end

/-- The field below the sign bit. -/
def Format.code (f : Format) (x : Nat) : Nat := x % 2 ^ (f.ebits + f.fbits)

theorem Format.code_eq (f : Format) (x : Nat) : f.code x = x / 2 ^ f.fbits % 2 ^ f.ebits * 2 ^ f.fbits + x % 2 ^ f.fbits := by
  rw [Format.code, Nat.add_comm f.ebits, pow_add, Nat.mod_mul]
  ring

/-- The encoding of a sign and a code. -/
theorem Format.sign_add_code (f : Format) (neg : Bool) {c : Nat} (hc : c < 2 ^ (f.ebits + f.fbits)) :
    (f.sign neg + c).testBit (f.ebits + f.fbits) = neg ∧ f.code (f.sign neg + c) = c := by
  unfold Format.sign Format.code
  cases neg
  · simp [Nat.testBit_lt_two_pow hc, Nat.mod_eq_of_lt hc]
  · simp [Nat.testBit_two_pow_add_eq, Nat.testBit_lt_two_pow hc, Nat.mod_eq_of_lt hc]

/-- The encodings that are no number: an exponent of all ones, in FP8A with a fraction of all ones. -/
def Format.special (f : Format) (x : Nat) : Prop :=
  x / 2 ^ f.fbits % 2 ^ f.ebits = 2 ^ f.ebits - 1 ∧ (f.top = .infinity ∨ f.top = .fp8a ∧ x % 2 ^ f.fbits = 2 ^ f.fbits - 1)

theorem Format.decode_infinity {f : Format} {x : Nat} (htop : f.top = .infinity) (hex : x / 2 ^ f.fbits % 2 ^ f.ebits = 2 ^ f.ebits - 1) :
    f.decode x = if x % 2 ^ f.fbits = 0 then .inf (x.testBit (f.ebits + f.fbits)) else .nan := if_pos ⟨hex, htop⟩

theorem Format.decode_fp8a {f : Format} {x : Nat} (htop : f.top = .fp8a) (hex : x / 2 ^ f.fbits % 2 ^ f.ebits = 2 ^ f.ebits - 1)
    (hfr : x % 2 ^ f.fbits = 2 ^ f.fbits - 1) : f.decode x = .nan :=
  (if_neg (by simp [htop])).trans (if_pos ⟨hex, htop, hfr⟩)

theorem Format.decode_num {f : Format} {x : Nat} (h : ¬ f.special x) : f.decode x =
    if x / 2 ^ f.fbits % 2 ^ f.ebits = 0 then .num (x.testBit (f.ebits + f.fbits)) (x % 2 ^ f.fbits) (1 - (f.bias : Int) - f.fbits) false
    else .num (x.testBit (f.ebits + f.fbits)) (2 ^ f.fbits + x % 2 ^ f.fbits)
      (((x / 2 ^ f.fbits % 2 ^ f.ebits : Nat) : Int) - f.bias - f.fbits) false :=
  (if_neg fun h' => h ⟨h'.1, .inl h'.2⟩).trans (if_neg fun h' => h ⟨h'.1, .inr h'.2⟩)

theorem Format.finite_decode (f : Format) (x : Nat) : FVal.finite (f.decode x) = true ↔ ¬ f.special x := by
  constructor
  · rintro hfin ⟨hex, htop | ⟨htop, hfr⟩⟩
    · rw [Format.decode_infinity htop hex] at hfin
      split at hfin <;> cases hfin
    · rw [Format.decode_fp8a htop hex hfr] at hfin
      cases hfin
  · intro h
    rw [Format.decode_num h]
    split <;> rfl

/-- The codes beyond the last are those that are no number. -/
theorem Format.Sound.last_lt_code {f : Format} (hf : f.Sound) (x : Nat) : f.last < f.code x ↔ f.special x := by
  have hE : 2 ^ 2 ≤ 2 ^ f.ebits := Nat.pow_le_pow_right (by norm_num) hf.two_le_ebits
  have hP : 2 ^ 1 ≤ 2 ^ f.fbits := Nat.pow_le_pow_right (by norm_num) hf.one_le_fbits
  have hfr := Nat.mod_lt x (Nat.two_pow_pos f.fbits)
  have hex := Nat.mod_lt (x / 2 ^ f.fbits) (Nat.two_pow_pos f.ebits)
  rw [f.code_eq, Format.last, code_lt_iff f.maxFrac_lt hfr, Format.special, Format.maxExp, Format.maxFrac]
  generalize x / 2 ^ f.fbits % 2 ^ f.ebits = ex at *
  generalize x % 2 ^ f.fbits = fr at *
  generalize 2 ^ f.ebits = E at *
  generalize 2 ^ f.fbits = P at *
  cases f.top <;> simp only [reduceCtorEq, if_true, if_false, and_true, or_false, false_or, false_and, true_and, and_false, iff_false]
  case infinity => constructor <;> omega
  case fp8a => constructor <;> omega
  case finite => omega

/-- R75: a number has its sign and the magnitude of its code. -/
theorem Format.val_decode {f : Format} {x : Nat} (h : ¬ f.special x) :
    val (f.decode x) = (if x.testBit (f.ebits + f.fbits) then -1 else 1) * f.mag (f.code x) := by
  have hfr := Nat.mod_lt x (Nat.two_pow_pos f.fbits)
  rw [f.decode_num h, f.code_eq]
  generalize hex : x / 2 ^ f.fbits % 2 ^ f.ebits = ex
  rcases Nat.eq_zero_or_pos ex with rfl | hpos
  · have := f.mag_binade (n := x % 2 ^ f.fbits) (j := 0) (by omega) (.inr rfl) (zero_add _).symm
    rw [if_pos rfl, val, Nat.zero_mul, Nat.zero_add, mul_assoc]
    rw [Nat.zero_mul, Nat.add_zero] at this
    rw [this]
  · obtain ⟨j, rfl⟩ := Nat.exists_eq_succ_of_ne_zero hpos.ne'
    have := f.mag_binade (n := 2 ^ f.fbits + x % 2 ^ f.fbits) (j := j) (q := ((j + 1 : Nat) : Int) - f.bias - f.fbits) (by omega)
      (.inl (Nat.le_add_right _ _)) (by push_cast; ring)
    rw [if_neg hpos.ne', val, mul_assoc, ← this, Nat.succ_mul, Nat.add_right_comm, Nat.add_comm (j * 2 ^ f.fbits), Nat.add_right_comm]

end Sys2Proof.Machine
end

section
/-! Delivery to a float format is rounding on the scale of its magnitudes, with the flags and the overflow of Table 5-6 (R84). -/

namespace Sys2Proof.Machine
open Sys2Proof.Claims

/-! ## What is delivered for a code on the scale -/

/-- Delivery y of the magnitude x that code r rounds: the infinity or the largest value beyond the last code, and else the code. -/
structure Format.Delivered (f : Format) (k : Nat) (neg : Bool) (x : ℚ) (r : Nat) (y : Nat × Word) : Prop where
  infinity : f.last < r → f.top = .infinity → k = 0 ∨ outward k neg → y.1 = f.infBits neg
  largest : f.last < r → f.top ≠ .infinity ∨ ¬ (k = 0 ∨ outward k neg) → y.1 = f.maxBits neg
  overflow : f.last < r → y.2 = Flag.of ||| Flag.nx ||| if f.top = .infinity then 0 else Flag.sat
  within : r ≤ f.last → y.1 = f.sign neg + r
  exact : r ≤ f.last → f.mag r = x → y.2 = 0
  inexact : r ≤ f.last → f.mag r ≠ x → y.2 = if x < 2 ^ (1 - (f.bias : Int)) then Flag.nx ||| Flag.uf else Flag.nx

/-- The exponent and fraction fields of n units of 2^q. -/
def Format.fields (f : Format) (n : Nat) (q : Int) : Nat × Nat :=
  let carry := decide (2 ^ (f.fbits + 1) ≤ n)
  let h := if carry then n / 2 else n
  (if h < 2 ^ f.fbits then 0 else ((if carry then q + 1 else q) + f.fbits + f.bias).toNat, h % 2 ^ f.fbits)

/-- What is delivered for the fields of a rounded value. -/
def Format.place (f : Format) (k : Nat) (neg : Bool) (ex fr : Nat) (inexact tiny : Bool) : Nat × Word :=
  if f.maxExp < ex ∨ (ex = f.maxExp ∧ f.maxFrac < fr) then
    match f.top with
    | .infinity => (if k == 0 || (k == 2 && !neg) || (k == 3 && neg) then f.infBits neg else f.maxBits neg, Flag.of ||| Flag.nx)
    | _ => (f.maxBits neg, Flag.of ||| Flag.sat ||| Flag.nx)
  else (f.sign neg + ex * 2 ^ f.fbits + fr, (if inexact then Flag.nx else 0) ||| (if tiny && inexact then Flag.uf else 0))

/-- The quantum that a value with its leading bit at 2^top rounds to. -/
def Format.quantum (f : Format) (top : Int) : Int := max top (1 - (f.bias : Int)) - f.fbits

theorem Format.round_zero (f : Format) (k : Nat) (neg : Bool) (e : Int) : f.round k (.num neg 0 e false) = (f.sign neg, 0) := by
  simp [Format.round]

theorem Format.round_eq (f : Format) (k : Nat) (neg : Bool) {m : Nat} (e : Int) (hm : m ≠ 0) :
    f.round k (.num neg m e false) =
      let top : Int := (Nat.log2 m : Int) + e
      let u := roundUnits k neg m e (f.quantum top) false
      f.place k neg (f.fields u.1 (f.quantum top)).1 (f.fields u.1 (f.quantum top)).2 u.2 (decide (top < 1 - (f.bias : Int))) :=
  (if_neg fun h => hm h.1).trans rfl

/-- The fields of n units in binade j are those of the code. -/
theorem Format.fields_code (f : Format) {n j : Nat} {q : Int} (hn : n ≤ 2 * 2 ^ f.fbits) (hj : 2 ^ f.fbits ≤ n ∨ j = 0)
    (hq : q + f.fbits + f.bias = j + 1) :
    (f.fields n q).1 * 2 ^ f.fbits + (f.fields n q).2 = n + j * 2 ^ f.fbits ∧ (f.fields n q).2 < 2 ^ f.fbits := by
  have hpos := Nat.two_pow_pos f.fbits
  refine ⟨?_, Nat.mod_lt _ hpos⟩
  rcases hn.lt_or_eq with hlt | rfl
  · have hcarry : ¬ 2 ^ (f.fbits + 1) ≤ n := by rw [pow_succ']; omega
    simp only [Format.fields, hcarry, decide_false, Bool.false_eq_true, if_false, hq]
    rcases Nat.lt_or_ge n (2 ^ f.fbits) with h | h
    · obtain rfl : j = 0 := by omega
      rw [if_pos h, Nat.mod_eq_of_lt h]; omega
    · rw [if_neg h.not_gt, Nat.mod_eq_sub_mod h, Nat.mod_eq_of_lt (by omega), show ((j : Int) + 1).toNat = j + 1 by omega, Nat.succ_mul]
      omega
  · have hcarry : 2 ^ (f.fbits + 1) ≤ 2 * 2 ^ f.fbits := by rw [pow_succ']
    simp only [Format.fields, hcarry, decide_true, if_true]
    rw [Nat.mul_div_cancel_left _ (by norm_num), if_neg (lt_irrefl _), Nat.mod_self, show (q + 1 + f.fbits + f.bias).toNat = j + 2 by omega,
      Nat.add_mul]
    omega

theorem Format.place_delivered (f : Format) {k : Nat} {neg inexact tiny : Bool} {x : ℚ} {r ex fr : Nat}
    (hr : ex * 2 ^ f.fbits + fr = r) (hfr : fr < 2 ^ f.fbits) (hinexact : inexact = true ↔ f.mag r ≠ x)
    (htiny : tiny = true ↔ x < 2 ^ (1 - (f.bias : Int))) : f.Delivered k neg x r (f.place k neg ex fr inexact tiny) := by
  have hcond : f.maxExp < ex ∨ (ex = f.maxExp ∧ f.maxFrac < fr) ↔ f.last < r := by
    rw [← hr, Format.last, code_lt_iff f.maxFrac_lt hfr, @eq_comm _ ex]
  have hout : (k == 0 || (k == 2 && !neg) || (k == 3 && neg)) = true ↔ k = 0 ∨ outward k neg := by simp [outward, or_assoc]
  by_cases hlast : f.last < r
  · have hno : ¬ r ≤ f.last := hlast.not_ge
    rw [Format.place, if_pos (hcond.2 hlast)]
    cases htop : f.top
    case infinity =>
      exact ⟨fun _ _ h => if_pos (hout.2 h), fun _ h => if_neg fun h' => (h.resolve_left (not_not.2 htop)) (hout.1 h'), fun _ => by simp [htop],
        fun h => absurd h hno, fun h => absurd h hno, fun h => absurd h hno⟩
    case fp8a | finite =>
      exact ⟨fun _ h => absurd (htop.symm.trans h) (by decide), fun _ _ => rfl, fun _ => by simp [htop, Flag.of, Flag.sat, Flag.nx],
        fun h => absurd h hno, fun h => absurd h hno, fun h => absurd h hno⟩
  · rw [Format.place, if_neg (hcond.not.2 hlast), Nat.add_assoc, hr]
    refine ⟨fun h => absurd h hlast, fun h => absurd h hlast, fun h => absurd h hlast, fun _ => rfl, fun _ hx => ?_, fun _ hx => ?_⟩
    · have hexact : inexact = false := by simpa [hx] using hinexact
      simp [hexact]
    · have hno : inexact = true := hinexact.2 hx
      by_cases ht : x < 2 ^ (1 - (f.bias : Int))
      · simp [hno, ht, htiny.2 ht]
      · have hnormal : tiny = false := by simpa [ht] using htiny
        simp [hno, ht, hnormal]

/-! ## Delivery as rounding -/

/-- The leading bit of m·2^e. -/
theorem log2_bounds {m : Nat} (hm : m ≠ 0) (e : Int) :
    (2 : ℚ) ^ ((Nat.log2 m : Int) + e) ≤ m * 2 ^ e ∧ (m : ℚ) * 2 ^ e < 2 ^ ((Nat.log2 m : Int) + e + 1) := by
  have he : (0 : ℚ) < 2 ^ e := by positivity
  have hlow : ((2 ^ Nat.log2 m : Nat) : ℚ) ≤ m := by exact_mod_cast Nat.log2_self_le hm
  have hhigh : (m : ℚ) < (2 ^ (Nat.log2 m + 1) : Nat) := by exact_mod_cast Nat.lt_log2_self
  push_cast at hlow hhigh
  rw [show (Nat.log2 m : Int) + e + 1 = ((Nat.log2 m + 1 : Nat) : Int) + e by push_cast; ring, zpow_add₀ (by norm_num), zpow_add₀ (by norm_num),
    zpow_natCast, zpow_natCast]
  exact ⟨mul_le_mul_of_nonneg_right hlow he.le, mul_lt_mul_of_pos_right hhigh he⟩

/-- R84: what is delivered for a finite value is the code that its magnitude rounds to. -/
theorem Format.Sound.round_delivered {f : Format} (hf : f.Sound) (k : Nat) (neg : Bool) (m : Nat) (e : Int) :
    ∃ i r, Rounded k neg (m * 2 ^ e) f.mag i r ∧ f.Delivered k neg (m * 2 ^ e) r (f.round k (.num neg m e false)) := by
  rcases Nat.eq_zero_or_pos m with rfl | hm
  case inl =>
    have hx : ((0 : Nat) : ℚ) * 2 ^ e = 0 := by simp
    rw [hx, f.round_zero]
    refine ⟨0, 0, ⟨f.mag_zero.le, f.mag_zero.ge.trans_lt (f.mag_strictMono (Nat.lt_succ_self 0)), fun hup => ?_, fun _ => rfl⟩, ?_⟩
    · refine absurd (hup.below_pos ?_) (by simp [f.mag_zero])
      rw [sub_zero, ← f.mag_zero]
      exact f.mag_strictMono (Nat.lt_succ_self 0)
    · exact ⟨fun h => absurd h (Nat.not_lt_zero _), fun h => absurd h (Nat.not_lt_zero _), fun h => absurd h (Nat.not_lt_zero _), fun _ => rfl,
        fun _ _ => rfl, fun _ h => absurd f.mag_zero h⟩
  case inr =>
    rw [f.round_eq k neg e hm.ne']
    dsimp only
    obtain ⟨hlow, hhigh⟩ := log2_bounds hm.ne' e
    generalize (Nat.log2 m : Int) + e = top at *
    obtain ⟨j, hj⟩ := Int.eq_ofNat_of_zero_le (show 0 ≤ max top (1 - (f.bias : Int)) - (1 - (f.bias : Int)) by omega)
    have hq : f.quantum top = j + (1 - (f.bias : Int) - f.fbits) := by unfold Format.quantum; omega
    obtain ⟨n, hround, hexact⟩ := roundUnits_rounded k neg m e (f.quantum top)
    generalize roundUnits k neg m e (f.quantum top) false = u at *
    have hpow : (0 : ℚ) < 2 ^ f.quantum top := by positivity
    have hx : (m : ℚ) * 2 ^ (e - f.quantum top) * 2 ^ f.quantum top = m * 2 ^ e := by
      rw [mul_assoc, ← zpow_add₀ (by norm_num), sub_add_cancel]
    have hbinade : n + 1 ≤ 2 * 2 ^ f.fbits ∧ (2 ^ f.fbits ≤ n ∨ j = 0) := by
      have hscale : ((2 ^ f.fbits : Nat) : ℚ) * 2 ^ f.quantum top = 2 ^ (f.fbits + f.quantum top) := by
        rw [zpow_add₀ (by norm_num), zpow_natCast]; push_cast; rfl
      constructor
      · have : (n : ℚ) * 2 ^ f.quantum top < (2 * 2 ^ f.fbits : Nat) * 2 ^ f.quantum top := calc
          _ ≤ (m : ℚ) * 2 ^ e := hx ▸ mul_le_mul_of_nonneg_right hround.le hpow.le
          _ < 2 ^ (top + 1) := hhigh
          _ ≤ 2 ^ (1 + (f.fbits + f.quantum top)) := zpow_le_zpow_right₀ (by norm_num) (by omega)
          _ = _ := by rw [Nat.cast_mul, mul_assoc, hscale, zpow_add₀ (by norm_num)]; rfl
        exact_mod_cast lt_of_mul_lt_mul_right this hpow.le
      · refine or_iff_not_imp_right.2 fun hne => Nat.lt_succ_iff.1 ?_
        have : ((2 ^ f.fbits : Nat) : ℚ) * 2 ^ f.quantum top < (n + 1 : Nat) * 2 ^ f.quantum top := calc
          _ = 2 ^ (f.fbits + f.quantum top) := hscale
          _ ≤ 2 ^ top := zpow_le_zpow_right₀ (by norm_num) (by omega)
          _ ≤ (m : ℚ) * 2 ^ e := hlow
          _ < _ := hx ▸ mul_lt_mul_of_pos_right hround.lt hpow
        exact_mod_cast lt_of_mul_lt_mul_right this hpow.le
    have hmag : ∀ {u : Nat}, u ≤ 2 * 2 ^ f.fbits → 2 ^ f.fbits ≤ u ∨ j = 0 → f.mag (u + j * 2 ^ f.fbits) = u * 2 ^ f.quantum top :=
      fun hu hj => f.mag_binade hu hj hq
    have hu : u.1 = n ∨ u.1 = n + 1 := hround.eq_or_eq
    have hu' : u.1 ≤ 2 * 2 ^ f.fbits ∧ (2 ^ f.fbits ≤ u.1 ∨ j = 0) := by omega
    obtain ⟨hfields, hfr⟩ := f.fields_code (q := f.quantum top) hu'.1 hu'.2 (by omega)
    refine ⟨n + j * 2 ^ f.fbits, u.1 + j * 2 ^ f.fbits, ?_, f.place_delivered hfields hfr ?_ ?_⟩
    · rw [← hx]
      refine hround.congr hpow (hmag (by omega) hbinade.2) ?_ ?_ (by omega)
      · rw [Nat.add_right_comm]
        exact hmag hbinade.1 (hbinade.2.imp_left fun h => h.trans (Nat.le_succ n))
      · obtain ⟨b, hb⟩ := Nat.exists_eq_succ_of_ne_zero (show f.fbits ≠ 0 by have := hf.one_le_fbits; omega)
        rw [hb, Nat.succ_eq_add_one, pow_succ, ← Nat.mul_assoc, Nat.add_mul_mod_self_right]
    · rw [hmag hu'.1 hu'.2, ← hx, hexact, (mul_left_injective₀ hpow.ne').ne_iff]
      exact hround.exact_iff.symm.not
    · rw [decide_eq_true_eq]
      constructor
      · exact fun h => hhigh.trans_le (zpow_le_zpow_right₀ (by norm_num) (by omega))
      · exact fun h => (zpow_lt_zpow_iff_right₀ (by norm_num : (1 : ℚ) < 2)).1 (hlow.trans_lt h)

end Sys2Proof.Machine
end

section
/-! Delivery to the ten float formats is correctly rounded in each mode (R75, R76, R84, Tables 5-2 and 5-6). -/

namespace Sys2Proof.Machine
open Sys2Proof.Claims

/-! ## The four modes on values of either sign -/

/-- The sign of a value as a factor. -/
def signOf (neg : Bool) : ℚ := if neg then -1 else 1

theorem abs_signOf_mul (neg : Bool) (x : ℚ) : |signOf neg * x| = |x| := by cases neg <;> simp [signOf]

/-- A scale that begins at 0 has no negative values. -/
theorem scale_nonneg {g : Nat → ℚ} (hg : StrictMono g) (hzero : g 0 = 0) (r : Nat) : 0 ≤ g r := hzero ▸ hg.monotone (Nat.zero_le r)

section
variable {k : Nat} {neg : Bool} {x : ℚ} {g : Nat → ℚ} {i r : Nat} (h : Rounded k neg x g i r) (hg : StrictMono g) (hzero : g 0 = 0) (hx : 0 ≤ x)
include h hg hzero

theorem Rounded.eq_zero_of_zero (h0 : x = 0) : r = 0 := by
  have hi : i = 0 := by
    by_contra hne
    exact (h.le.trans_eq h0).not_gt (hzero ▸ hg (Nat.pos_of_ne_zero hne))
  exact (h.eq_of_exact (by rw [hi, hzero, h0])).trans hi

include hx

/-- Mode 0: no value of the scale, of either sign, is nearer, and where another is as near the result is even. -/
theorem Rounded.nearest_signed (hk : k = 0) {y : ℚ} {c : Nat} (hy : |y| = g c) :
    |signOf neg * g r - signOf neg * x| ≤ |y - signOf neg * x| ∧
      (|signOf neg * g r - signOf neg * x| = |y - signOf neg * x| → y ≠ signOf neg * g r → r % 2 = 0) := by
  obtain ⟨hle, htie⟩ := h.nearest_spec hg hk c
  have hr := scale_nonneg hg hzero r
  have hdist : |signOf neg * g r - signOf neg * x| = |g r - x| := by rw [← mul_sub, abs_signOf_mul]
  have hfar : |g c - x| ≤ |y - signOf neg * x| := by
    have := abs_abs_sub_abs_le y (signOf neg * x)
    rwa [abs_signOf_mul, hy, abs_of_nonneg hx] at this
  rw [hdist]
  refine ⟨hle.trans hfar, fun heq hne => ?_⟩
  by_cases hc : g c = g r
  · have hopp : y = -(signOf neg * g r) :=
      (abs_eq_abs.1 (by rw [hy, hc, abs_signOf_mul, abs_of_nonneg hr])).resolve_left hne
    have hsum : |y - signOf neg * x| = g r + x := by
      rw [hopp, ← neg_add', abs_neg, ← mul_add, abs_signOf_mul, abs_of_nonneg (add_nonneg hr hx)]
    rw [hsum] at heq
    rcases le_total x (g r) with hxr | hxr
    · rw [abs_of_nonneg (sub_nonneg.2 hxr)] at heq
      rw [h.eq_zero_of_zero hg hzero (by linarith)]
    · rw [abs_of_nonpos (sub_nonpos.2 hxr)] at heq
      have : r = 0 := hg.injective (by rw [hzero]; linarith)
      rw [this]
  · exact htie (le_antisymm hle (hfar.trans_eq heq.symm)) hc

/-- Mode 1: the result is no greater in magnitude, has the sign, and no such value of the scale is greater. -/
theorem Rounded.toward_zero_signed (hk : k = 1) : |signOf neg * g r| ≤ |signOf neg * x| ∧ 0 ≤ signOf neg * g r * (signOf neg * x) ∧
    ∀ (y : ℚ) (c : Nat), |y| = g c → |y| ≤ |signOf neg * x| → |y| ≤ |signOf neg * g r| := by
  obtain ⟨hle, hgreatest⟩ := h.inward_spec hg (.inl hk)
  have hr := scale_nonneg hg hzero r
  simp only [abs_signOf_mul, abs_of_nonneg hr, abs_of_nonneg hx]
  refine ⟨hle, ?_, fun y c hy hyx => hy ▸ hgreatest c (hy ▸ hyx)⟩
  cases neg <;> simp [signOf] <;> positivity

/-- Mode 2: the result is no less, and no such value of the scale is less. -/
theorem Rounded.up_signed (hk : k = 2) : signOf neg * x ≤ signOf neg * g r ∧
    ∀ (y : ℚ) (c : Nat), |y| = g c → signOf neg * x ≤ y → signOf neg * g r ≤ y := by
  have hr := scale_nonneg hg hzero r
  cases neg with
  | false =>
    obtain ⟨hle, hleast⟩ := h.outward_spec hg (.inl ⟨hk, rfl⟩)
    simp only [signOf, Bool.false_eq_true, if_false, one_mul]
    exact ⟨hle, fun y c hy hxy => (abs_of_nonneg (hx.trans hxy)) ▸ hy ▸ hleast c (hy ▸ hxy.trans (le_abs_self y))⟩
  | true =>
    obtain ⟨hle, hgreatest⟩ := h.inward_spec hg (.inr (.inl ⟨hk, rfl⟩))
    simp only [signOf, if_true, neg_mul, one_mul]
    refine ⟨neg_le_neg hle, fun y c hy hxy => ?_⟩
    rcases le_total 0 y with h0 | h0
    · linarith
    · rw [abs_of_nonpos h0] at hy
      have := hgreatest c (by linarith)
      linarith

/-- Mode 3 is mode 2 of the negated value. -/
theorem Rounded.down_signed (hk : k = 3) : signOf neg * g r ≤ signOf neg * x ∧
    ∀ (y : ℚ) (c : Nat), |y| = g c → y ≤ signOf neg * x → y ≤ signOf neg * g r := by
  subst hk
  have hneg : ∀ below above odd, RoundsUp 3 neg below above odd ↔ RoundsUp 2 (!neg) below above odd := fun _ _ _ => by simp [RoundsUp]
  have h' : Rounded 2 (!neg) x g i r := ⟨h.le, h.lt, fun hu => h.up ((hneg ..).2 hu), fun hd => h.down fun hu => hd ((hneg ..).1 hu)⟩
  have hsign : signOf (!neg) = -signOf neg := by cases neg <;> simp [signOf]
  obtain ⟨hle, hleast⟩ := h'.up_signed hg hzero hx rfl
  rw [hsign, neg_mul, neg_mul] at hle hleast
  exact ⟨neg_le_neg_iff.1 hle, fun y c hy hyx => neg_le_neg_iff.1 (hleast (-y) c (by rwa [abs_neg]) (neg_le_neg hyx))⟩

end

/-! ## The ten formats (Table 5-2) -/

/-- The distance of the largest finite value from the next one. -/
def Format.unit (f : Format) : ℚ := 2 ^ ((f.maxExp : Int) - f.bias - f.fbits)

theorem Format.Sound.mag_last {f : Format} (hf : f.Sound) :
    f.mag f.last = (2 ^ f.fbits + f.maxFrac : Nat) * f.unit ∧ f.mag (f.last + 1) = f.mag f.last + f.unit := by
  obtain ⟨j, hj⟩ := Nat.exists_eq_succ_of_ne_zero (show f.maxExp ≠ 0 by have := hf.one_lt_maxExp; omega)
  have hfrac := f.maxFrac_lt
  have hlast : f.last = 2 ^ f.fbits + f.maxFrac + j * 2 ^ f.fbits := by rw [Format.last, hj, Nat.succ_mul]; omega
  have hq : (f.maxExp : Int) - f.bias - f.fbits = j + (1 - (f.bias : Int) - f.fbits) := by rw [hj]; push_cast; ring
  have hmag := f.mag_binade (n := 2 ^ f.fbits + f.maxFrac) (by omega) (.inl (Nat.le_add_right _ _)) hq
  have hnext := f.mag_binade (n := 2 ^ f.fbits + f.maxFrac + 1) (by omega) (.inl (by omega)) hq
  rw [hlast, show ∀ a b : Nat, a + b + 1 = a + 1 + b from fun a b => by omega, hmag, hnext]
  refine ⟨rfl, ?_⟩
  unfold Format.unit
  push_cast
  ring

/-- The largest fraction is odd but in FP8A, where it is that of 448. -/
theorem Format.Sound.last_mod_two {f : Format} (hf : f.Sound) : f.last % 2 = if f.top = .fp8a then 0 else 1 := by
  obtain ⟨b, hb⟩ := Nat.exists_eq_succ_of_ne_zero (show f.fbits ≠ 0 by have := hf.one_le_fbits; omega)
  have := Nat.two_pow_pos b
  rw [Format.last, Format.maxFrac, hb, Nat.succ_eq_add_one, pow_succ, ← Nat.mul_assoc]
  split <;> omega

theorem Format.Sound.maxExp_eq {f : Format} (hf : f.Sound) : (f.maxExp : Int) = 2 ^ f.ebits - (if decide (f.top = .infinity) = true then 2 else 1) := by
  have hpow : 2 ^ 1 ≤ 2 ^ f.ebits := Nat.pow_le_pow_right (by norm_num) (by have := hf.two_le_ebits; omega)
  have hcast : ((2 ^ f.ebits : Nat) : Int) = 2 ^ f.ebits := by push_cast; rfl
  rw [Format.maxExp, ← hcast]
  by_cases h : f.top = .infinity
  · rw [if_pos h, if_pos (decide_eq_true h)]; omega
  · rw [if_neg h, if_neg (by simpa using h)]; omega

/-- Each row of the table is the format of its tag. -/
theorem floatFormats_spec {t : Tag} {eb fb bias : Nat} {most : ℚ} {infs : Bool} (h : (t, eb, fb, bias, most, infs) ∈ floatFormats) :
    (fmt t).Sound ∧ eb = (fmt t).ebits ∧ fb = (fmt t).fbits ∧ bias = (fmt t).bias ∧ most = (fmt t).mag (fmt t).last ∧
      infs = decide ((fmt t).top = .infinity) ∧ (t = .fp8a ↔ (fmt t).top = .fp8a) ∧ ((fmt t).top = .fp8a → (fmt t).fbits = 3) := by
  have hsound : ∀ t ∈ floatFormats.map (·.1), 1 ≤ (fmt t).fbits ∧ 2 ≤ (fmt t).ebits := by decide
  obtain ⟨hfbits, hebits⟩ := hsound t (List.mem_map_of_mem h)
  have hs : (fmt t).Sound := ⟨hfbits, hebits⟩
  simp only [floatFormats, List.mem_cons, Prod.mk.injEq, List.not_mem_nil, or_false] at h
  rw [hs.mag_last.1]
  rcases h with h | h
  · obtain ⟨rfl, rfl, rfl, rfl, rfl, rfl⟩ := h
    refine ⟨hs, rfl, rfl, rfl, ?_, by decide, by decide, by decide⟩
    have hbinade : (2 : ℚ) ^ 1023 = 2 ^ 52 * 2 ^ 971 := by rw [← pow_add]
    simp only [fmt, Tag.format, Format.unit, Format.maxExp, Format.maxFrac, Option.getD_some, reduceCtorEq, if_true, if_false]
    norm_num [hbinade]
    generalize (2 : ℚ) ^ 971 = z
    ring
  · rcases h with h | h | h | h | h | h | h | h | h <;> obtain ⟨rfl, rfl, rfl, rfl, rfl, rfl⟩ := h <;>
      refine ⟨hs, rfl, rfl, rfl, ?_, by decide, by decide, by decide⟩ <;>
      simp only [fmt, Tag.format, Format.unit, Format.maxExp, Format.maxFrac, Option.getD_some, reduceCtorEq, if_true, if_false] <;> norm_num

end Sys2Proof.Machine
end

section
/-! Delivery to the ten float formats, assembled: encodings, overflow, and the rounding of each mode (R75, R76, R84). -/

namespace Sys2Proof.Machine
open Sys2Proof.Claims

/-! ## Encodings of signs and codes -/

/-- The fields of an encoding are those of its code. -/
theorem Format.fields_of_code (f : Format) {x ex fr : Nat} (h : f.code x = ex * 2 ^ f.fbits + fr) (hfr : fr < 2 ^ f.fbits) :
    x / 2 ^ f.fbits % 2 ^ f.ebits = ex ∧ x % 2 ^ f.fbits = fr := by
  have hpos := Nat.two_pow_pos f.fbits
  have hlow := Nat.mod_lt x hpos
  rw [f.code_eq] at h
  have hdiv := congrArg (· / 2 ^ f.fbits) h
  have hmod := congrArg (· % 2 ^ f.fbits) h
  simp only [Nat.add_comm _ (x % _), Nat.add_comm _ fr, Nat.add_mul_div_right _ _ hpos, Nat.add_mul_mod_self_right, Nat.div_eq_of_lt hlow,
    Nat.div_eq_of_lt hfr, Nat.mod_eq_of_lt hlow, Nat.mod_eq_of_lt hfr, zero_add] at hdiv hmod
  exact ⟨hdiv, hmod⟩

theorem Format.infCode_lt (f : Format) : (2 ^ f.ebits - 1) * 2 ^ f.fbits < 2 ^ (f.ebits + f.fbits) := by
  rw [pow_add]
  exact Nat.mul_lt_mul_of_pos_right (Nat.sub_lt (Nat.two_pow_pos _) one_pos) (Nat.two_pow_pos _)

/-- Every number of the format has the magnitude of a code. -/
theorem Format.abs_val_decode {f : Format} {x : Nat} (h : FVal.finite (f.decode x) = true) : |val (f.decode x)| = f.mag (f.code x) := by
  rw [f.val_decode ((f.finite_decode x).1 h)]
  exact (abs_signOf_mul _ _).trans (abs_of_nonneg (f.mag_nonneg _))

/-- R75: the encoding of an infinity. -/
theorem Format.decode_infBits {f : Format} (neg : Bool) (htop : f.top = .infinity) :
    (f.infBits neg).testBit (f.ebits + f.fbits) = neg ∧ f.decode (f.infBits neg) = .inf neg := by
  obtain ⟨hsign, hcode⟩ := f.sign_add_code neg f.infCode_lt
  obtain ⟨hex, hfr⟩ := f.fields_of_code (fr := 0) hcode (Nat.two_pow_pos _)
  refine ⟨hsign, ?_⟩
  rw [Format.infBits, Format.decode_infinity htop hex, if_pos hfr, hsign]

/-- R75: what a number is worth by its fields. -/
theorem Format.val_decode_fields {f : Format} {x : Nat} (h : ¬ f.special x) : val (f.decode x) =
    (if x.testBit (f.ebits + f.fbits) then -1 else 1) * (if x / 2 ^ f.fbits % 2 ^ f.ebits = 0
      then ((x % 2 ^ f.fbits : Nat) : ℚ) / 2 ^ f.fbits * 2 ^ (1 - (f.bias : Int))
      else (1 + ((x % 2 ^ f.fbits : Nat) : ℚ) / 2 ^ f.fbits) * 2 ^ (((x / 2 ^ f.fbits % 2 ^ f.ebits : Nat) : Int) - f.bias)) := by
  have hpow : (2 : ℚ) ^ f.fbits ≠ 0 := by positivity
  rw [f.decode_num h]
  split <;> rw [val, zpow_sub₀ (by norm_num) _ (f.fbits : Int), zpow_natCast] <;> push_cast <;> field_simp

section
variable {f : Format} (hf : f.Sound) (neg : Bool)
include hf

/-- R75: the encoding of a sign and a code up to the last. -/
theorem Format.Sound.decode_code {c : Nat} (hc : c ≤ f.last) :
    (f.sign neg + c).testBit (f.ebits + f.fbits) = neg ∧ FVal.finite (f.decode (f.sign neg + c)) = true ∧
      val (f.decode (f.sign neg + c)) = signOf neg * f.mag c := by
  obtain ⟨hsign, hcode⟩ := f.sign_add_code neg (hc.trans_lt hf.last_lt)
  have hnum : ¬ f.special (f.sign neg + c) := fun h => ((hf.last_lt_code _).2 h).not_ge (hcode.le.trans hc)
  refine ⟨hsign, (f.finite_decode _).2 hnum, ?_⟩
  rw [f.val_decode hnum, hsign, hcode]
  rfl

theorem Format.Sound.decode_maxBits : (f.maxBits neg).testBit (f.ebits + f.fbits) = neg ∧
    FVal.finite (f.decode (f.maxBits neg)) = true ∧ val (f.decode (f.maxBits neg)) = if neg then -f.mag f.last else f.mag f.last := by
  rw [show f.maxBits neg = f.sign neg + f.last from Nat.add_assoc _ _ _]
  obtain ⟨hsign, hfin, hval⟩ := hf.decode_code neg le_rfl
  refine ⟨hsign, hfin, hval.trans ?_⟩
  cases neg <;> simp [signOf]

end

/-! ## Overflow (R84) -/

/-- A finite value is its sign times its magnitude. -/
theorem val_num (neg : Bool) (m : Nat) (e : Int) (sticky : Bool) : val (.num neg m e sticky) = signOf neg * (m * 2 ^ e) := mul_assoc _ _ _

/-- The directed mode that goes away from zero on a nonzero value. -/
theorem away_iff_outward {k : Nat} {neg : Bool} {x : ℚ} (hx : 0 < x) :
    (k = 2 ∧ 0 < signOf neg * x) ∨ (k = 3 ∧ signOf neg * x < 0) ↔ outward k neg := by
  cases neg <;> simp [signOf, outward, hx, hx.le]

/-- Where a value lies beyond the range after rounding. -/
theorem Format.Sound.beyond_iff {f : Format} (hf : f.Sound) {k : Nat} {neg : Bool} {x : ℚ} {i r : Nat} (hk : k < 4) (hx : 0 ≤ x)
    (h : Rounded k neg x f.mag i r) {away fp8a : Prop} [Decidable fp8a] (hfp8a : fp8a ↔ f.top = .fp8a)
    (haway : away ↔ (k = 2 ∧ 0 < signOf neg * x) ∨ (k = 3 ∧ signOf neg * x < 0)) :
    ((away → f.mag f.last < x) ∧ (¬ away → k = 0 → if fp8a then f.mag f.last + f.unit / 2 < x else f.mag f.last + f.unit / 2 ≤ x) ∧
      (¬ away → k ≠ 0 → f.mag f.last + f.unit ≤ x)) ↔ f.last < r := by
  have hnext := hf.mag_last.2
  have hunit : 0 < f.unit := by unfold Format.unit; positivity
  have hlast := f.mag_nonneg f.last
  rcases hx.eq_or_lt with rfl | hpos
  · have hr : ¬ f.last < r := by rw [h.eq_zero_of_zero f.mag_strictMono f.mag_zero rfl]; omega
    have hno : ¬ away := by simp [haway]
    simp only [hr, hno, IsEmpty.forall_iff, not_false_eq_true, true_and, forall_true_left, iff_false, not_and]
    intro h0 hne
    by_cases hk0 : k = 0
    · have := h0 hk0
      split at this <;> linarith
    · linarith [hne hk0]
  · rw [away_iff_outward hpos] at haway
    rcases mode_cases hk neg with rfl | hin | hout
    · have hno : ¬ away := by simp [haway, outward]
      have hodd := hf.last_mod_two
      rw [h.lt_iff_of_nearest f.mag_strictMono rfl, hnext]
      simp only [hno, IsEmpty.forall_iff, not_false_eq_true, true_and, forall_true_left, ne_eq, not_true_eq_false, and_true, hfp8a, hodd]
      by_cases h8 : f.top = .fp8a
      · simp only [h8, if_true, zero_ne_one, and_false, or_false]
        constructor <;> intro <;> linarith
      · simp only [h8, if_false, and_true]
        rw [← le_iff_lt_or_eq]
        constructor <;> intro <;> linarith
    · have hno : ¬ away := by
        rw [haway]
        rcases hin with rfl | ⟨rfl, rfl⟩ | ⟨rfl, rfl⟩ <;> simp [outward]
      have hk0 : k ≠ 0 := by rcases hin with rfl | ⟨rfl, -⟩ | ⟨rfl, -⟩ <;> decide
      rw [h.lt_iff_of_inward f.mag_strictMono hin, hnext]
      simp [hno, hk0]
    · have hyes : away := haway.2 hout
      rw [h.lt_iff_of_outward f.mag_strictMono hout]
      simp [hyes]

/-! ## Delivery within the range and beyond it -/

section
variable {f : Format} (hf : f.Sound) {k : Nat} {neg : Bool} {X x : ℚ} {i c : Nat} {r : Nat × Word}
  (hdel : f.Delivered k neg X c r)
include hf hdel

/-- R84: beyond the range the infinity or the largest value is delivered. -/
theorem Format.Sound.overflow_spec (hlast : f.last < c) : r.1.testBit (f.ebits + f.fbits) = neg ∧
    (f.top = .infinity → k = 0 ∨ outward k neg → f.decode r.1 = .inf neg) ∧
    (f.top ≠ .infinity ∨ ¬ (k = 0 ∨ outward k neg) → FVal.finite (f.decode r.1) = true ∧
      val (f.decode r.1) = if neg then -f.mag f.last else f.mag f.last) := by
  by_cases h : f.top = .infinity ∧ (k = 0 ∨ outward k neg)
  · obtain ⟨hsign, hdec⟩ := Format.decode_infBits neg h.1
    rw [hdel.infinity hlast h.1 h.2]
    exact ⟨hsign, fun _ _ => hdec, fun hno => absurd h (not_and_or.2 hno)⟩
  · obtain ⟨hsign, hdec⟩ := hf.decode_maxBits neg
    rw [hdel.largest hlast (not_and_or.1 h)]
    exact ⟨hsign, fun htop ho => absurd ⟨htop, ho⟩ h, fun _ => hdec⟩

/-- R84: within the range the value that the mode gives is delivered, with its flags. -/
theorem Format.Sound.within_spec (hround : Rounded k neg X f.mag i c) (hX : 0 ≤ X) (hx : x = signOf neg * X) (hlast : c ≤ f.last) :
    let v := val (f.decode r.1)
    let isNum (z : Nat) : Prop := FVal.finite (f.decode z) = true
    let y (z : Nat) : ℚ := val (f.decode z)
    r.1.testBit (f.ebits + f.fbits) = neg ∧ isNum r.1 ∧
      (k = 0 → ∀ z, isNum z → |v - x| ≤ |y z - x| ∧ (|v - x| = |y z - x| → y z ≠ v → r.1 % 2 = 0)) ∧
      (k = 1 → |v| ≤ |x| ∧ 0 ≤ v * x ∧ ∀ z, isNum z → |y z| ≤ |x| → |y z| ≤ |v|) ∧
      (k = 2 → x ≤ v ∧ ∀ z, isNum z → x ≤ y z → v ≤ y z) ∧ (k = 3 → v ≤ x ∧ ∀ z, isNum z → y z ≤ x → y z ≤ v) ∧
      (v = x → r.2 = 0) ∧ (v ≠ x → 2 ^ (1 - (f.bias : Int)) ≤ |x| → r.2 = Flag.nx) ∧
      (v ≠ x → |x| < 2 ^ (1 - (f.bias : Int)) → r.2 = Flag.nx ||| Flag.uf) := by
  intro v isNum y
  obtain ⟨hsign, hfin, hval⟩ := hf.decode_code neg hlast
  have hmono := f.mag_strictMono
  have hbits := hdel.within hlast
  have hv : v = signOf neg * f.mag c := by rw [← hval, ← hbits]
  have habs : |x| = X := by rw [hx, abs_signOf_mul, abs_of_nonneg hX]
  have hmag : ∀ z, isNum z → |y z| = f.mag (f.code z) := fun z hz => Format.abs_val_decode hz
  have hexact : f.mag c = X ↔ v = x := by
    rw [hv, hx]
    cases neg <;> simp [signOf]
  have hparity : c % 2 = 0 → r.1 % 2 = 0 := by
    obtain ⟨b, hb⟩ := Nat.exists_eq_succ_of_ne_zero (show f.ebits + f.fbits ≠ 0 by have := hf.one_le_fbits; omega)
    rw [hbits, Format.sign, hb, Nat.succ_eq_add_one, pow_succ]
    split <;> omega
  refine ⟨hbits ▸ hsign, by rw [← hbits] at hfin; exact hfin, fun hk z hz => ?_, fun hk => ?_, fun hk => ?_, fun hk => ?_,
    fun h => hdel.exact hlast (hexact.2 h), fun h hn => ?_, fun h ht => ?_⟩
  · obtain ⟨hle, htie⟩ := hround.nearest_signed hmono f.mag_zero hX hk (hmag z hz)
    rw [hv, hx]
    exact ⟨hle, fun heq hne => hparity (htie heq hne)⟩
  · obtain ⟨hle, hsame, hgreatest⟩ := hround.toward_zero_signed hmono f.mag_zero hX hk
    rw [hv, hx]
    exact ⟨hle, hsame, fun z hz => hgreatest _ _ (hmag z hz)⟩
  · obtain ⟨hle, hleast⟩ := hround.up_signed hmono f.mag_zero hX hk
    rw [hv, hx]
    exact ⟨hle, fun z hz => hleast _ _ (hmag z hz)⟩
  · obtain ⟨hle, hgreatest⟩ := hround.down_signed hmono f.mag_zero hX hk
    rw [hv, hx]
    exact ⟨hle, fun z hz => hgreatest _ _ (hmag z hz)⟩
  · rw [habs] at hn
    rw [hdel.inexact hlast (hexact.not.2 h), if_neg hn.not_gt]
  · rw [habs] at ht
    rw [hdel.inexact hlast (hexact.not.2 h), if_pos ht]

end

/-- Table 5-6: what is delivered for an infinity. -/
theorem Format.round_inf (f : Format) (k : Nat) (neg : Bool) :
    f.round k (.inf neg) = if f.top = .infinity then (f.infBits neg, 0) else (f.maxBits neg, Flag.sat) := rfl

/-! ## The obligation -/

/-- R76: the canonical NaN of each format; a format without NaN delivers +0 (Table 5-6). -/
def canonicalNaNs : List (Tag × Nat) :=
  [(.fp64, 0x7FF8000000000000), (.fp32, 0x7FC00000), (.fp19, 0x3FE00), (.bf16, 0x7FC0), (.fp16, 0x7E00), (.fp8b, 0x7E), (.fp8a, 0x7F),
    (.fp6a, 0), (.fp6b, 0), (.fp4, 0)]

theorem round_nan {p : Tag × Nat} (hp : p ∈ canonicalNaNs) (k : Nat) : (fmt p.1).round k .nan = (p.2, Flag.nv) := by
  have hbits : ∀ p ∈ canonicalNaNs, (fmt p.1).nanBits = p.2 := by decide
  exact congrArg (·, Flag.nv) (hbits p hp)

/-- Settles O8: the magnitudes of a format are a scale in the order of its codes, on which the delivered code is the rounded one. -/
theorem deliveryRoundsCorrectly : Obligations.DeliveryRoundsCorrectly := by
  refine ⟨fun p hp k => round_nan hp k, ?_⟩
  intro t eb fb bias most infs hrow
  obtain ⟨hf, rfl, rfl, rfl, rfl, rfl, hfp8a, hfbits⟩ := floatFormats_spec hrow
  clear hrow
  intro f isNum y
  refine ⟨fun c => ?encodings, fun k n => ?infinities, fun k n m e hk => ?finite⟩
  case encodings =>
    intro fr ex
    have hseven : (fmt t).top = .fp8a → 7 = 2 ^ (fmt t).fbits - 1 := fun h => by rw [hfbits h]; norm_num
    refine ⟨fun hex hinf => Format.decode_infinity (of_decide_eq_true hinf) hex, fun hex h8 hfr => ?_, fun hno => ?_⟩
    · have h8 := hfp8a.1 h8
      exact Format.decode_fp8a h8 hex (hfr.trans (hseven h8))
    · have hnum : ¬ (fmt t).special c := by
        rintro ⟨hex, hinf | ⟨h8, hfr⟩⟩
        · exact hno ⟨hex, .inl (decide_eq_true hinf)⟩
        · exact hno ⟨hex, .inr ⟨hfp8a.2 h8, hfr.trans (hseven h8).symm⟩⟩
      exact ⟨((fmt t).finite_decode c).2 hnum, Format.val_decode_fields hnum⟩
  case infinities =>
    intro r
    have hr : r = _ := f.round_inf k n
    by_cases htop : f.top = .infinity
    · rw [if_pos (decide_eq_true htop), hr, if_pos htop]
      exact ⟨(Format.decode_infBits n htop).2, rfl⟩
    · obtain ⟨-, hfin, hval⟩ := hf.decode_maxBits n
      rw [if_neg (by simpa using htop), hr, if_neg htop]
      exact ⟨hfin, hval, rfl⟩
  case finite =>
    intro x r v unit away beyond
    obtain ⟨i, c, hround, hdel⟩ := hf.round_delivered k n m e
    have hX : (0 : ℚ) ≤ m * 2 ^ e := by positivity
    have hx : x = signOf n * (m * 2 ^ e) := val_num n m e false
    have habs : |x| = m * 2 ^ e := by rw [hx, abs_signOf_mul, abs_of_nonneg hX]
    have hunit : unit = f.unit := by
      unfold Format.unit
      rw [hf.maxExp_eq]
    have hbeyond : beyond ↔ f.last < c := by
      rw [← hf.beyond_iff hk hX hround (away := away) hfp8a (by rw [← hx]), ← hunit, ← habs]
    by_cases hlast : f.last < c
    case neg =>
      obtain ⟨hsign, hspec⟩ := hf.within_spec hdel hround hX hx (not_lt.1 hlast)
      exact ⟨hsign, fun h => absurd (hbeyond.1 h) hlast, fun _ => hspec⟩
    case pos =>
      obtain ⟨hsign, hinf, hmost⟩ := hf.overflow_spec hdel hlast
      have hpos : (0 : ℚ) < m * 2 ^ e := hX.lt_of_ne fun h0 => by
        rw [hround.eq_zero_of_zero f.mag_strictMono f.mag_zero h0.symm] at hlast
        exact Nat.not_lt_zero _ hlast
      have haway : away ↔ outward k n := by
        rw [← away_iff_outward hpos, ← hx]
      refine ⟨hsign, fun _ => ⟨?_, fun htop ho => ?_, fun hno => ?_⟩, fun h => absurd (hbeyond.2 hlast) h⟩
      · exact (hdel.overflow hlast).trans (by simp only [decide_eq_true_eq])
      · exact hinf (of_decide_eq_true htop) (ho.imp_right haway.1)
      · refine hmost (hno.imp of_decide_eq_false fun ⟨hk0, hna⟩ => ?_)
        rw [← haway]
        exact not_or.2 ⟨hk0, hna⟩

end Sys2Proof.Machine
end

section
/-! Instruction words: the decoder and the encoder agree, word for word and operand for operand (R97 to R101). -/

namespace Sys2Proof

/-! ## Operand codes (Tables 4-2 and 5-1) -/

theorem VOp.code_ofCode (c : BitVec 7) : (VOp.ofCode c).code = c := by revert c; decide

theorem SOp.code_ofCode (c : BitVec 7) : (SOp.ofCode c).code = c := by revert c; decide

theorem Tag.code_ofCode (c : BitVec 5) : (Tag.ofCode c).code = c := by revert c; decide

/-! ## Words as fields side by side -/

/-- Two fields that are a word's slices above and below a border are, side by side, the slice of both. -/
theorem append_of_slices {v l n st : Nat} {x : BitVec v} {y : BitVec l} {w : BitVec n} (hx : x = w.extractLsb' (st + l) v)
    (hy : y = w.extractLsb' st l) : x ++ y = w.extractLsb' st (v + l) := by
  rw [hx, hy]
  exact BitVec.extractLsb'_append_extractLsb'_eq_extractLsb' rfl

theorem eq_ofNat_of_toNat_eq {n k : Nat} {x : BitVec n} (h : x.toNat = k) : x = BitVec.ofNat n k := by
  rw [← h, BitVec.ofNat_toNat, BitVec.setWidth_eq]

/-- What holds of k and of every number above k holds of every number from k on, below a bound. -/
theorem forall_from {p : Nat → Prop} {k n : Nat} (habove : ∀ m, k + 1 ≤ m → m < n → p m) (hk : p k) : ∀ m, k ≤ m → m < n → p m := by
  intro m hle hlt
  rcases Nat.eq_or_lt_of_le hle with rfl | hlt'
  · exact hk
  · exact habove m hlt' hlt

/-! ## Every word is an encoding or illegal -/

/-- To read w as the instruction i is right: w is the word of i, or w is no instruction and i says so. -/
def Reads (w : BitVec 32) (i : Instr) : Prop := encode i = some w ∨ i = .illegalWord w

theorem reads_illegalWord (w : BitVec 32) : Reads w (.illegalWord w) := .inr rfl

theorem reads_of_word {w v : BitVec 32} {i : Instr} (h : encode i = some v) (hv : v = w.extractLsb' 0 32) : Reads w i :=
  .inl (h.trans (congrArg some (hv.trans BitVec.extractLsb'_eq_self)))

theorem Reads.ite {w : BitVec 32} {P : Prop} {_ : Decidable P} {i j : Instr} (hi : P → Reads w i) (hj : Reads w j) :
    Reads w (if P then i else j) := by
  split
  · exact hi ‹P›
  · exact hj

/-- An opcode's decoder takes the operands of a form from their slices where the form's fixed fields stand in theirs; the encoder puts
the same slices and the same fixed fields side by side again. -/
theorem decode_reads (w : BitVec 32) : Reads w (decode w) := by
  unfold decode
  generalize hop : (w.extractLsb' 25 7).toNat = op
  have hle := Nat.zero_le op
  have hlt : op < 128 := hop ▸ (w.extractLsb' 25 7).isLt
  revert hop
  revert op
  iterate 128 refine forall_from ?_ ?_
  · exact fun m hle hlt => absurd hlt (Nat.not_lt.2 hle)
  all_goals
    intro hop
    replace hop := eq_ofNat_of_toNat_eq hop
    repeat' first | exact reads_illegalWord w | refine Reads.ite (fun fixed => ?_) ?_
    all_goals
      refine reads_of_word rfl ?_
      try casesm* _ ∧ _
      repeat' refine append_of_slices ?_ ?_
      all_goals with_reducible first | rfl | exact VOp.code_ofCode _ | exact SOp.code_ofCode _ | exact Tag.code_ofCode _ | (symm; assumption)

/-- An instruction that has a word, which decodes to it. -/
theorem encodes_of_statement {i : Instr} (hdecode : Laws.RoundTrip.Statement i) (hword : (encode i).isSome = true) :
    ∃ w, encode i = some w ∧ decode w = i := by
  obtain ⟨w, hw⟩ := Option.isSome_iff_exists.1 hword
  exact ⟨w, hw, hdecode w hw⟩

open Laws in
/-- Every instruction that is neither an event nor a word without meaning has a word, which decodes to it, operand for operand. -/
theorem decode_encode {i : Instr} (hword : Machine.isEvent i = false) (hlegal : ∀ w, i ≠ .illegalWord w) :
    ∃ w, encode i = some w ∧ decode w = i := by
  induction i with
  | nop => exact encodes_of_statement RoundTrip.nop rfl | yield => exact encodes_of_statement RoundTrip.yield rfl
  | lit => exact encodes_of_statement (RoundTrip.lit _) rfl | litHi => exact encodes_of_statement (RoundTrip.litHi _) rfl
  | blk => exact encodes_of_statement (RoundTrip.blk _ _) rfl | iadd => exact encodes_of_statement (RoundTrip.iadd _ _ _ _ _ _) rfl
  | isub => exact encodes_of_statement (RoundTrip.isub _ _ _ _ _ _) rfl
  | imul => exact encodes_of_statement (RoundTrip.imul _ _ _ _ _ _) rfl
  | imad => exact encodes_of_statement (RoundTrip.imad _ _ _ _ _ _) rfl
  | imin => exact encodes_of_statement (RoundTrip.imin _ _ _ _ _ _) rfl
  | imax => exact encodes_of_statement (RoundTrip.imax _ _ _ _ _ _) rfl
  | iabs => exact encodes_of_statement (RoundTrip.iabs _ _ _ _) rfl
  | andFam => exact encodes_of_statement (RoundTrip.andFam _ _ _ _ _ _) rfl
  | orFam => exact encodes_of_statement (RoundTrip.orFam _ _ _ _ _ _) rfl
  | xorFam => exact encodes_of_statement (RoundTrip.xorFam _ _ _ _ _ _) rfl
  | shiftFam => exact encodes_of_statement (RoundTrip.shiftFam _ _ _ _ _ _) rfl
  | bfx => exact encodes_of_statement (RoundTrip.bfx _ _ _ _ _ _) rfl
  | bfi => exact encodes_of_statement (RoundTrip.bfi _ _ _ _ _ _) rfl
  | bitFam => exact encodes_of_statement (RoundTrip.bitFam _ _ _ _) rfl
  | icmp => exact encodes_of_statement (RoundTrip.icmp _ _ _ _ _ _) rfl
  | icmpn => exact encodes_of_statement (RoundTrip.icmpn _ _ _ _ _ _) rfl
  | sel => exact encodes_of_statement (RoundTrip.sel _ _ _ _ _) rfl | lea => exact encodes_of_statement (RoundTrip.lea _ _ _ _ _ _) rfl
  | addsubw => exact encodes_of_statement (RoundTrip.addsubw _ _ _ _ _ _) rfl
  | mulw => exact encodes_of_statement (RoundTrip.mulw _ _ _ _ _ _) rfl
  | idiv => exact encodes_of_statement (RoundTrip.idiv _ _ _ _) rfl | ndiv => exact encodes_of_statement (RoundTrip.ndiv _ _ _ _) rfl
  | shfl => exact encodes_of_statement (RoundTrip.shfl _ _ _ _ _ _) rfl
  | vote => exact encodes_of_statement (RoundTrip.vote _ _ _ _) rfl | vred => exact encodes_of_statement (RoundTrip.vred _ _ _ _) rfl
  | iaddi => exact encodes_of_statement (RoundTrip.iaddi _ _ _ _) rfl
  | imuli => exact encodes_of_statement (RoundTrip.imuli _ _ _ _) rfl | andi => exact encodes_of_statement (RoundTrip.andi _ _ _ _) rfl
  | ori => exact encodes_of_statement (RoundTrip.ori _ _ _ _) rfl | xori => exact encodes_of_statement (RoundTrip.xori _ _ _ _) rfl
  | shli => exact encodes_of_statement (RoundTrip.shli _ _ _ _) rfl | shri => exact encodes_of_statement (RoundTrip.shri _ _ _ _) rfl
  | sari => exact encodes_of_statement (RoundTrip.sari _ _ _ _) rfl
  | icmpieq => exact encodes_of_statement (RoundTrip.icmpieq _ _ _ _) rfl
  | icmpilt => exact encodes_of_statement (RoundTrip.icmpilt _ _ _ _) rfl
  | icmpine => exact encodes_of_statement (RoundTrip.icmpine _ _ _ _) rfl | movi => exact encodes_of_statement (RoundTrip.movi _ _) rfl
  | sadd => exact encodes_of_statement (RoundTrip.sadd _ _ _ _) rfl | ssub => exact encodes_of_statement (RoundTrip.ssub _ _ _ _) rfl
  | smul => exact encodes_of_statement (RoundTrip.smul _ _ _ _) rfl | slog => exact encodes_of_statement (RoundTrip.slog _ _ _ _) rfl
  | sshf => exact encodes_of_statement (RoundTrip.sshf _ _ _ _) rfl | scmp => exact encodes_of_statement (RoundTrip.scmp _ _ _ _) rfl
  | ssel => exact encodes_of_statement (RoundTrip.ssel _ _ _) rfl | saddi => exact encodes_of_statement (RoundTrip.saddi _ _ _) rfl
  | smovi => exact encodes_of_statement (RoundTrip.smovi _ _) rfl
  | sminmax => exact encodes_of_statement (RoundTrip.sminmax _ _ _ _) rfl
  | sldc => exact encodes_of_statement (RoundTrip.sldc _ _ _ _) rfl | sld => exact encodes_of_statement (RoundTrip.sld _ _ _ _) rfl
  | sst => exact encodes_of_statement (RoundTrip.sst _ _ _ _) rfl | sget => exact encodes_of_statement (RoundTrip.sget _ _ _) rfl
  | fadd => exact encodes_of_statement (RoundTrip.fadd _ _ _ _ _ _) rfl
  | fsub => exact encodes_of_statement (RoundTrip.fsub _ _ _ _ _ _) rfl
  | fmul => exact encodes_of_statement (RoundTrip.fmul _ _ _ _ _ _) rfl
  | ffma => exact encodes_of_statement (RoundTrip.ffma _ _ _ _ _ _) rfl
  | fminmax => exact encodes_of_statement (RoundTrip.fminmax _ _ _ _ _ _) rfl
  | fcmp => exact encodes_of_statement (RoundTrip.fcmp _ _ _ _ _ _) rfl
  | fsign => exact encodes_of_statement (RoundTrip.fsign _ _ _ _ _ _) rfl
  | frcp => exact encodes_of_statement (RoundTrip.frcp _ _ _) rfl | frsq => exact encodes_of_statement (RoundTrip.frsq _ _ _) rfl
  | fsqrt => exact encodes_of_statement (RoundTrip.fsqrt _ _ _) rfl | fexp2 => exact encodes_of_statement (RoundTrip.fexp2 _ _ _) rfl
  | flog2 => exact encodes_of_statement (RoundTrip.flog2 _ _ _) rfl | fsin => exact encodes_of_statement (RoundTrip.fsin _ _ _) rfl
  | fcos => exact encodes_of_statement (RoundTrip.fcos _ _ _) rfl | fdiv => exact encodes_of_statement (RoundTrip.fdiv _ _ _ _) rfl
  | fdot2 => exact encodes_of_statement (RoundTrip.fdot2 _ _ _ _ _) rfl
  | idot4 => exact encodes_of_statement (RoundTrip.idot4 _ _ _ _ _ _) rfl
  | fround => exact encodes_of_statement (RoundTrip.fround _ _ _ _) rfl
  | radd => exact encodes_of_statement (RoundTrip.radd _ _ _ _ _) rfl
  | rmul => exact encodes_of_statement (RoundTrip.rmul _ _ _ _ _) rfl
  | rmac => exact encodes_of_statement (RoundTrip.rmac _ _ _ _ _) rfl | rneg => exact encodes_of_statement (RoundTrip.rneg _ _ _) rfl
  | rcrt => exact encodes_of_statement (RoundTrip.rcrt _ _ _ _ _ _) rfl
  | renc => exact encodes_of_statement (RoundTrip.renc _ _ _ _) rfl | cvt => exact encodes_of_statement (RoundTrip.cvt _ _ _ _ _) rfl
  | tag => exact encodes_of_statement (RoundTrip.tag _ _ _ _) rfl | mov => exact encodes_of_statement (RoundTrip.mov _ _ _) rfl
  | movD => exact encodes_of_statement (RoundTrip.movD _ _ _) rfl | winb => exact encodes_of_statement (RoundTrip.winb _) rfl
  | swinb => exact encodes_of_statement (RoundTrip.swinb _) rfl | grow => exact encodes_of_statement (RoundTrip.grow _ _ _) rfl
  | shrink => exact encodes_of_statement (RoundTrip.shrink _ _) rfl | ocmovRd => exact encodes_of_statement (RoundTrip.ocmovRd _ _) rfl
  | ocmovWr => exact encodes_of_statement (RoundTrip.ocmovWr _ _ _) rfl | bra => exact encodes_of_statement (RoundTrip.bra _ _) rfl
  | bnz => exact encodes_of_statement (RoundTrip.bnz _ _ _) rfl | bz => exact encodes_of_statement (RoundTrip.bz _ _ _) rfl
  | call => exact encodes_of_statement (RoundTrip.call _ _) rfl | callr => exact encodes_of_statement (RoundTrip.callr _ _ _ _) rfl
  | jmpr => exact encodes_of_statement (RoundTrip.jmpr _ _) rfl | ret => exact encodes_of_statement (RoundTrip.ret _ _) rfl
  | exit => exact encodes_of_statement RoundTrip.exit rfl | tryRegion => exact encodes_of_statement (RoundTrip.tryRegion _ _ _) rfl
  | endtry => exact encodes_of_statement (RoundTrip.endtry _) rfl
  | throwCode => exact encodes_of_statement (RoundTrip.throwCode _ _) rfl | rethrow => exact encodes_of_statement RoundTrip.rethrow rfl
  | xget => exact encodes_of_statement (RoundTrip.xget _ _) rfl | barArrive => exact encodes_of_statement (RoundTrip.barArrive _) rfl
  | barWait => exact encodes_of_statement (RoundTrip.barWait _) rfl | barSync => exact encodes_of_statement (RoundTrip.barSync _) rfl
  | barCount => exact encodes_of_statement (RoundTrip.barCount _ _) rfl
  | barGridSync => exact encodes_of_statement RoundTrip.barGridSync rfl
  | attach => exact encodes_of_statement (RoundTrip.attach _ _) rfl | detach => exact encodes_of_statement RoundTrip.detach rfl
  | ldgW => exact encodes_of_statement (RoundTrip.ldgW _ _ _ _) rfl | ldgD => exact encodes_of_statement (RoundTrip.ldgD _ _ _ _) rfl
  | ldgQ => exact encodes_of_statement (RoundTrip.ldgQ _ _ _ _) rfl | stg => exact encodes_of_statement (RoundTrip.stg _ _ _ _) rfl
  | lds => exact encodes_of_statement (RoundTrip.lds _ _ _ _) rfl | sts => exact encodes_of_statement (RoundTrip.sts _ _ _) rfl
  | atom => exact encodes_of_statement (RoundTrip.atom _ _ _ _) rfl | red => exact encodes_of_statement (RoundTrip.red _ _ _) rfl
  | commit => exact encodes_of_statement (RoundTrip.commit _ _) rfl
  | commitAll => exact encodes_of_statement (RoundTrip.commitAll _) rfl | fence => exact encodes_of_statement (RoundTrip.fence _ _) rfl
  | monw => exact encodes_of_statement (RoundTrip.monw _ _ _ _) rfl | cpstage => exact encodes_of_statement RoundTrip.cpstage rfl
  | cpgo => exact encodes_of_statement (RoundTrip.cpgo _) rfl | cpred => exact encodes_of_statement (RoundTrip.cpred _ _) rfl
  | cpcancel => exact encodes_of_statement (RoundTrip.cpcancel _) rfl | cpq => exact encodes_of_statement (RoundTrip.cpq _ _) rfl
  | mconv => exact encodes_of_statement (RoundTrip.mconv _ _ _) rfl | mma => exact encodes_of_statement (RoundTrip.mma _ _ _) rfl
  | mset => exact encodes_of_statement (RoundTrip.mset _ _ _) rfl | mmask => exact encodes_of_statement (RoundTrip.mmask _ _) rfl
  | mld => exact encodes_of_statement (RoundTrip.mld _ _ _) rfl | mst => exact encodes_of_statement (RoundTrip.mst _ _ _) rfl
  | mcvt => exact encodes_of_statement (RoundTrip.mcvt _ _) rfl | mzero => exact encodes_of_statement (RoundTrip.mzero _) rfl
  | mwait => exact encodes_of_statement (RoundTrip.mwait _ _ _) rfl | mprog => exact encodes_of_statement (RoundTrip.mprog _ _) rfl
  | malloc => exact encodes_of_statement (RoundTrip.malloc _ _ _) rfl | mfree => exact encodes_of_statement (RoundTrip.mfree _) rfl
  | trace => exact encodes_of_statement (RoundTrip.trace _ _ _ _ _) rfl
  | regroup => exact encodes_of_statement (RoundTrip.regroup _ _ _) rfl | enq => exact encodes_of_statement (RoundTrip.enq _ _ _ _) rfl
  | enqc => exact encodes_of_statement (RoundTrip.enqc _ _ _ _) rfl | svc => exact encodes_of_statement (RoundTrip.svc _ _) rfl
  | qstat => exact encodes_of_statement (RoundTrip.qstat _ _ _) rfl | trap => exact encodes_of_statement (RoundTrip.trap _) rfl
  | tret => exact encodes_of_statement RoundTrip.tret rfl | csrr => exact encodes_of_statement (RoundTrip.csrr _ _ _) rfl
  | csrw => exact encodes_of_statement (RoundTrip.csrw _ _ _) rfl | cflush => exact encodes_of_statement (RoundTrip.cflush _ _) rfl
  | cinv => exact encodes_of_statement (RoundTrip.cinv _ _) rfl
  | cinvDiscard => exact encodes_of_statement (RoundTrip.cinvDiscard _ _) rfl
  | pref => exact encodes_of_statement (RoundTrip.pref _ _ _) rfl | tlbinv => exact encodes_of_statement (RoundTrip.tlbinv _ _) rfl
  | tlbinvAll => exact encodes_of_statement RoundTrip.tlbinvAll rfl | rgne => exact encodes_of_statement (RoundTrip.rgne _) rfl
  | rgnl => exact encodes_of_statement RoundTrip.rgnl rfl | ocrd => exact encodes_of_statement (RoundTrip.ocrd _ _) rfl
  | ocwr => exact encodes_of_statement (RoundTrip.ocwr _ _) rfl | ltrd => exact encodes_of_statement (RoundTrip.ltrd _ _) rfl
  | ltwr => exact encodes_of_statement (RoundTrip.ltwr _ _) rfl | lbrd => exact encodes_of_statement (RoundTrip.lbrd _ _ _ _) rfl
  | lbwr => exact encodes_of_statement (RoundTrip.lbwr _ _ _ _) rfl | halt => exact encodes_of_statement RoundTrip.halt rfl
  | illegalWord w => exact absurd rfl (hlegal w)
  | _ => exact absurd hword.symm Bool.false_ne_true

theorem decodeTableWord_toNat (w : BitVec 32) : decodeTableWord 32 w.toNat = some (decode w) := by
  rw [decodeTableWord, if_pos (show 32 ≤ wordBits from le_rfl), BitVec.ofNat_toNat, BitVec.setWidth_eq]

/-! ## The obligations -/

/-- Settles O50: each constructor's word decodes to it, and each opcode's forms put their slices side by side again. -/
theorem decodeAndEncodeAgree : Obligations.DecodeAndEncodeAgree := by
  refine ⟨fun i hword hlegal => ?_, decode_reads⟩
  obtain ⟨w, hw, hdec⟩ := decode_encode hword hlegal
  exact ⟨w, hw, hdec, by rw [decodeTableWord_toNat, hdec]⟩

/-- Settles O51: the decoder evaluates on each word. -/
theorem wordsDecodeAsTheTableSays : Obligations.WordsDecodeAsTheTableSays := by
  unfold Obligations.WordsDecodeAsTheTableSays
  decide

end Sys2Proof
end

section
/-! No instruction is refused, and a word that issues answers a next state (R101, R102). -/

namespace Sys2Proof.Machine

/-- An outcome that is no refusal: a next state or a fault. -/
inductive Answered : Host.Outcome State Fault Refusal → Prop
  | next (t : State) : Answered (.next t)
  | fault (f : Fault) : Answered (.fault f)

theorem Answered.ne_refused {o : Host.Outcome State Fault Refusal} (h : Answered o) (r : Refusal) : o ≠ .refused r := by
  cases h <;> nofun

theorem Answered.ite {P : Prop} {_ : Decidable P} {a b : Host.Outcome State Fault Refusal} (ha : Answered a) (hb : Answered b) :
    Answered (if P then a else b) := by
  split
  · exact ha
  · exact hb

theorem Answered.option {α : Type} {o : Option α} {a : Host.Outcome State Fault Refusal} {f : α → Host.Outcome State Fault Refusal}
    (ha : Answered a) (hf : ∀ x, Answered (f x)) : Answered (Option.casesOn (motive := fun _ => Host.Outcome State Fault Refusal) o a f) := by
  cases o with
  | none => exact ha
  | some x => exact hf x

theorem Answered.list {α : Type} {l : List α} {a : Host.Outcome State Fault Refusal}
    {f : α → List α → Host.Outcome State Fault Refusal} (ha : Answered a) (hf : ∀ x xs, Answered (f x xs)) :
    Answered (List.casesOn (motive := fun _ => Host.Outcome State Fault Refusal) l a f) := by
  cases l with
  | nil => exact ha
  | cons x xs => exact hf x xs

theorem Answered.prod {α β : Type} {p : α × β} {f : α → β → Host.Outcome State Fault Refusal} (hf : ∀ x y, Answered (f x y)) :
    Answered (Prod.casesOn (motive := fun _ => Host.Outcome State Fault Refusal) p f) := by
  cases p
  exact hf _ _

theorem sendAnswers_answered (n : Nat) (s : State) : Answered (sendAnswers n s) := by
  unfold sendAnswers
  dsimp only
  repeat' split
  all_goals constructor

/-- The instruction is no event, or its event is answered. -/
def EventAnswered (s : State) (i : Instr) : Prop := isEvent i = true → Answered (exec i s)

theorem eventAnswered_of_word {i : Instr} (hword : isEvent i = false) (s : State) : EventAnswered s i :=
  fun hevent => Bool.noConfusion (hword.symm.trans hevent)

theorem EventAnswered.of_exec {i : Instr} {s : State} (h : Answered (exec i s)) : EventAnswered s i := fun _ => h

set_option smartUnfolding false in
theorem exec_answered_of_event (i : Instr) (s : State) : EventAnswered s i := by
  induction i with
  | parkcmdResume | parkcmdKill | parkcmdInject | rgnstatDepthWrite | fshnWrite | dbgctlStop | hostctlRearm | nlctlRetrain |
    powerRemoval => exact .of_exec (.next _)
  | swapOut | hangDetect | svcdone | bar0CsrAccess | doorbell | bar4Access | cxlMemAccess | hostSnoop | hostLinkLoss | functionLevelReset |
    hostPortTrain | d3hotEntry | d0Return | clockStep | flitReceive | nakReplay | portRetrainOnReplays | peerWindowAccess | peerAck |
    launchAdmission | teamPlacement | preemptForHead | preempt | teamStateSave | teamResume | trapEntry | swapRestore | poolVictim |
    poolGrant | teamEnd | catchEntry | teamKill | warpPark | parkRecordPost | loadLanding | homeLoadServe | homeUpdatePerform |
    montoExpiry | monitorPoll | atomLeaseGrant | atomLeaseReturn | l2Evict | l1Evict | atomicopCompletion | atomicopUr | emulationReturn |
    copyArrive | copyComplete | copyfault | combineContribution | combineDeliver | matrixStart | matrixComplete | matrixFetchFault |
    mpbWindowExpiry | traceLanding | sampleRecord | resultProduced | spareCoreTakeover | svcBatchPost | roundTripCompletion |
    retrainingComplete | configurationRequest | copySourceRangeRead =>
    refine .of_exec ?_
    dsimp -zeta only [exec, execSwapOut, execHangDetect, execSvcdone, execBar0CsrAccess, execDoorbell, execBar4Access, execCxlMemAccess,
      execHostSnoop, execHostLinkLoss,
      execFunctionLevelReset, execHostPortTrain, execD3hotEntry, execD0Return, execClockStep, execFlitReceive,
      execNakReplay, execPortRetrainOnReplays, execPeerWindowAccess, execPeerAck, execLaunchAdmission, execTeamPlacement,
      execPreemptForHead, execPreempt, execTeamStateSave, execTeamResume, execTrapEntry, execSwapRestore, execPoolVictim, execPoolGrant,
      execTeamEnd, execCatchEntry, execTeamKill, execWarpPark, execParkRecordPost, execLoadLanding, execHomeLoadServe,
      execHomeUpdatePerform, execMontoExpiry, execMonitorPoll, execAtomLeaseGrant, execAtomLeaseReturn, execL2Evict, execL1Evict,
      execAtomicopCompletion, execAtomicopUr, execEmulationReturn, execCopyArrive, execCopyComplete, execCopyfault, execCombineContribution,
      execCombineDeliver, execMatrixStart, execMatrixComplete, execMatrixFetchFault, execMpbWindowExpiry, execTraceLanding,
      execSampleRecord, execResultProduced, execSpareCoreTakeover, execSvcBatchPost, execRoundTripCompletion, execRetrainingComplete,
      execConfigurationRequest, execCopySourceRangeRead]
    repeat' first
      | with_reducible exact .next _
      | with_reducible exact .fault _
      | with_reducible refine Answered.ite ?_ ?_
      | refine Answered.option ?_ fun _ => ?_
      | refine Answered.list ?_ fun _ _ => ?_
      | refine Answered.prod fun _ _ => ?_
      | (extract_lets; clear_value *)
      | (beta_reduce; split)
  | powerOnBringUp =>
    refine .of_exec ?_
    dsimp only [exec, execPowerOnBringUp]
    split
    all_goals constructor
  | norozlinkReceiveWrite =>
    refine .of_exec ?_
    dsimp only [exec, execNorozlinkReceiveWrite]
    split
    · exact sendAnswers_answered ..
    · split
      · exact .next _
      · split
        · exact sendAnswers_answered ..
        · exact .next _
  | _ => exact eventAnswered_of_word rfl s

theorem State.issue_answered (s : State) (u : State → Uses) (e : State → State) : Answered (s.issue u e) := by
  unfold State.issue
  dsimp only
  repeat' split
  all_goals constructor

theorem State.attempt_answered (s : State) (u : State → Uses) (a : State → Attempt) : Answered (s.attempt u a) := by
  unfold State.attempt
  dsimp only
  repeat' split
  all_goals constructor

theorem Screened.answered {i : Instr} {s : State} {o : Host.Outcome State Fault Refusal} (h : Screened i s o) : Answered o := by
  cases h with
  | issue u e => exact s.issue_answered u e
  | attempt u a => exact s.attempt_answered u a

theorem Screened.next {i : Instr} {s : State} {o : Host.Outcome State Fault Refusal} (h : Screened i s o)
    (hissuing : s.issuing.isSome = true) : ∃ t, o = .next t := by
  cases h with
  | issue u e => exact State.issue_next u e hissuing
  | attempt u a => exact State.attempt_next u a hissuing

theorem exec_answered (i : Instr) (s : State) : Answered (exec i s) := by
  cases h : isEvent i with
  | true => exact exec_answered_of_event i s h
  | false => exact (screened_exec h s).answered

/-- Settles O54: an event answers a next state or a fault, and a word begins with the checks of Table 6-6, which always answer an issuer. -/
theorem everyIssuedWordAnswersANextState : Obligations.EveryIssuedWordAnswersANextState :=
  ⟨fun i s r => (exec_answered i s).ne_refused r, fun _ s hword hissuing => (screened_exec hword s).next hissuing⟩

end Sys2Proof.Machine
end

section
/-! The core-control words, the window bases and the operand cache (R103 to R106, R155, R157). -/

namespace Sys2Proof.Machine

open Sys2Proof.Claims

/-! ## What dead reads and an entry of the window leave besides the banks (R53, R55) -/

theorem Warp.deadReg_besidesBanks (w : Warp) (r : Nat) : (w.deadReg r).besidesBanks = w.besidesBanks := rfl

theorem Warp.deadLatch_besidesBanks (w : Warp) (n : Nat) : (w.deadLatch n).besidesBanks = w.besidesBanks := by
  unfold Warp.deadLatch
  refine foldl_keeps Warp.besidesBanks (fun v x => ?_) _ w
  cases x.life <;> rfl

theorem State.deadRead_besidesBanks (s : State) (x : Src) : (s.deadRead x).warp.besidesBanks = s.warp.besidesBanks := by
  unfold State.deadRead
  split
  · refine State.foldl_keeps (fun s => s.warp.besidesBanks) _ (fun s p => ?_) _ s
    cases p with
    | reg r => exact s.warp.deadReg_besidesBanks r
    | latch n => exact s.warp.deadLatch_besidesBanks n
    | _ => rfl
  · rfl

theorem State.deadReads_besidesBanks (s : State) (xs : List Src) :
    (xs.foldl State.deadRead s).warp.besidesBanks = s.warp.besidesBanks :=
  State.foldl_keeps (fun s => s.warp.besidesBanks) _ State.deadRead_besidesBanks xs s

/-! ## Core control -/

theorem exec_nop (s : State) : exec .nop s = execNop s := rfl

theorem exec_yield (s : State) : exec .yield s = execYield s := rfl

theorem exec_lit (v : BitVec 24) (s : State) : exec (.lit v) s = execLit v s := rfl

theorem exec_litHi (b : BitVec 8) (s : State) : exec (.litHi b) s = execLitHi b s := rfl

theorem exec_blk (r p : BitVec 8) (s : State) : exec (.blk r p) s = execBlk r p s := rfl

theorem append_setWidth_eq_ofNat (b : BitVec 8) (w : Word) :
    b ++ w.setWidth 24 = BitVec.ofNat 32 (b.toNat * 2 ^ 24 + w.toNat % 2 ^ 24) := by
  refine BitVec.eq_of_toNat_eq ?_
  rw [BitVec.toNat_append, BitVec.toNat_setWidth, BitVec.toNat_ofNat, ← Nat.shiftLeft_add_eq_or_of_lt (Nat.mod_lt _ (by decide)),
    Nat.shiftLeft_eq]
  omega

theorem coreControlWords : CoreControlWords := by
  intro r q b v
  refine ⟨fun s h => ?nop, fun s h => ?blk, fun s h => ?yield, fun s h => ?lit, fun s h => ?litHi⟩
  case nop => exact State.issueNext_of_go _ h
  case blk =>
    rw [exec_blk, execBlk]
    exact State.issueNext_of_go _ h
  case yield =>
    rw [exec_yield, execYield]
    exact State.issueNext_of_go _ h
  case lit =>
    rw [exec_lit, execLit]
    exact State.issueNext_of_go _ h
  case litHi =>
    rw [exec_litHi, execLitHi]
    simp only [append_setWidth_eq_ofNat]
    exact State.issueNext_of_go _ h

/-! ## Window bases -/

theorem exec_winb (q : BitVec 5) (s : State) : exec (.winb q) s = execWinb q s := rfl

theorem exec_swinb (q : BitVec 6) (s : State) : exec (.swinb q) s = execSwinb q s := rfl

/-- A ladder of checks that ends in go tells what it answers when the check of its fourth rung is put anew. -/
theorem State.gate_ladder_window {l P A W W' : Bool} {x0 x1 x3 : Raise} {g : Gate}
    (h : (if (!l) = true then Gate.raise x0 else if P = true then .raise x1 else if A = true then .wait
      else if W = true then .raise x3 else g) = .go) :
    W = false ∧ (if (!l) = true then Gate.raise x0 else if P = true then .raise x1 else if A = true then .wait
      else if W' = true then .raise x3 else g) = if W' = true then .raise x3 else .go := by
  cases l <;> cases P <;> cases A <;> cases W <;> simp_all

/-- Where the checks of Table 6-6 find nothing, the instruction's own check of the windows decides (row 4). -/
theorem State.gate_window {s : State} {u : Uses} (h : s.gate u = .go) (b : Bool) :
    s.gate { u with window := b } = if b then .go else .raise { code := 0x0008, lanes := s.mask, addr := 0 } := by
  have hladder := fun W' => State.gate_ladder_window (W' := W') h
  have hin := (Bool.or_eq_false_iff.1 (hladder false).1).2
  refine (hladder (!b || _)).2.trans ?_
  rw [hin, Bool.or_false]
  cases b <;> rfl

/-- An instruction that checks the windows itself, in a state where it would else go. -/
theorem State.issueNext_window {s : State} {u u' : State → Uses} {P : Prop} [Decidable P] (e : State → State) (h : Goes s u)
    (hu : u' s.prelude = { u s.prelude with window := decide P }) :
    if P then s.issueNext u' e = .next (wentOn (e s.prelude))
    else s.issueNext u' e = .next (s.prelude.raise { code := 0x0008, lanes := s.prelude.mask, addr := 0 }) := by
  obtain ⟨hissuing, hswitch, hgate⟩ := h
  have hchecks := hu ▸ State.gate_window hgate (decide P)
  unfold State.issueNext
  split
  next hP => exact State.issue_goes _ hissuing hswitch (by simpa [hP] using hchecks)
  next hP => exact State.issue_raises _ hissuing hswitch (by simpa [hP] using hchecks)

theorem windowBasesSetOrFault : WindowBasesSetOrFault := by
  intro q r s p
  refine ⟨fun h => ?winb, fun h => ?swinb⟩
  case winb =>
    have hwindow : (q == 0 || decide (8 * q.toNat + 64 ≤ 8 * p.warp.vvg)) = decide (q = 0 ∨ q.toNat + 8 ≤ p.warp.vvg) := by
      rw [Bool.decide_or, Bool.beq_eq_decide_eq]
      exact congrArg _ (decide_eq_decide.2 (by omega))
    rw [exec_winb, execWinb]
    exact State.issueNext_window _ h (congrArg (fun b => ({ legal := true, window := b } : Uses)) hwindow)
  case swinb =>
    rw [exec_swinb, execSwinb]
    exact State.issueNext_window _ h rfl

/-! ## The operand cache -/

theorem maskOf_true : maskOf (fun _ => true) = 0xFFFFFFFF := by decide

/-- An instruction whose entry writes slot n of the operand cache, and is produced at once, leaves that slot written and the others. -/
theorem wentOn_settle_cache (s : State) (xs : List Src) {e : WinEntry} {n : Nat} {y : Lanes} {m : Mask} {t : Tag}
    (hproduced : e.produced = true) (hlate : e.late = [.cache n y m t]) :
    (wentOn (s.settle xs e)).warp.oc = (s.warp.writeCache n y m t).oc := by
  have hpush := Warp.same_of_besidesBanks (·.oc) (fun _ => rfl) (Warp.push_besidesBanks
    (((xs.foldl State.deadRead s).warp.orFlags e.flags).writeCache n y m t) { e with seq := (xs.foldl State.deadRead s).nextId, late := [] })
  have hdead := Warp.same_of_besidesBanks (fun w => (w.writeCache n y m t).oc) (fun _ => rfl) (s.deadReads_besidesBanks xs)
  have henter : (wentOn (s.settle xs e)).warp.oc = ((((xs.foldl State.deadRead s).warp.orFlags e.flags).writeCache n y m t).push
      { e with seq := (xs.foldl State.deadRead s).nextId, late := [] }).oc := by
    change (State.enter _ e).warp.oc = _
    simp only [State.enter, hproduced, hlate, if_true, List.foldl_cons, List.foldl_nil, State.lateWrite]
  exact henter.trans (hpush.trans hdead)

theorem exec_ocmovRd (d b : VOp) (s : State) : exec (.ocmovRd d b) s = execOcmovRd d b s := rfl

theorem exec_ocmovWr (a b : VOp) (da : BitVec 1) (s : State) : exec (.ocmovWr a b da) s = execOcmovWr a b da s := rfl

theorem operandCacheMovesAllLanes : OperandCacheMovesAllLanes := by
  intro d a n da s p slot
  refine ⟨fun h => ?rd, fun h => ?wr⟩
  case rd =>
    rw [exec_ocmovRd, execOcmovRd, State.issueNext_of_go _ h]
    have hvalue : p.warp.cacheValue (slotNo (.oc n)) = if slot.valid then (slot.data, slot.tag) else (splat 0, .raw) := rfl
    cases hvalid : slot.valid <;> simp only [p, hvalid, hvalue, Bool.false_eq_true, if_true, if_false]
  case wr =>
    rw [exec_ocmovWr, execOcmovWr]
    refine ⟨_, State.issueNext_of_go _ h, ?_⟩
    rw [wentOn_settle_cache p [{ op := a, dead := da == 1 }] (n := n.toNat) rfl rfl, maskOf_true]
    refine ⟨look_put_self _ _ _ _ n.isLt, fun k hk => look_put_of_ne _ _ _ _ _ (Ne.symm hk)⟩

/-- Settles O14: each of these words goes on with its effect, WINB and SWINB put row 4's check anew, and OCMOV.WR writes its slot for every
lane. -/
theorem coreControl : Obligations.CoreControl := ⟨coreControlWords, windowBasesSetOrFault, operandCacheMovesAllLanes⟩

end Sys2Proof.Machine
end

section
/-! Frames of register instructions and branches: whatever they come to, they leave the rest of the machine as it was (R105, R107, R124,
R159). -/

namespace Sys2Proof.Machine

open Sys2Proof.Claims

/-! ## The part of the machine that no register instruction reaches -/

/-- The trap registers, the landing slots, the regions, the record and the limits of a warp. -/
noncomputable def Warp.fixed (w : Warp) : Warp :=
  { Warp.blank with
    tepc := w.tepc, tcause := w.tcause, tdepth := w.tdepth, shadow := w.shadow, fsh := w.fsh, fshn := w.fshn, slots := w.slots,
    live := w.live, wb := w.wb, swb := w.swb, vvg := w.vvg, monto := w.monto, wct := w.wct, rgn := w.rgn, tries := w.tries,
    record := w.record }

/-- The scratchpad, the barriers, the matrix state, the copies and the regions of a team. -/
noncomputable def Team.fixed (t : Team) : Team :=
  { Team.blank with
    scratch := t.scratch, bars := t.bars, convs := t.convs, mops := t.mops, copies := t.copies, tries := t.tries }

/-- The part of the machine that no register instruction reaches. -/
noncomputable def State.fixed (s : State) : State :=
  { State.reset with
    mem := s.mem, home := s.home, poison := s.poison, dies := s.dies, pkg := s.pkg, launches := s.launches, team := s.team.fixed,
    warp := s.warp.fixed }

/-! ### The window -/

theorem Warp.drain_fixed (w : Warp) : w.drain.fixed = w.fixed :=
  Warp.same_of_besidesBanks Warp.fixed (fun _ => rfl) w.drain_besidesBanks

theorem Warp.push_fixed (w : Warp) (e : WinEntry) : (w.push e).fixed = w.fixed :=
  Warp.same_of_besidesBanks Warp.fixed (fun _ => rfl) (w.push_besidesBanks e)

theorem State.fixed_of_warp {s : State} {w : Warp} (h : w.fixed = s.warp.fixed) : ({ s with warp := w } : State).fixed = s.fixed := by
  unfold State.fixed
  rw [h]

theorem State.prelude_fixed (s : State) : s.prelude.fixed = s.fixed := by
  refine State.fixed_of_warp (w := s.prelude.warp) ?_
  show (if s.switches then s.warp.drain else s.warp).fixed = s.warp.fixed
  rw [apply_ite Warp.fixed, Warp.drain_fixed, ite_self]

theorem State.lateWrite_fixed (s : State) (l : LateWrite) : (s.lateWrite l).fixed = s.fixed := by
  cases l <;> rfl

theorem State.enter_fixed (s : State) (e : WinEntry) : (s.enter e).fixed = s.fixed := by
  have hlate : (if e.produced then e.late.foldl State.lateWrite { s with warp := s.warp.orFlags e.flags } else s).fixed = s.fixed := by
    split
    · exact State.foldl_keeps State.fixed _ State.lateWrite_fixed _ _
    · rfl
  exact (State.fixed_of_warp (Warp.push_fixed _ _)).trans hlate

theorem State.deadReads_fixed (s : State) (xs : List Src) : (xs.foldl State.deadRead s).fixed = s.fixed := by
  refine State.foldl_keeps State.fixed _ (fun s x => ?_) xs s
  unfold State.deadRead
  split
  · refine State.foldl_keeps State.fixed _ (fun s p => ?_) _ s
    cases p with
    | reg r => rfl
    | latch n => exact State.fixed_of_warp (Warp.same_of_besidesBanks Warp.fixed (fun _ => rfl) (s.warp.deadLatch_besidesBanks n))
    | _ => rfl
  · rfl

theorem State.settle_fixed (s : State) (xs : List Src) (e : WinEntry) : (s.settle xs e).fixed = s.fixed :=
  (State.enter_fixed _ e).trans (s.deadReads_fixed xs)

/-! ### The frontier, and the end of a step -/

theorem State.moveTo_fixed (s : State) (pc : BitVec 64) : (s.moveTo pc).fixed = s.fixed := rfl

theorem State.split_fixed (s : State) (parts : List (Mask × BitVec 64)) : (s.split parts).fixed = s.fixed := rfl

theorem State.setPrio_fixed (s : State) (p : BitVec 8) : (s.setPrio p).fixed = s.fixed := rfl

theorem State.finish_fixed (s : State) : s.finish.fixed = s.fixed := rfl

theorem State.stall_fixed (s : State) : s.stall.fixed = s.fixed := rfl

theorem State.wake_fixed (s : State) : s.wake.fixed = s.fixed := rfl

/-! ### Exceptions (R175, R184, R186) -/

theorem State.doom_fixed (s : State) (code : BitVec 16) (pc addr : BitVec 64) : (s.doom code pc addr).fixed = s.fixed := by
  unfold State.doom
  split <;> rfl

theorem State.throwTo_fixed (s : State) (r : Holder) (ts : List Thrower) : (s.throwTo r ts).fixed = s.fixed := by
  unfold State.throwTo
  extract_lets _ w
  have hwarp : w.fixed = s.warp.fixed := by
    unfold w
    split <;> rfl
  clear_value w
  split <;> exact State.fixed_of_warp hwarp

theorem State.throwAll_fixed (s : State) (l : List (Option Holder × Thrower)) : (s.throwAll l).fixed = s.fixed := by
  unfold State.throwAll
  dsimp only
  split
  · rfl
  · refine State.foldl_keeps State.fixed _ (fun s p => ?_) _ s
    split
    · exact s.doom_fixed _ _ _
    · split
      · exact s.throwTo_fixed _ _
      · rfl

theorem State.takeFault_fixed (s : State) (r : Raise) (pc : BitVec 64) : (s.takeFault r pc).fixed = s.fixed := by
  unfold State.takeFault
  dsimp only
  split
  · rfl
  split
  · rfl
  split
  · exact s.throwAll_fixed _
  · rfl

theorem State.raise_fixed (s : State) (r : Raise) : (s.raise r).fixed = s.fixed := s.takeFault_fixed r s.entry.pc

/-! ## Outcomes that leave that part as it was -/

/-- An outcome that leaves the part of the machine that no register instruction reaches. -/
structure Fixes (s : State) (o : Host.Outcome State Fault Refusal) : Prop where
  next {t : State} : o = .next t → t.fixed = s.fixed

section

variable (s : State) (i : Instr) {u : State → Uses}

/-- An instruction whose effect leaves that part, with every wait and every exception of its checks. -/
theorem fixes_issue {e : State → State} (h : ∀ p, (e p).fixed = p.fixed) : Fixes s (s.issue u e) := by
  refine ⟨fun ht => ?_⟩
  obtain ⟨-, rfl | ⟨r, -, rfl⟩ | ⟨-, rfl⟩⟩ := State.issue_cases ht
  · rfl
  · exact (s.prelude.raise_fixed r).trans s.prelude_fixed
  · exact (h s.prelude).trans s.prelude_fixed

theorem fixes_issueNext {e : State → State} (h : ∀ p, (e p).fixed = p.fixed) : Fixes s (s.issueNext u e) := fixes_issue s h

/-- An instruction whose effect is that its sources are read and its result enters the window. -/
theorem fixes_settle (xs : State → List Src) (r : State → WinEntry) : Fixes s (s.issueNext u fun p => p.settle (xs p) (r p)) :=
  fixes_issueNext s fun p => p.settle_fixed (xs p) (r p)

theorem fixes_vector (srcs : List Src) (d : Src) (t : State → Option Tag) (f : State → Tag → Result) :
    Fixes s (s.vector i srcs d t f) := by unfold State.vector; exact fixes_settle ..

theorem fixes_scalarOp (srcs : List SOp) (d : SOp) (cc : Bool) (f : State → Word × Word × Option Bool) :
    Fixes s (s.scalarOp i srcs d cc f) := by unfold State.scalarOp; exact fixes_settle ..

theorem fixes_packed (srcs : List Src) (d : VOp) (ts : List Tag) (signed : Bool) (m : Narrow) (op : Int → Int → Int → Int) :
    Fixes s (s.packed i srcs d ts signed m op) := by unfold State.packed; exact fixes_vector ..

theorem fixes_bitwise (srcs : List Src) (d : VOp) (g : List Word → Word) : Fixes s (s.bitwise i srcs d g) := by
  unfold State.bitwise; exact fixes_vector ..

theorem fixes_carry (srcs : List Src) (a b d : VOp) (sub : Bool) : Fixes s (s.carry i srcs a b d sub) := by
  unfold State.carry; exact fixes_settle ..

theorem fixes_compare (srcs : List Src) (d : VOp) (holds : List Word → Bool) : Fixes s (s.compare i srcs d holds) := by
  unfold State.compare; exact fixes_settle ..

theorem fixes_divide (a b d : VOp) (k : BitVec 4) (signed : Bool) : Fixes s (s.divide i a b d k signed) := by
  unfold State.divide; exact fixes_settle ..

theorem fixes_float (srcs : List (VOp × BitVec 1)) (d : VOp) (ts : List Tag) (l : Option (BitVec 4))
    (g : State → Tag → List Nat → Nat × Word) : Fixes s (s.float i srcs d ts l g) := by
  unfold State.float; exact fixes_settle ..

theorem fixes_residue (srcs : List Src) (d : VOp) (op : List Int → Int) : Fixes s (s.residue i srcs d op) := by
  unfold State.residue; exact fixes_settle ..

end

/-- The instruction is no register instruction and no branch, or it leaves that part of the machine. -/
def RegisterFixes (s : State) (i : Instr) : Prop := registerOnly i = true → Fixes s (exec i s)

theorem RegisterFixes.of_other {s : State} {i : Instr} (h : registerOnly i = false) : RegisterFixes s i :=
  fun hi => Bool.noConfusion (h.symm.trans hi)

theorem RegisterFixes.of_exec {s : State} {i : Instr} (h : Fixes s (exec i s)) : RegisterFixes s i := fun _ => h

/-- Every register instruction and every branch leaves that part of the machine as it was. -/
theorem exec_fixes (i : Instr) (s : State) : RegisterFixes s i := by
  induction i with
  | nop | blk | lit | litHi =>
    refine .of_exec ?_
    dsimp only [exec, execNop, execBlk, execLit, execLitHi]
    exact fixes_issueNext s fun p => State.enter_fixed _ .blank
  | yield =>
    refine .of_exec ?_
    dsimp only [exec, execYield]
    exact fixes_issueNext s fun p => (State.enter_fixed _ .blank).trans (State.fixed_of_warp p.warp.drain_fixed)
  | bra | bnz | bz =>
    refine .of_exec ?_
    dsimp only [exec, execBra, execBnz, execBz]
    exact fixes_issue s fun p => State.enter_fixed _ .blank
  | call | jmpr | ret =>
    refine .of_exec ?_
    dsimp only [exec, execCall, execJmpr, execRet]
    exact fixes_issue s fun p => State.settle_fixed _ _ _
  | sel | addsubw | sldc | sget | fcmp | fdot2 | idot4 | rmac | renc | cvt | ocmovRd | ocmovWr | lds | xget | barCount =>
    refine .of_exec ?_
    dsimp only [exec, execSel, execAddsubw, execSldc, execSget, execFcmp, execFdot2, execIdot4, execRmac, execRenc, execCvt, execOcmovRd,
      execOcmovWr, execLds, execXget, execBarCount]
    exact fixes_settle ..
  | iadd | isub =>
    refine .of_exec ?_
    dsimp only [exec, execIadd, execIsub]
    split
    · exact fixes_carry ..
    · exact fixes_packed ..
  | imul | imad | imin | imax | iabs | lea | iaddi | imuli =>
    refine .of_exec ?_
    dsimp only [exec, execImul, execImad, execImin, execImax, execIabs, execLea, execIaddi, execImuli]
    exact fixes_packed ..
  | andFam | orFam | xorFam | shiftFam | bfx | bfi | bitFam | andi | ori | xori | shli | shri | sari =>
    refine .of_exec ?_
    dsimp only [exec, execAndFam, execOrFam, execXorFam, execShiftFam, execBfx, execBfi, execBitFam, execAndi, execOri, execXori, execShli,
      execShri, execSari]
    exact fixes_bitwise ..
  | icmp | icmpn | icmpieq | icmpilt | icmpine =>
    refine .of_exec ?_
    dsimp only [exec, execIcmp, execIcmpn, execIcmpieq, execIcmpilt, execIcmpine]
    exact fixes_compare ..
  | mulw | shfl | vote | vred | movi | tag | mov | movD =>
    refine .of_exec ?_
    dsimp only [exec, execMulw, execShfl, execVote, execVred, execMovi, execTag, execMov, execMovD]
    exact fixes_vector ..
  | idiv | ndiv =>
    refine .of_exec ?_
    dsimp only [exec, execIdiv, execNdiv]
    exact fixes_divide ..
  | sadd | ssub | smul | slog | sshf | scmp | ssel | saddi | smovi | sminmax =>
    refine .of_exec ?_
    dsimp only [exec, execSadd, execSsub, execSmul, execSlog, execSshf, execScmp, execSsel, execSaddi, execSmovi, execSminmax]
    exact fixes_scalarOp ..
  | fadd | fsub | fmul | ffma | fminmax | fsign | frcp | frsq | fsqrt | fexp2 | flog2 | fsin | fcos | fdiv | fround =>
    refine .of_exec ?_
    dsimp only [exec, execFadd, execFsub, execFmul, execFfma, execFminmax, execFsign, execFrcp, execFrsq, execFsqrt, execFexp2, execFlog2,
      execFsin, execFcos, execFdiv, execFround]
    exact fixes_float ..
  | radd | rmul | rneg =>
    refine .of_exec ?_
    dsimp only [exec, execRadd, execRmul, execRneg]
    exact fixes_residue ..
  | rcrt =>
    refine .of_exec ?_
    dsimp only [exec, execRcrt]
    split <;> exact fixes_settle ..
  | _ => exact .of_other rfl

theorem registerInstructionsLeaveTheRest : RegisterInstructionsLeaveTheRest := by
  intro i s t hi ht
  have h := (exec_fixes i s hi).next ht
  have state {β : Type} (p : State → β) : p t.fixed = p s.fixed := congrArg p h
  have team {β : Type} (p : Team → β) : p t.team.fixed = p s.team.fixed := congrArg (fun u => p u.team) h
  have warp {β : Type} (p : Warp → β) : p t.warp.fixed = p s.warp.fixed := congrArg (fun u => p u.warp) h
  exact ⟨state (·.mem), state (·.home), state (·.poison), state (·.dies), state (·.pkg),
    state (·.launches), team (·.scratch), team (·.bars), team (·.convs), team (·.mops), team (·.copies), team (·.tries),
    warp (·.tepc), warp (·.tcause), warp (·.tdepth), warp (·.shadow), warp (·.fsh), warp (·.fshn), warp (·.slots), warp (·.live),
    warp (·.wb), warp (·.swb), warp (·.vvg), warp (·.monto), warp (·.wct), warp (·.rgn), warp (·.tries), warp (·.record)⟩

end Sys2Proof.Machine
end

section
/-! Frames of loads and stores: what they leave as it was beside the bytes and the registers that they name (R220, R226, R127, R128). -/

namespace Sys2Proof.Machine

open Sys2Proof.Claims

/-! ## The registers of a warp -/

/-- The registers of a warp beside its main file: its scalars, flags, exception registers and operand cache. -/
noncomputable def Warp.specials (w : Warp) := (w.frm, w.ccl, w.lit, w.tepc, w.tcause, w.tdepth, w.oc, w.sregs)

/-- The registers of v are those of w, but for the main-file registers that are named. -/
structure Warp.SameBut (named : Nat → Prop) (v w : Warp) : Prop where
  specials : v.specials = w.specials
  value {q : Nat} (hq : q < 256) (hnamed : ¬ named q) : v.value q = w.value q

section

variable {named : Nat → Prop} {v w x : Warp}

theorem Warp.SameBut.trans (h : v.SameBut named w) (h' : w.SameBut named x) : v.SameBut named x where
  specials := h.specials.trans h'.specials
  value hq hnamed := (h.value hq hnamed).trans (h'.value hq hnamed)

theorem Warp.SameBut.of_none (h : v.SameBut (fun _ => False) w) : v.SameBut named w where
  specials := h.specials
  value hq _ := h.value hq id

theorem Warp.SameBut.of_besidesBanks (h : v.besidesBanks = w.besidesBanks) (hvalue : ∀ q, q < 256 → ¬ named q → v.value q = w.value q) :
    v.SameBut named w where
  specials := Warp.same_of_besidesBanks Warp.specials (fun _ => rfl) h
  value hq hnamed := hvalue _ hq hnamed

theorem Warp.SameBut.read (h : v.SameBut named w) {q : Nat} (hq : q < 256) (hnamed : ¬ named q) :
    v.regData q = w.regData q ∧ v.regTag q = w.regTag q := by
  have hvalue := h.value hq hnamed
  rw [Warp.value_eq, Warp.value_eq] at hvalue
  exact Prod.mk.inj hvalue

end

theorem State.prelude_sameBut (s : State) : s.prelude.warp.SameBut (fun _ => False) s.warp := by
  have hdrain : (if s.switches then s.warp.drain else s.warp).SameBut (fun _ => False) s.warp := by
    split
    · exact .of_besidesBanks s.warp.drain_besidesBanks fun q hq _ => s.warp.drain_value q hq
    · exact ⟨rfl, fun _ _ => rfl⟩
  exact ⟨hdrain.specials, fun hq hnamed => hdrain.value hq hnamed⟩

theorem Warp.sameBut_of_besidesMonws {v w : Warp} (h : v.besidesMonws = w.besidesMonws) : v.SameBut (fun _ => False) w where
  specials := (congrArg Warp.specials h :)
  value {q} _ _ := (congrArg (fun w => w.value q) h :)

/-- The entry of a word without a result changes no register. -/
theorem State.enterInvalid_sameBut (s : State) : s.enterInvalid.warp.SameBut (fun _ => False) s.warp :=
  .of_besidesBanks s.enterInvalid_besidesBanks fun q hq _ =>
    Warp.push_value_other (s.warp.orFlags 0) { WinEntry.blank with seq := s.nextId } q hq fun _ hx => absurd hx List.not_mem_nil

/-- A load makes no register other than its destinations read otherwise. -/
theorem Warp.awaitLoads_sameBut (ps : List Place) (w : Warp) : (ps.foldl Warp.awaitLoad w).SameBut (fun q => .reg q ∈ ps) w := by
  induction ps generalizing w with
  | nil => exact ⟨rfl, fun _ _ => rfl⟩
  | cons p ps ih =>
    have hone : (w.awaitLoad p).SameBut (fun q => .reg q ∈ p :: ps) w := by
      cases p with
      | reg r =>
        refine .of_besidesBanks rfl fun q hq hnamed => ?_
        have hne : q ≠ r := fun he => hnamed (he ▸ List.mem_cons_self)
        unfold Warp.value Warp.awaitLoad Warp.setPending
        rw [Warp.bankReg_setBank_other _ _ hne]
        simp only [Warp.setBank, Warp.killReg, ← List.map_append]
        exact valueOf_killReg_other hne _ _
      | _ => exact ⟨rfl, fun _ _ => rfl⟩
    have hrest := ih (w.awaitLoad p)
    exact ⟨hrest.specials.trans hone.specials, fun hq hnamed =>
      (hrest.value hq fun h => hnamed (List.mem_cons_of_mem _ h)).trans (hone.value hq hnamed)⟩

theorem Warp.SameBut.fields {named : Nat → Prop} {v w : Warp} (h : v.SameBut named w) :
    v.frm = w.frm ∧ v.ccl = w.ccl ∧ v.lit = w.lit ∧ v.tepc = w.tepc ∧ v.tcause = w.tcause ∧ v.tdepth = w.tdepth ∧ v.oc = w.oc ∧
      v.sregs = w.sregs := by
  simpa only [Warp.specials, Prod.mk.injEq] using h.specials

theorem wentOn_sameBut (s : State) : (wentOn s).warp.SameBut (fun _ => False) s.warp := ⟨rfl, fun _ _ => rfl⟩

/-! ## What an access leaves of the rest of the machine -/

theorem State.sampleFor_keeps {β : Type} (p : State → β) (hp : ∀ (s : State) c, p { s with core := c } = p s) (s : State) (o : Origin)
    (k : Access) (vas : List (BitVec 64)) (red : Bool) : p (s.sampleFor o k vas red) = p s := by
  unfold State.sampleFor
  split
  · rfl
  · exact State.foldl_keeps p _ (fun s _ => hp s _) _ s

theorem State.sendLoads_keeps {β : Type} (p : State → β) (hp : ∀ (s : State) n k, p { s with nextId := n, pkg := k } = p s) (s : State)
    (k : Nat) (lanes : List LaneLoad) : p (s.sendLoads k lanes) = p s := by
  unfold State.sendLoads
  refine State.foldl_keeps p _ (fun s line => ?_) _ s
  split
  · exact hp s _ _
  · rfl

theorem State.forkLoad_keeps {β : Type} (p : State → β) (hcore : ∀ (s : State) c, p { s with core := c } = p s)
    (hpkg : ∀ (s : State) n k, p { s with nextId := n, pkg := k } = p s) (hwarp : ∀ (s : State) w n, p { s with warp := w, nextId := n } = p s)
    (c : State) (k : Nat) (kind : SlotKind) (ps : List Place) (lanes : List LaneLoad) (opcode : Nat) (vas : List (BitVec 64)) :
    p (c.forkLoad k kind ps lanes opcode vas) = p c :=
  (State.sampleFor_keeps p hcore ..).trans ((State.sendLoads_keeps p hpkg ..).trans (hwarp c _ _))

/-! ## Loads -/

/-- The registers of a load's destination. -/
def State.named (s : State) (d : VOp) (n q : Nat) : Prop := ∃ j, j < n ∧ s.place d j = .reg q

/-- A load that passes its checks leaves memory and the homes as its translations have set them, and every register that it does not name. -/
theorem State.load_frame {s : State} {i : Instr} {opcode : Nat} {d a b : VOp} {n k : Nat} {kind : SlotKind}
    (h : Goes s fun _ => loadUses i d a b n k) {lanes : List LaneLoad}
    (hlanes : (s.prelude.check .load (4 * n) (s.prelude.loadAddrs a b)).2 = .ok lanes) :
    ∃ t, s.load i opcode d a b n k kind = .next t ∧ t.mem = (s.prelude.check .load (4 * n) (s.prelude.loadAddrs a b)).1.mem ∧
      t.home = (s.prelude.check .load (4 * n) (s.prelude.loadAddrs a b)).1.home ∧ t.team.scratch = s.team.scratch ∧
      t.warp.SameBut (s.prelude.named d n) s.warp := by
  unfold State.load
  rw [State.attempt_goes _ h.1 h.2.1 h.2.2]
  dsimp only
  rw [State.loadAddrs_eq, hlanes]
  have hcheck := s.prelude.check_besidesMemory .load (4 * n) (s.prelude.loadAddrs a b) false
  generalize (s.prelude.check .load (4 * n) (s.prelude.loadAddrs a b)).1 = c at hcheck ⊢
  have hteam : c.team = s.team := (congrArg State.team hcheck :)
  have hchecked : c.warp.SameBut (s.prelude.named d n) s.warp :=
    ((Warp.sameBut_of_besidesMonws (congrArg State.warp hcheck :)).trans s.prelude_sameBut).of_none
  have hawait := Warp.awaitLoads_sameBut ((List.range n).map fun j => s.prelude.place d j) c.warp
  have hnamed : ∀ {q : Nat}, ¬ s.prelude.named d n q → .reg q ∉ (List.range n).map fun j => s.prelude.place d j := by
    intro q hq hmem
    obtain ⟨j, hj, hplace⟩ := List.mem_map.1 hmem
    exact hq ⟨j, List.mem_range.1 hj, hplace⟩
  generalize (List.range n).map (fun j => s.prelude.place d j) = ps at hawait hnamed ⊢
  have hforked : (c.forkLoad k kind ps lanes opcode ((s.prelude.loadAddrs a b).map (·.2))).warp.SameBut (s.prelude.named d n) c.warp := by
    rw [State.forkLoad_warp]
    exact ⟨hawait.specials, fun hq hn => hawait.value hq (hnamed hn)⟩
  have hmem : (c.forkLoad k kind ps lanes opcode ((s.prelude.loadAddrs a b).map (·.2))).mem = c.mem :=
    State.forkLoad_keeps State.mem (fun _ _ => rfl) (fun _ _ _ => rfl) (fun _ _ _ => rfl) ..
  have hhome : (c.forkLoad k kind ps lanes opcode ((s.prelude.loadAddrs a b).map (·.2))).home = c.home :=
    State.forkLoad_keeps State.home (fun _ _ => rfl) (fun _ _ _ => rfl) (fun _ _ _ => rfl) ..
  have hscratch : (c.forkLoad k kind ps lanes opcode ((s.prelude.loadAddrs a b).map (·.2))).team.scratch = c.team.scratch :=
    State.forkLoad_keeps (·.team.scratch) (fun _ _ => rfl) (fun _ _ _ => rfl) (fun _ _ _ => rfl) ..
  refine ⟨_, rfl, ?_, ?_, ?_, ?_⟩
  · exact (State.enter_mem _ .blank).trans hmem
  · exact (State.enter_home _ .blank).trans hhome
  · exact hscratch.trans (congrArg Team.scratch hteam)
  · exact (((wentOn_sameBut _).trans (State.enterInvalid_sameBut _)).of_none.trans hforked).trans hchecked

end Sys2Proof.Machine
end

section
/-! Frames of stores: the updates that they send, and the bytes that those change (R200, R201, R226). -/

namespace Sys2Proof.Machine

open Sys2Proof.Claims

/-! ## Updates that stand at the homes -/

/-- Every update that stands at a home is one of P. -/
def PendsOnly (P : Update → Prop) (l : List HomeLine) : Prop := ∀ h ∈ l, ∀ u ∈ h.pend, P u

section

variable {P : Update → Prop} {s : State}

theorem PendsOnly.homeLine (h : PendsOnly P s.home) (line : Nat) : ∀ u ∈ (s.homeLine line).pend, P u := by
  unfold State.homeLine
  split
  next x hx => exact h x (List.mem_of_find?_eq_some hx)
  next => exact fun _ hu => absurd hu List.not_mem_nil

theorem PendsOnly.setHomeLine (h : PendsOnly P s.home) {x : HomeLine} (hx : ∀ u ∈ x.pend, P u) : PendsOnly P (s.setHomeLine x).home := by
  intro y hy
  rcases List.mem_cons.1 hy with rfl | hy
  · exact hx
  · exact h y (List.mem_filter.1 hy).1

theorem PendsOnly.forgetLine (h : PendsOnly P s.home) {x : HomeLine} (hx : x ∈ s.home) : PendsOnly P (s.forgetLine x).home := by
  unfold State.forgetLine
  split
  · exact h.setHomeLine (x := { x with cached := false }) (h x hx)
  · exact fun y hy => h y (List.mem_filter.1 hy).1

theorem PendsOnly.cacheLine (h : PendsOnly P s.home) (line : Nat) : PendsOnly P (s.cacheLine line).home := by
  have hkeep : ∀ t : State, PendsOnly P t.home → PendsOnly P (t.setHomeLine { t.homeLine line with cached := true }).home :=
    fun t ht => ht.setHomeLine (x := { t.homeLine line with cached := true }) (ht.homeLine line)
  unfold State.cacheLine
  dsimp only
  split
  · exact h
  · refine hkeep _ ?_
    split
    · exact h
    · cases hlast : (s.home.filter fun x => x.cached && sliceNo x.line == sliceNo line).getLast? with
      | none => exact h
      | some x => exact h.forgetLine (List.mem_filter.1 (List.mem_of_getLast? hlast)).1

end

/-- No update that stands at a home is due. -/
def State.NoneDue (s : State) : Prop := PendsOnly (fun u => s.gtc < u.tw) s.home

theorem State.NoneDue.settleHome {s : State} (h : s.NoneDue) (line : Nat) : s.settleHome line = s := by
  unfold State.settleHome
  cases hpend : (s.homeLine line).pend with
  | nil => rfl
  | cons u us =>
    have htw : s.gtc < u.tw := h.homeLine line u (hpend ▸ List.mem_cons_self)
    rw [List.length_cons, State.settleLine, hpend]
    exact if_neg fun hdue => Nat.not_le.2 htw hdue.1

theorem State.NoneDue.settleDue {s : State} (h : s.NoneDue) : s.settleDue = s := List.foldl_fixed' h.settleHome _

/-! ## The checks of an access where no update is due -/

/-- What translations leave where no update is due: none is, memory keeps its form, and the L1 its lines and its copies of RATs. -/
structure State.Walked (s t : State) : Prop where
  noneDue : t.NoneDue
  wf : Memory.wf s.mem = true → Memory.wf t.mem = true
  lines : t.core.lines = s.core.lines
  rats (id : Nat) : (s.core.rats.find? fun r => r.1 == id).isSome = true → (t.core.rats.find? fun r => r.1 == id).isSome = true

section

variable {s t u : State}

theorem State.Walked.refl (h : s.NoneDue) : s.Walked s := ⟨h, id, rfl, fun _ => id⟩

theorem State.Walked.trans (h : s.Walked t) (h' : t.Walked u) : s.Walked u :=
  ⟨h'.noneDue, h'.wf ∘ h.wf, h'.lines.trans h.lines, fun id => h'.rats id ∘ h.rats id⟩

theorem State.Walked.foldl {α : Type} {f : State → α → State} (hf : ∀ (s : State) a, s.NoneDue → s.Walked (f s a)) (l : List α) (h : s.NoneDue) :
    s.Walked (l.foldl f s) := by
  induction l generalizing s with
  | nil => exact .refl h
  | cons a l ih => exact (hf s a h).trans (ih (hf s a h).noneDue)

theorem State.NoneDue.slog (h : s.NoneDue) (line cls : Nat) (hit : Bool) (core requester : Nat) :
    s.Walked (s.slog line cls hit core requester) := by
  unfold State.slog
  dsimp only
  split <;> exact ⟨h, id, rfl, fun _ => id⟩

theorem State.NoneDue.beforeWalk (h : s.NoneDue) (c : Ctx) (va : BitVec 64) (core : Nat) : s.Walked (s.beforeWalk c va core) := by
  unfold State.beforeWalk
  rw [h.settleDue]
  exact State.Walked.foldl (fun s pa hs => hs.slog _ _ _ _ _) _ h

theorem State.NoneDue.swapPte (h : s.NoneDue) {core pa : Nat} {pte : Dword} (ht : s.swapPte core pa pte = some t) : s.Walked t := by
  unfold State.swapPte at ht
  dsimp only at ht
  split at ht
  · cases ht
    have hset : s.Walked ((({ s with mem := Memory.writeNat s.mem pa 8 pte.toNat } : State).setHomeLine
        { s.homeLine (lineOf pa) with lastTw := s.gtc }).fire (lineOf pa)) :=
      ⟨PendsOnly.setHomeLine h (x := { s.homeLine (lineOf pa) with lastTw := s.gtc }) (h.homeLine _), Memory.wf_writeNat _ _ _, rfl,
        fun _ => id⟩
    exact hset.trans (hset.noneDue.slog _ _ _ _ _)
  · cases ht

theorem State.NoneDue.ite_swapPte (h : s.NoneDue) {p : Prop} [Decidable p] {core pa : Nat} {pte : Dword}
    (ht : (if p then some s else s.swapPte core pa pte) = some t) : s.Walked t := by
  by_cases hp : p
  · rw [if_pos hp] at ht
    cases ht
    exact .refl h
  · rw [if_neg hp] at ht
    exact h.swapPte ht

theorem State.NoneDue.translate (h : s.NoneDue) (c : Ctx) (k : Access) (priv : Bool) (va : BitVec 64) (pipe : Nat) :
    s.Walked (s.translate c k priv va pipe).1 := by
  unfold State.translate
  dsimp only
  split
  · exact .refl h
  split
  · split
    · split <;> exact .refl h
    · exact .refl h
  rw [h.settleDue]
  have hbefore := h.beforeWalk c va (logCore s.core.num)
  split
  · exact .refl h
  split
  · exact hbefore
  · exact hbefore
  · exact hbefore
  · split
    · split
      · exact hbefore
      next t ht =>
        have hswap := hbefore.trans (hbefore.noneDue.ite_swapPte ht)
        split <;> exact ⟨hswap.noneDue, hswap.wf, hswap.lines, hswap.rats⟩
    · exact hbefore

theorem State.translate_wait {c : Ctx} {k : Access} {priv : Bool} {va : BitVec 64} {pipe : Nat}
    (h : (s.translate c k priv va pipe).2 ≠ .wait) : (s.core.rats.find? fun r => r.1 == c.id).isSome = true := by
  rw [← Option.not_isNone, Bool.not_eq_true']
  by_contra hnone
  refine h ?_
  unfold State.translate
  dsimp only
  rw [if_pos (Bool.not_eq_false _ ▸ hnone)]

theorem State.NoneDue.translateAll (h : s.NoneDue) (k : Access) (priv : Bool) (l : List (Nat × BitVec 64)) (pipe : Nat) :
    s.Walked (s.translateAll k priv l pipe).1 := by
  induction l generalizing s with
  | nil => exact .refl h
  | cons a l ih => exact (h.translate s.ctx k priv a.2 pipe).trans (ih (h.translate s.ctx k priv a.2 pipe).noneDue)

/-- An address is translated with a copy of the RAT in the core. -/
theorem State.NoneDue.translateAll_rats (h : s.NoneDue) {k : Access} {priv : Bool} {l : List (Nat × BitVec 64)} {pipe : Nat} {x : Xlated}
    (hx : x ∈ (s.translateAll k priv l pipe).2) (hout : x.out ≠ .wait) :
    ((s.translateAll k priv l pipe).1.core.rats.find? fun r => r.1 == s.ctx.id).isSome = true := by
  induction l generalizing s with
  | nil => cases hx
  | cons a l ih =>
    have hone := h.translate s.ctx k priv a.2 pipe
    rcases List.mem_cons.1 hx with rfl | hx
    · exact (hone.noneDue.translateAll k priv l pipe).rats _ (hone.rats _ (State.translate_wait hout))
    · have hctx : (s.translate s.ctx k priv a.2 pipe).1.ctx = s.ctx := (congrArg State.ctx (s.translate_besidesMemory _ _ _ _ _) :)
      exact hctx ▸ ih hone.noneDue hx

theorem State.NoneDue.useRat (h : s.NoneDue) (c : Ctx) : s.Walked (s.useRat c) := by
  unfold State.useRat
  split
  · exact .refl h
  · rw [h.settleDue]
    dsimp only
    split
    · exact .refl h
    · refine ⟨h, id, rfl, fun id hid => ?_⟩
      rw [List.find?_cons]
      split
      · rfl
      · exact hid

theorem State.NoneDue.check (h : s.NoneDue) (k : Access) (width : Nat) (l : List (Nat × BitVec 64)) (red : Bool) :
    s.Walked (s.check k width l red).1 := by
  have hx := (h.useRat s.ctx).trans ((h.useRat s.ctx).noneDue.translateAll k s.privileged l 0)
  unfold State.check
  dsimp only
  split
  · exact hx
  · split
    · exact hx
    · split <;> exact hx

/-- A lane whose address the checks find has a copy of the RAT in its core. -/
theorem State.NoneDue.check_rats (h : s.NoneDue) {k : Access} {width : Nat} {l : List (Nat × BitVec 64)} {red : Bool} {lanes : List LaneLoad}
    (hlanes : (s.check k width l red).2 = .ok lanes) {a : LaneLoad} (ha : a ∈ lanes) :
    ((s.check k width l red).1.core.rats.find? fun r => r.1 == s.ctx.id).isSome = true := by
  have hctx : (s.useRat s.ctx).ctx = s.ctx := (congrArg State.ctx (s.useRat_besidesMemory s.ctx) :)
  have hrats := fun {x} => (h.useRat s.ctx).noneDue.translateAll_rats (k := k) (priv := s.privileged) (l := l) (pipe := 0) (x := x)
  rw [hctx] at hrats
  unfold State.check at hlanes ⊢
  dsimp only at hlanes ⊢
  split at hlanes
  · cases hlanes
  next hwait =>
    rw [if_neg hwait]
    split at hlanes
    · cases hlanes
    · split at hlanes
      · cases hlanes
      · cases hlanes
        obtain ⟨x, hx, hout⟩ := List.mem_filterMap.1 ha
        have hx' := hrats hx (by rintro he; rw [he] at hout; cases hout)
        split <;> exact hx'

end

end Sys2Proof.Machine
end

section
namespace Sys2Proof.Machine

open Sys2Proof.Claims

/-! ## Stores: the updates that they send, and the bytes that those change (R200, R201, R226) -/

/-- An update is the store of a width by one of the lanes, and no miss of it counts. -/
def Update.StoreOf (u : Update) (lanes : List LaneLoad) (width : Nat) : Prop :=
  u.counted = false ∧ ∃ l ∈ lanes, ∃ d : List Byte, u.pa = l.pa ∧ u.kind = .bytes d ∧ d.length = width

/-- What stores of the lanes make of a state c: memory differs from that of c in their bytes alone, no update is due but theirs, and the
core has n lines at most in its L1. -/
structure State.Stored (c : State) (lanes : List LaneLoad) (width n : Nat) (t : State) : Prop where
  wf : Memory.wf t.mem = true
  read (x : Nat) : (∀ l ∈ lanes, x < l.pa ∨ l.pa + width ≤ x) → Memory.read t.mem x = Memory.read c.mem x
  pend : PendsOnly (fun u => c.gtc < u.tw ∨ u.StoreOf lanes width) t.home
  gtc : t.gtc = c.gtc
  ctx : t.ctx = c.ctx
  rats : t.core.rats = c.core.rats
  lines : t.core.lines.length ≤ n

section

variable {c t v : State} {lanes : List LaneLoad} {width n : Nat} {u : Update}

theorem State.Stored.of_eq (h : c.Stored lanes width n t) (hmem : v.mem = t.mem) (hhome : v.home = t.home) (hgtc : v.gtc = t.gtc)
    (hctx : v.ctx = t.ctx) (hcore : v.core = t.core) : c.Stored lanes width n v :=
  ⟨hmem ▸ h.wf, fun x hx => hmem ▸ h.read x hx, hhome ▸ h.pend, hgtc.trans h.gtc, hctx.trans h.ctx, hcore ▸ h.rats, hcore ▸ h.lines⟩

theorem State.Stored.of_home (h : c.Stored lanes width n t) {l : List HomeLine} {e : List (Nat × Nat)}
    (hl : PendsOnly (fun u => c.gtc < u.tw ∨ u.StoreOf lanes width) l) : c.Stored lanes width n { t with home := l, evicted := e } :=
  ⟨h.wf, h.read, hl, h.gtc, h.ctx, h.rats, h.lines⟩

theorem State.Stored.setHomeLine (h : c.Stored lanes width n t) {x : HomeLine}
    (hx : ∀ u ∈ x.pend, c.gtc < u.tw ∨ u.StoreOf lanes width) : c.Stored lanes width n (t.setHomeLine x) :=
  h.of_home (h.pend.setHomeLine hx)

theorem State.forgetLine_eq (s : State) (x : HomeLine) :
    s.forgetLine x = { s with home := (s.forgetLine x).home, evicted := (s.forgetLine x).evicted } := by
  unfold State.forgetLine; split <;> rfl

theorem State.cacheLine_eq (s : State) (line : Nat) :
    s.cacheLine line = { s with home := (s.cacheLine line).home, evicted := (s.cacheLine line).evicted } := by
  unfold State.cacheLine
  dsimp only
  split
  · rfl
  · split
    · rfl
    · cases (List.getLast? _ : Option HomeLine) with
      | none => rfl
      | some x => rw [Option.map_some, Option.getD_some, s.forgetLine_eq x]; rfl

theorem State.Stored.cacheLine (h : c.Stored lanes width n t) (line : Nat) : c.Stored lanes width n (t.cacheLine line) := by
  rw [State.cacheLine_eq]
  exact h.of_home (h.pend.cacheLine line)

theorem State.Stored.slog (h : c.Stored lanes width n t) (line cls : Nat) (hit : Bool) (core requester : Nat) :
    c.Stored lanes width n (t.slog line cls hit core requester) := by
  unfold State.slog
  dsimp only
  split <;> exact h.of_eq rfl rfl rfl rfl rfl

/-- A home that performs a lane's store changes its bytes. -/
theorem State.Stored.performUpdate (h : c.Stored lanes width n t) (hu : u.StoreOf lanes width) (hit : Bool) :
    c.Stored lanes width n (t.performUpdate u hit) := by
  obtain ⟨hcounted, l, hl, d, hpa, hkind, hlen⟩ := hu
  have hwrite : c.Stored lanes width n (({ t with mem := u.perform t.mem } : State).fire (lineOf u.pa)) := by
    have hperform : u.perform t.mem = Memory.writeBytes t.mem u.pa d := by rw [Update.perform, hkind]
    refine ⟨?_, fun x hx => ?_, h.pend, h.gtc, h.ctx, h.rats, h.lines⟩
    · exact hperform ▸ Memory.wf_writeBytes _ _ h.wf
    · have hother := Memory.read_writeBytes_other (b := x) d (hlen ▸ hpa ▸ hx l hl) h.wf
      exact (hperform ▸ hother).trans (h.read x hx)
  unfold State.performUpdate
  rw [hkind, hcounted, Bool.and_false]
  dsimp only
  rw [if_neg Bool.false_ne_true]
  split
  · exact hwrite
  · exact hwrite.slog _ _ _ _ _

theorem State.Stored.performFirst (h : c.Stored lanes width n t) {line : Nat} {us : List Update} (hpend : (t.homeLine line).pend = u :: us)
    (hu : u.StoreOf lanes width) : c.Stored lanes width n (t.performFirst line) := by
  have hrest : ∀ v ∈ us, c.gtc < v.tw ∨ v.StoreOf lanes width :=
    fun v hv => h.pend.homeLine line v (hpend ▸ List.mem_cons_of_mem _ hv)
  have hset := h.setHomeLine (x := { t.homeLine line with pend := us, cached := (t.homeLine line).cached && u.alloc }) hrest
  unfold State.performFirst
  dsimp only
  rw [hpend]
  refine State.Stored.performUpdate ?_ hu _
  split
  · exact hset.cacheLine line
  · exact hset

theorem State.Stored.settleLine (h : c.Stored lanes width n t) (line k : Nat) : c.Stored lanes width n (t.settleLine line k) := by
  induction k generalizing t with
  | zero => exact h
  | succ k ih =>
    unfold State.settleLine
    split
    next u us hpend =>
      split
      next hdue =>
        refine ih (h.performFirst hpend ((h.pend.homeLine line u (hpend ▸ List.mem_cons_self)).resolve_left fun htw => ?_))
        exact Nat.not_le.2 htw (h.gtc ▸ hdue.1)
      next => exact h
    next => exact h

theorem State.Stored.dispatch (h : c.Stored lanes width n t) (hu : u.StoreOf lanes width) : c.Stored lanes width n (t.dispatch u).1 := by
  unfold State.dispatch
  split
  · exact h.of_eq rfl rfl rfl rfl rfl
  · have hsettled := h.settleLine (lineOf u.pa) (t.homeLine (lineOf u.pa)).pend.length
    have hnumber : c.Stored lanes width n { t.settleHome (lineOf u.pa) with nextId := (t.settleHome (lineOf u.pa)).nextId + 1 } :=
      hsettled.of_eq rfl rfl rfl rfl rfl
    refine hnumber.setHomeLine fun v hv => ?_
    rcases List.mem_append.1 hv with hv | hv
    · exact hsettled.pend.homeLine _ v hv
    · cases List.mem_singleton.1 hv
      exact .inr hu

theorem State.Stored.writeOwn (h : c.Stored lanes width n t) (u : Update) : c.Stored lanes width n (t.writeOwn u) := by
  unfold State.writeOwn
  split
  · exact ⟨h.wf, h.read, h.pend, h.gtc, h.ctx, h.rats, (List.length_map _).trans_le h.lines⟩
  · exact h

theorem State.Stored.emit (h : c.Stored lanes width n t) (hu : u.StoreOf lanes width) : c.Stored lanes width n (t.emit u) := by
  have hwrote : c.Stored lanes width n (if target u.pa ≠ .host then t
      else if u.who = 0 ∧ u.warp ≠ anyWarp then t.onWarp u.team u.warp fun w => { w with hostWritten := true }
      else t.onTeamWarps u.team fun w => { w with hostWritten := true }) := by
    split
    · exact h
    · split <;> exact h.of_eq rfl rfl rfl rfl rfl
  unfold State.emit
  split
  · exact h.of_eq rfl rfl rfl rfl rfl
  · refine State.Stored.of_eq (State.Stored.dispatch ?_ hu) rfl rfl rfl rfl rfl
    split
    · exact hwrote.writeOwn u
    · exact hwrote

/-- The RAT of the core in focus gives an address the attributes that it had. -/
theorem State.Stored.rat (h : c.Stored lanes width n t) (hrats : (c.core.rats.find? fun r => r.1 == c.ctx.id).isSome = true) (va : BitVec 64) :
    t.rat t.ctx va = c.rat c.ctx va := by
  obtain ⟨r, hr⟩ := Option.isSome_iff_exists.1 hrats
  have hcopy : ∀ s : State, s.core.rats = c.core.rats → s.ctx = c.ctx → s.ratCopy s.ctx = r.2 := by
    intro s hs hctx
    rw [State.ratCopy, hs, hctx, hr]
  rw [State.rat, State.rat, hcopy t h.rats h.ctx, hcopy c rfl rfl]

/-- The store of a lane whose range counts no miss, in an L1 with room. -/
theorem State.Stored.storeLane (h : c.Stored lanes width n t) (hrats : (c.core.rats.find? fun r => r.1 == c.ctx.id).isSome = true)
    {l : LaneLoad} (hl : l ∈ lanes) (hcount : (c.rat c.ctx l.va).count = false) {d : List Byte} (hd : d.length = width)
    (hroom : n < l1Lines) : c.Stored lanes width (n + 1) (t.storeLane l d) := by
  have hmore {v : State} (hv : c.Stored lanes width n v) : c.Stored lanes width (n + 1) v := { hv with lines := hv.lines.trans (Nat.le_succ n) }
  unfold State.storeLane
  split
  · exact hmore h
  dsimp only
  have hsigned : c.Stored lanes width n (t.signStore l d) := by
    unfold State.signStore
    split
    · exact h.of_eq rfl rfl rfl rfl rfl
    · exact h
  generalize t.signStore l d = s at hsigned
  have hu : (s.newUpdate l.va l.pa (.bytes d) true).StoreOf lanes width :=
    ⟨by simp [State.newUpdate, countsMiss, hsigned.rat hrats, hcount], l, hl, d, rfl, rfl, hd⟩
  split
  · exact hmore (hsigned.emit hu)
  · rw [State.makeRoom, if_pos (by simp [hsigned.lines.trans_lt hroom])]
    unfold State.noteHost
    have hlines {x : L1Line} : (s.core.setLine x).lines.length ≤ n + 1 :=
      Nat.succ_le_succ ((List.length_filter_le _ _).trans hsigned.lines)
    dsimp only
    split <;> exact ⟨hsigned.wf, hsigned.read, hsigned.pend, hsigned.gtc, hsigned.ctx, hsigned.rats, hlines⟩

theorem State.Stored.storeLanes (h : c.Stored lanes width n t) (hrats : (c.core.rats.find? fun r => r.1 == c.ctx.id).isSome = true)
    {f : Nat → List Byte} (hf : ∀ L, (f L).length = width) {ls : List LaneLoad} (hls : ls ⊆ lanes)
    (hcount : ∀ l ∈ lanes, (c.rat c.ctx l.va).count = false) (hroom : n + ls.length ≤ l1Lines) :
    c.Stored lanes width (n + ls.length) (t.storeLanes f ls) := by
  unfold State.storeLanes
  induction ls generalizing t n with
  | nil => exact h
  | cons l ls ih =>
    rw [List.length_cons, Nat.add_comm ls.length, ← Nat.add_assoc] at hroom ⊢
    have hl := hls List.mem_cons_self
    exact ih (h.storeLane hrats hl (hcount l hl) (hf _) (by omega)) (fun x hx => hls (List.mem_cons_of_mem _ hx)) hroom

end

end Sys2Proof.Machine
end

section
namespace Sys2Proof.Machine

open Sys2Proof.Claims

/-! ## What a store leaves of the warp and the team in focus -/

/-- What no store reaches of the warp and the team in focus: the registers, the scratchpad, and whether the team is paired. -/
noncomputable def State.keptByStores (s : State) := (s.warp.specials, s.warp.value, s.team.scratch, s.team.paired)

section

variable {s t : State}

theorem State.keptByStores_of_besidesMemory (h : t.besidesMemory = s.besidesMemory) : t.keptByStores = s.keptByStores :=
  (congrArg State.keptByStores h :)

/-- Warps of a kind have written to the host (R204). -/
theorem State.mapWarps_keptByStores (s : State) {p : Warp → Prop} [DecidablePred p] :
    (s.mapWarps fun w => if p w then { w with hostWritten := true } else w).keptByStores = s.keptByStores := by
  unfold State.mapWarps State.keptByStores
  dsimp only
  split <;> rfl

theorem State.noteHost_keptByStores (s : State) (ws : List (Nat × Nat)) (pa : Nat) : (s.noteHost ws pa).keptByStores = s.keptByStores := by
  unfold State.noteHost
  split
  · exact s.mapWarps_keptByStores
  · rfl

theorem State.dispatch_keptByStores (s : State) (u : Update) : (s.dispatch u).1.keptByStores = s.keptByStores := by
  unfold State.dispatch
  split
  · rfl
  · exact State.keptByStores_of_besidesMemory (s.settleHome_besidesMemory (lineOf u.pa))

theorem State.markDirty_besidesMemory {l : L1Line} (h : s.markDirty l = some t) : t.besidesMemory = s.besidesMemory := by
  have hwalk := s.beforeWalk_besidesMemory (s.ctxOf l.ctx) l.va (logCore s.core.num)
  unfold State.markDirty at h
  dsimp only at h
  split at h
  · exact (State.ite_swapPte_besidesMemory h).trans hwalk
  · cases h
    exact hwalk

theorem State.getD_markDirty_keptByStores (s : State) (l : L1Line) : ((s.markDirty l).getD s).keptByStores = s.keptByStores := by
  cases h : s.markDirty l with
  | none => rfl
  | some t => exact State.keptByStores_of_besidesMemory (State.markDirty_besidesMemory h)

theorem State.makeRoom_keptByStores {line : Nat} (h : s.makeRoom line = some t) : t.keptByStores = s.keptByStores := by
  unfold State.makeRoom at h
  split at h
  · cases h
    rfl
  · obtain ⟨l, -, rfl⟩ := Option.map_eq_some_iff.1 h
    unfold State.evictLine State.sendBack
    split
    · rfl
    · split
      · rfl
      · rw [State.dispatch_keptByStores, State.noteHost_keptByStores, State.getD_markDirty_keptByStores]
        rfl

theorem State.writeOwn_keptByStores (s : State) (u : Update) : (s.writeOwn u).keptByStores = s.keptByStores := by
  unfold State.writeOwn
  split <;> rfl

theorem State.sendUpdate_keptByStores (s : State) (u : Update) : (s.sendUpdate u).1.keptByStores = s.keptByStores := by
  unfold State.sendUpdate
  dsimp only
  rw [State.dispatch_keptByStores, apply_ite State.keptByStores, State.writeOwn_keptByStores, ite_self]
  split
  · rfl
  · split <;> exact s.mapWarps_keptByStores

theorem State.emit_keptByStores (s : State) (u : Update) : (s.emit u).keptByStores = s.keptByStores := by
  unfold State.emit
  split
  · rfl
  · exact s.sendUpdate_keptByStores u

theorem State.storeLane_keptByStores (s : State) (l : LaneLoad) (d : List Byte) : (s.storeLane l d).keptByStores = s.keptByStores := by
  have hsign : (s.signStore l d).keptByStores = s.keptByStores := by
    unfold State.signStore
    split <;> rfl
  unfold State.storeLane
  split
  · rfl
  refine Eq.trans ?_ hsign
  generalize s.signStore l d = v
  dsimp only
  split
  · exact v.emit_keptByStores _
  · split
    · exact v.emit_keptByStores _
    next t hroom => exact (State.noteHost_keptByStores _ _ _).trans (State.makeRoom_keptByStores hroom :)

theorem State.storeLanes_keptByStores (s : State) (f : Nat → List Byte) (lanes : List LaneLoad) :
    (s.storeLanes f lanes).keptByStores = s.keptByStores :=
  State.foldl_keeps State.keptByStores _ (fun s l => s.storeLane_keptByStores l _) lanes s

end

/-! ## The end of a store: the limit of what a paired team holds (R364) -/

theorem State.heldLimit_of_unpaired {s : State} (h : s.team.paired = false) : s.heldLimit = s := by
  unfold State.heldLimit
  split
  · rw [h, Bool.false_and, if_neg Bool.false_ne_true]
  · rfl

theorem State.focusTeam_mem {s t : State} {h : Nat} (ht : s.focusTeam h = some t) : t.mem = s.mem := by
  have hfocus (v : State) (n m k : Nat) : (((v.focusCore n).focusCtx m).focusLaunch k).mem = v.mem := by
    have hlaunch (v : State) : (v.focusLaunch k).mem = v.mem := by
      unfold State.focusLaunch
      split
      · rfl
      · split <;> rfl
    rw [hlaunch, State.focusCtx, apply_ite State.mem, ite_self, State.focusCore, apply_ite State.mem, ite_self]
  unfold State.focusTeam at ht
  obtain ⟨v, hv, rfl⟩ := Option.map_eq_some_iff.1 ht
  rw [hfocus]
  split at hv
  · cases hv; rfl
  · split at hv
    · cases hv
    · cases hv; rfl

theorem State.focusOn_mem {s t : State} {h w : Nat} (ht : s.focusOn h w = some t) : t.mem = s.mem := by
  unfold State.focusOn at ht
  split at ht
  · cases ht
  next v hv =>
    refine Eq.trans ?_ (State.focusTeam_mem hv)
    split at ht
    · split at ht
      · cases ht
      · cases ht; rfl
    · split at ht
      · cases ht
      · cases ht; rfl

theorem State.getD_mem {s : State} {o : Option State} (h : ∀ t, o = some t → t.mem = s.mem) : (o.getD s).mem = s.mem := by
  cases o with
  | none => rfl
  | some t => exact h t rfl

theorem State.backTo_mem (s before : State) : (s.backTo before).mem = s.mem := by
  unfold State.backTo
  dsimp only
  rw [State.getD_mem fun t => State.focusTeam_mem]
  have hteam := State.getD_mem fun t => State.focusTeam_mem (s := s) (h := before.warp.team) (t := t)
  split
  next hon => exact (State.focusOn_mem hon).trans hteam
  next => split <;> exact hteam

theorem State.throwAll_mem (s : State) (l : List (Option Holder × Thrower)) : (s.throwAll l).mem = s.mem :=
  (congrArg State.mem (s.throwAll_fixed l) :)

theorem State.teamThrow_mem (s : State) (h : Nat) (code : BitVec 16) (lanes : Warp → Mask) (pc : Option (BitVec 64)) (addr : BitVec 64) :
    (s.teamThrow h code lanes pc addr).mem = s.mem := by
  unfold State.teamThrow
  rw [State.backTo_mem]
  refine State.foldl_keeps State.mem _ (fun s w => ?_) _ s
  split
  · rfl
  · split
    · rfl
    next hon => exact (State.throwAll_mem _ _).trans (State.focusOn_mem hon)

theorem State.heldLimit_mem (s : State) : s.heldLimit.mem = s.mem := by
  unfold State.heldLimit
  dsimp only
  split
  · split
    · rw [State.teamThrow_mem, State.teamThrow_mem]
      rfl
    · rfl
  · rfl

end Sys2Proof.Machine
end

section
namespace Sys2Proof.Machine

open Sys2Proof.Claims

/-! ## Stores -/

/-- What a store that has passed its checks makes of the state c that they leave. -/
noncomputable def State.stored (c : State) (f : Nat → List Byte) (lanes : List LaneLoad) (opcode : Nat) (vas : List (BitVec 64)) : State :=
  (((c.storeLanes f lanes).sample opcode .store vas).enterInvalid.advance.heldLimit).finish

section

variable (c : State) (f : Nat → List Byte) (lanes : List LaneLoad) (opcode : Nat) (vas : List (BitVec 64))

theorem State.stored_mem : (c.stored f lanes opcode vas).mem = (c.storeLanes f lanes).mem :=
  (State.heldLimit_mem _).trans ((State.enter_mem _ .blank).trans (State.sampleFor_keeps State.mem (fun _ _ => rfl) ..))

/-- A store of a team that is not paired leaves the registers and the scratchpad. -/
theorem State.stored_registers (hpaired : c.team.paired = false) :
    (c.stored f lanes opcode vas).warp.SameBut (fun _ => False) c.warp ∧ (c.stored f lanes opcode vas).team.scratch = c.team.scratch := by
  have hkept : ((c.storeLanes f lanes).sample opcode .store vas).keptByStores = c.keptByStores :=
    (State.sampleFor_keeps State.keptByStores (fun _ _ => rfl) ..).trans (c.storeLanes_keptByStores f lanes)
  unfold State.stored
  generalize (c.storeLanes f lanes).sample opcode .store vas = v at hkept ⊢
  obtain ⟨hspecials, hvalue, hscratch, hpaired'⟩ := by simpa only [State.keptByStores, Prod.mk.injEq] using hkept
  have hwarp : v.warp.SameBut (fun _ => False) c.warp := ⟨hspecials, fun {q} _ _ => congrFun hvalue q⟩
  rw [State.heldLimit_of_unpaired (s := v.enterInvalid.advance) (hpaired'.trans hpaired)]
  exact ⟨((wentOn_sameBut _).trans (State.enterInvalid_sameBut v)).trans hwarp, hscratch⟩

end

/-- A store changes no byte outside its lanes', and no register. -/
theorem State.stored_frame {s : State} {lanes : List LaneLoad} {width : Nat} {addrs : List (Nat × BitVec 64)} {f : Nat → List Byte}
    (hf : ∀ L, (f L).length = width) (hlanes : (s.prelude.check .store width addrs).2 = .ok lanes)
    (hdue : s.NoneDue) (hroom : s.core.lines.length + lanes.length ≤ l1Lines) (opcode : Nat) (vas : List (BitVec 64)) :
    let c := (s.prelude.check .store width addrs).1
    let t := c.stored f lanes opcode vas
    ((∀ l ∈ lanes, (c.rat s.prelude.ctx l.va).count = false) → ∀ x, (∀ l ∈ lanes, x < l.pa ∨ l.pa + width ≤ x) → Memory.wf s.mem = true →
        Memory.read t.mem x = Memory.read c.mem x) ∧
      (s.team.paired = false → t.warp.SameBut (fun _ => False) s.warp ∧ t.team.scratch = s.team.scratch) := by
  intro c t
  have hcheck := s.prelude.check_besidesMemory .store width addrs false
  have hdue' : s.prelude.NoneDue := hdue
  have hwalked := hdue'.check .store width addrs false
  refine ⟨fun hcount x hx hwf => ?_, fun hpaired => ?_⟩
  · refine (congrArg (Memory.read · x) (State.stored_mem c f lanes opcode vas)).trans ?_
    by_cases hnil : lanes = []
    · rw [hnil]
      rfl
    obtain ⟨a, ha⟩ := List.exists_mem_of_ne_nil _ hnil
    have hctx : c.ctx = s.prelude.ctx := (congrArg State.ctx hcheck :)
    have hrats : (c.core.rats.find? fun r => r.1 == c.ctx.id).isSome = true := hctx ▸ hdue'.check_rats hlanes ha
    have hstart : c.Stored lanes width s.core.lines.length c :=
      ⟨hwalked.wf hwf, fun _ _ => rfl, fun h hh u hu => .inl (hwalked.noneDue h hh u hu), rfl, rfl, rfl, (congrArg List.length hwalked.lines).le⟩
    exact (hstart.storeLanes hrats hf (List.Subset.refl _) (hctx ▸ hcount) hroom).read x hx
  · have hteam : c.team = s.team := (congrArg State.team hcheck :)
    obtain ⟨hwarp, hscratch⟩ := c.stored_registers f lanes opcode vas (hteam ▸ hpaired)
    exact ⟨(hwarp.trans (Warp.sameBut_of_besidesMonws (congrArg State.warp hcheck :))).trans s.prelude_sameBut,
      hscratch.trans (congrArg Team.scratch hteam)⟩

/-! ### STG and SST -/

theorem stgWidth_eq (w : BitVec 2) : stgWidth w = if w = 0 then 4 else if w = 1 then 8 else if w = 2 then 16 else 1 := by revert w; decide

theorem stgRegs_eq (w : BitVec 2) : stgRegs w = if w = 1 then 2 else if w = 2 then 4 else 1 := by revert w; decide

theorem length_words (n : Nat) (g : Nat → Word) : ((List.range n).flatMap fun j => word4 (g j).toNat).length = 4 * n := by
  simp [List.length_flatMap, word4, leBytes, Nat.mul_comm]

theorem State.storeData_length (s : State) (d : VOp) (w : BitVec 2) (L : Nat) : (s.storeData d w L).length = stgWidth w := by
  have hfit : ∀ w : BitVec 2, stgWidth w ≤ 4 * stgRegs w := by decide
  rw [State.storeData, List.length_take, length_words _ fun j => lane (s.vec d j) L]
  exact Nat.min_eq_left (hfit w)

theorem exec_stg (d a b : VOp) (w : BitVec 2) (s : State) : exec (.stg d a b w) s = execStg d a b w s := rfl

theorem exec_sst (d a b : SOp) (w : BitVec 2) (s : State) : exec (.sst d a b w) s = execSst d a b w s := rfl

theorem execStg_stores {d a b : VOp} {w : BitVec 2} {s : State}
    (h : Goes s fun _ => { legal := (Instr.stg d a b w).wellFormed, srcs := [{ op := d, count := stgRegs w }, { op := a, count := 2 }, { op := b }] })
    {lanes : List LaneLoad} (hlanes : (s.prelude.check .store (stgWidth w) (s.prelude.loadAddrs a b)).2 = .ok lanes)
    (hatoms : (s.prelude.check .store (stgWidth w) (s.prelude.loadAddrs a b)).1.atomAhead lanes = false) :
    execStg d a b w s = .next ((s.prelude.check .store (stgWidth w) (s.prelude.loadAddrs a b)).1.stored (s.prelude.storeData d w) lanes 0x73
      ((s.prelude.loadAddrs a b).map (·.2))) := by
  unfold execStg
  rw [State.attempt_goes _ h.1 h.2.1 h.2.2]
  dsimp only
  rw [State.loadAddrs_eq, hlanes]
  dsimp only
  rw [hatoms, if_neg Bool.false_ne_true]
  rfl

/-- The address of a scalar store (R128). -/
noncomputable def State.storeAddrs (s : State) (f g : SOp) : List (Nat × BitVec 64) :=
  [(s.firstLane, s.scPair f + BitVec.ofNat 64 (s.sc g).toNat)]

/-- The bytes of a scalar store. -/
noncomputable def State.storeWords (s : State) (e : SOp) (w : BitVec 2) : List Byte :=
  (List.range (if w = 1 then 2 else 1)).flatMap fun j => word4 (s.sc e j).toNat

theorem execSst_stores {e f g : SOp} {w : BitVec 2} {s : State}
    (h : Goes s fun _ => { legal := (Instr.sst e f g w).wellFormed, ssrcs := [{ op := e, count := if w = 1 then 2 else 1 }, { op := f, count := 2 }, { op := g }] })
    {lanes : List LaneLoad} (hlanes : (s.prelude.check .store (4 * if w = 1 then 2 else 1) (s.prelude.storeAddrs f g)).2 = .ok lanes)
    (hatoms : (s.prelude.check .store (4 * if w = 1 then 2 else 1) (s.prelude.storeAddrs f g)).1.atomAhead lanes = false) :
    execSst e f g w s = .next ((s.prelude.check .store (4 * if w = 1 then 2 else 1) (s.prelude.storeAddrs f g)).1.stored
      (fun _ => s.prelude.storeWords e w) lanes 0x38 ((s.prelude.storeAddrs f g).map (·.2))) := by
  have haddrs : [(s.prelude.firstLane, s.prelude.sbased f g)] = s.prelude.storeAddrs f g := by
    rw [State.storeAddrs, State.sbased, ← BitVec.ofNat_toNat]
  unfold execSst
  rw [State.attempt_goes _ h.1 h.2.1 h.2.2]
  dsimp only
  rw [haddrs, hlanes]
  dsimp only
  rw [hatoms, if_neg Bool.false_ne_true]
  rfl

theorem accessesChangeTheirBytesAlone : AccessesChangeTheirBytesAlone := by
  intro d a b e f g k w s lanes p at' one specials loads stores
  have hspecials {named : Nat → Prop} {t : State} (hwarp : t.warp.SameBut named s.warp) (hscratch : t.team.scratch = s.team.scratch) :
      specials t ∧ t.warp.sregs = s.warp.sregs := by
    obtain ⟨hfrm, hccl, hlit, hepc, hcause, hdepth, hoc, hsregs⟩ := hwarp.fields
    exact ⟨⟨hfrm, hccl, hlit, hepc, hcause, hdepth, hoc.trans s.prelude_sameBut.fields.2.2.2.2.2.2.1.symm, hscratch⟩, hsregs⟩
  have hload {i : Instr} {opcode n : Nat} {kind : SlotKind} (hexec : exec i s = s.load i opcode d a b n k.toNat kind) : loads i n := by
    intro hgoes hlanes c
    obtain ⟨t, ht, hmem, hhome, hscratch, hwarp⟩ := State.load_frame (opcode := opcode) (kind := kind) hgoes hlanes
    obtain ⟨hsp, hsregs⟩ := hspecials hwarp hscratch
    exact ⟨t, hexec.trans ht, hmem, hhome, hsp, hsregs, fun q hq hnamed => hwarp.read hq fun ⟨j, hj, hplace⟩ => hnamed j hj hplace⟩
  have hstore {i : Instr} {u : State → Uses} {width opcode : Nat} {addrs : List (Nat × BitVec 64)} {data : Nat → List Byte}
      {vas : List (BitVec 64)} (hdata : ∀ L, (data L).length = width)
      (hexec : Goes s u → (p.check .store width addrs).2 = .ok lanes → (p.check .store width addrs).1.atomAhead lanes = false →
        exec i s = .next ((p.check .store width addrs).1.stored data lanes opcode vas)) : stores i u width addrs := by
    intro hgoes hlanes hatoms hdue hroom
    obtain ⟨hbytes, hregs⟩ := State.stored_frame hdata hlanes hdue hroom opcode vas
    refine ⟨_, hexec hgoes hlanes hatoms, hbytes, fun hpaired => ?_⟩
    obtain ⟨hwarp, hscratch⟩ := hregs hpaired
    obtain ⟨hsp, hsregs⟩ := hspecials hwarp hscratch
    exact ⟨hsp, hsregs, fun q hq => hwarp.read hq id⟩
  refine ⟨hload (exec_ldgW d a b k s), hload (exec_ldgD d a b k s), hload (exec_ldgQ d a b k s), ?_, fun _ => ?_⟩
  · rw [← stgWidth_eq, ← stgRegs_eq]
    exact hstore (s.prelude.storeData_length d w) fun hgoes hlanes hatoms => (exec_stg d a b w s).trans (execStg_stores hgoes hlanes hatoms)
  · have hwidth : (if w = 1 then 8 else 4) = 4 * if w = 1 then 2 else 1 := by split <;> rfl
    rw [hwidth]
    exact hstore (fun _ => length_words _ fun j => s.prelude.sc e j) fun hgoes hlanes hatoms =>
      (exec_sst e f g w s).trans (execSst_stores hgoes hlanes hatoms)

/-- Settles O58: register instructions reach no more than their warp, a load its slot and its destinations, and a store the homes, which
perform no update but those of its lanes. -/
theorem framesOfInstructions : Obligations.FramesOfInstructions := ⟨registerInstructionsLeaveTheRest, accessesChangeTheirBytesAlone⟩

end Sys2Proof.Machine
end

section
/-! What the selector of an integer or logic instruction chooses (R113, R114): its arithmetic, its signedness and what becomes of an exact
result. -/

namespace Sys2Proof.Machine

section

variable (d a b : VOp) (da db : BitVec 1) (s : State)

/-! ## Sums and differences -/

theorem exec_iadd (f : BitVec 2) : exec (.iadd d a b da db f) s = execIadd d a b da db f s := rfl

theorem exec_iadd_wrap : exec (.iadd d a b da db 0) s =
    s.packed (.iadd d a b da db 0) [srcA a da, srcA b db] d packedTags false .wrap fun x y _ => x + y := by
  have hsel : (0 : BitVec 2) ≠ 3 ∧ narrowOf (0 : BitVec 2).toNat = (false, .wrap) := by decide +kernel
  rw [exec_iadd, execIadd, if_neg hsel.1, hsel.2]

theorem exec_iadd_satS : exec (.iadd d a b da db 1) s =
    s.packed (.iadd d a b da db 1) [srcA a da, srcA b db] d packedTags true .satS fun x y _ => x + y := by
  have hsel : (1 : BitVec 2) ≠ 3 ∧ narrowOf (1 : BitVec 2).toNat = (true, .satS) := by decide +kernel
  rw [exec_iadd, execIadd, if_neg hsel.1, hsel.2]

theorem exec_iadd_satU : exec (.iadd d a b da db 2) s =
    s.packed (.iadd d a b da db 2) [srcA a da, srcA b db] d packedTags false .satU fun x y _ => x + y := by
  have hsel : (2 : BitVec 2) ≠ 3 ∧ narrowOf (2 : BitVec 2).toNat = (false, .satU) := by decide +kernel
  rw [exec_iadd, execIadd, if_neg hsel.1, hsel.2]

theorem exec_isub (f : BitVec 2) : exec (.isub d a b da db f) s = execIsub d a b da db f s := rfl

theorem exec_isub_wrap : exec (.isub d a b da db 0) s =
    s.packed (.isub d a b da db 0) [srcA a da, srcA b db] d packedTags false .wrap fun x y _ => x - y := by
  have hsel : (0 : BitVec 2) ≠ 3 ∧ narrowOf (0 : BitVec 2).toNat = (false, .wrap) := by decide +kernel
  rw [exec_isub, execIsub, if_neg hsel.1, hsel.2]

theorem exec_isub_satS : exec (.isub d a b da db 1) s =
    s.packed (.isub d a b da db 1) [srcA a da, srcA b db] d packedTags true .satS fun x y _ => x - y := by
  have hsel : (1 : BitVec 2) ≠ 3 ∧ narrowOf (1 : BitVec 2).toNat = (true, .satS) := by decide +kernel
  rw [exec_isub, execIsub, if_neg hsel.1, hsel.2]

theorem exec_isub_satU : exec (.isub d a b da db 2) s =
    s.packed (.isub d a b da db 2) [srcA a da, srcA b db] d packedTags false .satU fun x y _ => x - y := by
  have hsel : (2 : BitVec 2) ≠ 3 ∧ narrowOf (2 : BitVec 2).toNat = (false, .satU) := by decide +kernel
  rw [exec_isub, execIsub, if_neg hsel.1, hsel.2]

/-! ## Products -/

theorem exec_imul (f : BitVec 2) : exec (.imul d a b da db f) s = execImul d a b da db f s := rfl

theorem exec_imul_low : exec (.imul d a b da db 0) s =
    s.packed (.imul d a b da db 0) [srcA a da, srcA b db] d packedTags true .wrap fun x y _ => x * y := by
  have hsel : ((0 : BitVec 2) != 2) = true := by decide +kernel
  rw [exec_imul, execImul, hsel, if_pos rfl]

theorem exec_imul_high : exec (.imul d a b da db 1) s =
    s.packed (.imul d a b da db 1) [srcA a da, srcA b db] d packedTags true .high fun x y _ => x * y := by
  have hsel : ((1 : BitVec 2) != 2) = true ∧ (1 : BitVec 2) ≠ 0 ∧ (1 : BitVec 2) ≠ 3 := by decide +kernel
  rw [exec_imul, execImul, hsel.1, if_neg hsel.2.1, if_neg hsel.2.2]

theorem exec_imul_highU : exec (.imul d a b da db 2) s =
    s.packed (.imul d a b da db 2) [srcA a da, srcA b db] d packedTags false .high fun x y _ => x * y := by
  have hsel : ((2 : BitVec 2) != 2) = false ∧ (2 : BitVec 2) ≠ 0 ∧ (2 : BitVec 2) ≠ 3 := by decide +kernel
  rw [exec_imul, execImul, hsel.1, if_neg hsel.2.1, if_neg hsel.2.2]

theorem exec_imul_satS : exec (.imul d a b da db 3) s =
    s.packed (.imul d a b da db 3) [srcA a da, srcA b db] d packedTags true .satS fun x y _ => x * y := by
  have hsel : ((3 : BitVec 2) != 2) = true ∧ (3 : BitVec 2) ≠ 0 := by decide +kernel
  rw [exec_imul, execImul, hsel.1, if_neg hsel.2, if_pos rfl]

theorem exec_imad (f : BitVec 2) : exec (.imad d a b da db f) s = execImad d a b da db f s := rfl

theorem exec_imad_wrap : exec (.imad d a b da db 0) s =
    s.packed (.imad d a b da db 0) [srcA a da, srcA b db, { op := d }] d packedTags false .wrap fun x y z => x * y + z := by
  have hsel : narrowOf (0 : BitVec 2).toNat = (false, .wrap) := by decide +kernel
  rw [exec_imad, execImad, hsel]

theorem exec_imad_satS : exec (.imad d a b da db 1) s =
    s.packed (.imad d a b da db 1) [srcA a da, srcA b db, { op := d }] d packedTags true .satS fun x y z => x * y + z := by
  have hsel : narrowOf (1 : BitVec 2).toNat = (true, .satS) := by decide +kernel
  rw [exec_imad, execImad, hsel]

theorem exec_imad_satU : exec (.imad d a b da db 2) s =
    s.packed (.imad d a b da db 2) [srcA a da, srcA b db, { op := d }] d packedTags false .satU fun x y z => x * y + z := by
  have hsel : narrowOf (2 : BitVec 2).toNat = (false, .satU) := by decide +kernel
  rw [exec_imad, execImad, hsel]

/-! ## Minima, maxima, absolute values -/

theorem exec_imin (f : BitVec 2) : exec (.imin d a b da db f) s = execImin d a b da db f s := rfl

theorem exec_imin_signed : exec (.imin d a b da db 0) s =
    s.packed (.imin d a b da db 0) [srcA a da, srcA b db] d packedTags true .wrap fun x y _ => min x y := by
  have hsel : ((0 : BitVec 2) == 0) = true := by decide +kernel
  rw [exec_imin, execImin, hsel]

theorem exec_imin_unsigned : exec (.imin d a b da db 1) s =
    s.packed (.imin d a b da db 1) [srcA a da, srcA b db] d packedTags false .wrap fun x y _ => min x y := by
  have hsel : ((1 : BitVec 2) == 0) = false := by decide +kernel
  rw [exec_imin, execImin, hsel]

theorem exec_imax (f : BitVec 2) : exec (.imax d a b da db f) s = execImax d a b da db f s := rfl

theorem exec_imax_signed : exec (.imax d a b da db 0) s =
    s.packed (.imax d a b da db 0) [srcA a da, srcA b db] d packedTags true .wrap fun x y _ => max x y := by
  have hsel : ((0 : BitVec 2) == 0) = true := by decide +kernel
  rw [exec_imax, execImax, hsel]

theorem exec_imax_unsigned : exec (.imax d a b da db 1) s =
    s.packed (.imax d a b da db 1) [srcA a da, srcA b db] d packedTags false .wrap fun x y _ => max x y := by
  have hsel : ((1 : BitVec 2) == 0) = false := by decide +kernel
  rw [exec_imax, execImax, hsel]

theorem exec_iabs (f : BitVec 2) : exec (.iabs d a da f) s = execIabs d a da f s := rfl

theorem exec_iabs_wrap : exec (.iabs d a da 0) s =
    s.packed (.iabs d a da 0) [srcA a da] d [.i32, .i16, .i8] true .wrap fun x _ _ => |x| := by
  have hsel : (0 : BitVec 2) ≠ 1 := by decide +kernel
  simp only [exec_iabs, execIabs, if_neg hsel, Int.natCast_natAbs]

theorem exec_iabs_satS : exec (.iabs d a da 1) s =
    s.packed (.iabs d a da 1) [srcA a da] d [.i32, .i16, .i8] true .satS fun x _ _ => |x| := by
  simp only [exec_iabs, execIabs, if_true, Int.natCast_natAbs]

theorem exec_lea (f : BitVec 2) : exec (.lea d a b da db f) s =
    s.packed (.lea d a b da db f) [srcA a da, srcA b db] d wordTags false .wrap fun x y _ => x + y * 2 ^ f.toNat := rfl

/-! ## Logic -/

theorem exec_andFam (f : BitVec 2) : exec (.andFam d a b da db f) s = execAndFam d a b da db f s := rfl

theorem exec_and : exec (.andFam d a b da db 0) s =
    s.bitwise (.andFam d a b da db 0) [srcA a da, srcA b db] d (word2 fun x y => x &&& y) := by
  simp only [exec_andFam, execAndFam, if_true]

theorem exec_andn : exec (.andFam d a b da db 1) s =
    s.bitwise (.andFam d a b da db 1) [srcA a da, srcA b db] d (word2 fun x y => x &&& ~~~y) := by
  have hsel : (1 : BitVec 2) ≠ 0 := by decide +kernel
  simp only [exec_andFam, execAndFam, if_neg hsel, if_true]

theorem exec_nand : exec (.andFam d a b da db 2) s =
    s.bitwise (.andFam d a b da db 2) [srcA a da, srcA b db] d (word2 fun x y => ~~~(x &&& y)) := by
  have hsel : (2 : BitVec 2) ≠ 0 ∧ (2 : BitVec 2) ≠ 1 := by decide +kernel
  simp only [exec_andFam, execAndFam, if_neg hsel.1, if_neg hsel.2]

theorem exec_orFam (f : BitVec 2) : exec (.orFam d a b da db f) s = execOrFam d a b da db f s := rfl

theorem exec_or : exec (.orFam d a b da db 0) s =
    s.bitwise (.orFam d a b da db 0) [srcA a da, srcA b db] d (word2 fun x y => x ||| y) := by
  simp only [exec_orFam, execOrFam, if_true]

theorem exec_orn : exec (.orFam d a b da db 1) s =
    s.bitwise (.orFam d a b da db 1) [srcA a da, srcA b db] d (word2 fun x y => x ||| ~~~y) := by
  have hsel : (1 : BitVec 2) ≠ 0 := by decide +kernel
  simp only [exec_orFam, execOrFam, if_neg hsel, if_true]

theorem exec_nor : exec (.orFam d a b da db 2) s =
    s.bitwise (.orFam d a b da db 2) [srcA a da, srcA b db] d (word2 fun x y => ~~~(x ||| y)) := by
  have hsel : (2 : BitVec 2) ≠ 0 ∧ (2 : BitVec 2) ≠ 1 := by decide +kernel
  simp only [exec_orFam, execOrFam, if_neg hsel.1, if_neg hsel.2]

theorem exec_xorFam (f : BitVec 2) : exec (.xorFam d a b da db f) s = execXorFam d a b da db f s := rfl

theorem exec_xor : exec (.xorFam d a b da db 0) s =
    s.bitwise (.xorFam d a b da db 0) [srcA a da, srcA b db] d (word2 fun x y => x ^^^ y) := by
  simp only [exec_xorFam, execXorFam, if_true]

theorem exec_xnor : exec (.xorFam d a b da db 1) s =
    s.bitwise (.xorFam d a b da db 1) [srcA a da, srcA b db] d (word2 fun x y => ~~~(x ^^^ y)) := by
  have hsel : (1 : BitVec 2) ≠ 0 := by decide +kernel
  simp only [exec_xorFam, execXorFam, if_neg hsel]

end

end Sys2Proof.Machine
end

section
/-! Integer arithmetic by element (R73, R83, R109, R113). -/

namespace Sys2Proof.Machine
open Sys2Proof.Claims

/-! ## The common tag of integer sources (R81, R82) -/

/-- The tag that integer sources have in common is one that the instruction accepts, or I32 where none is tagged. -/
theorem commonTag_mem {accepted : List Tag} {ts : List (Option Tag)} {t : Tag} (h : commonTag accepted false ts = some t) :
    t ∈ accepted ∨ t = .i32 := by
  unfold commonTag at h
  dsimp only at h
  split at h
  · exact .inr (Option.some.inj h).symm
  · split at h
    next hok =>
      cases h
      exact .inl (List.contains_iff_mem.1 (Bool.and_eq_true_iff.1 hok).1)
    next => cases h

theorem commonTag_word {ts : List (Option Tag)} {t : Tag} (h : commonTag wordTags false ts = some t) : t = .i32 ∨ t = .n32 := by
  rcases commonTag_mem h with h | h
  · simpa [wordTags] using h
  · exact .inl h

/-! ## What becomes of an exact result (R109) -/

/-- A way to narrow results is the one that the claims state by value. -/
def Narrow.Is (m : Narrow) (narrow : Nat → Int → Int × Bool) : Prop :=
  ∀ w x, m.apply w x = (((narrow w x).1 % 2 ^ w).toNat, (narrow w x).2)

theorem wrap_eq (w : Nat) (x : Int) : wrap w x = (x % 2 ^ w).toNat := by
  rw [wrap, Nat.cast_pow, Nat.cast_ofNat]

theorem saturate_signed (w : Nat) (x : Int) : saturate (rangeOf true w) x = clampS w x := by
  simp only [saturate, rangeOf, clampS, if_true, Nat.cast_pow, Nat.cast_ofNat]

theorem saturate_unsigned (w : Nat) (x : Int) : saturate (rangeOf false w) x = clampU w x := by
  simp only [saturate, rangeOf, clampU, Bool.false_eq_true, if_false, Nat.cast_pow, Nat.cast_ofNat]

theorem Narrow.wrap_is_exact : Narrow.wrap.Is exact := fun w x => by rw [Narrow.apply, wrap_eq]; rfl

theorem Narrow.high_is_upperHalf : Narrow.high.Is upperHalf := fun w x => by
  rw [Narrow.apply, wrap_eq, Nat.cast_pow, Nat.cast_ofNat]; rfl

theorem Narrow.satS_is_clampS : Narrow.satS.Is clampS := fun w x => by
  rw [Narrow.apply, saturate_signed, wrap_eq]

theorem Narrow.satU_is_clampU : Narrow.satU.Is clampU := fun w x => by
  rw [Narrow.apply, saturate_unsigned, wrap_eq]

theorem toNat_emod_two_pow_lt (w : Nat) (x : Int) : (x % 2 ^ w).toNat < 2 ^ w := by
  have hpos : (0 : Int) < 2 ^ w := by positivity
  have hlt := Int.emod_lt_of_pos x hpos
  rw [Int.toNat_lt (Int.emod_nonneg x hpos.ne')]
  exact_mod_cast hlt

/-! ## Packed arithmetic (R113) -/

/-- Lane L of source k, 0 where there is none. -/
def State.sourceWord (p : State) (srcs : List Src) (k L : Nat) : Word := match srcs[k]? with | some a => lane (p.vec a.op) L | none => 0

theorem intOf_sourceWord (p : State) (srcs : List Src) (t : Tag) (signed : Bool) (L e k : Nat) :
    intOf signed (Tag.width t) (elemBits t (p.sourceWord srcs k L) e) = element p srcs t signed L e k := by
  unfold element State.sourceWord
  cases srcs[k]? with
  | some a => rfl
  | none => simp [intOf, elemBits, bits]

/-- What packed arithmetic gives a lane. -/
def State.packedWord (p : State) (srcs : List Src) (t : Tag) (signed : Bool) (m : Narrow) (op : Int → Int → Int → Int) (L : Nat) : Word × Bool :=
  packedLane t signed m op (p.sourceWord srcs 0 L) (p.sourceWord srcs 1 L) (p.sourceWord srcs 2 L)

theorem State.packed_eq (s : State) (i : Instr) (srcs : List Src) (d : VOp) (tags : List Tag) (signed : Bool) (m : Narrow)
    (op : Int → Int → Int → Int) :
    s.packed i srcs d tags signed m op = s.vector i srcs { op := d } (fun s => commonTag tags false (srcs.map fun a => s.srcTag a.op))
      fun s t => { dst := d, tag := t, lo := (s.eachLane (s.packedWord srcs t signed m op)).1,
                   flags := (s.eachLane (s.packedWord srcs t signed m op)).2 } := rfl

/-- Each element of a lane is the operation's result, narrowed to the element's width. -/
theorem State.packedWord_eq (p : State) (srcs : List Src) (t : Tag) (signed : Bool) {m : Narrow} {narrow : Nat → Int → Int × Bool}
    (hm : m.Is narrow) (op : Int → Int → Int → Int) (L : Nat) :
    let x e := narrow (Tag.width t) (op (element p srcs t signed L e 0) (element p srcs t signed L e 1) (element p srcs t signed L e 2))
    p.packedWord srcs t signed m op L = (packElems t ((List.range (Tag.count t)).map fun e => ((x e).1 % 2 ^ Tag.width t).toNat),
      (List.range (Tag.count t)).any fun e => (x e).2) := by
  simp only [State.packedWord, packedLane, intOf_sourceWord, hm (Tag.width t), List.map_map, List.any_map, Function.comp_def]

/-- R113: an instruction of packed arithmetic computes its operation on each element, narrowed to the element's width. -/
theorem State.packed_elementResult {i : Instr} {srcs : List Src} {d : VOp} {tags : List Tag} {signed : Bool} {m : Narrow}
    {narrow : Nat → Int → Int × Bool} {op : Int → Int → Int → Int} (hexec : ∀ s, exec i s = s.packed i srcs d tags signed m op)
    (htags : ∀ t ∈ tags, t ≠ .fp64 ∧ t ≠ .rw) (hm : m.Is narrow) : ElementResult i srcs d tags signed narrow op := by
  intro s t ht hgoes x
  have hwide : t ≠ .fp64 ∧ t ≠ .rw := by
    rcases commonTag_mem ht with h | rfl
    · exact htags t h
    · decide
  refine ⟨_, _, (hexec s).trans ((s.packed_eq ..).trans (State.vector_of_goes _ ht hgoes)), fun L e hL he => ?element, ?flag⟩
  case element =>
    dsimp only [State.eachLane]
    rw [lane_lanesOf _ L hL, State.packedWord_eq _ _ _ _ hm, elemBits_packElems hwide.1 hwide.2 _ he]
    exact Nat.mod_eq_of_lt (toNat_emod_two_pow_lt _ _)
  case flag =>
    simp only [State.eachLane, State.packedWord_eq _ _ _ _ hm, x]

theorem packedTags_narrow : ∀ t ∈ packedTags, t ≠ .fp64 ∧ t ≠ .rw := by decide +kernel

/-- Settles O1: each instruction is packed arithmetic, narrowed in one of the four ways. -/
theorem integerArithmeticPerElement : Obligations.IntegerArithmeticPerElement := by
  intro d a b da db ab abd
  have packed {i : Instr} {srcs : List Src} {signed : Bool} {m : Narrow} {narrow : Nat → Int → Int × Bool} {op : Int → Int → Int → Int}
      (hm : m.Is narrow) (hexec : ∀ s, exec i s = s.packed i srcs d packedTags signed m op) :=
    State.packed_elementResult hexec packedTags_narrow hm
  have habs : ∀ t ∈ [Tag.i32, .i16, .i8], t ≠ .fp64 ∧ t ≠ .rw := by decide
  exact ⟨packed Narrow.wrap_is_exact (exec_iadd_wrap d a b da db), packed Narrow.satS_is_clampS (exec_iadd_satS d a b da db),
    packed Narrow.satU_is_clampU (exec_iadd_satU d a b da db), packed Narrow.wrap_is_exact (exec_isub_wrap d a b da db),
    packed Narrow.satS_is_clampS (exec_isub_satS d a b da db), packed Narrow.satU_is_clampU (exec_isub_satU d a b da db),
    packed Narrow.wrap_is_exact (exec_imul_low d a b da db), packed Narrow.high_is_upperHalf (exec_imul_high d a b da db),
    packed Narrow.high_is_upperHalf (exec_imul_highU d a b da db), packed Narrow.satS_is_clampS (exec_imul_satS d a b da db),
    packed Narrow.wrap_is_exact (exec_imad_wrap d a b da db), packed Narrow.satS_is_clampS (exec_imad_satS d a b da db),
    packed Narrow.satU_is_clampU (exec_imad_satU d a b da db), packed Narrow.wrap_is_exact (exec_imin_signed d a b da db),
    packed Narrow.wrap_is_exact (exec_imin_unsigned d a b da db), packed Narrow.wrap_is_exact (exec_imax_signed d a b da db),
    packed Narrow.wrap_is_exact (exec_imax_unsigned d a b da db),
    State.packed_elementResult (exec_iabs_wrap d a da) habs Narrow.wrap_is_exact,
    State.packed_elementResult (exec_iabs_satS d a da) habs Narrow.satS_is_clampS,
    fun f => State.packed_elementResult (exec_lea d a b da db · f) (by decide) Narrow.wrap_is_exact⟩

end Sys2Proof.Machine
end

section
/-! Words of integer and bit-class instructions, and the immediate forms (R114, R123). -/

namespace Sys2Proof.Machine
open Sys2Proof.Claims

/-! ## Instructions that give each lane a word -/

theorem WordResult.congr {i : Instr} {srcs : List Src} {d : VOp} {tag : State → Option Tag} {g g' : State → Nat → Word}
    (h : WordResult i srcs d tag g) (hg : ∀ p L, g p L = g' p L) : WordResult i srcs d tag g' :=
  (funext fun p => funext (hg p) : g = g') ▸ h

theorem elemBits_word {t : Tag} (ht : t = .i32 ∨ t = .n32) (x : Word) : elemBits t x 0 = x.toNat := by
  rcases ht with rfl | rfl <;> simp [elemBits, bits, Tag.offset, Tag.width] <;> omega

theorem intOf_toInt {w : Nat} (hw : 0 < w) (x : BitVec w) : intOf true w x.toNat = x.toInt := by
  have hpow : 2 ^ w = 2 * 2 ^ (w - 1) := by rw [← pow_succ', Nat.sub_add_cancel hw]
  rw [intOf, BitVec.toInt_eq_toNat_cond, Nat.cast_pow, Nat.cast_ofNat]
  by_cases hhigh : 2 ^ (w - 1) ≤ x.toNat
  · rw [if_pos ⟨rfl, hhigh⟩, if_neg (by omega)]
  · rw [if_neg fun h => hhigh h.2, if_pos (by omega)]

theorem intOf_toNat (x : Word) : intOf false 32 x.toNat = x.toNat := by simp [intOf]

/-- Packed arithmetic on words of one element gives the low bits of the exact result. -/
theorem ElementResult.wordResult {i : Instr} {srcs : List Src} {d : VOp} {signed : Bool} {op : Int → Int → Int → Int}
    (h : ElementResult i srcs d wordTags signed exact op) :
    WordResult i srcs d (fun p => commonTag wordTags false (srcs.map fun a => p.srcTag a.op)) fun p L =>
      BitVec.ofInt 32 (op (element p srcs .i32 signed L 0 0) (element p srcs .i32 signed L 0 1) (element p srcs .i32 signed L 0 2)) := by
  intro s t ht hgoes
  have hword := commonTag_word ht
  obtain ⟨y, fl, hnext, helems, hflag⟩ := h s t ht hgoes
  have hwidth : Tag.width t = 32 := by rcases hword with rfl | rfl <;> rfl
  have hcount : 0 < Tag.count t := by rcases hword with rfl | rfl <;> decide
  have helement (L k : Nat) : element s.prelude srcs t signed L 0 k = element s.prelude srcs .i32 signed L 0 k := by
    rcases hword with rfl | rfl <;> rfl
  have hfl : fl = 0 := by
    rw [hflag, if_neg]
    simp [exact]
  subst hfl
  refine ⟨y, hnext, fun L hL => BitVec.eq_of_toNat_eq ?_⟩
  rw [← elemBits_word hword, helems L 0 hL hcount, hwidth, BitVec.toNat_ofInt]
  simp only [exact, helement]
  norm_num

/-- A bit-class instruction gives each lane the word of its sources' words (R114). -/
theorem State.bitwise_of_goes {i : Instr} {s : State} {srcs : List Src} {d : VOp} {g : List Word → Word} {t : Tag}
    (hexec : exec i s = s.bitwise i srcs d g) (ht : commonTag bitTags true (srcs.map fun a => s.prelude.srcTag a.op) = some t)
    (hgoes : Goes s (needs i srcs d)) :
    exec i s = .next (written s.prelude srcs
      { dst := d, tag := t, lo := lanesOf fun L => g (srcs.map fun a => lane (s.prelude.vec a.op) L) }) :=
  hexec.trans (State.vector_of_goes _ ht hgoes)

theorem State.bitwise_wordResult {i : Instr} {srcs : List Src} {d : VOp} {g : List Word → Word}
    (hexec : ∀ s, exec i s = s.bitwise i srcs d g) :
    WordResult i srcs d (fun p => commonTag bitTags true (srcs.map fun a => p.srcTag a.op)) fun p L =>
      g (srcs.map fun a => lane (p.vec a.op) L) :=
  fun s _ ht hgoes => ⟨_, State.bitwise_of_goes (hexec s) ht hgoes, fun _ hL => lane_lanesOf _ _ hL⟩

/-! ## Immediates and shifts -/

/-- R123: imm is sign-extended from 10 bits. -/
theorem immOf_eq (imm : BitVec 10) : immOf imm = BitVec.ofInt 32 imm.toInt := rfl

theorem toInt_immOf (imm : BitVec 10) : (immOf imm).toInt = imm.toInt := BitVec.toInt_signExtend_of_le (by decide)

theorem shiftOf_sar (x : Word) (m : Nat) : shiftOf 2 x m = BitVec.ofInt 32 (x.toInt / 2 ^ m) := by
  rw [shiftOf, BitVec.sshiftRight, Int.shiftRight_eq_div_pow, Nat.cast_pow, Nat.cast_ofNat]

theorem exec_movi (d : VOp) (imm : BitVec 10) (s : State) : exec (.movi d imm) s =
    s.vector (.movi d imm) [] { op := d } (fun _ => some .i32) fun _ t => { dst := d, tag := t, lo := splat (immOf imm) } := rfl

/-- Settles O2: arithmetic on words with a constant, and bit-class instructions with one. -/
theorem immediateForms : Obligations.ImmediateForms := by
  intro d a da imm m W B
  have arithmetic (i : Instr) (op : Int → Int → Int → Int) (hexec : ∀ s, exec i s = s.packed i [srcA a da] d wordTags true .wrap op) :
      W i fun x => BitVec.ofInt 32 (op x.toInt 0 0) := by
    refine WordResult.congr (ElementResult.wordResult (State.packed_elementResult hexec (by decide) Narrow.wrap_is_exact)) fun p L => ?_
    have helement : element p [srcA a da] .i32 true L 0 0 = (lane (p.vec a) L).toInt :=
      (congrArg (intOf true 32) (elemBits_word (.inl rfl) _)).trans (intOf_toInt (by decide) _)
    rw [helement]; rfl
  have bitClass (i : Instr) {f : Word → Word} (hexec : ∀ s, exec i s = s.bitwise i [srcA a da] d (word1 f)) : B i f :=
    State.bitwise_wordResult hexec
  refine ⟨?iaddi, ?imuli, bitClass (.andi d a imm da) fun _ => rfl, bitClass (.ori d a imm da) fun _ => rfl,
    bitClass (.xori d a imm da) fun _ => rfl, bitClass (.shli d a m da) fun _ => rfl, bitClass (.shri d a m da) fun _ => rfl, ?sari,
    fun s t ht hgoes => ?movi⟩
  case iaddi =>
    rw [← toInt_immOf]
    exact arithmetic (.iaddi d a imm da) (fun x _ _ => x + (immOf imm).toInt) fun _ => rfl
  case imuli =>
    rw [← toInt_immOf]
    exact arithmetic (.imuli d a imm da) (fun x _ _ => x * (immOf imm).toInt) fun _ => rfl
  case sari =>
    simp only [← shiftOf_sar]
    exact bitClass (.sari d a m da) fun _ => rfl
  case movi =>
    obtain rfl : Tag.i32 = t := Option.some.inj ht
    exact ⟨splat (immOf imm), (exec_movi d imm s).trans (State.vector_of_goes _ rfl hgoes), fun _ hL => lane_splat _ _ hL⟩

end Sys2Proof.Machine
end

section
/-! Carry forms, 64-bit pairs and division (R113, R117, R118). -/

namespace Sys2Proof.Machine
open Sys2Proof.Claims

/-! ## Carry forms (R113) -/

theorem getLsbD_maskOf_eq (p : Nat → Bool) {L : Nat} (hL : L < 32) : (maskOf p).getLsbD L = p L :=
  Bool.eq_iff_iff.2 (getLsbD_maskOf p hL)

theorem toNat_carry (c : Bool) : (if c then 1 else 0 : Word).toNat = c.toNat := by cases c <;> rfl

/-- A sum of words and a carry, with the carry out of it. -/
theorem add_carry (x y : Word) (c : Bool) :
    (x + y + if c then 1 else 0).toNat + 2 ^ 32 * (carryOut x y c).toNat = x.toNat + y.toNat + c.toNat := by
  have hx := x.isLt
  have hy := y.isLt
  have hc := c.toNat_le
  rw [BitVec.toNat_add, BitVec.toNat_add, toNat_carry, carryOut]
  by_cases hout : 2 ^ 32 ≤ x.toNat + y.toNat + c.toNat
  · rw [decide_eq_true hout, Bool.toNat_true]; omega
  · rw [decide_eq_false hout, Bool.toNat_false]; omega

/-- A difference of words and a borrow, with the borrow out of it. -/
theorem sub_borrow (x y : Word) (c : Bool) :
    (x - y - if c then 1 else 0).toNat + y.toNat + c.toNat = x.toNat + 2 ^ 32 * (borrowOut x y c).toNat := by
  have hx := x.isLt
  have hy := y.isLt
  have hc := c.toNat_le
  rw [BitVec.toNat_sub, BitVec.toNat_sub, toNat_carry, borrowOut]
  by_cases hout : x.toNat < y.toNat + c.toNat
  · rw [decide_eq_true hout, Bool.toNat_true]; omega
  · rw [decide_eq_false hout, Bool.toNat_false]; omega

/-- A vector instruction with a cc of its own, whose sources have accepted tags. -/
theorem State.carry_of_goes {i : Instr} {s : State} {srcs : List Src} {a b d : VOp} {sub : Bool} {t : Tag}
    (hexec : exec i s = s.carry i srcs a b d sub) (ht : wordTag [a, b] s.prelude = some t) (hgoes : Goes s (needs i srcs d true)) :
    let x L := lane (s.prelude.vec a) L
    let y L := lane (s.prelude.vec b) L
    let c L := s.prelude.warp.ccl.getLsbD L
    exec i s = .next (written s.prelude srcs
      { dst := d, tag := t,
        lo := lanesOf fun L => if sub then x L - y L - (if c L then 1 else 0) else x L + y L + (if c L then 1 else 0),
        cc := some (maskOf fun L => if sub then borrowOut (x L) (y L) (c L) else Machine.carryOut (x L) (y L) (c L)) }) := by
  have ht : commonTag wordTags false [s.prelude.srcTag a, s.prelude.srcTag b] = some t := ht
  have hsome : (commonTag wordTags false [s.prelude.srcTag a, s.prelude.srcTag b]).isSome = true := by rw [ht]; rfl
  obtain rfl : (commonTag wordTags false [s.prelude.srcTag a, s.prelude.srcTag b]).getD .i32 = t := by rw [ht]; rfl
  exact hexec.trans (State.issueNext_of_tagged _ hgoes ⟨rfl, rfl, rfl, rfl⟩ rfl rfl rfl hsome fun _ => rfl)

theorem carryFormsChain : CarryFormsChain := by
  intro d a b da db s t p x y c ht
  refine ⟨fun hgoes => ⟨_, _, State.carry_of_goes (sub := false) rfl ht hgoes, fun L hL => ?add⟩,
    fun hgoes => ⟨_, _, State.carry_of_goes (sub := true) rfl ht hgoes, fun L hL => ?sub⟩⟩
  case add =>
    rw [lane_lanesOf _ L hL, getLsbD_maskOf_eq _ hL]
    exact add_carry _ _ _
  case sub =>
    rw [lane_lanesOf _ L hL, getLsbD_maskOf_eq _ hL]
    exact sub_borrow _ _ _

/-! ## Values in register pairs (R117) -/

theorem State.wide_lt (s : State) (x : VOp) (L : Nat) : s.wide x L < 2 ^ 64 := by
  unfold State.wide
  split
  · norm_num
  · exact (s.pair x L).isLt

/-- The two registers of an operand have one tag where they are vector registers. -/
theorem State.wideTags_paired {s : State} {x : VOp} (h : x.isV = true → s.srcTag x = s.srcTag x 1) :
    ((s.wideTags x).eraseDups.length == 1) = true := by
  unfold State.wideTags
  split
  next hv =>
    rw [← h hv]
    simp [List.eraseDups_cons]
  next => rfl

theorem add_pair {x y : Nat} (hx : x < 2 ^ 64) (hy : y < 2 ^ 64) :
    (x + y) % 2 ^ 64 + 2 ^ 64 * (decide (2 ^ 64 ≤ x + y)).toNat = x + y := by
  by_cases hout : 2 ^ 64 ≤ x + y
  · rw [decide_eq_true hout, Bool.toNat_true]; omega
  · rw [decide_eq_false hout, Bool.toNat_false]; omega

theorem sub_pair {x y : Nat} (hx : x < 2 ^ 64) (hy : y < 2 ^ 64) :
    (x + 2 ^ 64 - y) % 2 ^ 64 + y = x + 2 ^ 64 * (decide (x < y)).toNat := by
  by_cases hout : x < y
  · rw [decide_eq_true hout, Bool.toNat_true]; omega
  · rw [decide_eq_false hout, Bool.toNat_false]; omega

theorem exec_addsubw (d a b : VOp) (da db : BitVec 1) (f : BitVec 2) (s : State) :
    exec (.addsubw d a b da db f) s = execAddsubw d a b da db f s := rfl

theorem exec_mulw (d a b : VOp) (da db : BitVec 1) (f : BitVec 2) (s : State) : 
    let v (x : Word) : Int := intOf (f == 0) 32 x.toNat
    exec (.mulw d a b da db f) s = s.vector (.mulw d a b da db f) [srcA a da, srcA b db] { op := d, count := 2 } (wordTag [a, b])
      fun s t =>
        let r := splitPair fun L => wrap 64 (v (lane (s.vec a) L) * v (lane (s.vec b) L))
        { dst := d, tag := t, lo := r.1, hi := some (r.2, t) } := rfl

/-- Words of a pair, put side by side. -/
theorem splitPair_append {f : Nat → Nat} {L : Nat} (hL : L < 32) :
    (lane (splitPair f).2 L ++ lane (splitPair f).1 L : BitVec 64) = BitVec.ofNat 64 (f L) := by
  refine BitVec.eq_of_toNat_eq ?_
  simp only [splitPair, lane_lanesOf _ L hL, BitVec.toNat_append, BitVec.toNat_ofNat]
  rw [← Nat.shiftLeft_add_eq_or_of_lt (Nat.mod_lt _ (by norm_num)), Nat.shiftLeft_eq]
  omega

theorem ofNat_wrap (w : Nat) (x : Int) : BitVec.ofNat w (wrap w x) = BitVec.ofInt w x := by
  refine BitVec.eq_of_toNat_eq ?_
  rw [BitVec.toNat_ofNat, BitVec.toNat_ofInt, wrap_eq, Nat.mod_eq_of_lt (toNat_emod_two_pow_lt w x), Nat.cast_pow, Nat.cast_ofNat]

theorem wideArithmetic : WideArithmetic := by
  intro d a b da db f s t p w
  refine ⟨fun ht hpaired hgoes => ?sum, fun ht hgoes => ?product⟩
  case sum =>
    have hok : ((commonTag wordTags false (p.wideTags a ++ p.wideTags b)).isSome &&
        ((p.wideTags a).eraseDups.length == 1 && (p.wideTags b).eraseDups.length == 1)) = true := by
      rw [ht, State.wideTags_paired (hpaired a (by simp)), State.wideTags_paired (hpaired b (by simp))]
      rfl
    obtain rfl : (commonTag wordTags false (p.wideTags a ++ p.wideTags b)).getD .i32 = t := by rw [ht]; rfl
    refine ⟨_, _, _, (exec_addsubw ..).trans (State.issueNext_of_tagged _ hgoes ⟨rfl, rfl, rfl, rfl⟩ rfl rfl rfl hok fun _ => rfl),
      fun L hL => ?_⟩
    have ha := p.wide_lt a L
    have hb := p.wide_lt b L
    rw [getLsbD_maskOf_eq _ hL]
    dsimp only
    rw [splitPair_toNat hL (by split <;> omega)]
    by_cases hf : f = 0
    · simp only [if_pos hf]
      exact add_pair ha hb
    · simp only [if_neg hf]
      exact sub_pair ha hb
  case product =>
    refine ⟨_, _, (exec_mulw ..).trans (State.vector_of_goes _ ht hgoes), fun L hL => ?_⟩
    dsimp only
    rw [splitPair_append hL, ofNat_wrap]
    by_cases hf : f = 0
    · rw [if_pos hf, hf]
      exact congrArg₂ (fun x y => BitVec.ofInt 64 (x * y)) (intOf_toInt (by decide) _) (intOf_toInt (by decide) _)
    · rw [if_neg hf, beq_false_of_ne hf]
      rw [intOf_toNat, intOf_toNat, ← Nat.cast_mul, BitVec.ofInt_natCast]

/-! ## Division (R118) -/

/-- The quotient of two words, toward zero. -/
def quotient (signed : Bool) (x y : Word) : Int := if signed then x.toInt.tdiv y.toInt else x.toNat / y.toNat

theorem tdiv_intOf (signed : Bool) (x y : Word) : (intOf signed 32 x.toNat).tdiv (intOf signed 32 y.toNat) = quotient signed x y := by
  cases signed with
  | true => rw [intOf_toInt (by decide), intOf_toInt (by decide)]; rfl
  | false => rw [intOf_toNat, intOf_toNat, ← Int.ofNat_tdiv, Int.natCast_ediv]; rfl

/-- The only signed quotient that is no word is 2^31, of the least number by -1. -/
theorem clampS_tdiv (x y : Word) :
    clampS 32 (x.toInt.tdiv y.toInt) = if x.toInt.tdiv y.toInt = 2 ^ 31 then (2 ^ 31 - 1, true) else (x.toInt.tdiv y.toInt, false) := by
  have habs := Int.natAbs_tdiv_le_natAbs x.toInt y.toInt
  have hlo := x.le_toInt
  have hhi := x.toInt_lt
  unfold clampS
  rw [if_neg (by norm_num at hlo hhi ⊢; omega)]
  by_cases hq : x.toInt.tdiv y.toInt = 2 ^ 31
  · rw [hq]; rfl
  · rw [if_neg hq, if_neg (by norm_num at hlo hhi hq ⊢; omega)]

/-- What division gives a lane, and whether it was clamped. -/
def dividedWord (signed : Bool) (x y : Word) : Word × Bool :=
  let q := Narrow.apply (if signed then .satS else .wrap) 32 ((intOf signed 32 x.toNat).tdiv (intOf signed 32 y.toNat))
  (BitVec.ofNat 32 q.1, q.2)

theorem dividedWord_signed (x y : Word) : dividedWord true x y =
    if quotient true x y = 2 ^ 31 then (0x7FFFFFFF, true) else (BitVec.ofInt 32 (quotient true x y), false) := by
  unfold dividedWord
  rw [tdiv_intOf, if_pos rfl, Narrow.apply, saturate_signed32]
  dsimp only
  rw [quotient, if_pos rfl, clampS_tdiv, ofNat_wrap]
  split <;> rfl

theorem dividedWord_unsigned (x y : Word) : dividedWord false x y = (BitVec.ofInt 32 (quotient false x y), false) := by
  unfold dividedWord
  rw [tdiv_intOf, if_neg Bool.false_ne_true, Narrow.apply]
  dsimp only
  rw [ofNat_wrap]

theorem dividedWord_clamped (signed : Bool) (x y : Word) : (dividedWord signed x y).2 = (signed && quotient signed x y == 2 ^ 31) := by
  cases signed with
  | true =>
    rw [dividedWord_signed]
    split
    next h => rw [h]; rfl
    next h => rw [beq_false_of_ne h]; rfl
  | false => rw [dividedWord_unsigned]; rfl

/-- INTDIV0 where an active lane divides by zero. -/
def State.divisionFault (s : State) (b : VOp) : Option Raise :=
  match lowest (s.zeroLanes b) with
  | some L => some { code := Code.intdiv0, lanes := s.zeroLanes b, addr := BitVec.ofNat 64 L }
  | none => none

/-- What a division asks of the checks at issue. -/
def State.divisionUses (s : State) (i : Instr) (a b d : VOp) : Uses :=
  { legal := i.wellFormed, srcs := [{ op := a }, { op := b }], dsts := [{ op := d }], tagsOk := (wordTag [a, b] s).isSome,
    specific := s.divisionFault b }

/-- What a division leaves. -/
def State.divided (s : State) (a b d : VOp) (k : BitVec 4) (signed : Bool) : State :=
  let r := s.eachLane fun L => dividedWord signed (lane (s.vec a) L) (lane (s.vec b) L)
  s.settle [] (s.resultEntry { dst := d, tag := (wordTag [a, b] s).getD .i32, lo := r.1, flags := r.2, long := true, look := some k })

theorem State.divide_eq (s : State) (i : Instr) (a b d : VOp) (k : BitVec 4) (signed : Bool) :
    s.divide i a b d k signed = s.issueNext (State.divisionUses · i a b d) (State.divided · a b d k signed) := rfl

section

variable {s : State} {i : Instr} {a b d : VOp} {k : BitVec 4} {signed : Bool} {t : Tag}

/-- R118: where no active lane divides by zero, a division is done. -/
theorem State.divide_of_goes (ht : wordTag [a, b] s.prelude = some t) (hgoes : Goes s (needs i [{ op := a }, { op := b }] d))
    (hnonzero : ∀ L, s.prelude.mask.getLsbD L = true → lane (s.prelude.vec b) L ≠ 0) :
    s.divide i a b d k signed = .next (wentOn (s.prelude.divided a b d k signed)) := by
  have hnone : s.prelude.divisionFault b = none := by
    unfold State.divisionFault
    rw [lowest_eq_none fun j hj => ?_]
    rw [State.zeroLanes, getLsbD_maskOf_eq _ hj, Bool.and_eq_false_imp]
    exact fun hm => beq_false_of_ne (hnonzero j hm)
  refine (s.divide_eq i a b d k signed).trans (State.issueNext_of_go _ ?_)
  refine goes_of_uses hgoes ?_
  rw [State.divisionUses, hnone, ht]
  rfl

/-- R118: INTDIV0 where the lowest active lane that divides by zero is L. -/
theorem State.divide_by_zero (ht : wordTag [a, b] s.prelude = some t) (hgoes : Goes s (needs i [{ op := a }, { op := b }] d)) {L : Nat}
    (hL : L < 32) (hin : s.prelude.mask.getLsbD L = true) (hzero : lane (s.prelude.vec b) L = 0)
    (hlow : ∀ j, j < L → s.prelude.mask.getLsbD j = true → lane (s.prelude.vec b) j ≠ 0) :
    s.divide i a b d k signed =
      .next (s.prelude.raise { code := 0x0010, lanes := s.prelude.zeroLanes b, addr := BitVec.ofNat 64 L }) := by
  have hlowest : lowest (s.prelude.zeroLanes b) = some L := by
    refine lowest_eq_some hL ?_ fun j hj => ?_
    · rw [State.zeroLanes, getLsbD_maskOf_eq _ hL, hin, hzero]; rfl
    · rw [State.zeroLanes, getLsbD_maskOf_eq _ (hj.trans hL), Bool.and_eq_false_imp]
      exact fun hm => beq_false_of_ne (hlow j hj hm)
  refine (s.divide_eq i a b d k signed).trans (State.issue_own_fault (b := false) _ hgoes ⟨rfl, rfl, rfl, rfl⟩ rfl ?_)
  rw [State.divisionUses, State.divisionFault, hlowest, ht]
  rfl

end

theorem divisionTowardZeroOrIntdiv0 : DivisionTowardZeroOrIntdiv0 := by
  intro d a b k s t signed p i x y q ht hgoes
  have hexec : exec i s = s.divide i a b d k signed := by cases signed <;> rfl
  have hq (L : Nat) : quotient signed (x L) (y L) = q L := rfl
  refine ⟨fun hnonzero => ?result, fun L hL hin hzero hlow => hexec.trans (State.divide_by_zero ht hgoes hL hin hzero hlow)⟩
  case result =>
    obtain rfl : (wordTag [a, b] s.prelude).getD .i32 = t := by rw [ht]; rfl
    refine ⟨_, _, hexec.trans (State.divide_of_goes ht hgoes hnonzero), fun L hL _ => ?value, ?flag⟩
    case value =>
      dsimp only [State.eachLane]
      rw [lane_lanesOf _ L hL]
      cases signed with
      | true =>
        rw [dividedWord_signed, hq]
        exact ⟨fun _ h => by rw [if_pos h], fun h => by rw [if_neg fun h' => h ⟨rfl, h'⟩]⟩
      | false =>
        rw [dividedWord_unsigned, hq]
        exact ⟨fun h => absurd h Bool.false_ne_true, fun _ => rfl⟩
    case flag =>
      have hclamped (L : Nat) : (dividedWord signed (x L) (y L)).2 = (signed && q L == 2 ^ 31) := dividedWord_clamped ..
      dsimp only [State.eachLane]
      simp only [p, x, y] at hclamped ⊢
      simp only [hclamped]
      cases signed with
      | true => simp only [Bool.true_and]
      | false => simp

/-- Settles O3: sums and differences of words and of pairs leave their carry, and the one signed quotient out of range is clamped. -/
theorem carryWideAndDivision : Obligations.CarryWideAndDivision := ⟨carryFormsChain, wideArithmetic, divisionTowardZeroOrIntdiv0⟩

end Sys2Proof.Machine
end

section
/-! Logic, shifts, bit fields and counts of words (R114). -/

namespace Sys2Proof.Machine
open Sys2Proof.Claims

/-! ## Logic and shifts -/

theorem bits_low_five (y : Word) : bits y 0 5 = y.toNat % 32 := by simp [bits]

theorem shiftOf_rol (x : Word) (m : Nat) : shiftOf 3 x (m % 32) = x <<< (m % 32) ||| x >>> (32 - m % 32) := by
  rw [shiftOf, BitVec.rotateLeft_def, Nat.mod_mod]
  all_goals simp

theorem logicAndShiftWords : LogicAndShiftWords := by
  intro d a b da db R
  have words {i : Instr} {g : Word → Word → Word} (hexec : ∀ s, exec i s = s.bitwise i [srcA a da, srcA b db] d (word2 g)) : R i g :=
    State.bitwise_wordResult hexec
  have shift (f : BitVec 2) : R (.shiftFam d a b da db f) fun x y => shiftOf f.toNat x (y.toNat % 32) := by
    simp only [← bits_low_five]
    exact words (i := .shiftFam d a b da db f) fun _ => rfl
  refine ⟨words (exec_and d a b da db), words (exec_andn d a b da db), words (exec_nand d a b da db), words (exec_or d a b da db),
    words (exec_orn d a b da db), words (exec_nor d a b da db), words (exec_xor d a b da db), words (exec_xnor d a b da db), shift 0, shift 1,
    ?sar, ?rol⟩
  case sar =>
    simp only [← shiftOf_sar]
    exact shift 2
  case rol =>
    simp only [← shiftOf_rol]
    exact shift 3

/-! ## Bit fields -/

/-- The length of the field that a word names: it ends at bit 31 at the latest. -/
def fieldLen (b : Word) : Nat := min (b.toNat / 2 ^ 8 % 32) (32 - b.toNat % 32)

theorem fieldLen_le (b : Word) : b.toNat % 32 + fieldLen b ≤ 32 := by
  have := Nat.mod_lt b.toNat (by decide : 0 < 32)
  unfold fieldLen
  omega

theorem fieldEnd_sub (b : Word) : fieldEnd b - bits b 0 5 = fieldLen b := by
  have hlen : bits b 8 5 = b.toNat / 2 ^ 8 % 32 := rfl
  rw [fieldEnd, bits_low_five, hlen, fieldLen]
  omega

theorem bfxOf_eq (signed : Bool) (a b : Word) : bfxOf signed a b =
    if fieldLen b = 0 then 0 else BitVec.ofInt 32 (intOf signed (fieldLen b) (a.toNat / 2 ^ (b.toNat % 32) % 2 ^ fieldLen b)) := by
  unfold bfxOf
  dsimp only
  rw [fieldEnd_sub, bits_low_five]
  rfl

theorem bfxOf_unsigned (a b : Word) : bfxOf false a b = BitVec.ofNat 32 (a.toNat / 2 ^ (b.toNat % 32) % 2 ^ fieldLen b) := by
  rw [bfxOf_eq]
  by_cases hn : fieldLen b = 0
  · rw [if_pos hn, hn, pow_zero, Nat.mod_one]; rfl
  · rw [if_neg hn, intOf, if_neg (fun h => Bool.false_ne_true h.1), BitVec.ofInt_natCast]

/-- R114: BFX.S repeats the field's highest bit above it. -/
theorem getLsbD_bfxOf_signed {a b : Word} (hn : 0 < fieldLen b) {i : Nat} (hi : i < 32) :
    (bfxOf true a b).getLsbD i = a.getLsbD (b.toNat % 32 + if i < fieldLen b then i else fieldLen b - 1) := by
  have hfield : a.toNat / 2 ^ (b.toNat % 32) % 2 ^ fieldLen b = (a.extractLsb' (b.toNat % 32) (fieldLen b)).toNat := by
    rw [BitVec.extractLsb'_toNat, Nat.shiftRight_eq_div_pow]
  have hsign : bfxOf true a b = (a.extractLsb' (b.toNat % 32) (fieldLen b)).signExtend 32 := by
    rw [bfxOf_eq, if_neg hn.ne', hfield, intOf_toInt hn]
    rfl
  rw [hsign, BitVec.getLsbD_signExtend, decide_eq_true hi, Bool.true_and]
  by_cases hlow : i < fieldLen b
  · rw [if_pos hlow, if_pos hlow, BitVec.getLsbD_extractLsb', decide_eq_true hlow, Bool.true_and]
  · rw [if_neg hlow, if_neg hlow, BitVec.msb_eq_getLsbD_last, BitVec.getLsbD_extractLsb', decide_eq_true (by omega), Bool.true_and]

/-- R114: BFI puts the low bits of A into the field of D. -/
theorem getLsbD_bfiOf (a b d : Word) {i : Nat} (hi : i < 32) :
    (bfiOf a b d).getLsbD i =
      if b.toNat % 32 ≤ i ∧ i < b.toNat % 32 + fieldLen b then a.getLsbD (i - b.toNat % 32) else d.getLsbD i := by
  unfold bfiOf
  dsimp only
  rw [fieldEnd_sub, bits_low_five]
  have hin : (BitVec.ofNat 32 ((2 ^ fieldLen b - 1) * 2 ^ (b.toNat % 32))).getLsbD i =
      decide (b.toNat % 32 ≤ i ∧ i < b.toNat % 32 + fieldLen b) := by
    rw [BitVec.getLsbD_ofNat, Nat.testBit_mul_two_pow, Nat.testBit_two_pow_sub_one, decide_eq_true hi, Bool.true_and, Bool.decide_and]
    by_cases hlow : b.toNat % 32 ≤ i
    · simp only [hlow, decide_true, Bool.true_and]
      exact decide_eq_decide.2 (by omega)
    · simp only [hlow, decide_false, Bool.false_and]
  rw [BitVec.getLsbD_or, BitVec.getLsbD_and, BitVec.getLsbD_and, BitVec.getLsbD_not, BitVec.getLsbD_shiftLeft, hin]
  by_cases hfield : b.toNat % 32 ≤ i ∧ i < b.toNat % 32 + fieldLen b
  · have hbelow : ¬ i < b.toNat % 32 := by omega
    simp [hfield, hi, hbelow]
  · simp [hfield, hi]

theorem bitFieldsExtractAndInsert : BitFieldsExtractAndInsert := by
  intro d a b da db pos len
  have hexec (f : BitVec 2) (s : State) :
      exec (.bfx d a b da db f) s = s.bitwise (.bfx d a b da db f) [srcA a da, srcA b db] d (word2 (bfxOf (f == 1))) := rfl
  refine ⟨?bfx, fun s t ht hgoes => ⟨_, State.bitwise_of_goes (hexec 1 s) ht hgoes, fun L hL => ?bfxS⟩,
    fun s t ht hgoes => ⟨_, State.bitwise_of_goes rfl ht hgoes, fun L i hL hi => ?bfi⟩⟩
  case bfx => exact WordResult.congr (State.bitwise_wordResult (hexec 0)) fun p L => bfxOf_unsigned _ _
  case bfxS =>
    rw [lane_lanesOf _ L hL]
    exact ⟨fun hlen => (bfxOf_eq true _ _).trans (if_pos hlen), fun i hi hlen => getLsbD_bfxOf_signed hlen hi⟩
  case bfi =>
    rw [lane_lanesOf _ L hL]
    exact getLsbD_bfiOf _ _ _ hi

/-! ## Counts -/

/-- How many of the first numbers fail a condition before one meets it. -/
theorem takeWhile_range_spec (n : Nat) (p : Nat → Bool) :
    let k := ((List.range n).takeWhile fun i => !p i).length
    k ≤ n ∧ (∀ i, i < k → p i = false) ∧ (k < n → p k = true) := by
  intro k
  have hk : k = (List.range n).findIdx p := by
    have hle := List.findIdx_le_length (p := p) (xs := List.range n)
    simp only [k, List.takeWhile_eq_take_findIdx_not, Bool.not_not, List.length_take]
    exact min_eq_left hle
  rw [hk]
  have hle := List.findIdx_le_length (p := p) (xs := List.range n)
  rw [List.length_range] at hle
  refine ⟨hle, fun i hi => ?_, fun hlt => ?_⟩
  · simpa using List.not_of_lt_findIdx hi
  · have hat := List.findIdx_getElem (p := p) (xs := List.range n) (w := by simpa using hlt)
    rwa [List.getElem_range] at hat

theorem toNat_ofNat_of_le {n : Nat} (h : n ≤ 32) : (BitVec.ofNat 32 n).toNat = n := by
  rw [BitVec.toNat_ofNat, Nat.mod_eq_of_lt (by omega)]

theorem popcount_le (x : Word) : popcount x ≤ 32 := (List.length_filter_le _ _).trans_eq List.length_range

/-- R114: CLZ counts the zeros above the highest bit. -/
theorem clzOf_eq (x : Word) : clzOf x = if x = 0 then 32 else 31 - x.toNat.log2 := by
  obtain ⟨hle, hclear, hset⟩ := takeWhile_range_spec 32 fun i => x.getLsbD (31 - i)
  change clzOf x ≤ 32 at hle
  change ∀ i, i < clzOf x → _ at hclear
  change clzOf x < 32 → x.getLsbD (31 - clzOf x) = true at hset
  by_cases hx : x = 0
  · rw [if_pos hx]
    by_contra hne
    have hbit := hset (by omega)
    rw [hx] at hbit
    simp at hbit
  · have hne : x.toNat ≠ 0 := fun h => hx (BitVec.eq_of_toNat_eq h)
    have htop : x.getLsbD x.toNat.log2 = true := Nat.testBit_log2 hne
    have hlog : x.toNat.log2 < 32 := BitVec.lt_of_getLsbD htop
    have habove : ∀ j, x.toNat.log2 < j → x.getLsbD j = false := fun j hj =>
      Nat.testBit_lt_two_pow (Nat.lt_log2_self.trans_le (Nat.pow_le_pow_right (by decide) hj))
    rw [if_neg hx]
    refine Nat.le_antisymm ?_ ?_
    · by_contra hlt
      have hbit := hclear (31 - x.toNat.log2) (by omega)
      rw [show 31 - (31 - x.toNat.log2) = x.toNat.log2 by omega, htop] at hbit
      cases hbit
    · by_contra hlt
      have hbit := hset (by omega)
      rw [habove _ (by omega)] at hbit
      cases hbit

/-- R114: CTZ counts the zeros below the lowest bit. -/
theorem ctzOf_spec (x : Word) :
    if x = 0 then ctzOf x = 32 else x.getLsbD (ctzOf x) = true ∧ ∀ i, i < ctzOf x → x.getLsbD i = false := by
  obtain ⟨hle, hclear, hset⟩ := takeWhile_range_spec 32 fun i => x.getLsbD i
  change ctzOf x ≤ 32 at hle
  change ∀ i, i < ctzOf x → _ at hclear
  change ctzOf x < 32 → x.getLsbD (ctzOf x) = true at hset
  by_cases hx : x = 0
  · rw [if_pos hx]
    by_contra hne
    have hbit := hset (by omega)
    rw [hx] at hbit
    simp at hbit
  · rw [if_neg hx]
    refine ⟨hset ?_, hclear⟩
    by_contra hall
    refine hx (BitVec.eq_of_getLsbD_eq fun i hi => ?_)
    simpa using hclear i (by omega)

theorem ctzOf_le (x : Word) : ctzOf x ≤ 32 := (takeWhile_range_spec 32 fun i => x.getLsbD i).1

theorem bitCountsAndReverse : BitCountsAndReverse := by
  intro d a da f s t ht hgoes
  refine ⟨_, State.bitwise_of_goes rfl ht hgoes, fun L hL => ?_⟩
  rw [lane_lanesOf _ L hL]
  refine ⟨?popc, ?clz, ?brev, ?ctz⟩ <;> rintro rfl
  case popc => exact toNat_ofNat_of_le (popcount_le _)
  case clz => exact (toNat_ofNat_of_le (takeWhile_range_spec 32 _).1).trans (clzOf_eq _)
  case brev => exact fun i hi => getLsbD_maskOf_eq _ hi
  case ctz =>
    have hspec := ctzOf_spec (lane (s.prelude.vec a) L)
    have hvalue := toNat_ofNat_of_le (ctzOf_le (lane (s.prelude.vec a) L))
    change if _ = 0 then BitVec.ofNat 32 (ctzOf (lane (s.prelude.vec a) L)) = 32 else
      BitVec.getLsbD _ (BitVec.ofNat 32 (ctzOf (lane (s.prelude.vec a) L))).toNat = true ∧
        ∀ i, i < (BitVec.ofNat 32 (ctzOf (lane (s.prelude.vec a) L))).toNat → _
    rw [hvalue]
    split
    next hx => rw [if_pos hx] at hspec; rw [hspec]; rfl
    next hx => rw [if_neg hx] at hspec; exact hspec

/-- Settles O4: a field is cut out and extended by its highest bit or put in, and a count stops at the first bit that is set. -/
theorem logicShiftsAndBitFields : Obligations.LogicShiftsAndBitFields :=
  ⟨logicAndShiftWords, bitFieldsExtractAndInsert, bitCountsAndReverse⟩

end Sys2Proof.Machine
end

section
/-! Compares and select (R115, R116, R123). -/

namespace Sys2Proof.Machine
open Sys2Proof.Claims

/-! ## Compares (R115) -/

/-- A compare gives all-ones and cc 1 in the lanes where it holds, and zeros in the others. -/
theorem State.compare_compareResult {i : Instr} {srcs : List Src} {d : VOp} {holds : List Word → Bool} {P : State → Nat → Prop}
    (hexec : ∀ s, exec i s = s.compare i srcs d holds)
    (hP : ∀ p L, holds (srcs.map fun a => lane (p.vec a.op) L) = true ↔ P p L) : CompareResult i srcs d P := by
  intro s t ht hgoes
  have hsome : (commonTag wordTags false (srcs.map fun a => s.prelude.srcTag a.op)).isSome = true := by rw [ht]; rfl
  refine ⟨_, _, (hexec s).trans (State.issueNext_of_tagged _ hgoes ⟨rfl, rfl, rfl, rfl⟩ rfl rfl rfl hsome fun _ => rfl), fun L hL => ?_⟩
  rw [lane_lanesOf _ L hL, getLsbD_maskOf_eq _ hL, ← hP]
  exact ⟨fun h => ⟨if_pos h, h⟩, fun h => ⟨if_neg h, Bool.not_eq_true _ ▸ h⟩⟩

section

variable (x y : Word) (signed : Bool)

theorem relation_eq : relation signed 0 x y = true ↔ x = y := beq_iff_eq

theorem relation_ne : relation signed 1 x y = true ↔ x ≠ y := bne_iff_ne

theorem relation_lt : relation true 2 x y = true ↔ x.toInt < y.toInt := BitVec.slt_iff_toInt_lt

theorem relation_le : relation true 3 x y = true ↔ x.toInt ≤ y.toInt := BitVec.sle_iff_toInt_le

theorem relation_ult : relation false 2 x y = true ↔ x.toNat < y.toNat := BitVec.ult_iff_toNat_lt

theorem relation_ule : relation false 3 x y = true ↔ x.toNat ≤ y.toNat := BitVec.ule_iff_toNat_le

end

theorem eq_immOf_iff (x : Word) (imm : BitVec 10) : x = immOf imm ↔ x.toInt = imm.toInt := by
  rw [← toInt_immOf, BitVec.toInt_inj]

theorem comparesSetResultAndCc : ComparesSetResultAndCc := by
  intro d a b da db imm C I
  have signed (f : BitVec 2) {r : Word → Word → Prop} (hr : ∀ x y, relation true f.toNat x y = true ↔ r x y) : C (.icmp d a b da db f) r :=
    State.compare_compareResult (holds := rel2 (relation true f.toNat)) (fun _ => rfl) fun _ _ => hr _ _
  have unsigned (f : BitVec 2) {r : Word → Word → Prop} (hr : ∀ x y, relation false f.toNat x y = true ↔ r x y) :
      C (.icmpn d a b da db f) r :=
    State.compare_compareResult (holds := rel2 (relation false f.toNat)) (fun _ => rfl) fun _ _ => hr _ _
  have immediate (i : Instr) (f : Nat) {r : Int → Int → Prop}
      (hexec : ∀ s, exec i s = s.compare i [srcA a da] d (rel1 fun x => relation true f x (immOf imm)))
      (hr : ∀ x, relation true f x (immOf imm) = true ↔ r x.toInt imm.toInt) : I i r :=
    State.compare_compareResult hexec fun _ _ => hr _
  refine ⟨signed 0 fun x y => relation_eq x y true, signed 1 fun x y => relation_ne x y true, signed 2 relation_lt, signed 3 relation_le,
    unsigned 2 relation_ult, unsigned 3 relation_ule, immediate (.icmpieq d a imm da) 0 (fun _ => rfl) fun x => ?eq,
    immediate (.icmpilt d a imm da) 2 (fun _ => rfl) fun x => ?lt, immediate (.icmpine d a imm da) 1 (fun _ => rfl) fun x => ?ne⟩
  case eq => rw [relation_eq, eq_immOf_iff]
  case lt => rw [relation_lt, toInt_immOf]
  case ne => rw [relation_ne, Ne, eq_immOf_iff]

/-! ## Select (R116) -/

theorem exec_sel (d a b : VOp) (da db : BitVec 1) (s : State) : exec (.sel d a b da db) s = execSel d a b da db s := rfl

theorem selectByCc : SelectByCc := by
  intro d a b da db s t ht hgoes
  have hsome : (selTag (s.prelude.srcTag a) (s.prelude.srcTag b)).isSome = true := by rw [ht]; rfl
  obtain rfl : (selTag (s.prelude.srcTag a) (s.prelude.srcTag b)).getD .i32 = t := by rw [ht]; rfl
  exact ⟨_, (exec_sel ..).trans (State.issueNext_of_tagged _ hgoes ⟨rfl, rfl, rfl, rfl⟩ rfl rfl rfl hsome fun _ => rfl),
    fun L hL => lane_lanesOf _ L hL⟩

/-- Settles O5: a compare writes its relation in result and cc alike, and SEL reads the cc. -/
theorem comparesAndSelect : Obligations.ComparesAndSelect := ⟨comparesSetResultAndCc, selectByCc⟩

end Sys2Proof.Machine
end

section
/-! Instructions across lanes (R119 to R121). -/

namespace Sys2Proof.Machine
open Sys2Proof.Claims

/-! ## SHFL (R119) -/

/-- The lane that lane L takes its value from, by selector and by the number n that it reads; none where it is out of range. -/
def shuffleSource (f n L : Nat) : Option Nat :=
  match f with
  | 0 => some (n % 32)
  | 1 => if n ≤ L then some (L - n) else none
  | 2 => if L + n ≤ 31 then some (L + n) else none
  | _ => some (L ^^^ (n % 32))

/-- The lane that lane L reads: its own where its source is none or not active. -/
def State.shuffleLane (s : State) (b : VOp) (f L : Nat) : Nat :=
  match shuffleSource f (lane (s.vec b) L).toNat L with
  | some j => if s.mask.getLsbD j then j else L
  | none => L

theorem exec_shfl (d a b : VOp) (da db : BitVec 1) (f : BitVec 2) (s : State) : exec (.shfl d a b da db f) s =
    s.vector (.shfl d a b da db f) [srcA a da, srcA b db] { op := d } (fun s => some ((s.srcTag a).getD .i32))
      fun s t => { dst := d, tag := t, lo := lanesOf fun L => lane (s.vec a) (s.shuffleLane b f.toNat L) } := rfl

theorem shuffleSource_spec (f : BitVec 2) (n : Nat) {L : Nat} (hL : L < 32) :
    let j : Int := if f = 0 then n % 32 else if f = 1 then L - n else if f = 2 then L + n else (L ^^^ (n % 32) : Nat)
    ∀ k : Nat, shuffleSource f.toNat n L = some k ↔ j = k ∧ k < 32 := by
  have hxor : L ^^^ (n % 32) < 2 ^ 5 := Nat.xor_lt_two_pow hL (Nat.mod_lt n (by decide))
  have hsel : f = 0 ∨ f = 1 ∨ f = 2 ∨ f = 3 := by revert f; decide +kernel
  intro j k
  rcases hsel with rfl | rfl | rfl | rfl
  · change some (n % 32) = some k ↔ ((n % 32 : Nat) : Int) = k ∧ k < 32
    rw [Option.some_inj]
    omega
  · change (if n ≤ L then some (L - n) else none) = some k ↔ (L : Int) - n = k ∧ k < 32
    rw [Option.ite_none_right_eq_some, Option.some_inj]
    omega
  · change (if L + n ≤ 31 then some (L + n) else none) = some k ↔ (L : Int) + n = k ∧ k < 32
    rw [Option.ite_none_right_eq_some, Option.some_inj]
    omega
  · change some (L ^^^ (n % 32)) = some k ↔ ((L ^^^ (n % 32) : Nat) : Int) = k ∧ k < 32
    rw [Option.some_inj]
    omega

theorem State.shuffleLane_of_active {s : State} {b : VOp} {f L k : Nat} (hk : shuffleSource f (lane (s.vec b) L).toNat L = some k)
    (hm : s.mask.getLsbD k = true) : s.shuffleLane b f L = k := by
  rw [State.shuffleLane, hk]
  exact if_pos hm

theorem State.shuffleLane_of_none {s : State} {b : VOp} {f L : Nat}
    (h : ∀ k, shuffleSource f (lane (s.vec b) L).toNat L = some k → s.mask.getLsbD k = false) : s.shuffleLane b f L = L := by
  rw [State.shuffleLane]
  cases hk : shuffleSource f (lane (s.vec b) L).toNat L with
  | none => rfl
  | some k => exact if_neg (by rw [h k hk]; exact Bool.false_ne_true)

theorem shuffleMovesBetweenActiveLanes : ShuffleMovesBetweenActiveLanes := by
  intro d a b da db f s p hgoes
  refine ⟨_, (exec_shfl ..).trans (State.vector_of_goes _ rfl hgoes), fun L hL => ?_⟩
  intro n j
  have hspec := shuffleSource_spec f n hL
  rw [lane_lanesOf _ L hL]
  refine ⟨fun k hj hk hm => ?_, fun h => ?_⟩
  · rw [State.shuffleLane_of_active ((hspec k).2 ⟨hj, hk⟩) hm]
  · rw [State.shuffleLane_of_none fun k hk => h k ((hspec k).1 hk).1 ((hspec k).1 hk).2]

/-! ## VOTE (R120) -/

/-- All-ones or zero. -/
def onesIf (b : Bool) : Word := if b then BitVec.allOnes 32 else 0

theorem onesIf_mem (b : Bool) : onesIf b ∈ [0, 0xFFFFFFFF] := by revert b; decide +kernel

theorem onesIf_ne_zero (b : Bool) : onesIf b ≠ 0 ↔ b = true := by revert b; decide +kernel

theorem exec_vote (d a : VOp) (da : BitVec 1) (f : BitVec 2) (s : State) : exec (.vote d a da f) s =
    s.vector (.vote d a da f) [srcA a da] { op := d } (wordTag [a]) fun s t =>
      { dst := d, tag := t, lo := match f.toNat with
        | 0 => splat (onesIf (s.active.all fun L => lane (s.vec a) L != 0))
        | 1 => splat (onesIf (s.active.any fun L => lane (s.vec a) L != 0))
        | 2 => splat (maskOf fun L => s.mask.getLsbD L && lane (s.vec a) L != 0)
        | _ => lanesOf fun L => maskOf fun j => s.mask.getLsbD j && lane (s.vec a) j == lane (s.vec a) L } := rfl

theorem voteOverActiveLanes : VoteOverActiveLanes := by
  intro d a da f s t p x ht hgoes
  refine ⟨_, (exec_vote ..).trans (State.vector_of_goes _ ht hgoes), fun L hL => ⟨?all, ?any, ?mask, ?same⟩⟩ <;> rintro rfl
  case all =>
    change lane (splat _) L ∈ _ ∧ (lane (splat _) L ≠ 0 ↔ _)
    rw [lane_splat _ L hL, onesIf_ne_zero]
    refine ⟨onesIf_mem _, ?_⟩
    simp only [List.all_eq_true, State.mem_active, bne_iff_ne, and_imp]
    rfl
  case any =>
    change lane (splat _) L ∈ _ ∧ (lane (splat _) L ≠ 0 ↔ _)
    rw [lane_splat _ L hL, onesIf_ne_zero]
    refine ⟨onesIf_mem _, ?_⟩
    simp only [List.any_eq_true, State.mem_active, bne_iff_ne, and_assoc]
    rfl
  case mask =>
    intro k hk
    change (lane (splat _) L).getLsbD k = true ↔ _
    rw [lane_splat _ L hL, getLsbD_maskOf _ hk, Bool.and_eq_true, bne_iff_ne]
  case same =>
    intro k hk
    change (lane (lanesOf _) L).getLsbD k = true ↔ _
    rw [lane_lanesOf _ L hL, getLsbD_maskOf _ hk, Bool.and_eq_true, beq_iff_eq]

/-! ## VRED (R121) -/

theorem toNat_foldl_add (xs : List Word) (m : Word) :
    (xs.foldl (· + ·) m).toNat = (m.toNat + (xs.map (·.toNat)).sum) % 2 ^ 32 := by
  induction xs generalizing m with
  | nil => simp [Nat.mod_eq_of_lt m.isLt]
  | cons x xs ih =>
    rw [List.foldl_cons, ih, BitVec.toNat_add, List.map_cons, List.sum_cons]
    omega

/-- The first of the least elements of a list, as it is found from the front. -/
theorem foldl_least {α : Type} {v : α → Int} {lt : α → α → Bool} (hlt : ∀ x y, lt x y = true ↔ v x < v y) (xs : List α) (m : α) :
    let r := xs.foldl (fun m x => if lt x m then x else m) m
    r ∈ m :: xs ∧ ∀ x ∈ m :: xs, v r ≤ v x := by
  induction xs generalizing m with
  | nil => simp
  | cons x xs ih =>
    obtain ⟨hmem, hle⟩ := ih (if lt x m then x else m)
    rw [List.foldl_cons]
    by_cases hx : lt x m = true
    · rw [if_pos hx] at hmem hle ⊢
      refine ⟨List.mem_cons_of_mem _ hmem, List.forall_mem_cons.2 ⟨?_, hle⟩⟩
      exact (hle x List.mem_cons_self).trans ((hlt x m).1 hx).le
    · rw [if_neg hx] at hmem hle ⊢
      have hxm : v m ≤ v x := not_lt.1 fun h => hx ((hlt x m).2 h)
      obtain ⟨hm, hxs⟩ := List.forall_mem_cons.1 hle
      refine ⟨?_, List.forall_mem_cons.2 ⟨hm, List.forall_mem_cons.2 ⟨hm.trans hxm, hxs⟩⟩⟩
      rcases List.mem_cons.1 hmem with h | h
      · exact List.mem_cons.2 (.inl h)
      · exact List.mem_cons_of_mem _ (List.mem_cons_of_mem _ h)

/-- The least element of a list that is not empty, from its head on. -/
theorem foldl_least_headD {α : Type} {v : α → Int} {lt : α → α → Bool} (hlt : ∀ x y, lt x y = true ↔ v x < v y) {xs : List α} (hne : xs ≠ [])
    (d : α) :
    let r := xs.foldl (fun m x => if lt x m then x else m) (xs.headD d)
    r ∈ xs ∧ ∀ x ∈ xs, v r ≤ v x := by
  cases xs with
  | nil => exact absurd rfl hne
  | cons y ys =>
    obtain ⟨hmem, hle⟩ := foldl_least hlt (y :: ys) y
    refine ⟨?_, fun x hx => hle x (List.mem_cons_of_mem _ hx)⟩
    rcases List.mem_cons.1 hmem with h | h
    · exact List.mem_cons.2 (.inl h)
    · exact h

/-- The order of words that a tag fixes. -/
def wordLt (t : Tag) (x y : Word) : Bool := if t = .i32 then x.slt y else x.ult y

theorem wordLt_iff (t : Tag) (x y : Word) :
    wordLt t x y = true ↔ (if t = .i32 then x.toInt else (x.toNat : Int)) < if t = .i32 then y.toInt else (y.toNat : Int) := by
  unfold wordLt
  by_cases ht : t = .i32
  · simp only [if_pos ht, BitVec.slt_iff_toInt_lt]
  · simp only [if_neg ht, BitVec.ult_iff_toNat_lt, Nat.cast_lt]

theorem exec_vred (d a : VOp) (da : BitVec 1) (f : BitVec 2) (s : State) : exec (.vred d a da f) s =
    s.vector (.vred d a da f) [srcA a da] { op := d } (wordTag [a]) fun s t =>
      let xs := s.active.map fun L => lane (s.vec a) L
      { dst := d, tag := t, lo := splat (match f.toNat with
        | 0 => xs.foldl (· + ·) 0
        | 1 => xs.foldl (fun m x => if wordLt t x m then x else m) (xs.headD 0)
        | 2 => xs.foldl (fun m x => if wordLt t m x then x else m) (xs.headD 0)
        | _ => xs.foldl (· ||| ·) 0) } := rfl

theorem reductionAcrossActiveLanes : ReductionAcrossActiveLanes := by
  intro d a da f s t p xs v ht hgoes
  refine ⟨_, (exec_vred ..).trans (State.vector_of_goes _ ht hgoes), ?sum, ?least, ?greatest, ?union⟩ <;> rintro rfl
  case sum => exact (toNat_foldl_add xs 0).trans (by simp)
  case least => exact fun hne => foldl_least_headD (v := v) (wordLt_iff t) hne 0
  case greatest =>
    intro hne
    obtain ⟨hmem, hle⟩ := foldl_least_headD (v := fun x => -v x) (lt := fun x y => wordLt t y x)
      (fun x y => (wordLt_iff t y x).trans neg_lt_neg_iff.symm) hne 0
    exact ⟨hmem, fun x hx => neg_le_neg_iff.1 (hle x hx)⟩
  case union =>
    intro k hk
    refine (getLsbD_foldl_or xs 0 k).trans ?_
    simp only [BitVec.ofNat_eq_ofNat, BitVec.getLsbD_zero, Bool.false_eq_true, false_or]

/-- Settles O6: a shuffle reads an active source or its own lane, a vote asks every active lane, and a reduction folds their values. -/
theorem lanesExchange : Obligations.LanesExchange :=
  ⟨shuffleMovesBetweenActiveLanes, voteOverActiveLanes, reductionAcrossActiveLanes⟩

end Sys2Proof.Machine
end

section
/-! Scalar arithmetic, the constant bank and SGET (R125, R126, R129). -/

namespace Sys2Proof.Machine
open Sys2Proof.Claims

/-! ## The scalar instructions of Table 7-6 -/

/-- A scalar instruction that goes leaves the word, the flags and the scalar cc that its own function gives. -/
theorem State.scalarOp_of_goes {i : Instr} {s : State} {srcs : List SOp} {d : SOp} {cc : Bool} {f : State → Word × Word × Option Bool}
    {v flags : Word} {k : Option Bool} (hexec : exec i s = s.scalarOp i srcs d cc f) (hgoes : Goes s (scalarNeeds i srcs d cc))
    (hf : f s.prelude = (v, flags, k)) : exec i s = .next (scalarWritten s.prelude d v flags k) := by
  refine hexec.trans ((State.issueNext_of_go _ hgoes).trans ?_)
  dsimp only
  rw [hf]
  rfl

theorem selector_cases (f : BitVec 2) : f = 0 ∨ f = 1 ∨ f = 2 ∨ f = 3 := by revert f; decide

theorem ofNat_emod (x : Int) : BitVec.ofNat 32 (x % 2 ^ 32).toNat = BitVec.ofInt 32 x := by rw [← ofNat_wrap, wrap_eq]

theorem addSubOf_wrap (x y : Word) (c : Bool) : addSubOf false 0 x y c = (x + y, 0, none) := by
  change (BitVec.ofNat 32 (wrap 32 (intOf false 32 x.toNat + intOf false 32 y.toNat)), (0 : Word), none) = _
  rw [ofNat_wrap, intOf_toNat, intOf_toNat, BitVec.ofInt_add, BitVec.ofInt_natCast, BitVec.ofInt_natCast, BitVec.ofNat_toNat, BitVec.ofNat_toNat,
    BitVec.setWidth_eq, BitVec.setWidth_eq]

theorem addSubOf_sub_wrap (x y : Word) (c : Bool) : addSubOf true 0 x y c = (x - y, 0, none) := by
  change (BitVec.ofNat 32 (wrap 32 (intOf false 32 x.toNat - intOf false 32 y.toNat)), (0 : Word), none) = _
  refine congrArg (·, 0, none) (BitVec.eq_of_toNat_eq ?_)
  rw [ofNat_wrap, intOf_toNat, intOf_toNat, BitVec.toNat_ofInt, BitVec.toNat_sub]
  omega

/-- The saturating forms by the exact result, clamped to the range of a signed word. -/
theorem addSubOf_satS (sub : Bool) (x y : Word) (c : Bool) :
    let r := clampS 32 (if sub then x.toInt - y.toInt else x.toInt + y.toInt)
    addSubOf sub 1 x y c = (BitVec.ofInt 32 r.1, if r.2 then Flag.sat else 0, none) := by
  let z := if sub then intOf true 32 x.toNat - intOf true 32 y.toNat else intOf true 32 x.toNat + intOf true 32 y.toNat
  change (BitVec.ofNat 32 (Narrow.satS.apply 32 z).1, if (Narrow.satS.apply 32 z).2 then Flag.sat else 0, none) = _
  rw [Narrow.satS_is_clampS 32 z, ofNat_emod]
  simp only [z, intOf_toInt (show 0 < 32 by decide)]

/-- The saturating forms by the exact result, clamped to the range of an unsigned word. -/
theorem addSubOf_satU (sub : Bool) (x y : Word) (c : Bool) :
    let r := clampU 32 (if sub then (x.toNat : Int) - y.toNat else x.toNat + y.toNat)
    addSubOf sub 2 x y c = (BitVec.ofInt 32 r.1, if r.2 then Flag.sat else 0, none) := by
  let z := if sub then intOf false 32 x.toNat - intOf false 32 y.toNat else intOf false 32 x.toNat + intOf false 32 y.toNat
  change (BitVec.ofNat 32 (Narrow.satU.apply 32 z).1, if (Narrow.satU.apply 32 z).2 then Flag.sat else 0, none) = _
  rw [Narrow.satU_is_clampU 32 z, ofNat_emod]
  simp only [z, intOf_toNat]

/-- The product of words by the selector of SMUL. -/
def smulOf (f : BitVec 2) (x y : Word) : Word :=
  let v (x : Word) : Int := intOf (f != 2) 32 x.toNat
  BitVec.ofNat 32 ((if f = 0 then Narrow.wrap else .high).apply 32 (v x * v y)).1

theorem smulOf_low (x y : Word) : smulOf 0 x y = x * y := by
  change BitVec.ofNat 32 (wrap 32 (intOf true 32 x.toNat * intOf true 32 y.toNat)) = _
  rw [ofNat_wrap, intOf_toInt (by decide), intOf_toInt (by decide), BitVec.ofInt_mul, BitVec.ofInt_toInt, BitVec.ofInt_toInt]

theorem smulOf_high (x y : Word) : smulOf 1 x y = BitVec.ofInt 32 (x.toInt * y.toInt / 2 ^ 32) := by
  change BitVec.ofNat 32 (wrap 32 (intOf true 32 x.toNat * intOf true 32 y.toNat / _)) = _
  rw [ofNat_wrap, intOf_toInt (by decide), intOf_toInt (by decide)]
  rfl

theorem smulOf_highU (x y : Word) : smulOf 2 x y = BitVec.ofNat 32 (x.toNat * y.toNat / 2 ^ 32) := by
  have hunsigned : ((2 : BitVec 2) != 2) = false := by decide
  rw [smulOf, hunsigned, if_neg (by decide : (2 : BitVec 2) ≠ 0), Narrow.apply]
  dsimp only
  rw [ofNat_wrap, intOf_toNat, intOf_toNat, ← Nat.cast_mul, ← Int.natCast_ediv, BitVec.ofInt_natCast]

theorem ofInt_min_toInt (x y : Word) : (if x.slt y then x else y) = BitVec.ofInt 32 (min x.toInt y.toInt) := by
  by_cases h : x.slt y = true
  · rw [if_pos h, min_eq_left (BitVec.slt_iff_toInt_lt.1 h).le, BitVec.ofInt_toInt]
  · rw [if_neg h, min_eq_right (not_lt.1 fun h' => h (BitVec.slt_iff_toInt_lt.2 h')), BitVec.ofInt_toInt]

theorem ofInt_max_toInt (x y : Word) : (if x.slt y then y else x) = BitVec.ofInt 32 (max x.toInt y.toInt) := by
  by_cases h : x.slt y = true
  · rw [if_pos h, max_eq_right (BitVec.slt_iff_toInt_lt.1 h).le, BitVec.ofInt_toInt]
  · rw [if_neg h, max_eq_left (not_lt.1 fun h' => h (BitVec.slt_iff_toInt_lt.2 h')), BitVec.ofInt_toInt]

theorem ofNat_min_toNat (x y : Word) : (if x.ult y then x else y) = BitVec.ofNat 32 (min x.toNat y.toNat) := by
  by_cases h : x.ult y = true
  · rw [if_pos h, min_eq_left (BitVec.ult_iff_toNat_lt.1 h).le, BitVec.ofNat_toNat, BitVec.setWidth_eq]
  · rw [if_neg h, min_eq_right (not_lt.1 fun h' => h (BitVec.ult_iff_toNat_lt.2 h')), BitVec.ofNat_toNat, BitVec.setWidth_eq]

theorem ofNat_max_toNat (x y : Word) : (if x.ult y then y else x) = BitVec.ofNat 32 (max x.toNat y.toNat) := by
  by_cases h : x.ult y = true
  · rw [if_pos h, max_eq_right (BitVec.ult_iff_toNat_lt.1 h).le, BitVec.ofNat_toNat, BitVec.setWidth_eq]
  · rw [if_neg h, max_eq_left (not_lt.1 fun h' => h (BitVec.ult_iff_toNat_lt.2 h')), BitVec.ofNat_toNat, BitVec.setWidth_eq]

/-- The lesser or the greater of two words by the selector of SMIN and SMAX. -/
def sminmaxOf (f : BitVec 2) (x y : Word) : Word :=
  let lt : Bool := if f.toNat < 2 then x.slt y else x.ult y
  if f.toNat % 2 = 0 then (if lt then x else y) else (if lt then y else x)

theorem sminmaxOf_eq (f : BitVec 2) (x y : Word) : sminmaxOf f x y =
    if f = 0 then BitVec.ofInt 32 (min x.toInt y.toInt) else if f = 1 then BitVec.ofInt 32 (max x.toInt y.toInt)
      else if f = 2 then BitVec.ofNat 32 (min x.toNat y.toNat) else BitVec.ofNat 32 (max x.toNat y.toNat) := by
  rcases selector_cases f with rfl | rfl | rfl | rfl
  · exact ofInt_min_toInt x y
  · exact ofInt_max_toInt x y
  · exact ofNat_min_toNat x y
  · exact ofNat_max_toNat x y

/-- SCMP by its selector. -/
theorem relation_signed (f : BitVec 2) (x y : Word) : relation true f.toNat x y =
    if f = 0 then decide (x = y) else if f = 1 then decide (x ≠ y) else if f = 2 then decide (x.toInt < y.toInt)
      else decide (x.toInt ≤ y.toInt) := by
  rcases selector_cases f with rfl | rfl | rfl | rfl
  · exact Bool.eq_iff_iff.2 ((relation_eq ..).trans decide_eq_true_iff.symm)
  · exact Bool.eq_iff_iff.2 ((relation_ne ..).trans decide_eq_true_iff.symm)
  · exact Bool.eq_iff_iff.2 ((relation_lt ..).trans decide_eq_true_iff.symm)
  · exact Bool.eq_iff_iff.2 ((relation_le ..).trans decide_eq_true_iff.symm)

/-- SLOG by its selector. -/
def slogOf (f : BitVec 2) (x y : Word) : Word := match f.toNat with | 0 => x &&& y | 1 => x ||| y | 2 => x ^^^ y | _ => x &&& ~~~y

theorem slogOf_eq (f : BitVec 2) (x y : Word) : slogOf f x y =
    if f = 0 then x &&& y else if f = 1 then x ||| y else if f = 2 then x ^^^ y else x &&& ~~~y := by
  rcases selector_cases f with rfl | rfl | rfl | rfl <;> rfl

/-- The shifts by their selector and the low five bits of the count. -/
theorem shiftOf_selector (f : BitVec 2) (x y : Word) : shiftOf f.toNat x (bits y 0 5) =
    let n := y.toNat % 32
    if f = 0 then x <<< n else if f = 1 then x >>> n else if f = 2 then BitVec.ofInt 32 (x.toInt / 2 ^ n) else x <<< n ||| x >>> (32 - n) := by
  rw [bits_low_five]
  rcases selector_cases f with rfl | rfl | rfl | rfl
  · rfl
  · rfl
  · exact shiftOf_sar x _
  · exact shiftOf_rol x _

theorem add_immOf (x : Word) (imm : BitVec 10) : x + immOf imm = BitVec.ofInt 32 (x.toInt + imm.toInt) := by
  rw [BitVec.ofInt_add, BitVec.ofInt_toInt, immOf_eq]

section

variable (d a b : SOp) (f : BitVec 2) (imm : BitVec 10) (s : State)

theorem exec_sadd : exec (.sadd d a b f) s =
    s.scalarOp (.sadd d a b f) [a, b] d (f == 3) fun s => addSubOf false f.toNat (s.sc a) (s.sc b) s.warp.ccs := rfl

theorem exec_ssub : exec (.ssub d a b f) s =
    s.scalarOp (.ssub d a b f) [a, b] d (f == 3) fun s => addSubOf true f.toNat (s.sc a) (s.sc b) s.warp.ccs := rfl

theorem exec_smul : exec (.smul d a b f) s =
    s.scalarOp (.smul d a b f) [a, b] d false fun s => (smulOf f (s.sc a) (s.sc b), 0, none) := rfl

theorem exec_slog : exec (.slog d a b f) s =
    s.scalarOp (.slog d a b f) [a, b] d false fun s => (slogOf f (s.sc a) (s.sc b), 0, none) := rfl

theorem exec_sshf : exec (.sshf d a b f) s =
    s.scalarOp (.sshf d a b f) [a, b] d false fun s => (shiftOf f.toNat (s.sc a) (bits (s.sc b) 0 5), 0, none) := rfl

theorem exec_scmp : exec (.scmp d a b f) s = s.scalarOp (.scmp d a b f) [a, b] d true fun s =>
    let q := relation true f.toNat (s.sc a) (s.sc b)
    (if q then 0xFFFFFFFF else 0, 0, some q) := rfl

theorem exec_ssel : exec (.ssel d a b) s =
    s.scalarOp (.ssel d a b) [a, b] d true fun s => (if s.warp.ccs then s.sc a else s.sc b, 0, none) := rfl

theorem exec_sminmax : exec (.sminmax d a b f) s =
    s.scalarOp (.sminmax d a b f) [a, b] d false fun s => (sminmaxOf f (s.sc a) (s.sc b), 0, none) := rfl

theorem exec_saddi : exec (.saddi d a imm) s = s.scalarOp (.saddi d a imm) [a] d false fun s => (s.sc a + immOf imm, 0, none) := rfl

theorem exec_smovi : exec (.smovi d imm) s = s.scalarOp (.smovi d imm) [] d false fun _ => (immOf imm, 0, none) := rfl

end

theorem scalarArithmetic : ScalarArithmetic := by
  intro d a b f imm s p x y c flag G A S
  refine ⟨?add, ?addS, ?addU, ?addC, ?sub, ?subS, ?subU, ?subC, ?mul, ?mulH, ?mulU, ?log, ?shift, ?cmp, ?sel, ?minmax, ?addi, ?movi⟩ <;>
    intro hgoes
  case add => exact State.scalarOp_of_goes (exec_sadd ..) hgoes (addSubOf_wrap ..)
  case addS => exact State.scalarOp_of_goes (exec_sadd ..) hgoes (addSubOf_satS false ..)
  case addU => exact State.scalarOp_of_goes (exec_sadd ..) hgoes (addSubOf_satU false ..)
  case addC => exact ⟨_, _, State.scalarOp_of_goes (exec_sadd ..) hgoes rfl, add_carry x y _⟩
  case sub => exact State.scalarOp_of_goes (exec_ssub ..) hgoes (addSubOf_sub_wrap ..)
  case subS => exact State.scalarOp_of_goes (exec_ssub ..) hgoes (addSubOf_satS true ..)
  case subU => exact State.scalarOp_of_goes (exec_ssub ..) hgoes (addSubOf_satU true ..)
  case subC => exact ⟨_, _, State.scalarOp_of_goes (exec_ssub ..) hgoes rfl, sub_borrow x y _⟩
  case mul => exact State.scalarOp_of_goes (exec_smul ..) hgoes (congrArg (·, 0, none) (smulOf_low x y))
  case mulH => exact State.scalarOp_of_goes (exec_smul ..) hgoes (congrArg (·, 0, none) (smulOf_high x y))
  case mulU => exact State.scalarOp_of_goes (exec_smul ..) hgoes (congrArg (·, 0, none) (smulOf_highU x y))
  case log => exact State.scalarOp_of_goes (exec_slog ..) hgoes (congrArg (·, 0, none) (slogOf_eq f x y))
  case shift => exact State.scalarOp_of_goes (exec_sshf ..) hgoes (congrArg (·, 0, none) (shiftOf_selector f x y))
  case cmp =>
    exact State.scalarOp_of_goes (exec_scmp ..) hgoes
      (congrArg (fun q : Bool => (if q then 0xFFFFFFFF else 0, 0, some q)) (relation_signed f x y))
  case sel => exact State.scalarOp_of_goes (exec_ssel ..) hgoes rfl
  case minmax => exact State.scalarOp_of_goes (exec_sminmax ..) hgoes (congrArg (·, 0, none) (sminmaxOf_eq f x y))
  case addi => exact State.scalarOp_of_goes (exec_saddi ..) hgoes (congrArg (·, 0, none) (add_immOf x imm))
  case movi => exact State.scalarOp_of_goes (exec_smovi ..) hgoes rfl

/-! ## The constant bank and lanes (R126, R129) -/

/-- SLDC's fault: ALIGN, then ACCESS. -/
def State.sldcFault (s : State) (o : Word) : Option Raise :=
  if bits o 0 2 ≠ 0 then some { code := Code.align, lanes := s.mask, addr := o.setWidth 64 }
  else if s.team.consts.length ≤ o.toNat then some { code := Code.access, lanes := s.mask, addr := o.setWidth 64 }
  else none

/-- What SLDC asks of the checks at issue. -/
def State.sldcUses (s : State) (d a b : SOp) (k : BitVec 4) : Uses :=
  { legal := (Instr.sldc d a b k).wellFormed, ssrcs := [{ op := a }, { op := b }], sdsts := [{ op := d }],
    specific := s.sldcFault (s.sc a + s.sc b) }

theorem exec_sldc (d a b : SOp) (k : BitVec 4) (s : State) : exec (.sldc d a b k) s =
    s.issueNext (State.sldcUses · d a b k) fun s =>
      s.settle [] (s.scalarEntry d (s.constWord (s.sc a + s.sc b).toNat) 0 none true (some k)) := rfl

theorem exec_sget (d : SOp) (a b : VOp) (s : State) : exec (.sget d a b) s =
    s.issueNext (fun _ => { legal := (Instr.sget d a b).wellFormed, srcs := [{ op := a }, { op := b }], sdsts := [{ op := d }] }) fun s =>
      s.settle [] (s.scalarEntry d (lane (s.vec a) (bits (s.firstOf (s.vec b)) 0 5))) := rfl

theorem bits_low_two (o : Word) : bits o 0 2 = o.toNat % 4 := by simp [bits]

theorem State.sldc_raises {d a b : SOp} {k : BitVec 4} {s : State} {r : Raise} (hgoes : Goes s (scalarNeeds (.sldc d a b k) [a, b] d))
    (hr : s.prelude.sldcFault (s.prelude.sc a + s.prelude.sc b) = some r) : exec (.sldc d a b k) s = .next (s.prelude.raise r) := by
  refine (exec_sldc ..).trans (State.issue_own_fault (b := false) _ hgoes ⟨rfl, rfl, rfl, rfl⟩ rfl ?_)
  rw [State.sldcUses, hr]
  rfl

theorem constantBankAndLaneRead : ConstantBankAndLaneRead := by
  constructor
  case left =>
    intro d a b k s p o hgoes
    have hbits := bits_low_two o
    by_cases halign : o.toNat % 4 ≠ 0
    · rw [if_pos halign]
      exact State.sldc_raises hgoes (if_pos (hbits ▸ halign))
    · have hlow : ¬ bits o 0 2 ≠ 0 := hbits ▸ halign
      rw [if_neg halign]
      by_cases haccess : p.team.consts.length ≤ o.toNat
      · rw [if_pos haccess]
        exact State.sldc_raises hgoes ((if_neg hlow).trans (if_pos haccess))
      · have hnone : p.sldcFault o = none := (if_neg hlow).trans (if_neg haccess)
        rw [if_neg haccess]
        refine (exec_sldc ..).trans (State.issueNext_of_go _ (goes_of_uses hgoes ?_))
        rw [State.sldcUses, hnone]
        rfl
  case right =>
    intro d a b s p hgoes
    rw [← bits_low_five]
    exact (exec_sget ..).trans (State.issueNext_of_go _ hgoes)

/-- Settles O7: each scalar instruction by the word its function gives; SLDC by its two faults and the word of the bank. -/
theorem scalarsAndConstantReads : Obligations.ScalarsAndConstantReads := ⟨scalarArithmetic, constantBankAndLaneRead⟩

end Sys2Proof.Machine
end

section
/-! What a home does with the updates of its line (R200), and the store of a lane (R201). -/

namespace Sys2Proof.Machine
open Sys2Proof.Claims

/-! ## The entry of a line -/

theorem State.find_setHomeLine (s : State) (x : HomeLine) : (s.setHomeLine x).home.find? (fun y => y.line == x.line) = some x :=
  List.find?_cons_of_pos (beq_self_eq_true x.line)

/-- The entry of a line is the first that the homes have for it. -/
theorem State.homeLine_of_find {s : State} {line : Nat} {x : HomeLine} (h : s.home.find? (fun y => y.line == line) = some x) :
    s.homeLine line = x := by
  rw [State.homeLine, h]

theorem State.homeLine_congr {s t : State} {line : Nat}
    (hfind : t.home.find? (fun y => y.line == line) = s.home.find? fun y => y.line == line) (hevicted : t.evicted = s.evicted) :
    t.homeLine line = s.homeLine line := by
  rw [State.homeLine, State.homeLine, hfind, hevicted]

theorem State.homeLine_setHomeLine (s : State) (x : HomeLine) : (s.setHomeLine x).homeLine x.line = x :=
  State.homeLine_of_find (s.find_setHomeLine x)

theorem find?_filter_line (l : List HomeLine) {k line : Nat} (h : k ≠ line) :
    (l.filter fun x => x.line != k).find? (fun x => x.line == line) = l.find? fun x => x.line == line := by
  rw [List.find?_filter]
  congr 1
  funext x
  by_cases hx : x.line = line
  · simp [hx, h.symm]
  · simp [hx]

theorem State.homeLine_setHomeLine_other (s : State) {x : HomeLine} {line : Nat} (h : x.line ≠ line) :
    (s.setHomeLine x).homeLine line = s.homeLine line :=
  State.homeLine_congr ((List.find?_cons_of_neg (by simpa using h)).trans (find?_filter_line _ h)) rfl

/-- A slice that gives up another line leaves the entry of a line. -/
theorem State.find_forgetLine {s : State} {x y : HomeLine} {line : Nat} (hx : s.home.find? (fun z => z.line == line) = some x)
    (hy : y.line ≠ line) : (s.forgetLine y).home.find? (fun z => z.line == line) = some x := by
  unfold State.forgetLine
  split
  · exact (List.find?_cons_of_neg (by simpa using hy)).trans ((find?_filter_line _ hy).trans hx)
  · exact (find?_filter_line _ hy).trans hx

/-- A slice that keeps a line's data leaves the rest of its entry. -/
theorem State.homeLine_cacheLine {s : State} {line : Nat} {x : HomeLine} (hx : s.home.find? (fun y => y.line == line) = some x)
    (hmem : ∀ y ∈ s.home, y.line = line → y = x) : (s.cacheLine line).homeLine line = { x with cached := true } := by
  have hentry := State.homeLine_of_find hx
  have hline : x.line = line := hentry ▸ s.homeLine_line line
  have hset {t : State} (ht : t.home.find? (fun y => y.line == line) = some x) :
      (t.setHomeLine { t.homeLine line with cached := true }).homeLine line = { x with cached := true } := by
    rw [State.homeLine_of_find ht]
    exact hline ▸ t.homeLine_setHomeLine { x with cached := true }
  unfold State.cacheLine
  dsimp only
  rw [hentry]
  by_cases hcached : x.cached = true
  · rw [if_pos hcached, hentry, ← hcached]
  · rw [if_neg hcached]
    refine hset ?_
    split
    · exact hx
    · cases hlast : (s.home.filter fun y => y.cached && sliceNo y.line == sliceNo line).getLast? with
      | none => exact hx
      | some y =>
        obtain ⟨hy, hkept⟩ := List.mem_filter.1 (List.mem_of_getLast? hlast)
        refine State.find_forgetLine hx fun h => hcached ?_
        rw [hmem y hy h] at hkept
        exact (Bool.and_eq_true_iff.1 hkept).1

/-! ## What a miss that counts leaves as it is (R249) -/

section

variable {s : State} {line : Nat}

/-- A write that waits at a line which an agent holds leaves the entry of a line that answers. -/
theorem State.putChunk_homeLine (h : (s.homeLine line).excl = none) (pa : Nat) (l : List Byte) :
    (s.putChunk pa l).homeLine line = s.homeLine line := by
  unfold State.putChunk
  split
  next hheld =>
    refine State.homeLine_setHomeLine_other { s with nextId := s.nextId + 1 } fun hline => ?_
    have hpa : lineOf pa = line := (s.homeLine_line _).symm.trans hline
    rw [State.lineHeld, hpa, h] at hheld
    cases hheld
  next => rfl

theorem State.putChunk_wf (h : Memory.wf s.mem = true) (pa : Nat) (l : List Byte) : Memory.wf (s.putChunk pa l).mem = true := by
  unfold State.putChunk
  split
  · exact h
  · exact Memory.wf_writeBytes _ _ h

/-- A home that answers keeps its entry, and memory its form. -/
def State.KeepsHome (s : State) (line : Nat) (t : State) : Prop :=
  (t.homeLine line = s.homeLine line) ∧ (Memory.wf s.mem = true → Memory.wf t.mem = true)

theorem State.putBytes_keepsHome (h : (s.homeLine line).excl = none) (pa : Nat) (l : List Byte) : s.KeepsHome line (s.putBytes pa l) := by
  rw [State.putBytes_eq]
  generalize linesAt pa l.length = lines
  induction lines generalizing s with
  | nil => exact ⟨rfl, id⟩
  | cons k lines ih =>
    have hk : (State.putLine pa l s k).homeLine line = s.homeLine line := State.putChunk_homeLine h _ _
    obtain ⟨hhome, hwf⟩ := ih (hk ▸ h)
    exact ⟨hhome.trans hk, fun h => hwf (State.putChunk_wf h _ _)⟩

theorem State.postTo_keepsHome (h : (s.homeLine line).excl = none) (r : Ring) (l : List Byte) : s.KeepsHome line (s.postTo r l).1 := by
  unfold State.postTo
  dsimp only
  split
  · exact ⟨rfl, id⟩
  · exact State.putBytes_keepsHome h _ _

theorem State.notify_keepsHome (h : (s.homeLine line).excl = none) (d : Nat) (k : AccessCounter) (ctx : Nat) (va : BitVec 64) (core : Nat) :
    s.KeepsHome line (s.notify d k ctx va core).1 := by
  unfold State.notify
  dsimp only
  split
  · exact ⟨rfl, id⟩
  · split
    · exact ⟨rfl, id⟩
    · exact State.postTo_keepsHome h _ _

theorem State.countMiss_keepsHome (h : (s.homeLine line).excl = none) (ctx pa : Nat) (va : BitVec 64) (core : Nat) :
    s.KeepsHome line (s.countMiss ctx pa va core) := State.notify_keepsHome h _ _ _ _ _

end

/-! ## The performance of an update (R200) -/

theorem Update.perform_wf (u : Update) {m : List Host.Cell} (h : Memory.wf m = true) : Memory.wf (u.perform m) = true := by
  unfold Update.perform
  split
  · exact Memory.wf_writeBytes _ _ h
  · exact Memory.wf_writeMasked _ _ h
  · exact Memory.wf_write _ _ h
  · exact Memory.wf_writeNat _ _ _ h
  next k l _ =>
    clear * - h
    induction l generalizing m with
    | nil => exact h
    | cons e l ih => exact ih (Memory.wf_writeNat _ _ _ h)
  · exact Memory.wf_writeNat _ _ _ h

/-- An ATOM's update answers its lane with the value that memory holds. -/
def State.answered (s : State) (u : Update) : State :=
  match u.kind with
  | .atomic k _ _ id lane => s.atomAnswer id lane (Memory.readNat s.mem u.pa (atomWidth k))
  | _ => s

/-- The class under which a slice logs an update (Table 25-4). -/
def Update.logClass (u : Update) : Nat := match u.kind with | .red _ _ | .reds _ _ => 3 | .masked _ => 6 | _ => 1

/-- What the performance of an update leaves, before a miss of it is counted. -/
def State.performedAt (s : State) (u : Update) (hit : Bool) : State :=
  let t := ({ s.answered u with mem := u.perform (s.answered u).mem } : State).fire (lineOf u.pa)
  if u.byUnit then t else t.slog (lineOf u.pa) u.logClass hit (logCore u.core) u.asker

theorem State.performUpdate_eq (s : State) (u : Update) (hit : Bool) : s.performUpdate u hit =
    if !hit && u.counted then (s.performedAt u hit).countMiss u.ctx (128 * lineOf u.pa) u.va u.core else s.performedAt u hit := rfl

theorem State.answered_eq (s : State) (u : Update) :
    s.answered u = { s with core := (s.answered u).core, cores := (s.answered u).cores } := by
  unfold State.answered
  split <;> rfl

theorem State.slog_eq (s : State) (line cls : Nat) (hit : Bool) (core requester : Nat) :
    s.slog line cls hit core requester = { s with dies := (s.slog line cls hit core requester).dies } := by
  unfold State.slog
  dsimp only
  split <;> rfl

/-- An update changes memory, and no entry of a home. -/
theorem State.performedAt_spec (s : State) (u : Update) (hit : Bool) :
    (s.performedAt u hit).mem = u.perform s.mem ∧ (s.performedAt u hit).home = s.home ∧ (s.performedAt u hit).evicted = s.evicted := by
  unfold State.performedAt
  dsimp only
  rw [State.answered_eq]
  split
  · exact ⟨rfl, rfl, rfl⟩
  · rw [State.slog_eq]
    exact ⟨rfl, rfl, rfl⟩

section

variable {s : State} {line : Nat} (u : Update) (hit : Bool)

theorem State.performedAt_homeLine : (s.performedAt u hit).homeLine line = s.homeLine line := by
  obtain ⟨-, hhome, hevicted⟩ := s.performedAt_spec u hit
  exact State.homeLine_congr (by rw [hhome]) hevicted

theorem State.performUpdate_keepsHome (h : (s.homeLine line).excl = none) : s.KeepsHome line (s.performUpdate u hit) := by
  have hentry : (s.performedAt u hit).homeLine line = s.homeLine line := State.performedAt_homeLine u hit
  have hwf (h : Memory.wf s.mem = true) : Memory.wf (s.performedAt u hit).mem = true := (s.performedAt_spec u hit).1 ▸ u.perform_wf h
  rw [State.performUpdate_eq]
  split
  · obtain ⟨hhome, hwf'⟩ := State.countMiss_keepsHome (hentry ▸ h) u.ctx (128 * lineOf u.pa) u.va u.core
    exact ⟨hhome.trans hentry, hwf' ∘ hwf⟩
  · exact ⟨hentry, hwf⟩

/-- Where no miss of it counts, an update changes memory by what it leaves alone. -/
theorem State.performUpdate_mem {u : Update} {hit : Bool} (h : u.counted = false ∨ hit = true) :
    (s.performUpdate u hit).mem = u.perform s.mem := by
  have hcount : (!hit && u.counted) = false := by rcases h with h | h <;> simp [h]
  rw [State.performUpdate_eq, hcount]
  exact (s.performedAt_spec u hit).1

end

/-- The state in which the first update of a line leaves its entry, with the data of the line as the slice keeps it. -/
def State.takeFirst (s : State) (line : Nat) (u : Update) (rest : List Update) : State :=
  let t := s.setHomeLine { s.homeLine line with pend := rest, cached := (s.homeLine line).cached && u.alloc }
  if u.alloc then t.cacheLine line else t

theorem State.performFirst_eq {s : State} {line : Nat} {u : Update} {rest : List Update} (h : (s.homeLine line).pend = u :: rest) :
    s.performFirst line = (s.takeFirst line u rest).performUpdate u (s.homeLine line).cached := by
  rw [State.performFirst, h]
  rfl

theorem State.takeFirst_mem (s : State) (line : Nat) (u : Update) (rest : List Update) : (s.takeFirst line u rest).mem = s.mem := by
  unfold State.takeFirst
  dsimp only
  split
  · rw [State.cacheLine_eq]
    rfl
  · rfl

/-- The other updates of the line stand there, under the lease that it had. -/
theorem State.takeFirst_homeLine (s : State) (line : Nat) (u : Update) (rest : List Update) :
    ((s.takeFirst line u rest).homeLine line).pend = rest ∧ ((s.takeFirst line u rest).homeLine line).excl = (s.homeLine line).excl := by
  have hline := s.homeLine_line line
  generalize hx : ({ s.homeLine line with pend := rest, cached := (s.homeLine line).cached && u.alloc } : HomeLine) = x
  have hxline : x.line = line := hx ▸ hline
  have hfind : (s.setHomeLine x).home.find? (fun y => y.line == line) = some x := hxline ▸ s.find_setHomeLine x
  have hmem : ∀ y ∈ (s.setHomeLine x).home, y.line = line → y = x := by
    intro y hy hyline
    rcases List.mem_cons.1 hy with rfl | hy
    · rfl
    · exact absurd (hyline.trans hxline.symm) (by simpa using (List.mem_filter.1 hy).2)
  unfold State.takeFirst
  dsimp only
  rw [hx]
  split
  · rw [State.homeLine_cacheLine hfind hmem]
    exact hx ▸ ⟨rfl, rfl⟩
  · rw [State.homeLine_of_find hfind]
    exact hx ▸ ⟨rfl, rfl⟩

theorem exec_homeUpdatePerform (line : Nat) (s : State) : exec (.homeUpdatePerform line) s = execHomeUpdatePerform line s := rfl

theorem execHomeUpdatePerform_of_due {s : State} {line : Nat} {u : Update} {rest : List Update} (hpend : (s.homeLine line).pend = u :: rest)
    (hdue : u.tw ≤ s.gtc) (hexcl : (s.homeLine line).excl = none) :
    execHomeUpdatePerform line s = .next (s.performFirst line).wake := by
  rw [execHomeUpdatePerform, hpend]
  exact if_pos ⟨hdue, hexcl⟩

theorem readBytes_perform_bytes {u : Update} {l : List Byte} (hkind : u.kind = .bytes l) {m : List Host.Cell} (h : Memory.wf m = true) :
    Memory.readBytes (u.perform m) u.pa l.length = l ∧
      ∀ a, a < u.pa ∨ u.pa + l.length ≤ a → Memory.read (u.perform m) a = Memory.read m a := by
  have hperform : u.perform m = Memory.writeBytes m u.pa l := by rw [Update.perform, hkind]
  rw [hperform]
  exact ⟨Memory.readBytes_writeBytes u.pa l h, fun a ha => Memory.read_writeBytes_other l ha h⟩

theorem readNat_writeNat {m : List Host.Cell} (a n x : Nat) (h : Memory.wf m = true) :
    Memory.readNat (Memory.writeNat m a n x) a n = x % 2 ^ (8 * n) := by
  have hbytes := Memory.readBytes_writeBytes a (leBytes x n) h
  rw [leBytes_length] at hbytes
  rw [Memory.readNat, Memory.writeNat, hbytes, leNat_leBytes, pow_mul]
  rfl

theorem readNat_perform_atomic {u : Update} {k : Nat} {b d : BitVec 64} {id L : Nat} (hkind : u.kind = .atomic k b d id L)
    {m : List Host.Cell} (h : Memory.wf m = true) :
    Memory.readNat (u.perform m) u.pa (atomWidth k) =
        atomNew k (Memory.readNat m u.pa (atomWidth k)) b.toNat d.toNat % 2 ^ (8 * atomWidth k) ∧
      ∀ a, a < u.pa ∨ u.pa + atomWidth k ≤ a → Memory.read (u.perform m) a = Memory.read m a := by
  have hperform : u.perform m =
      Memory.writeNat m u.pa (atomWidth k) (atomNew k (Memory.readNat m u.pa (atomWidth k)) b.toNat d.toNat) := by rw [Update.perform, hkind]
  rw [hperform]
  exact ⟨readNat_writeNat _ _ _ h, fun a ha => Memory.read_writeBytes_other _ (by rwa [leBytes_length]) h⟩

theorem homePerformsItsFirstUpdate : HomePerformsItsFirstUpdate := by
  intro s line u rest hpend hdue hexcl hwf
  have hfirst := State.performFirst_eq hpend
  have hmem := s.takeFirst_mem line u rest
  obtain ⟨hrest, hlease⟩ := s.takeFirst_homeLine line u rest
  have hanswers := hlease.trans hexcl
  have hperform (h : u.counted = false ∨ (s.homeLine line).cached = true) : (s.performFirst line).wake.mem = u.perform s.mem := by
    change (s.performFirst line).mem = _
    rw [hfirst, State.performUpdate_mem h, hmem]
  refine ⟨_, (exec_homeUpdatePerform ..).trans (execHomeUpdatePerform_of_due hpend hdue hexcl), ?rest, ?wf,
    fun l hkind h => ?bytes, fun k b d id L hkind h => ?atomic⟩
  case rest =>
    change ((s.performFirst line).homeLine line).pend = rest
    rw [hfirst, (State.performUpdate_keepsHome u _ hanswers).1]
    exact hrest
  case wf =>
    change Memory.wf (s.performFirst line).mem = true
    rw [hfirst]
    exact (State.performUpdate_keepsHome u _ hanswers).2 (hmem ▸ hwf)
  case bytes =>
    rw [hperform h]
    exact readBytes_perform_bytes hkind hwf
  case atomic =>
    rw [hperform h]
    exact readNat_perform_atomic hkind hwf

/-! ## Homes do not read the L1 lines of the core in focus (R201) -/

/-- The machine without the L1 lines of the core in focus. -/
def State.lineless (s : State) : State := { s with core := { s.core with lines := [] } }

section

variable (s : State)

theorem State.lineless_putChunk (pa : Nat) (l : List Byte) : s.lineless.putChunk pa l = (s.putChunk pa l).lineless := by
  have hheld : s.lineless.lineHeld (lineOf pa) = s.lineHeld (lineOf pa) := rfl
  rw [State.putChunk, State.putChunk, hheld]
  split <;> rfl

theorem State.lineless_putBytes (pa : Nat) (l : List Byte) : s.lineless.putBytes pa l = (s.putBytes pa l).lineless :=
  List.foldl_hom State.lineless fun t _ => (t.lineless_putChunk _ _)

theorem State.lineless_postTo (r : Ring) (l : List Byte) : s.lineless.postTo r l = ((s.postTo r l).1.lineless, (s.postTo r l).2) := by
  have hgone : s.lineless.hostGone = s.hostGone := rfl
  rw [State.postTo, State.postTo, hgone]
  dsimp only
  split
  · rfl
  · rw [State.lineless_putBytes]

theorem State.lineless_notify (d : Nat) (k : AccessCounter) (ctx : Nat) (va : BitVec 64) (core : Nat) :
    s.lineless.notify d k ctx va core = ((s.notify d k ctx va core).1.lineless, (s.notify d k ctx va core).2) := by
  have hdie : s.lineless.dieAt d = s.dieAt d := rfl
  have hgone : s.lineless.hostGone = s.hostGone := rfl
  have hgtc : s.lineless.gtc = s.gtc := rfl
  rw [State.notify, State.notify, hdie, hgone, hgtc]
  dsimp only
  split
  · rfl
  · split
    · rfl
    · rw [State.lineless_postTo]
      rfl

theorem State.lineless_countMiss (ctx pa : Nat) (va : BitVec 64) (core : Nat) :
    s.lineless.countMiss ctx pa va core = (s.countMiss ctx pa va core).lineless := by
  have hdie (d : Nat) : s.lineless.dieAt d = s.dieAt d := rfl
  unfold State.countMiss
  dsimp only
  rw [hdie, State.lineless_notify]
  rfl

theorem State.lineless_slog (line cls : Nat) (hit : Bool) (core requester : Nat) :
    s.lineless.slog line cls hit core requester = (s.slog line cls hit core requester).lineless := by
  have hdie (d : Nat) : s.lineless.dieAt d = s.dieAt d := rfl
  unfold State.slog
  dsimp only
  rw [hdie]
  split <;> rfl

theorem State.lineless_forgetLine (x : HomeLine) : s.lineless.forgetLine x = (s.forgetLine x).lineless := by
  unfold State.forgetLine
  split <;> rfl

theorem State.lineless_cacheLine (line : Nat) : s.lineless.cacheLine line = (s.cacheLine line).lineless := by
  have hentry : s.lineless.homeLine line = s.homeLine line := rfl
  have hhome : s.lineless.home = s.home := rfl
  unfold State.cacheLine
  dsimp only
  rw [hentry, hhome]
  split
  · rfl
  · split
    · rfl
    · cases (List.getLast? _ : Option HomeLine) with
      | none => rfl
      | some x =>
        rw [Option.map_some, Option.map_some, Option.getD_some, Option.getD_some, State.lineless_forgetLine]
        rfl

theorem State.lineless_answered (u : Update) : s.lineless.answered u = (s.answered u).lineless := by
  unfold State.answered
  split <;> rfl

theorem State.lineless_performedAt (u : Update) (hit : Bool) : s.lineless.performedAt u hit = (s.performedAt u hit).lineless := by
  unfold State.performedAt
  dsimp only
  rw [State.lineless_answered]
  split
  · rfl
  · exact State.lineless_slog (State.fire { s.answered u with mem := u.perform (s.answered u).mem } (lineOf u.pa)) _ _ _ _ _

theorem State.lineless_performUpdate (u : Update) (hit : Bool) : s.lineless.performUpdate u hit = (s.performUpdate u hit).lineless := by
  rw [State.performUpdate_eq, State.performUpdate_eq, State.lineless_performedAt]
  split
  · exact State.lineless_countMiss _ _ _ _ _
  · rfl

theorem State.lineless_takeFirst (line : Nat) (u : Update) (rest : List Update) :
    s.lineless.takeFirst line u rest = (s.takeFirst line u rest).lineless := by
  unfold State.takeFirst
  dsimp only
  split
  · exact State.lineless_cacheLine (s.setHomeLine { s.homeLine line with pend := rest, cached := (s.homeLine line).cached && u.alloc }) _
  · rfl

theorem State.lineless_performFirst (line : Nat) : s.lineless.performFirst line = (s.performFirst line).lineless := by
  have hentry : s.lineless.homeLine line = s.homeLine line := rfl
  cases hpend : (s.homeLine line).pend with
  | nil => rw [State.performFirst, State.performFirst, hentry, hpend]
  | cons u rest =>
    rw [State.performFirst_eq (hentry ▸ hpend), State.performFirst_eq hpend, State.lineless_takeFirst, State.lineless_performUpdate, hentry]

theorem State.lineless_settleLine (line n : Nat) : s.lineless.settleLine line n = (s.settleLine line n).lineless := by
  have hentry (t : State) : t.lineless.homeLine line = t.homeLine line := rfl
  have hgtc (t : State) : t.lineless.gtc = t.gtc := rfl
  induction n generalizing s with
  | zero => rfl
  | succ n ih =>
    rw [State.settleLine, State.settleLine, hentry, hgtc]
    split
    · split
      · rw [State.lineless_performFirst, ih]
      · rfl
    · rfl

theorem State.lineless_settleHome (line : Nat) : s.lineless.settleHome line = (s.settleHome line).lineless := s.lineless_settleLine _ _

theorem State.lineless_writeOwn (u : Update) : (s.writeOwn u).lineless = s.lineless := by
  unfold State.writeOwn
  split <;> rfl

/-- What the storing core's L1 writes into its own copy changes nothing of what a home does. -/
theorem State.settleHome_writeOwn (u : Update) (line : Nat) : ((s.writeOwn u).settleHome line).lineless = (s.settleHome line).lineless := by
  rw [← State.lineless_settleHome, ← State.lineless_settleHome, State.lineless_writeOwn]

end

/-! ## The store of a lane (R200, R201) -/

/-- A kept update that goes neither to the host nor to a peer is written into the L1's own copy, and arrives at its home. -/
theorem State.sendOwn_arrives (s : State) {u : Update} (hhost : target u.pa ≠ .host) (hpeer : target u.pa ≠ .peer) (hkept : u.kept = true) :
    s.sendOwn u = ((s.writeOwn u).arrive u).1.foldWct ((s.writeOwn u).arrive u).2 := by
  rw [State.sendOwn, State.sendUpdate]
  rw [if_pos hkept, if_pos hhost, State.dispatch, if_neg hpeer]

/-- The store of a lane to a line of class HC by a team that does not hold it: the L1's own copy is written, and it arrives at its home. -/
theorem State.storeLane_sends {s : State} {l : LaneLoad} (data : List Byte) (hcls : (s.rat s.ctx l.va).cls = 0) (hholds : s.team.holds = false)
    (htarget : target l.pa = .hbm) :
    let a := (s.writeOwn (s.newUpdate l.va l.pa (.bytes data) true)).arrive (s.newUpdate l.va l.pa (.bytes data) true)
    s.storeLane l data = a.1.foldWct a.2 := by
  have hpaired : s.team.paired = false := (Bool.or_eq_false_iff.1 hholds).1
  have hsign : s.signStore l data = s := by rw [State.signStore, hpaired, if_neg Bool.false_ne_true]
  have hhbm : target l.pa ≠ .host ∧ target l.pa ≠ .peer := by rw [htarget]; exact ⟨Target.noConfusion, Target.noConfusion⟩
  rw [State.storeLane, if_neg fun h => hhbm.1 h.1]
  dsimp only
  rw [hsign, if_pos (.inl hcls), State.emit, if_neg (by rw [hholds]; exact Bool.false_ne_true)]
  exact s.sendOwn_arrives hhbm.1 hhbm.2 rfl

/-- An update that arrives is the last of its line's home, with the time that R200 gives it. -/
theorem State.arrive_homeLine (s : State) (u : Update) :
    let h := (s.settleHome (lineOf u.pa)).homeLine (lineOf u.pa)
    let tw := max (max (s.settleHome (lineOf u.pa)).gtc u.tw) (max h.lmax h.lastTw)
    (s.arrive u).2 = tw ∧ (s.arrive u).1.homeLine (lineOf u.pa) =
      { h with lastTw := tw, pend := h.pend ++ [{ u with uid := (s.settleHome (lineOf u.pa)).nextId, tw := tw }] } := by
  refine ⟨rfl, ?_⟩
  have hline := (s.settleHome (lineOf u.pa)).homeLine_line (lineOf u.pa)
  unfold State.arrive
  dsimp only
  generalize (s.settleHome (lineOf u.pa)).homeLine (lineOf u.pa) = h at hline ⊢
  rw [← hline]
  exact State.homeLine_setHomeLine _ _

theorem storeJoinsItsHomeWithCompletionTime : StoreJoinsItsHomeWithCompletionTime := by
  intro s l data hcls hholds htarget t h
  obtain ⟨u, hu⟩ : ∃ u, u = s.newUpdate l.va l.pa (.bytes data) true := ⟨_, rfl⟩
  obtain ⟨hpa, hkind, hkept, htw⟩ : u.pa = l.pa ∧ u.kind = .bytes data ∧ u.kept = true ∧ u.tw = 0 := hu ▸ ⟨rfl, rfl, rfl, rfl⟩
  have hsends : t = ((s.writeOwn u).arrive u).1.foldWct ((s.writeOwn u).arrive u).2 := hu ▸ State.storeLane_sends data hcls hholds htarget
  have hsettled := s.settleHome_writeOwn u (lineOf l.pa)
  have hbesides := s.settleHome_besidesMemory (lineOf l.pa)
  have hentry : ((s.writeOwn u).settleHome (lineOf l.pa)).homeLine (lineOf l.pa) = h :=
    (congrArg (State.homeLine · (lineOf l.pa)) hsettled :)
  have hgtc : ((s.writeOwn u).settleHome (lineOf l.pa)).gtc = s.gtc := (congrArg State.gtc hsettled :).trans (congrArg State.gtc hbesides :)
  have hwct : ((s.writeOwn u).settleHome (lineOf l.pa)).warp.wct = s.warp.wct :=
    (congrArg (fun v => v.warp.wct) hsettled :).trans (congrArg (fun v => v.warp.wct) hbesides :)
  have hline : lineOf u.pa = lineOf l.pa := congrArg lineOf hpa
  obtain ⟨htime, hhome⟩ := (s.writeOwn u).arrive_homeLine u
  rw [hline, hentry, hgtc, htw, Nat.max_zero] at htime
  rw [hline, hentry, hgtc, htw, Nat.max_zero] at hhome
  have hlast : t.homeLine (lineOf l.pa) = _ := (congrArg (State.homeLine · (lineOf l.pa)) hsends).trans hhome
  refine ⟨{ u with uid := _, tw := max s.gtc (max h.lmax h.lastTw) }, congrArg HomeLine.pend hlast, hpa, hkind, hkept, rfl,
    congrArg HomeLine.lastTw hlast, ?_⟩
  have hwarp : ((s.writeOwn u).arrive u).1.warp = ((s.writeOwn u).settleHome (lineOf u.pa)).warp := rfl
  rw [hsends, State.foldWct, htime]
  dsimp only
  rw [hwarp, hline, hwct]

end Sys2Proof.Machine
end

section
/-! The bytes that STG and SST send (R128, R226), and O22. -/

namespace Sys2Proof.Machine
open Sys2Proof.Claims

theorem getElem?_leBytes (x : Nat) {n i : Nat} (hi : i < n) : (leBytes x n)[i]? = some (BitVec.ofNat 8 (x / 2 ^ (8 * i))) := by
  induction n generalizing x i with
  | zero => exact absurd hi (Nat.not_lt_zero i)
  | succ n ih =>
    cases i with
    | zero => simp [leBytes]
    | succ i =>
      rw [leBytes, List.getElem?_cons_succ, ih _ (Nat.lt_of_succ_lt_succ hi), Nat.div_div_eq_div_mul, Nat.mul_succ, Nat.add_comm (8 * i), pow_add]
      rfl

/-- Byte i of words side by side. -/
theorem getElem?_words (n : Nat) (g : Nat → Word) {i : Nat} (hi : i < 4 * n) :
    ((List.range n).flatMap fun j => word4 (g j).toNat)[i]? = some (BitVec.ofNat 8 ((g (i / 4)).toNat / 2 ^ (8 * (i % 4)))) := by
  induction n with
  | zero => exact absurd hi (Nat.not_lt_zero i)
  | succ n ih =>
    rw [List.range_succ, List.flatMap_append, List.flatMap_singleton]
    by_cases hfront : i < 4 * n
    · rw [List.getElem?_append_left (by rwa [length_words n g]), ih hfront]
    · rw [List.getElem?_append_right (by rw [length_words n g]; omega), length_words n g, word4, getElem?_leBytes _ (by omega)]
      have hword : i / 4 = n := by omega
      have hbyte : i - 4 * n = i % 4 := by omega
      rw [hword, hbyte]

theorem State.getElem?_storeData (s : State) (d : VOp) (w : BitVec 2) (L : Nat) {i : Nat} (hi : i < stgWidth w) :
    (s.storeData d w L)[i]? = some (BitVec.ofNat 8 ((lane (s.vec d (i / 4)) L).toNat / 2 ^ (8 * (i % 4)))) := by
  have hfit : ∀ w : BitVec 2, stgWidth w ≤ 4 * stgRegs w := by decide
  rw [State.storeData, List.getElem?_take_of_lt hi]
  exact getElem?_words (stgRegs w) (fun j => lane (s.vec d j) L) (hi.trans_le (hfit w))

theorem leNat_append (l m : List Byte) : leNat (l ++ m) = leNat l + 256 ^ l.length * leNat m := by
  induction l with
  | nil => simp [leNat]
  | cons b l ih => rw [List.cons_append, leNat, leNat, ih, List.length_cons, pow_succ']; ring

theorem leNat_word4 (x : Word) : leNat (word4 x.toNat) = x.toNat := by
  rw [word4, leNat_leBytes]
  exact Nat.mod_eq_of_lt x.isLt

theorem State.leNat_storeWords (s : State) (e : SOp) (w : BitVec 2) :
    leNat (s.storeWords e w) = (s.sc e).toNat + if w = 1 then 2 ^ 32 * (s.sc e 1).toNat else 0 := by
  have hone : (List.range 1).flatMap (fun j => word4 (s.sc e j).toNat) = word4 (s.sc e).toNat := List.append_nil _
  have htwo : (List.range 2).flatMap (fun j => word4 (s.sc e j).toNat) = word4 (s.sc e).toNat ++ word4 (s.sc e 1).toNat :=
    congrArg (_ ++ ·) (List.append_nil _)
  unfold State.storeWords
  by_cases hw : w = 1
  · rw [if_pos hw, if_pos hw, htwo, leNat_append, leNat_word4, leNat_word4, word4, leBytes_length]
    norm_num
  · rw [if_neg hw, if_neg hw, hone, leNat_word4, Nat.add_zero]

theorem storesSendEachLanesBytes : StoresSendEachLanesBytes := by
  intro d a b e f g w s p n width addrs
  have hn : stgRegs w = n := stgRegs_eq w
  have hwidth : stgWidth w = width := stgWidth_eq w
  constructor
  case left =>
    rw [← hn, ← hwidth]
    intro hgoes lanes hlanes c hatoms
    exact ⟨(exec_stg d a b w s).trans (execStg_stores hgoes hlanes hatoms),
      fun L => ⟨p.storeData_length d w L, fun i hi => p.getElem?_storeData d w L hi⟩⟩
  case right =>
    intro _ m one hgoes lanes hlanes hatoms
    exact ⟨p.storeWords e w, (exec_sst e f g w s).trans (execSst_stores hgoes hlanes hatoms),
      length_words _ fun j => p.sc e j, p.leNat_storeWords e w⟩

/-- Settles O22: the bytes of each lane, the arrival of its store at its home, and the performance there of what has come first. -/
theorem storesReachTheirHomes : Obligations.StoresReachTheirHomes :=
  ⟨storesSendEachLanesBytes, storeJoinsItsHomeWithCompletionTime, homePerformsItsFirstUpdate⟩

end Sys2Proof.Machine
end
